-- ==== Sys2Proof/Word.lean ====
section
/-!
DEFINITION. The word types of the CN1600: bytes, register words, byte strings, and the sparse tables in which State
keeps what it holds many of.
-/
namespace Sys2Proof

/-- One byte (R10). -/
abbrev Byte := BitVec 8

/-- One 32-bit register word (R355). -/
abbrev Word := BitVec 32

/-- A byte string, lowest address first (R10). -/
abbrev Bytes := List Byte

/-- A sparse table: key and value pairs, keys rising. An absent key stands for a default that the reader names. -/
abbrev Tab (α : Type) := List (Nat × α)

/-- Sparse memory: address and byte pairs, in the one canonical form of `Machine.Mem.wf`; an unlisted byte reads 0. -/
abbrev Mem := List (Nat × Byte)

end Sys2Proof
end

