-- ==== Sys2Proof/Syntax.lean ====
section
/-!
DEFINITION. The commands of the node: one constructor of `Instr` for each row of spec/opcode_table.json, with the
operands that come from outside the node. A message or descriptor is carried as its raw bytes; an event that the
spec leaves to the outside world (a fault found, a test result, a measurement) carries what was found.
-/
namespace Sys2Proof

/-- A command taken from a host submission queue (R339): who sent it and where its answer goes. `tenant` is the
entry's TENANT field; `epoch` counts the resets of the function's queues before the fetch (R353); `resultFault` is the bus address at which writing the result fails, if it does (R341). -/
structure HostCmd where
  fn : Fin 64
  sq : Nat
  cid : Nat
  head : Nat := 0
  tenant : Nat := 0
  epoch : Nat := 0
  resultAddr : Nat := 0
  resultLen : Nat := 0
  resultFault : Option Nat := none
  deriving DecidableEq, Repr

/-- Where a conversation operation comes from: a message delivered on a connection (its index), or a host queue. -/
inductive Origin where
  | wire (conn : Nat)
  | host (h : HostCmd)
  deriving DecidableEq, Repr

/-- The session wrapping of a management command (R413): the session's ID, the command's counter and its tag. -/
structure Session where
  sid : Nat
  counter : Nat
  tag : Nat
  deriving DecidableEq, Repr

/-- How a management command reaches the node (R8, R411): the Alley port it came in on, the frame's SEQ and DST, and the
session wrapping, if any. -/
structure Mgmt where
  port : Fin 2
  seq : Nat
  dst : Nat
  ses : Option Session := none
  deriving DecidableEq, Repr

/-- A frame as it arrives at a port: the fields of the standard layers that the receive checks of R222 and R285 read,
the 32-byte Epcen header, and the rest of the UDP payload split into security header, payload and trailer. -/
structure RxFrame where
  at_ : Nat
  len : Nat
  fcsOk : Bool := true
  dstMac : Nat
  pause : Option (Nat × List Nat) := none
  tagged : Bool := true
  etherOuter : Nat := 0x8100
  etherInner : Nat := 0x86DD
  vid : Nat
  pcp : Nat
  dei : Bool := false
  srcAddr : Nat
  dstAddr : Nat
  nextHdr : Nat := 17
  fragment : Bool := false
  ce : Bool := false
  udpDst : Nat
  udpLen : Nat
  udpSumOk : Bool := true
  header : Bytes
  sec : Bytes := []
  payload : Bytes
  trailer : Bytes
  deriving DecidableEq, Repr

/-- What is measured in one management tick: the energy of each Quarter in microjoules, less its idle power (R385); the bank cycles
of each tenant's sequences (Table 15-11); each dispatcher's cycles with ENERGY_WAIT set (Table 4-15); and the directory entries whose stored parity has gone bad since the tick
before (R425, R427), as Quarter and entry address. -/
structure TickMeasure where
  energyQ : List Nat := []
  bankCycles : List Nat := []
  energyWait : List Nat := []
  badEntries : List (Nat × Nat) := []
  deriving DecidableEq, Repr

/-- The commands of the node, one constructor for each row of spec/opcode_table.json. -/
inductive Instr where
  | managementTick (m : TickMeasure)
  | shapeDefine (h : HostCmd) (body : Bytes)
  | mapSet (h : HostCmd) (conv : Nat) (body : Bytes)
  | append (o : Origin) (body : Bytes)
  | appendImm (o : Origin) (body : Bytes)
  | read (o : Origin) (body : Bytes)
  | seal (o : Origin) (body : Bytes)
  | retire (o : Origin) (body : Bytes)
  | reseatCopy (o : Origin) (body : Bytes)
  | reseatPrepare (o : Origin) (body : Bytes)
  | reseatCopyDone (ticket : Nat)
  | reseatCutover (o : Origin) (body : Bytes)
  | reseatCommit (o : Origin) (body : Bytes)
  | reseatRelease (o : Origin) (body : Bytes)
  | reseatDeadline (ticket : Nat)
  | attend (o : Origin) (body : Bytes) (laneErrs : List Nat)
  | partialRecv (conn : Nat) (body : Bytes)
  | notice (conn : Nat) (body : Bytes)
  | response (conn : Nat) (body : Bytes)
  | write (conn : Nat) (body : Bytes)
  | writeImm (conn : Nat) (body : Bytes)
  | gapHoldExpiry (q : Fin 4) (holdId : Nat)
  | requestDeadline (ticket : Nat)
  | jobAdmit (q : Fin 4)
  | coreClampPoint (core : Fin 32)
  | contextSaveDone (core : Fin 32)
  | jobResume (core : Fin 32) (job : Nat)
  | clockSwitch (q : Fin 4)
  | scorerRunDone (stack : Fin 16) (scorer : Fin 64) (fault : Bool)
  | sequenceRetire (stack : Fin 16) (scorer : Fin 64)
  | bscFence (stack : Fin 16) (seqNo : Nat)
  | fenceComplete (stack : Fin 16)
  | crossingEnter (stack : Fin 16) (pch : Fin 64)
  | crossingWindowEnd (stack : Fin 16) (pch : Fin 64)
  | refreshAbort (stack : Fin 16) (pch : Fin 64)
  | bscChmode (stack : Fin 16) (hi : Bool) (value : Word)
  | modeChangeComplete (stack : Fin 16) (chan : Fin 32)
  | bscBistStart (q : Fin 4) (value : Word)
  | bistComplete (q : Fin 4) (pass : Bool) (unit : Nat)
  | dmaCopy (h : HostCmd) (q : Fin 4) (body : Bytes)
  | frameSpill (h : HostCmd) (q : Fin 4) (body : Bytes)
  | frameFill (h : HostCmd) (q : Fin 4) (body : Bytes)
  | dmaEngineStart (q : Fin 4) (e : Fin 4)
  | dmaTransferEnd (q : Fin 4) (e : Fin 4)
  | dmaFault (q : Fin 4) (e : Fin 4) (cls offset : Nat) (dst : Bool) (addr : Nat)
  | dmaResume (h : HostCmd) (q : Fin 4) (e : Fin 4) (tag : Nat)
  | dmaAbort (h : HostCmd) (q : Fin 4) (e : Fin 4) (tag : Nat)
  | notReadyEnd (q : Fin 4)
  | frameScrubDone (stack : Fin 16) (addr : Nat)
  | hsmWrite (q : Fin 4)
  | hsmRead (q : Fin 4)
  | ticketHandoff (q : Fin 4) (id : Nat) (toSpill : Bool)
  | poolFailure (q : Fin 4) (onChip : Bool) (ids : List Nat) (lostWork : List Nat) (silent : List Nat)
  | tableLoad (h : HostCmd) (body : Bytes)
  | tableLoadComplete (loadId : Nat)
  | tableRelease (h : HostCmd) (body : Bytes)
  | coderStart (q : Fin 4) (coder : Fin 2)
  | coderPageCommit (q : Fin 4) (coder : Fin 2) (mismatch : Bool)
  | recodeSweepStart (q : Fin 4) (value : Word)
  | recodeSweepEnd (q : Fin 4)
  | frameReceive (port : Fin 4) (f : RxFrame)
  | helloOpen (port : Fin 4) (f : RxFrame)
  | helloAccept (port : Fin 4) (f : RxFrame)
  | helloClose (port : Fin 4) (f : RxFrame)
  | helloReset (port : Fin 4) (f : RxFrame)
  | ack (conn : Nat) (at_ : Nat) (ackPsn : Nat) (ece : Bool) (sack : Nat)
  | nak (conn : Nat) (at_ : Nat) (body : Bytes)
  | packetSend (conn : Nat) (at_ : Nat)
  | rtoExpiry (conn : Nat)
  | ackDelayExpiry (conn : Nat)
  | errHoldExpiry (conn : Nat)
  | idleClose (conn : Nat)
  | ctxBusyRetry (conn : Nat) (psn : Nat)
  | contextFetchDone (conn : Nat)
  | connLoad (q : Fin 4)
  | setCwnd (q : Fin 4)
  | contextRegionCopyDone (q : Fin 4)
  | pfcReceive (port : Fin 4) (at_ : Nat) (enable : BitVec 8) (times : List Nat)
  | pfcPauseExpiry (port : Fin 4) (cls : Fin 8)
  | pfcRefresh (port : Fin 4)
  | frameTransmit (port : Fin 4) (at_ : Nat)
  | linkDown (port : Fin 4)
  | linkUp (port : Fin 4)
  | gateEntryExpiry (port : Fin 4)
  | gclEnable (port : Fin 4)
  | gclSwap (port : Fin 4)
  | injectorExpiry (port : Fin 4)
  | reorderTimeout (port : Fin 4)
  | tenantCreate (h : HostCmd) (body : Bytes)
  | tenantDrain (h : HostCmd) (body : Bytes)
  | drainWorkEnded (tenant : Fin 64)
  | drainScrubDone (tenant : Fin 64)
  | keyRotatePageKey (h : HostCmd) (body : Bytes)
  | keyRotateWireEpoch (h : HostCmd) (body : Bytes)
  | keySweepPage (tenant : Fin 64) (q : Fin 4) (key : Nat) (frame page : Nat)
  | keyGenRetire (tenant : Fin 64)
  | sessionExpiry (sid : Nat)
  | sqTailDoorbell (fn : Fin 64) (qid value : Nat)
  | cqHeadDoorbell (fn : Fin 64) (qid value : Nat)
  | submissionFetch (fn : Fin 64) (qid : Nat) (at_ : Nat) (entry : Option Bytes) (body : Option Bytes)
  | completionPost (fn : Fin 64) (cq : Nat)
  | coalTimerExpiry (fn : Fin 64) (qid : Nat)
  | queueCreate (h : HostCmd) (body : Bytes)
  | queueDelete (h : HostCmd) (body : Bytes)
  | funcMode (h : HostCmd) (param : Bytes)
  | assistReply (h : HostCmd) (body : Bytes)
  | assistTimeout (tag : Nat)
  | snapshot (h : HostCmd) (param : Bytes)
  | attest (h : HostCmd) (nonce : Bytes)
  | ping (fn : Fin 64)
  | fnInfo (fn : Fin 64)
  | agentStatus (fn : Fin 64)
  | mbxAgentAnswer (fn : Fin 64)
  | mbxInTimeout (fn : Fin 64)
  | mbxOutPost (fn : Fin 64)
  | mbxOutAck (fn : Fin 64) (code : BitVec 8)
  | outboundTaken (fn : Fin 64)
  | eqDrained (fn : Fin 64)
  | mbxOutTimeout (fn : Fin 64)
  | flr (fn : Fin 64)
  | admQueueCtl (fn : Fin 64) (value : Word)
  | tdiLeaveRun (fn : Fin 64)
  | pcieLinkTrained (rate width : Nat)
  | perst
  | registerWrite (fn : Fin 64) (addr : Nat) (value : Word) (be : BitVec 4) (dwords : Nat)
  | counterRead (fn : Fin 64) (addr : Nat)
  | counterOvfClear (fn : Fin 64) (addr : Nat)
  | snapshotRegStart (value : Word)
  | snapshotDone
  | fmodeModeWrite (value : Word)
  | rebalance (pPkg : Nat)
  | setPowerCap (m : Mgmt) (body : Bytes)
  | sensorReading (i : Fin 33) (at_ : Nat) (deg : Option Nat)
  | sensorInvalidTimeout (i : Fin 33)
  | qOffExitDone (q : Fin 4)
  | stackTrainingDone (n : Fin 16) (ok : Bool)
  | powerOnReset
  | mainPowerGood
  | bootWatchdog
  | startupPhaseDone
  | alleyFrame (port : Fin 2) (bytes : Bytes)
  | enum (m : Mgmt) (body : Bytes)
  | sessionOpen (m : Mgmt) (body : Bytes)
  | getStatus (m : Mgmt) (body : Bytes)
  | getTelemetry (m : Mgmt) (body : Bytes)
  | routeSet (m : Mgmt) (body : Bytes)
  | getAttestation (m : Mgmt) (body : Bytes)
  | armFaultInject (m : Mgmt) (body : Bytes)
  | meterRead (m : Mgmt) (body : Bytes)
  | updateImageStart (m : Mgmt) (body : Bytes)
  | updateImageData (m : Mgmt) (body : Bytes)
  | updateImageFinish (m : Mgmt) (body : Bytes)
  | reset (m : Mgmt) (body : Bytes)
  | setNodeId (m : Mgmt) (body : Bytes)
  | dirRebuildDone (q : Fin 4)
  | dirXlRestore (q : Fin 4)
  | dirXlRebuild (q : Fin 4)
  | coreTestStart (q : Fin 4) (value : Word)
  | coreTestDone (q : Fin 4) (pass : Bool)
  | coreFault (core : Fin 32)
  | hbmUncorrectable (stack : Fin 16) (addr : Nat)
  | stackFault (n : Fin 16)
  | quarterFault (q : Fin 4)
  | stackDrainDone (n : Fin 16)
  | squareHeartbeatLoss
  | mainEnChange (level : Bool)
  | vin52Change (mv : Nat)
  | vsb12Loss
  | sysclkLoss
  | sysclkReturn
  | ethRefclkLoss (port : Fin 4)
  | progEnChange (asserted : Bool)
  | policedNoticeGapEnd (conn : Nat)
  | pcieRefclkLoss
  | tdispRequest (fn : Fin 64) (toRun : Bool)
  deriving DecidableEq, Repr

end Sys2Proof
end

