-- ==== Sys2Proof/Decode.lean ====
section
/-!
DEFINITION. The command that a word of the opcode table spells. The table gives no row any bits (every row's fields are
empty), so no word spells a command.
-/
namespace Sys2Proof

/-- The command spelled by `nbits` bits of `w`: none, because the table gives no row an encoding. -/
def decodeTableWord (_nbits _w : Nat) : Option Instr := none

end Sys2Proof
end

