-- ==== Sys2Proof/Machine/Bits.lean ====
section
/-!
DEFINITION. Bit fields, little-endian byte order (R10), sparse tables and sparse memory: the plain operations that every
other file of the model reads and writes data with.
-/
namespace Sys2Proof

/-- Entry `k` of a table, if it has one. -/
def Tab.look {α : Type} (k : Nat) : Tab α → Option α
  | [] => none
  | (a, v) :: t => if k = a then some v else Tab.look k t

/-- Entry `k` of a table, or the default `d`. -/
def Tab.fetch {α : Type} (t : Tab α) (k : Nat) (d : α) : α := (Tab.look k t).getD d

/-- Set entry `k`, keeping keys in rising order. -/
def Tab.put {α : Type} (k : Nat) (v : α) : Tab α → Tab α
  | [] => [(k, v)]
  | (a, w) :: t =>
    if k = a then (k, v) :: t else if k < a then (k, v) :: (a, w) :: t else (a, w) :: Tab.put k v t

/-- Remove entry `k`. -/
def Tab.del {α : Type} (k : Nat) (t : Tab α) : Tab α := t.filter fun e => e.1 != k

/-- Change entry `k` by `f`, starting from the default `d` when it is absent. -/
def Tab.amend {α : Type} (t : Tab α) (k : Nat) (d : α) (f : α → α) : Tab α := Tab.put k (f (t.fetch k d)) t

/-- Number of entries whose value satisfies `p`. -/
def Tab.count {α : Type} (t : Tab α) (p : α → Bool) : Nat := (t.filter fun e => p e.2).length

/-- The first key from `k` up, within `fuel` keys, that a table does not hold. -/
def Tab.freeFrom {α : Type} (t : Tab α) : Nat → Nat → Option Nat
  | 0, _ => none
  | fuel + 1, k => if (Tab.look k t).isNone then some k else Tab.freeFrom t fuel (k + 1)

/-- Bits [hi:lo] of a number (Table 0-3). -/
def bits (v hi lo : Nat) : Nat := v / 2 ^ lo % 2 ^ (hi + 1 - lo)

/-- Bit `i` of a number. -/
def bit (v i : Nat) : Bool := v / 2 ^ i % 2 = 1

/-- 1 for true, 0 for false. -/
def b2n (b : Bool) : Nat := if b then 1 else 0

/-- The number with bit `i` set to `b`. -/
def setBit (v i : Nat) (b : Bool) : Nat := v - (if bit v i then 2 ^ i else 0) + (if b then 2 ^ i else 0)

/-- The little-endian value of a byte string (R10). -/
def leNat : Bytes → Nat
  | [] => 0
  | b :: t => b.toNat + 256 * leNat t

/-- `n` bytes of a value, little-endian (R10). -/
def leBytes : Nat → Nat → Bytes
  | 0, _ => []
  | n + 1, v => BitVec.ofNat 8 v :: leBytes n (v / 256)

/-- The `n`-byte little-endian field at byte offset `off`; bytes beyond the end read 0. -/
def fieldAt (b : Bytes) (off n : Nat) : Nat := leNat ((b.drop off).take n)

/-- Byte `i` of a byte string as a number. -/
def byteAt (b : Bytes) (i : Nat) : Nat := (b.getD i 0).toNat

/-- Every byte in [lo, hi) is zero. -/
def zeroRange (b : Bytes) (lo hi : Nat) : Bool := ((b.drop lo).take (hi - lo)).all (· == 0)

/-- Minimum of a number and a bound: how saturating fields read. -/
def sat (v top : Nat) : Nat := min v top

/-- v held between lo and hi. -/
def clampN (v lo hi : Nat) : Nat := max lo (min v hi)

/-- Ceiling of a / b. -/
def ceilDiv (a b : Nat) : Nat := (a + b - 1) / b

/-- A number as a 32-bit word, low bits kept. -/
def w32 (n : Nat) : Word := BitVec.ofNat 32 n

/-- Serial-order distance on `m` numbers: a is newer than b when this lies in 1 to m/2 - 1 (R226, R188). -/
def serialDiff (m a b : Nat) : Nat := (a + m - b % m) % m

/-- a is newer than b among 24-bit PSNs (R226). -/
def psnNewer (a b : Nat) : Bool := 1 ≤ serialDiff 16777216 a b && serialDiff 16777216 a b ≤ 8388607

/-- Exclusive OR of a byte string. -/
def xorBytes : Bytes → Byte
  | [] => 0
  | b :: t => b ^^^ xorBytes t

namespace Machine

/-- The byte at an address: 0 when unlisted (R410 calls the contents after power-on unspecified; the value 0 is
the model's choice, DESIGN CHOICE, assumption 4). -/
def Mem.get (a : Nat) : Mem → Byte
  | [] => 0
  | (k, v) :: t => if a = k then v else if a < k then 0 else Mem.get a t

/-- Write one byte, keeping the canonical form: addresses rise, and no entry holds 0. -/
def Mem.set (a : Nat) (b : Byte) : Mem → Mem
  | [] => if b = 0 then [] else [(a, b)]
  | (k, v) :: t =>
    if a = k then (if b = 0 then t else (a, b) :: t)
    else if a < k then (if b = 0 then (k, v) :: t else (a, b) :: (k, v) :: t)
    else (k, v) :: Mem.set a b t

/-- Every address of a memory lies above `lo`, they rise strictly, and no entry holds 0. -/
def Mem.wfFrom : Option Nat → Mem → Bool
  | _, [] => true
  | lo, (k, v) :: t => (match lo with | none => true | some l => decide (l < k)) && v != 0 && Mem.wfFrom (some k) t

/-- The canonical form of a memory. -/
def Mem.wf (m : Mem) : Bool := Mem.wfFrom none m

/-- `n` bytes from address `a`, lowest first. -/
def Mem.read (m : Mem) (a : Nat) : Nat → Bytes
  | 0 => []
  | n + 1 => Mem.get a m :: Mem.read m (a + 1) n

/-- Write a byte string from address `a` up. -/
def Mem.write (m : Mem) (a : Nat) : Bytes → Mem
  | [] => m
  | b :: t => Mem.write (Mem.set a b m) (a + 1) t

/-- Write zero to `n` bytes from `a`: every entry in the range goes (R167). -/
def Mem.clear (m : Mem) (a n : Nat) : Mem := m.filter fun e => e.1 < a || a + n ≤ e.1

/-- The part of a memory in [a, a + n), with addresses counted from `a`. -/
def Mem.slice (m : Mem) (a n : Nat) : Mem :=
  (m.filter fun e => a ≤ e.1 && e.1 < a + n).map fun e => (e.1 - a, e.2)

/-- Replace [a, a + n) by the sparse contents `c` (addresses from 0, below n). -/
def Mem.paste (m : Mem) (a n : Nat) (c : Mem) : Mem :=
  (c.filter fun e => e.1 < n).foldl (fun acc e => Mem.set (a + e.1) e.2 acc) (Mem.clear m a n)

end Machine
end Sys2Proof
end

