-- ==== Sys2Proof/Machine/State.lean ====
section
/-!
DEFINITION. The state of the node as plain data: everything the spec gives the machine, the two ways a step can stop,
and the machine right after reset. Every register whose reset value the spec gives has that value; what the model chose
is named in notes/assumptions.
-/
namespace Sys2Proof.Machine

/-! ### Registers (ch. 13) -/

/-- A 48-bit statistics counter and its OVF flag (Table 4-14, R366). -/
structure Counter where
  n : Nat := 0
  ovf : Bool := false
  deriving DecidableEq, Repr

/-- The latch of one requester (R365): the address of word +0 last read, and the word +4 it latched. -/
structure Latch where
  addr : Nat
  hi : Word
  deriving DecidableEq, Repr

/-- The snapshot engine (R367, R368): the running capture, its waiting commands and the SNAP registers. -/
structure Snap where
  busy : Bool := false
  scope : Nat := 0
  byCmd : Option HostCmd := none
  seqRunning : Nat := 0
  time : Nat := 0
  captured : Tab Nat := []
  blocks : List Nat := []
  waiting : List (HostCmd × Nat) := []
  number : Nat := 0
  doneSeq : Nat := 0
  refused : Bool := false
  lastTime : Nat := 0
  deriving DecidableEq, Repr

/-- The register blocks: values in effect and staged values by BAR0 address (absent: the reset value, or nothing
staged), counters and accumulators by the address of word +0, holding copies, snapshot numbers by block base, and one
latch for each requester (function number, or 64 for the management processor). -/
structure RegFile where
  val : Tab Word := []
  staged : Tab Word := []
  stagedDone : Tab Word := []
  cnt : Tab Counter := []
  meter : Tab Nat := []
  hold : Tab Nat := []
  snapNo : Tab Nat := []
  latch : Tab Latch := []
  accErr : Word := 0
  accAddr : Word := 0
  readData : Word := 0
  snap : Snap := {}
  deriving DecidableEq, Repr

/-! ### Host interface (ch. 12) -/

/-- A completion entry (Table 12-7). -/
structure Cpl where
  cid : Nat
  sq : Nat
  sqHead : Nat
  status : Nat
  detail : Nat := 0
  bytes : Nat := 0
  trunc : Bool := false
  resultFault : Bool := false
  deriving DecidableEq, Repr

/-- An event record (Table 12-10). -/
structure Ev where
  type : Nat
  code : Nat := 0
  quarter : Nat := 0
  p0 : Nat := 0
  p1 : Nat := 0
  p2 : Nat := 0
  time : Nat := 0
  deriving DecidableEq, Repr

/-- An entry of the Assist Queue (Table 16-6): its tag, its kind and its words. -/
structure AssistPost where
  tag : Nat
  kind : Nat
  sub : Nat := 0
  q : Nat := 0
  len : Nat := 0
  ticket : Nat := 0
  key : Nat := 0
  words : List Nat := []
  deriving DecidableEq, Repr

/-- What one place of a completion, event or assist queue holds, with the phase it was written under (R334). -/
inductive RingItem where
  | cpl (phase : Bool) (c : Cpl)
  | evt (phase : Bool) (e : Ev)
  | assist (phase : Bool) (a : AssistPost)
  deriving DecidableEq, Repr

/-- A completion queue (kind 1), event queue (2) or Assist Queue (3) (Table 12-5, R334): unread entries, and the
completions that wait for a free place (R336). -/
structure Ring where
  kind : Nat
  size : Nat
  base : Nat := 0
  vector : Nat := 0
  coalN : Nat := 0
  coalUs : Nat := 0
  head : Nat := 0
  tail : Nat := 0
  phase : Bool := true
  items : List RingItem := []
  waiting : List Cpl := []
  firstAt : Option Nat := none
  deriving DecidableEq, Repr

/-- A submission queue (R334, R335): `live` counts entries fetched and not yet completed. -/
structure Sq where
  size : Nat
  base : Nat := 0
  cq : Nat
  head : Nat := 0
  tail : Nat := 0
  live : Nat := 0
  stopped : Bool := false
  deleting : List HostCmd := []
  deriving DecidableEq, Repr

/-- A mailbox message on its way to software (Table 12-12). -/
structure OutMail where
  agent : Nat
  words : List Nat
  deriving DecidableEq, Repr

/-- One PCIe function: its queues, mailboxes, doorbells and TDI state (R331, R347 to R352). -/
structure Fn where
  enabled : Bool := true
  tdi : Nat := 0
  epoch : Nat := 0
  admEpoch : Nat := 0
  sqs : Tab Sq := []
  rings : Tab Ring := []
  admRegs : Tab Word := []
  admRdy : Bool := false
  admStop : Bool := false
  mbxIn : Tab Word := []
  mbxInCtl : Word := 8
  mbxInAt : Option Nat := none
  mbxInAck : Word := 0
  mbxOut : Tab Word := []
  mbxOutCtl : Word := 8
  mbxOutAt : Option Nat := none
  mbxOutAck : Word := 0
  outWait : List OutMail := []
  dbOut : Word := 0
  dbOutMask : Word := 0
  lost : Nat := 0
  irqs : Tab Nat := []
  deriving DecidableEq, Repr

/-- Who reads a coded page that the host expands (R208): a job or a coder. -/
inductive Reader where
  | job (q id : Nat)
  | coder (q c : Nat)
  deriving DecidableEq, Repr

/-- A message or submission that has been accepted and whose operation has not yet run, with its arrival (R22), and the
ticket that it already holds, if any, and the keys that the host has been asked for (Table 16-7). -/
structure Inbound where
  origin : Origin
  opcode : Nat
  body : Bytes
  arrival : Nat
  ticket : Option Nat := none
  asked : List Nat := []
  deriving DecidableEq, Repr

/-- Which work waits on an assist entry, so that its answer, or the lack of one, reaches it (R344, Table 16-7). -/
inductive AssistFor where
  | alloc (op : Inbound)
  | dirLookup (key : Nat) (op : Inbound)
  | decode (reader : Reader) (key frame page : Nat) (isV : Bool) (kPart : Bytes)
  | encode (q c key frame page : Nat)
  | merge (ticket : Nat)
  | piece (ticket : Nat)
  | steer (ticket group first last : Nat)
  | orphan (id : Nat)
  deriving DecidableEq, Repr

/-- A waiting assist entry (R344). -/
structure Assist where
  tag : Nat
  posted : Nat
  quarter : Nat := 0
  index : Nat
  purpose : AssistFor
  data : Bytes := []
  deriving DecidableEq, Repr

/-- The host interface of the node. -/
structure HostIf where
  fns : Tab Fn := []
  linkUp : Bool := false
  linkRate : Nat := 0
  linkWidth : Nat := 0
  degraded : Bool := false
  configOk : Bool := false
  nextTag : Nat := 1
  assists : List Assist := []
  funcModeWait : List HostCmd := []
  mem : Tab Mem := []
  deriving DecidableEq, Repr

/-! ### Transport (ch. 08) -/

/-- Which unit waits on a message that the node sends, so that CONN_ERROR or full acknowledgement reaches it (R233);
`conn` stands for every unit that uses a connection that has gone to ERROR. -/
inductive MsgOwner where
  | conn (i node tenant : Nat)
  | none
  | response
  | forward (key : Nat) (fwd : Nat)
  | child (ticket idx : Nat)
  | reseat (ticket : Nat)
  deriving DecidableEq, Repr

/-- A message handed to a connection (R215): its opcode, body and HINT_Q (R219). -/
structure OutMsg where
  opcode : Nat
  body : Bytes
  owner : MsgOwner := .none
  hint : Option Nat := none
  deriving DecidableEq, Repr

/-- A packet that has been sent and not cumulatively acknowledged: the copy of R231. -/
structure TxPkt where
  psn : Nat
  opcode : Nat
  msn : Nat
  idx : Nat
  last : Bool
  payload : Bytes
  hint : Option Nat := none
  owner : MsgOwner := .none
  sentAt : Nat
  resent : Bool := false
  sacked : Bool := false
  fastAt : Option Nat := none
  busy : Nat := 0
  retryAt : Option Nat := none
  deriving DecidableEq, Repr

/-- A received packet held out of order (R226). -/
structure RxPkt where
  psn : Nat
  opcode : Nat
  msn : Nat
  idx : Nat
  last : Bool
  payload : Bytes
  ce : Bool
  arrival : Nat
  deriving DecidableEq, Repr

/-- The wire keys of a protected connection (R314 to R317): the master secret, the epoch count of each direction, TX_COUNT,
whether an advance is due at the next packet, and whether the keys are zeroised (Table 11-8). -/
structure WireKeys where
  secret : Nat := 0
  txEpoch : Nat := 0
  rxEpoch : Nat := 0
  txCount : Nat := 0
  rotate : Bool := false
  zeroised : Bool := false
  deriving DecidableEq, Repr

/-- Connection states (Table 8-5). -/
inductive CState where
  | free | opening | opened | closing | error
  deriving DecidableEq, Repr

/-- A connection context (R220 to R239). -/
structure Conn where
  state : CState := .free
  incarn : Nat := 0
  opener : Bool := false
  peerOpener : Bool := false
  remoteNode : Nat := 0xFFFF
  remoteConn : Nat := 0
  remoteAddr : Nat := 0
  remotePort : Nat := 0
  tenant : Nat := 0
  tc : Nat := 0
  prot : Bool := false
  keys : WireKeys := {}
  initPsn : Nat := 0
  nextPsn : Nat := 0
  ackPsn : Nat := 0
  ePsn : Nat := 0
  msnTx : Nat := 0
  msnRx : Nat := 0
  idxRx : Nat := 0
  rxPart : Bytes := []
  rxArrival : Nat := 0
  rxBad : Bool := false
  rxOpcode : Nat := 0
  heldRx : List RxPkt := []
  ackRun : Nat := 0
  ackDueAt : Option Nat := none
  ceNew : Bool := false
  queue : List OutMsg := []
  sentOfHead : Nat := 0
  flight : List TxPkt := []
  srtt : Option Nat := none
  rttvar : Nat := 0
  rto : Nat := 0
  retries : Nat := 0
  timerAt : Option Nat := none
  cwnd : Nat := 0
  acc : Nat := 0
  decTime : Option Nat := none
  ctlTimerAt : Option Nat := none
  ctlRetries : Nat := 0
  closeSent : Bool := false
  closeRcvd : Bool := false
  lastActive : Nat := 0
  errAt : Nat := 0
  drained : Bool := false
  drops : Nat := 0
  noticeAt : Option Nat := none
  assistMark : Bool := false
  ccCe : Nat := 0
  ccRtt : Nat := 0
  deriving DecidableEq, Repr

/-- A context in the context cache (R238, R239). -/
structure CtxEntry where
  fetching : Bool := false
  writeback : Bool := false
  dirty : Bool := false
  used : Nat := 0
  deriving DecidableEq, Repr

/-- A packet in the miss buffer (R240). -/
structure MissPkt where
  conn : Nat
  bytes : Nat
  frame : RxFrame
  deriving DecidableEq, Repr

/-- A waiting packet send or resend handed to the port: what the frame carries (R210), whether it has waited for a gate window, and
the bits that an injector inverted after the FCS was computed (Table 10-4, mode 2). -/
structure TxFrame where
  conn : Nat
  tenant : Nat
  tc : Nat
  bytes : Nat
  opcode : Nat
  psn : Nat := 0
  header : Bytes := []
  sec : Bytes := []
  payload : Bytes := []
  trailer : Bytes := []
  dst : Nat := 0
  fabric : Bool := true
  pfc : Option (Nat × List Nat) := none
  resend : Bool := false
  waited : Bool := false
  flips : List Nat := []
  deriving DecidableEq, Repr

/-- The transport engine of one Quarter (ch. 08). -/
structure Xpt where
  conns : Tab Conn := []
  ctx : Tab CtxEntry := []
  miss : List MissPkt := []
  copyHost : Option Bool := none
  ctxInHost : Bool := false
  lastRst : Option Nat := none
  data : Tab Word := []
  routes : Tab Nat := []
  routesNew : Option (Tab Nat) := none
  deriving DecidableEq, Repr

/-! ### Directory, segments and tickets (ch. 02, 06, 09) -/

/-- Segment states (Table 2-10). -/
inductive SegState where
  | opened | sealed | coded | moving | retired | incoming
  deriving DecidableEq, Repr

/-- A directory entry (Tables 2-8, 2-9): key and associated data, the order in which it became a tombstone (R51), and
whether its stored parity is bad (R424). -/
structure DirEntry where
  key : Nat
  stack : Nat := 0
  descAddr : Nat := 0
  gen : Nat := 0
  state : SegState := .opened
  tombOrder : Nat := 0
  bad : Bool := false
  deriving DecidableEq, Repr

/-- One frame of a segment descriptor's frame table (Table 2-13). -/
structure FrameRef where
  stack : Nat
  addr : Nat
  spilled : Bool := false
  damaged : Nat := 0
  deriving DecidableEq, Repr

/-- An operation that a node forwards along a chain (R257): which operation, its body, and the answer that waits on the
successor when the acknowledgement point is the tail (R258). -/
structure Forward where
  id : Nat
  opcode : Nat
  body : Bytes
  waiter : Option Nat := none
  deriving DecidableEq, Repr

/-- The chain record of an OPEN segment (R256, R257). -/
structure Chain where
  succ : Nat := 0xFFFF
  succGen : Nat := 0
  nextHop : Nat := 0xFFFF
  broken : Bool := false
  firstSent : Bool := false
  queue : List Forward := []
  outstanding : List Forward := []
  deriving DecidableEq, Repr

/-- A segment descriptor (Table 2-13) with the per-layer stored counts of R252. -/
structure Seg where
  conv : Nat
  tenant : Nat
  shapeId : Nat
  prior : SegState := .opened
  seg : Nat
  gen : Nat
  frames : List FrameRef := []
  counts : List Nat := []
  chain : Chain := {}
  chainOn : Bool := false
  oldGen : Nat := 0
  changed : List (Nat × Nat) := []
  preq : List Nat := []
  deriving DecidableEq, Repr

/-- One entry of a conversation map (Table 2-14). -/
structure MapEntry where
  first : Nat
  last : Nat
  home : Nat
  rep1 : Nat
  rep2 : Nat
  deriving DecidableEq, Repr

/-- An installed conversation map (Table 2-14): the current version has `current`, older ones are kept while a ticket
uses them (R64). -/
structure ConvMap where
  key : Nat
  version : Nat
  decode : Bool := false
  ackAtHome : Bool := false
  entries : List MapEntry := []
  addr : Nat := 0
  current : Bool := true
  deriving DecidableEq, Repr

/-- A ticket record (Table 6-8, Table 9-9), with where its answer goes. -/
structure Ticket where
  id : Nat
  moved : Bool := false
  ownerSpill : Bool := false
  kind : Nat := 1
  epoch : Nat := 0
  arrival : Nat := 0
  deadline : Nat := 0
  willMiss : Bool := false
  byDeadline : Bool := false
  normalised : Bool := false
  origin : Origin := .wire 0
  connIncarn : Nat := 0
  tenant : Nat := 0
  cmd : Nat := 0
  conv : Nat := 0
  mapVer : Nat := 0
  jobs : Nat := 0
  opcode : Nat := 0
  layer : Nat := 0
  firstSeg : Nat := 0
  lastSeg : Nat := 0
  viewEnd : Nat := 0
  hedges : Nat := 0
  doveHandle : Nat := 0
  side : Nat := 0
  phase : Nat := 0
  newGen : Nat := 0
  peer : Nat := 0
  peerTicket : Nat := 0
  key : Nat := 0
  framesDone : Nat := 0
  reseatConn : Nat := 0
  prepared : Bool := false
  writesLeft : Nat := 0
  cutTicket : Option Nat := none
  copyDone : Bool := false
  ackAtHome : Bool := false
  child : Bool := false
  answerStatus : Nat := 0
  answerDetail : Nat := 0
  deriving DecidableEq, Repr

/-- The ticket pools of one Quarter (R186, R187): records by slot, the allocation bitmap, the order of touching, and
the IDs that await the orphan scan (R190). -/
structure TkPool where
  onChip : Tab Ticket := []
  spill : Tab Ticket := []
  inUse : List Nat := []
  touched : List Nat := []
  orphans : List Nat := []
  spilling : Bool := false
  recovering : Bool := false
  deriving DecidableEq, Repr

/-- An operation in the hold store (R253), or one that waits in the page store (R184). -/
structure Held where
  id : Nat
  key : Nat
  gen : Nat
  opcode : Nat
  origin : Origin
  body : Bytes
  arrival : Nat
  since : Nat
  ticket : Nat
  inStore : Bool := false
  deriving DecidableEq, Repr

/-- What a page-cache entry is for (R169, R170, R46, R184). -/
inductive CacheKind where
  | open_ | readPage | writeback | held
  deriving DecidableEq, Repr

/-- A page-cache entry: one page slot in plain, uncoded form, and for an open or held page its retained BF16 V values
(by token * d + column) and the form of each V block (0 none yet, 1 BF16, 2 pre-quantised). -/
structure CacheEntry where
  kind : CacheKind
  key : Nat
  frame : Nat
  page : Nat
  stack : Nat
  addr : Nat
  lines : Nat
  slot : Mem := []
  v : Tab Nat := []
  vform : List Nat := [0, 0]
  jobs : List Nat := []
  used : Nat := 0
  deriving DecidableEq, Repr

/-- Frame space of one stack (R163): the frame size each dedicated chunk is cut to, and the frames in use. -/
structure Alloc where
  chunks : Tab Nat := []
  used : Tab Nat := []
  deriving DecidableEq, Repr

/-- A frame that has become releasable or waits for its references to drain (R166, R167). -/
structure Release where
  stack : Nat
  addr : Nat
  size : Nat
  key : Nat
  gen : Nat
  tenant : Nat
  deriving DecidableEq, Repr

/-- The user of a DMA descriptor: software (its command), or the node itself (R179). -/
inductive DmaUser where
  | host (h : HostCmd)
  | reseat (ticket : Nat)
  deriving DecidableEq, Repr

/-- A DMA descriptor (Table 6-4). -/
structure Dma where
  user : DmaUser
  op : Nat
  event : Bool := false
  autoResume : Bool := false
  tenant : Nat := 0
  place : Nat := 0
  tag : Nat := 0
  length : Nat := 0
  srcKind : Nat := 0
  dstKind : Nat := 0
  srcFn : Nat := 0
  dstFn : Nat := 0
  src : Nat := 0
  dst : Nat := 0
  remote : Nat := 0
  key : Nat := 0
  gen : Nat := 0
  frame : Nat := 0
  spillOff : Nat := 0
  newStack : Nat := 0
  newAddr : Nat := 0
  deriving DecidableEq, Repr

/-- Engine states (Table 6-17). -/
inductive EngState where
  | idle | running | faulted | waitReady
  deriving DecidableEq, Repr

/-- A DMA engine and its fault record (Table 6-18). -/
structure Engine where
  state : EngState := .idle
  desc : Option Dma := none
  done : Nat := 0
  faultOffset : Nat := 0
  cls : Nat := 0
  dstSide : Bool := false
  tag : Nat := 0
  addr : Nat := 0
  deriving DecidableEq, Repr

/-- The page store of one Quarter (ch. 06): segment descriptors by descriptor address, frame allocation by local stack,
the page cache, the hold store, forwards whose segment has gone (`late`, with the successor), the Host Spill Map and the DMA
engines. -/
structure Store where
  segs : Tab Seg := []
  allocs : Tab Alloc := []
  releases : List Release := []
  cache : List CacheEntry := []
  clock : Nat := 0
  holds : List Held := []
  late : List (Nat × Forward) := []
  nextHold : Nat := 1
  hsm : Tab (BitVec 64) := []
  dmaQueue : List Dma := []
  engines : Tab Engine := []
  deriving DecidableEq, Repr

/-! ### Attention jobs, Dovetail and the scoring stacks (ch. 03, 04, 05) -/

/-- The fold state of one query row (R79, R83): exact FP32 bit patterns. -/
structure RowState where
  m : Word := 0xFF800000
  l : Word := 0
  o : List Word := []
  deriving DecidableEq, Repr

/-- One query row of a request (R68): its position and its BF16 values. -/
structure QRow where
  pos : Nat
  q : List Nat
  deriving DecidableEq, Repr

/-- A pattern block (Table 3-1). -/
structure Pattern where
  kind : Nat := 0
  sinks : Nat := 0
  window : Nat := 0
  globals : List Nat := []
  deriving DecidableEq, Repr

/-- A shape descriptor (Table 2-1). -/
structure Shape where
  layers : Nat
  kvh : Nat
  dim : Nat
  fmt : Nat
  g : Nat
  bscThresh : Nat
  scale : Word
  deriving DecidableEq, Repr

/-- A frame that a job reads, referenced from the job's formation (R166). -/
structure JobFrame where
  seg : Nat
  key : Nat
  gen : Nat
  frame : Nat
  stack : Nat
  addr : Nat
  spilled : Bool := false
  deriving DecidableEq, Repr

/-- Job classes in dispatch order (Table 4-4). -/
inductive JClass where
  | express | decode | prefill
  deriving DecidableEq, Repr

/-- Where a job is: ready in the dispatcher, running, saved in a context slot, or waiting for a stack (R132). -/
inductive JState where
  | ready | running | saved | onBank | notReady
  deriving DecidableEq, Repr

/-- A job (R100): one layer, KV head, row pass and run range in one Quarter, with its site (1 core, 2 bank scorers), its energy
estimate (`raw` femtojoules times `factor`, R379) and its progress. -/
structure Job where
  id : Nat
  ticket : Nat
  collect : Nat
  cls : JClass
  head : Nat
  passNo : Nat
  rowLo : Nat
  rowN : Nat
  firstRun : Nat
  runs : Nat
  frames : List JobFrame
  order : Nat
  subOrder : Nat := 0
  site : Nat := 0
  admitted : Bool := false
  state : JState := .ready
  core : Nat := 0
  nextRun : Nat := 0
  nextBlock : Nat := 0
  rows : List RowState := []
  raw : Nat := 0
  factor : Rat := 1
  waitStack : Option Nat := none
  deriving DecidableEq, Repr

/-- One attention core (ch. 04): its job, the job it is saving, the waiting job it is marked for, the jobs
saved in its 8 slots, whether it holds for a clock change, and the job that starts when its save ends. -/
structure Core where
  online : Bool := true
  faulted : Bool := false
  testing : Bool := false
  job : Option Nat := none
  saving : Option Nat := none
  mark : Option Nat := none
  saved : List Nat := []
  held : Bool := false
  nextJob : Option Nat := none
  deriving DecidableEq, Repr

/-- The cores and dispatcher of one Quarter: `clock` is the power state whose clock the island runs at, `clockPend` the one it
is to switch to (R391). -/
structure CoreIsland where
  cores : Tab Core := []
  jobs : List Job := []
  clockPend : Option Nat := none
  clock : Nat := 0
  testSeq : Nat := 0
  testRunning : Option (Nat × Nat) := none
  testResult : Nat := 0
  deriving DecidableEq, Repr

/-- A piece: the value of one merge-tree node for every row of a head (R87, R129). -/
structure Piece where
  head : Nat
  level : Nat
  index : Nat
  rows : List RowState
  spilled : Bool := false
  age : Nat := 0
  deriving DecidableEq, Repr

/-- A run partial of one row pass, waiting for the other passes of its head (R129). -/
structure PassPart where
  head : Nat
  passNo : Nat
  run : Nat
  rows : List RowState
  deriving DecidableEq, Repr

/-- A child ATTEND of a coordinator (R273 to R275). -/
structure Child where
  idx : Nat
  group : Nat
  node : Nat
  conn : Nat
  first : Nat
  last : Nat
  sentAt : Nat
  ended : Bool := false
  failed : Bool := false
  willMiss : Option Nat := none
  deriving DecidableEq, Repr

/-- A child range: its map entry's candidates still untried and the hedges spent (R275, Table 9-11). -/
structure ChildGroup where
  idx : Nat
  first : Nat
  last : Nat
  candidates : List Nat
  hedges : Nat := 0
  deriving DecidableEq, Repr

/-- An ATTEND in flight, as its collecting Quarter's Dovetail holds it (R129, R277). -/
structure Request where
  ticket : Nat
  origin : Origin
  tag : Nat
  key : Nat
  shapeId : Nat
  shape : Shape
  exec : Nat
  layer : Nat
  heads : List Nat
  rows : Nat
  firstSeg : Nat
  lastSeg : Nat
  viewEnd : Nat
  partialMode : Bool
  bf16Out : Bool
  byDeadline : Bool
  fanout : Bool
  role : Nat
  pattern : Pattern
  data : List (Nat × List QRow)
  body : Bytes := []
  outWindow : List Nat := []
  pieces : List Piece := []
  parts : List PassPart := []
  children : List Child := []
  groups : List ChildGroup := []
  assist6 : Bool := false
  doneSent : Bool := false
  deriving DecidableEq, Repr

/-- Dovetail of one Quarter (R129, R130). -/
structure Dove where
  reqs : Tab Request := []
  clock : Nat := 0
  deriving DecidableEq, Repr

/-- A sequence (Table 5-3) and how far its scorer has got. -/
structure Sequence where
  tag : Nat
  job : Nat
  seqNo : Nat
  pch : Nat
  frameAddr : Nat
  slotUnits : Nat
  firstPage : Nat
  runs : Nat
  firstRun : Nat
  rowN : Nat
  bank : Nat
  entry : Nat
  viewEnd : Nat
  done : Nat := 0
  bad : Bool := false
  retired : Bool := false
  frame : JobFrame
  deriving DecidableEq, Repr

/-- A result entry (Table 5-4): STATUS 0 DONE, 1 REDIRECT, 2 DAMAGED, 3 ABORTED, 4 CANCELLED, 5 FAULT. -/
structure Entry where
  tag : Nat
  run : Nat
  status : Nat
  rows : List RowState := []
  deriving DecidableEq, Repr

/-- An ordinary access that waits in a channel: a read or a write of bytes at a stack address (R148, R151). -/
structure ChAccess where
  isWrite : Bool
  addr : Nat
  data : Mem := []
  len : Nat := 0
  deriving DecidableEq, Repr

/-- One scoring stack: per-scorer sequences (issue order, at most two), result entries, notices, fences and channel
modes (ch. 05). -/
structure BscStack where
  seqs : Tab (List Sequence) := []
  backlog : List Sequence := []
  entries : Tab Entry := []
  notices : List Sequence := []
  fenceSeq : Nat := 0
  doneSeq : Nat := 0
  fenceWait : Option (List Nat) := none
  issuerFence : Option (List Nat) := none
  fenced : List Sequence := []
  nextSeq : Nat := 1
  mode : Tab Nat := []
  want : Tab Nat := []
  pendFrom : Tab Nat := []
  chFail : List Nat := []
  accesses : Tab (List ChAccess) := []
  held : Tab (List ChAccess) := []
  crossing : List Nat := []
  lastXing : Tab Nat := []
  restarts : Tab Nat := []
  refreshDue : List Nat := []
  powered : Bool := true
  deriving DecidableEq, Repr

/-- The bank-scorer block of one Quarter. -/
structure Bsc where
  stk : Tab BscStack := []
  badMode : Bool := false
  bistSeq : Nat := 0
  bistRunning : Option (Nat × Nat × Nat × Nat) := none
  bistResult : Nat := 0
  bistUnit : Nat := 0
  deriving DecidableEq, Repr

/-! ### Page coding (ch. 07) -/

/-- Table slot states (Table 7-11). -/
inductive SlotState where
  | free | loading | loaded | releasing
  deriving DecidableEq, Repr

/-- A coding-table slot (Table 7-11). -/
structure TableSlot where
  id : Nat := 0
  tag : Nat := 0
  state : SlotState := .free
  role : Nat := 0
  current : Bool := false
  lengths : List Nat := []
  load : Nat := 0
  deriving DecidableEq, Repr

/-- A running TABLE_LOAD (R197). -/
structure TableLoad where
  id : Nat
  host : HostCmd
  quarters : List Nat
  makeCurrent : Bool
  tableId : Nat
  deriving DecidableEq, Repr

/-- A coder (R200, R203): the segment of its pass or sweep and the page it stands at; the page it holds: its stored header, the
bytes that replace its element regions, the tables that they name; whether it waits for the host (R208), and whether its frame has counted in SKIPPED (Table 17-3, row 19). -/
structure Coder where
  key : Option Nat := none
  sweep : Bool := false
  frame : Nat := 0
  page : Nat := 0
  holding : Bool := false
  asked : Bool := false
  coded : Bool := true
  header : Bytes := []
  units : Bytes := []
  kLen : Nat := 0
  tables : List Nat := []
  noted : Bool := false
  deriving DecidableEq, Repr

/-- An entry of the coding queue (R199), with the local stack and the address at which NOT_READY stopped its pass (R202). -/
structure CodeEntry where
  key : Nat
  waitAt : Option (Nat × Nat) := none
  deriving DecidableEq, Repr

/-- The coding block of one Quarter. -/
structure Pcd where
  slots : Tab TableSlot := []
  queue : List CodeEntry := []
  coders : Tab Coder := []
  sweepSeq : Nat := 0
  sweepDone : Nat := 0
  sweepRun : Option (Nat × Nat) := none
  sweepKeys : List Nat := []
  skipped : Nat := 0
  deriving DecidableEq, Repr

/-! ### Ports and injectors (ch. 10) -/

/-- A queue of one class and tenant (R293): its frames and its deficit. -/
structure TxQueue where
  tenant : Nat
  frames : List TxFrame := []
  deficit : Nat := 0
  deriving DecidableEq, Repr

/-- One traffic class of a port: the round list of its active queues, whether the first queue's visit is in progress,
and the pauses in force (R290, R289). -/
structure TxClass where
  round : List TxQueue := []
  visiting : Bool := false
  pausedUntil : Option Nat := none
  xoff : Bool := false
  xoffAt : Nat := 0
  pfcDue : Bool := false
  deriving DecidableEq, Repr

/-- A token bucket in bytes (R286, R292): its level when it was last brought up to date, in units of 1/80 byte (one
unit is 100 Mb/s for 1 ns), and the time of that. A bucket that has not been touched is full. -/
structure Bucket where
  level : Int := 0
  at_ : Nat := 0
  full : Bool := true
  deriving DecidableEq, Repr

/-- An injector (R296 to R298): its words and NTH, its generator, the matching frames for which SELECT was evaluated, the frame that it
holds with the frames still to leave and the time of the hold, the frames due for release, and an arm that waits for a frame
boundary, with its end. -/
structure Inject where
  armed : Bool := false
  words : List Word := [0, 0, 0, 0]
  nth : Nat := 0
  endAt : Nat := 0
  lfsr : Word := 1
  matched : Nat := 0
  held : Option (TxFrame × Nat × Nat) := none
  release : List TxFrame := []
  next : Option (List Word × Nat × Nat) := none
  deriving DecidableEq, Repr

/-- A gate list: entries as PORT_GCLe words, and its length (R294). -/
structure Gcl where
  entries : Tab Word := []
  len : Nat := 1
  deriving DecidableEq, Repr

/-- One port (ch. 10). `gclStart`, when the gate entry in effect began, and `freeAt`, when the frame on the wire ends, count fifths
of a nanosecond: a port cycle is four of them. -/
structure Port where
  linkUp : Bool := false
  training : Bool := false
  refClk : Bool := true
  failed : Bool := false
  classes : Tab TxClass := []
  pol : Tab Bucket := []
  shp : Tab Bucket := []
  active : Gcl := {}
  activeBank : Bool := false
  gclRun : Bool := false
  gclEntry : Nat := 0
  gclStart : Nat := 0
  swapPend : Bool := false
  inj : Inject := {}
  sent : List TxFrame := []
  freeAt : Nat := 0
  deriving DecidableEq, Repr

/-! ### The Quarter -/

/-- Power states of a Quarter (Table 14-16); whether a Quarter in Q-IDLE is gated follows from its jobs (R392). -/
inductive QPower where
  | on | idle | entering | off | leaving
  deriving DecidableEq, Repr

/-- States of a stack in the page store (Table 6-9). -/
inductive StkState where
  | training | ready | draining | off | failed
  deriving DecidableEq, Repr

/-- The directory slice (ch. 02, ch. 16): entries by entry address, the shadow by entry address, and whether shadow
words are uncorrectable. -/
structure Dir where
  slots : Tab DirEntry := []
  shadow : Tab DirEntry := []
  shadowBad : List Nat := []
  tombs : Nat := 0
  multi : Bool := false
  parity : Bool := false
  rebuilding : Bool := false
  waiting : List Inbound := []
  xlDisabled : Bool := false
  xlMismatch : Nat := 0
  xlTotal : Nat := 0
  scrubAt : Nat := 0
  deriving DecidableEq, Repr

/-- One Quarter: every unit of Table 1-3. -/
structure Quarter where
  power : QPower := .on
  qoffAt : Option Nat := none
  qoffNoted : Bool := false
  failed : Bool := false
  wakeAt : Option Nat := none
  dir : Dir := {}
  maps : List ConvMap := []
  tk : TkPool := {}
  store : Store := {}
  xpt : Xpt := {}
  core : CoreIsland := {}
  dove : Dove := {}
  bsc : Bsc := {}
  pcd : Pcd := {}
  port : Port := {}
  deriving DecidableEq, Repr

/-- Power state of a stack (Table 14-18) with its page-store state. -/
structure Stack where
  st : StkState := .training
  off : Bool := false
  selfRefresh : Bool := false
  bistBank : Option (Nat × Nat) := none
  uncorrectable : List Nat := []
  deriving DecidableEq, Repr

/-! ### Tenants and security (ch. 11) -/

/-- Tenant states (Table 11-17). -/
inductive TState where
  | absent | active | draining | scrubbing
  deriving DecidableEq, Repr

/-- A tenant (R27, R300 to R311): its descriptor, its page keys (generation 0: none), the pages that the sweep could not rewrite (Quarter,
key, frame, page) and retries at each tick (R310), and the drains that wait. -/
structure Tenant where
  state : TState := .absent
  encrypt : Bool := false
  wireProt : Bool := false
  poolMib : Nat := 0
  dirMax : Nat := 0
  connMax : Nat := 0
  anchor : Bytes := []
  curGen : Nat := 0
  curKey : Nat := 0
  prevGen : Nat := 0
  prevKey : Nat := 0
  skipped : List (Nat × Nat × Nat × Nat) := []
  drainers : List (HostCmd × Bool) := []
  deriving DecidableEq, Repr

/-- A management session (R324). -/
structure MgmtSession where
  key : Nat
  last : Option Nat := none
  idle : Nat := 0
  deriving DecidableEq, Repr

/-- The security engine and fuse bank (R320 to R324). -/
structure Sec where
  conf : Bool := false
  jtagEn : Bool := false
  traceEn : Bool := false
  identOk : Bool := false
  testConfig : Bool := false
  fuseConfLock : Bool := false
  fuseJtagKill : Bool := false
  fuseIdentProg : Bool := true
  tenants : Tab Tenant := []
  shapes : Tab Shape := []
  sessions : Tab MgmtSession := []
  deriving DecidableEq, Repr

/-! ### Energy, power and thermal state (ch. 14) -/

/-- The energy bucket of one Quarter (R381, R385): its level (in femtojoules, signed) at a time, its rate in milliwatts,
its calibration factor, the estimates completed in this tick (fJ, without the factor). -/
structure QEnergy where
  levelFj : Int := 500000000000000
  at_ : Nat := 0
  rateMw : Nat := 0
  calib : Rat := 1
  doneFj : Nat := 0
  deriving DecidableEq, Repr

/-- A temperature sensor (Table 14-20): its last reading in 1/8 °C if valid, the time of its last valid reading, whether it has reported
that it has none (`fault`), and whether 10 ms have passed so (`lost`, R384). -/
structure Sensor where
  degX8 : Nat := 0
  valid : Bool := false
  lastValid : Nat := 0
  fault : Bool := false
  lost : Bool := false
  deriving DecidableEq, Repr

/-- The energy allocator and power state. `tickBad`: a sensor gave no valid reading in this tick; `rebalAt`: the last rebalance; `tripped`
is PWR_THERM.TRIPPED, `lockout` the thermal lockout of R390, and `cycled` says that the 52 V input or MAIN_EN has been cycled in it. -/
structure Power where
  pstate : Nat := 0
  capW : Nat := 1400
  capNext : Option Nat := none
  conservative : Bool := true
  history : Nat := 0
  tickBad : Bool := false
  rebalAt : Nat := 0
  clamp : Bool := false
  duty : Nat := 64
  pkgMw : Nat := 0
  ungatedMw : Nat := 0
  q : Tab QEnergy := []
  sensors : Tab Sensor := []
  dirStep : Tab Nat := []
  hotScoring : Nat := 0
  tripSensor : Nat := 0
  tripped : Bool := false
  lockout : Bool := false
  cycled : Bool := false
  alert : Bool := false
  deriving DecidableEq, Repr

/-! ### Start-up, the Alley and the module (ch. 15, 16, 18) -/

/-- The parts of a verified image that stay fixed until the next reset (R409). -/
structure Image where
  slot : Nat := 0
  oper : Bytes := []
  operId : Bytes := []
  fabric : List (Nat × Nat) := []
  nodes : Nat := 0
  baseMac : Nat := 0
  fabricPfx : Nat := 0
  pmds : Nat := 0
  finjPorts : Nat := 0
  finjModes : Nat := 0
  openMask : Nat := 0
  chModes : List (Nat × Nat) := []
  fmRequested : Nat := 0
  digest : Bytes := []
  fwDigest : Bytes := []
  conf : Bool := false
  tenant0 : Bytes := []
  writes : List (Nat × Nat) := []
  capW : Nat := 1400
  deriving DecidableEq, Repr

/-- The standby record (R321, R401): whether it is held, the last start-up's confidential mode, the failed marks, and
BOOT_STATUS as last held. -/
structure Standby where
  held : Bool := false
  conf : Bool := false
  failedA : Bool := false
  failedB : Bool := false
  lastStatus : Nat := 0
  deriving DecidableEq, Repr

/-- A response or forwarded frame that the Alley agent sends: out of which port, and its bytes. -/
structure AlleyOut where
  port : Nat
  bytes : Bytes
  deriving DecidableEq, Repr

/-- A management command taken from an Alley frame, which has still to run. -/
structure AlleyCmd where
  cmd : Nat
  m : Mgmt
  body : Bytes
  deriving DecidableEq, Repr

/-- Start-up and the Alley. `started`: a start-up is under way or has been done since the main domain last had no power. -/
structure Boot where
  started : Bool := true
  phase : Nat := 1
  slot : Nat := 0
  aResult : Nat := 0
  bResult : Nat := 0
  seqA : Nat := 0
  seqB : Nat := 0
  cause : Nat := 0
  scrubbed : Bool := false
  scrubNeed : Bool := false
  pcieDone : Bool := false
  trainDone : Bool := false
  readyTime : Nat := 0
  readyOnce : Bool := false
  failStop : Bool := false
  image : Option Image := none
  standby : Standby := {}
  nvm : Mem := []
  update : Option (Nat × Nat) := none
  nodeId : Option Nat := none
  addr : Nat := 0
  aport : Nat := 0
  adir : Nat := 0
  out : List AlleyOut := []
  inbox : List AlleyCmd := []
  deriving DecidableEq, Repr

/-- The module pins and supplies that the node watches (ch. 18). -/
structure Pins where
  vin52Mv : Nat := 52000
  vin52Ok : Bool := true
  vsb12 : Bool := true
  mainEn : Bool := true
  mainPg : Bool := false
  sysclk : Bool := true
  pcieClk : Bool := true
  progEn : Bool := false
  nvmBusTray : Bool := false
  deriving DecidableEq, Repr

/-- The whole node. `tickMeter` holds what each tenant has used in the tick so far, by 8 × tenant + m of Table 15-11. `unitErrs` lists the sending units whose message has failed in this command and which have still to act (R233);
it is empty between commands. `free` counts the open values drawn so far (the model's own field); `pending` is the queue of
commands that wait (the model's own field). -/
structure State where
  time : Nat := 0
  ticks : Nat := 0
  free : Nat := 0
  pending : List Instr := []
  regs : RegFile := {}
  host : HostIf := {}
  inbox : List Inbound := []
  unitErrs : List (MsgOwner × Nat) := []
  quarters : Tab Quarter := []
  stk : Tab Stack := []
  hbm : Mem := []
  sec : Sec := {}
  pwr : Power := {}
  boot : Boot := {}
  pins : Pins := {}
  loads : List TableLoad := []
  tickMeter : Tab Nat := []
  finjPermit : Nat := 0
  fmodeDenied : Nat := 0
  nextId : Nat := 1
  deriving DecidableEq, Repr

/-- Why the machine stops with a fault. -/
inductive Fault where
  /-- An access names an HBM byte that no stack has (Table 1-4: 64 GiB in a plain stack, 48 GiB in a scoring stack).
  Raised by the DMA rows when the descriptor's address or length runs past the stack. SAFE: the spec gives no byte
  there, and the machine stops instead of going on. -/
  | noSuchHbm (stack addr : Nat)
  deriving DecidableEq, Repr

/-- Why a command is refused. -/
inductive Refusal where
  /-- The command has no meaning in the model. Raised only by an arm of `exec` that is not modelled; SAFE: nothing is
  claimed of such a command. -/
  | notModelled (mnemonic : String)
  deriving DecidableEq, Repr

/-- The machine right after reset: every field at the value of its declaration above. The reset values that the spec
does not state are listed in INVENTORY.md and in notes/assumptions. -/
def State.reset : State := {}

end Sys2Proof.Machine
end

