-- ==== Sys2Proof/Machine/Codec.lean ====
section
/-!
DEFINITION. The page code (ch. 07): CRC-32C, canonical prefix codes, and the coded unit, formed and expanded. Nothing
here reads or changes State.
-/
namespace Sys2Proof.Machine

/-! ### CRC-32C (R191) -/

/-- One bit step of the reflected Castagnoli CRC. -/
def crcBit (c : BitVec 32) : BitVec 32 := if c.getLsbD 0 then (c >>> 1) ^^^ 0x82F63B78 else c >>> 1

/-- Eight bit steps. -/
def crcByte (c : BitVec 32) (b : Byte) : BitVec 32 :=
  let c := c ^^^ b.setWidth 32
  crcBit (crcBit (crcBit (crcBit (crcBit (crcBit (crcBit (crcBit c)))))))

/-- CRC-32C of a byte string (R191). -/
def crc32c (b : Bytes) : Nat := (b.foldl crcByte 0xFFFFFFFF ^^^ 0xFFFFFFFF).toNat

/-! ### Coding tables (R194, R196, R197) -/

/-- The 256 code lengths of the LENGTHS field (Table 7-2). -/
def tableLengths (b : Bytes) : List Nat := b.flatMap fun x => [x.toNat % 16, x.toNat / 16]

/-- A coded symbol: its length, its value and its code. -/
structure Code where
  len : Nat
  sym : Nat
  code : Nat
  deriving DecidableEq, Repr

/-- Symbols of one length, ascending. -/
def symsOfLen (ls : List Nat) (n : Nat) : List Nat := (List.range 256).filter fun s => ls.getD s 0 == n

/-- Assign canonical codes to the symbols of one length, from `next` up (R194). -/
def assignLen (n : Nat) : List Nat → Nat → List Code
  | [], _ => []
  | s :: t, next => { len := n, sym := s, code := next } :: assignLen n t (next + 1)

/-- Canonical codes from length n up, `fuel` lengths; `next` is the next code at length n (R194). -/
def assignFrom (ls : List Nat) : Nat → Nat → Nat → List Code
  | 0, _, _ => []
  | fuel + 1, n, next =>
    let ss := symsOfLen ls n
    assignLen n ss next ++ assignFrom ls fuel (n + 1) ((next + ss.length) * 2)

/-- The codes of a table (R194). -/
def codesOf (ls : List Nat) : List Code := assignFrom ls 15 1 0

/-- The Kraft sum of R194. -/
def kraft (ls : List Nat) : Nat := (ls.map fun n => if n = 0 then 0 else 2 ^ (15 - n)).sum

/-- A LOAD whose lengths are refused (R197). -/
def lengthsBad (ls : List Nat) : Bool := ls.all (· == 0) || kraft ls > 32768

/-! ### Bit streams (R193) -/

/-- The `n` bits of a code, most significant first. -/
def codeBits (c : Code) : List Bool := (List.range c.len).map fun i => bit c.code (c.len - 1 - i)

/-- The bits of a body, stream bit k being bit k mod 8 of byte k div 8. -/
def streamBits (b : Bytes) : List Bool := b.flatMap fun x => (List.range 8).map fun i => x.getLsbD i

/-- Eight stream bits as a byte. -/
def byteOfBits (l : List Bool) : Byte :=
  BitVec.ofNat 8 ((List.range 8).foldl (fun a i => a + (if l.getD i false then 2 ^ i else 0)) 0)

/-- Pack stream bits into `n` bytes. -/
def packBits : Nat → List Bool → Bytes
  | 0, _ => []
  | n + 1, l => byteOfBits (l.take 8) :: packBits n (l.drop 8)

/-- The stream of a region under a table; none when a symbol has no code (R200). -/
def encodeBits (cs : List Code) : Bytes → Option (List Bool)
  | [] => some []
  | b :: t =>
    match cs.find? (fun c => c.sym == b.toNat), encodeBits cs t with
    | some c, some r => some (codeBits c ++ r)
    | _, _ => none

/-- The result of expanding a unit: the bytes, a failure that is damage (its status), or an absent table (R205, R207). -/
inductive Expand where
  | ok (b : Bytes)
  | damage (status : Nat)
  | tableAbsent
  deriving DecidableEq, Repr

/-- Expand a bit stream (R205): the pattern so far has `len` bits and value `code`; `need` symbols are left. -/
def decodeBits (cs : List Code) : List Bool → Nat → Nat → Nat → Bytes → Expand
  | [], len, _, need, acc => if need = 0 ∧ len = 0 then .ok acc.reverse else .damage 0x40
  | b :: t, len, code, need, acc =>
    if need = 0 then (if (b :: t).length ≤ 7 ∧ (b :: t).all (· == false) then .ok acc.reverse else .damage 0x40)
    else
      let len' := len + 1
      let code' := code * 2 + b2n b
      match cs.find? (fun c => c.len == len' && c.code == code') with
      | some c => decodeBits cs t 0 0 (need - 1) (BitVec.ofNat 8 c.sym :: acc)
      | none =>
        if cs.any (fun c => c.len > len' && c.code / 2 ^ (c.len - len') == code') then decodeBits cs t len' code' need acc
        else .damage 0x41

/-! ### Coded units (R191, R192, R205) -/

/-- Form a unit: header and body (Table 7-1). -/
def mkUnit (id tag : Nat) (body : Bytes) : Bytes :=
  let head := leBytes 1 id ++ leBytes 1 tag ++ leBytes 2 body.length
  head ++ leBytes 4 (crc32c (head ++ body)) ++ body

/-- The raw unit of a region (R192). -/
def rawUnit (region : Bytes) : Bytes := mkUnit 0 0 region

/-- The unit of a region: coded under a table when every symbol has a code and the body is shorter than the region, else
raw (R200). The flag says that it is raw. -/
def encodeUnit (tbl : Option TableSlot) (region : Bytes) : Bytes × Bool :=
  match tbl with
  | none => (rawUnit region, true)
  | some t =>
    match encodeBits (codesOf t.lengths) region with
    | none => (rawUnit region, true)
    | some bs =>
      let n := ceilDiv bs.length 8
      if n < region.length then (mkUnit t.id t.tag (packBits n bs), false) else (rawUnit region, true)

/-- The checks of decode_unit before expansion: the lengths and the CRC (R205). -/
def unitCheck (u : Bytes) (len : Nat) : Option Nat :=
  let blen := fieldAt u 2 2
  let body := (u.drop 8).take blen
  if blen + 8 ≠ len then some 0x40
  else if crc32c (u.take 4 ++ body) ≠ fieldAt u 4 4 then some 0x42
  else none

/-- decode_unit (R205): `tbl` gives the LOADED slot of a TABLE_ID. -/
def decodeUnit (tbl : Nat → Option TableSlot) (u : Bytes) (len size : Nat) : Expand :=
  let blen := fieldAt u 2 2
  let body := (u.drop 8).take blen
  match unitCheck u len with
  | some st => .damage st
  | none =>
    if byteAt u 0 = 0 then
      if byteAt u 1 ≠ 0 then .damage 0x41
      else if blen ≠ size then .damage 0x40
      else .ok body
    else
      match tbl (byteAt u 0) with
      | none => .tableAbsent
      | some t =>
        if t.tag ≠ byteAt u 1 then .tableAbsent
        else decodeBits (codesOf t.lengths) (streamBits body) 0 0 size []

end Sys2Proof.Machine
end

