-- ==== Sys2Proof/Machine/Fp.lean ====
section
/-!
DEFINITION. The attention arithmetic (ch. 03): FP32 by R65 to R67, the E2 exponential, the quantiser of R41, scores,
masks, the fold of a run and the canonical merge. A finite value is a dyadic number m * 2^e held exactly as a pair.
-/
namespace Sys2Proof.Machine

/-! ### FP32 (R65 to R67) -/

/-- An exact dyadic value m * 2^e. -/
abbrev Dy := Int × Int

/-- −∞ (R66). -/
def negInf : Word := 0xFF800000
/-- MAXF (R65). -/
def maxF : Word := 0x7F7FFFFF
/-- LOG2E, C1, C2 and ONE (Table 3-2). -/
def cLOG2E : Word := 0x3FB8AA3B
def cC1 : Word := 0x3F317218
def cC2 : Word := 0x3E75FDF0
def cONE : Word := 0x3F800000

/-- The exact value of a finite FP32 pattern. -/
def dyOf (w : Word) : Dy :=
  let v := w.toNat
  let ex := bits v 30 23
  let fr := v % 2 ^ 23
  let m : Nat := if ex = 0 then fr else 2 ^ 23 + fr
  let e : Int := if ex = 0 then -149 else (ex : Int) - 150
  (if bit v 31 then -(m : Int) else (m : Int), e)

/-- Shift a natural number right by k bits, rounding half to even. -/
def rneShift (n k : Nat) : Nat :=
  let q := n / 2 ^ k
  let r := n % 2 ^ k
  if k = 0 then n
  else if 2 * r > 2 ^ k ∨ (2 * r = 2 ^ k ∧ q % 2 = 1) then q + 1 else q

/-- An exact dyadic value in FP32, by the five steps of R65. -/
def toFP32 (x : Dy) : Word :=
  let n := x.1.natAbs
  if n = 0 then 0
  else
    let l := Nat.log2 n
    let q := if l ≤ 23 then n * 2 ^ (23 - l) else rneShift n (l - 23)
    let carry := q = 2 ^ 24
    let q := if carry then 2 ^ 23 else q
    let ex : Int := (l : Int) + x.2 + (if carry then 1 else 0)
    let sign : Nat := if x.1 < 0 then 2 ^ 31 else 0
    if ex < -126 then 0
    else if ex > 127 then w32 (sign + maxF.toNat)
    else w32 (sign + (ex + 127).toNat * 2 ^ 23 + (q - 2 ^ 23))

/-- The exact sum of two dyadic values. -/
def dyAdd (a b : Dy) : Dy :=
  let e := min a.2 b.2
  (a.1 * 2 ^ (a.2 - e).toNat + b.1 * 2 ^ (b.2 - e).toNat, e)

/-- The exact product of two dyadic values. -/
def dyMul (a b : Dy) : Dy := (a.1 * b.1, a.2 + b.2)

/-- fadd of R65. -/
def fadd (a b : Word) : Word := toFP32 (dyAdd (dyOf a) (dyOf b))

/-- fmul of R65. -/
def fmul (a b : Word) : Word := toFP32 (dyMul (dyOf a) (dyOf b))

/-- fsub of R65, with fsub(−∞, y) = −∞ (R66). -/
def fsub (a b : Word) : Word :=
  if a = negInf then negInf else toFP32 (dyAdd (dyOf a) (-(dyOf b).1, (dyOf b).2))

/-- fdiv of R65: the quotient is carried to 64 further bits and a sticky bit, which decides its rounding. -/
def fdiv (a b : Word) : Word :=
  let x := dyOf a
  let y := dyOf b
  if y.1 = 0 then (if x.1 < 0 then w32 (2 ^ 31 + maxF.toNat) else maxF)
  else
    let n := x.1.natAbs * 2 ^ 64
    let q := n / y.1.natAbs
    let m : Nat := 2 * q + (if n % y.1.natAbs = 0 then 0 else 1)
    toFP32 ((if (x.1 < 0) = (y.1 < 0) then (m : Int) else -(m : Int)), x.2 - y.2 - 65)

/-- a < b for FP32 values, −∞ below every finite value (R66). -/
def fltLt (a b : Word) : Bool :=
  if a = negInf then b != negInf
  else if b = negInf then false
  else
    let d := dyAdd (dyOf a) (-(dyOf b).1, (dyOf b).2)
    decide (d.1 < 0)

/-- The larger of two FP32 values. -/
def fmax (a b : Word) : Word := if fltLt a b then b else a

/-- FP32 to BF16 (R67). -/
def toBF16 (w : Word) : Nat :=
  let r := rneShift w.toNat 16 % 2 ^ 16
  if r = 0x7F80 then 0x7F7F else if r = 0xFF80 then 0xFF7F else r

/-- The FP32 pattern of a BF16 value. -/
def ofBF16 (b : Nat) : Word := w32 (b % 65536 * 65536)

/-- A BF16 value is a NaN or an infinity. -/
def bf16Bad (b : Nat) : Bool := bits b 14 7 == 255

/-! ### E2 (R76, R77) -/

/-- The largest n below 2^(k+1), built bit by bit on `acc`, with n^64 ≤ bound. -/
def root64 (bound : Nat) : Nat → Nat → Nat
  | 0, acc => if (acc + 1) ^ 64 ≤ bound then acc + 1 else acc
  | k + 1, acc => root64 bound k (if (acc + 2 ^ (k + 1)) ^ 64 ≤ bound then acc + 2 ^ (k + 1) else acc)

/-- T[j] = 2^(j/64) rounded to FP32 (R77). -/
def tableT (j : Nat) : Word :=
  let n := root64 (2 ^ (64 * 24 + j)) 24 0
  w32 (127 * 2 ^ 23 + ((n + 1) / 2 - 2 ^ 23))

/-- The floor of a dyadic value. -/
def dyFloor (x : Dy) : Int := if x.2 ≥ 0 then x.1 * 2 ^ x.2.toNat else x.1 / 2 ^ (-x.2).toNat

/-- E2(x) (R76). -/
def fE2 (x : Word) : Word :=
  if x = negInf then 0
  else
    let d := dyOf x
    let lt := fun (n : Int) => decide ((dyAdd d (-n, 0)).1 < 0)
    if lt (-126) then 0
    else if !lt 128 then maxF
    else
      let i := dyFloor d
      let f := dyAdd d (-i, 0)
      let j := (dyFloor (f.1 * 64, f.2)).toNat
      let r := dyAdd f (-(j : Int), -6)
      let t1 := toFP32 (dyMul r (dyOf cC2))
      let t2 := fadd cC1 t1
      let t3 := toFP32 (dyMul r (dyOf t2))
      let t4 := fadd cONE t3
      let y := fmul (tableT j) t4
      toFP32 ((dyOf y).1, (dyOf y).2 + i)

/-! ### Quantising (R41, R80) -/

/-- Round a dyadic value to an integer, half to even. -/
def dyRound (x : Dy) : Int :=
  if x.2 ≥ 0 then x.1 * 2 ^ x.2.toNat
  else
    let n : Int := (rneShift x.1.natAbs (-x.2).toNat : Nat)
    if x.1 < 0 then -n else n

/-- floor(log2 |x|) of a non-zero dyadic value. -/
def dyLog2 (x : Dy) : Int := (Nat.log2 x.1.natAbs : Int) + x.2

/-- The greatest floor(log2 |x|) of a block; none when every value is zero. -/
def blockExp (xs : List Dy) : Option Int :=
  xs.foldl (fun acc x => if x.1 = 0 then acc else
    match acc with | none => some (dyLog2 x) | some a => some (max a (dyLog2 x))) none

/-- quantise_block (R41): the scale byte and the elements, for MXINT8 (`wide`) or MXI4. -/
def quantBlock (wide : Bool) (xs : List Dy) : Nat × List Int :=
  match blockExp xs with
  | none => (0, xs.map fun _ => 0)
  | some x0 =>
    let x := max x0 (-127)
    let top : Int := if wide then 127 else 7
    let lg : Int := if wide then 6 else 2
    ((x + 127).toNat, xs.map fun v => max (-top) (min top (dyRound (v.1, v.2 + lg - x))))

/-- Blocks of 32 of a list. -/
def chunks32 {α : Type} : Nat → List α → List (List α)
  | 0, _ => []
  | n + 1, l => l.take 32 :: chunks32 n (l.drop 32)

/-- A query row in MXINT8 (R68): for each block of 32 dimensions, its effective exponent and elements. -/
def quantRow (q : List Nat) : List (Int × List Int) :=
  (chunks32 (q.length / 32) q).map fun b =>
    let r := quantBlock true (b.map fun x => dyOf (ofBF16 x))
    ((r.1 : Int) - 133, r.2)

/-! ### Scores and masks (R70 to R75) -/

/-- Integer dot product of two blocks. -/
def dot (a b : List Int) : Int := ((a.zip b).map fun p => p.1 * p.2).sum

/-- score (R70): query blocks against key blocks, then SCALE, then LOG2E. -/
def score (scale : Word) (row key : List (Int × List Int)) : Word :=
  let acc := (row.zip key).foldl (fun a p => fadd a (toFP32 (dot p.1.2 p.2.2, p.1.1 + p.2.1))) 0
  fmul (fmul acc scale) cLOG2E

/-- The pattern admits key position t for a row at position p (Table 3-2a). -/
def admits (pt : Pattern) (p t : Nat) : Bool :=
  match pt.kind with
  | 0 => t ≤ p
  | 1 => true
  | _ => t ≤ p && (pt.window == 0 || p + 1 ≤ t + pt.window || t < pt.sinks || pt.globals.contains t)

/-- A stored token's key: its position, and for each K block the effective exponent and elements (R71). -/
structure KeyTok where
  pos : Nat
  k : List (Int × List Int)
  deriving DecidableEq, Repr

/-- A V block as a reader sees it: its stored tokens' keys by token index 0–31, and for each column the effective
exponent and the 32 elements (R81). -/
structure VBlk where
  keys : List (Nat × KeyTok)
  cols : List (Int × List Int)
  deriving DecidableEq, Repr

/-! ### Folding (R79, R80) -/

/-- The P list of a block: E2 of each visible score less m, +0 for the other tokens (R79). -/
def pList (m : Word) (scores : List (Nat × Word)) : List Word :=
  (List.range 32).map fun t =>
    match scores.find? fun e => e.1 == t with
    | some e => fE2 (fsub e.2 m)
    | none => 0

/-- Fold one V block into a row's state (R79). -/
def foldBlock (scale : Word) (pt : Pattern) (viewEnd pos : Nat) (row : List (Int × List Int)) (st : RowState) (b : VBlk) :
    RowState :=
  let vis := b.keys.filter fun e => e.2.pos < viewEnd && admits pt pos e.2.pos
  match vis with
  | [] => st
  | _ =>
    let sc := vis.map fun e => (e.1, score scale row e.2.k)
    let mb := sc.foldl (fun a e => fmax a e.2) negInf
    let o0 := if st.o.isEmpty then b.cols.map fun _ => (0 : Word) else st.o
    let st1 : RowState :=
      if st.m = negInf then { m := mb, l := st.l, o := o0 }
      else if fltLt 0x41000000 (fsub mb st.m) then
        let c := fE2 (fsub st.m mb)
        { m := mb, l := fmul st.l c, o := o0.map fun x => fmul x c }
      else { st with o := o0 }
    let qp := quantBlock true ((pList st1.m sc).map dyOf)
    let eP : Int := (qp.1 : Int) - 133
    { st1 with
      l := fadd st1.l (toFP32 (qp.2.sum, eP))
      o := (st1.o.zip b.cols).map fun e => fadd e.1 (toFP32 (dot qp.2 e.2.2, eP + e.2.1)) }

/-- The empty partial of a row with d columns (R86). -/
def emptyRow (d : Nat) : RowState := { m := negInf, l := 0, o := List.replicate d 0 }

/-- fold_run (R79): a run's V blocks in ascending order, from a fresh state. -/
def foldRun (scale : Word) (pt : Pattern) (viewEnd pos d : Nat) (row : List (Int × List Int)) (bs : List VBlk) : RowState :=
  bs.foldl (foldBlock scale pt viewEnd pos row) (emptyRow d)

/-! ### The merge tree (R84 to R90) -/

/-- merge of two partials, left first (R85). -/
def mergeRow (a b : RowState) : RowState :=
  if a.m = negInf ∧ b.m = negInf then { a with l := 0, o := a.o.map fun _ => 0 }
  else
    let m := fmax a.m b.m
    let ca := fE2 (fsub a.m m)
    let cb := fE2 (fsub b.m m)
    { m := m
      l := fadd (fmul a.l ca) (fmul b.l cb)
      o := (a.o.zip b.o).map fun p => fadd (fmul p.1 ca) (fmul p.2 cb) }

/-- merge of two pieces' rows. -/
def mergeRows (a b : List RowState) : List RowState := (a.zip b).map fun p => mergeRow p.1 p.2

/-- A finalised row (R90): EMPTY or OK, and its output elements. -/
def finalRow (r : RowState) : Nat × List Word :=
  if r.m = negInf then (0x02, r.o.map fun _ => 0) else (0x00, r.o.map fun x => fdiv x r.l)

/-- The first run of a tree node, and the run after its last (R84). -/
def Piece.lo (p : Piece) : Nat := p.index * 2 ^ p.level
/-- The run after a tree node's last. -/
def Piece.hi (p : Piece) : Nat := (p.index + 1) * 2 ^ p.level

/-- node_value (R87) of the pieces of one head; a subtree that holds no piece is empty (R86). -/
def nodeValue (empty : List RowState) (ps : List Piece) : Nat → Nat → List RowState
  | l, i =>
    match ps.find? fun p => p.level == l && p.index == i with
    | some p => p.rows
    | none =>
      match l with
      | 0 => empty
      | l' + 1 =>
        if ps.any fun p => i * 2 ^ (l' + 1) ≤ p.lo && p.lo < (i + 1) * 2 ^ (l' + 1) then
          mergeRows (nodeValue empty ps l' (2 * i)) (nodeValue empty ps l' (2 * i + 1))
        else empty

/-- Two pieces are siblings (R89). -/
def sibling (p q : Piece) : Bool := p.head == q.head && p.level == q.level && p.level < 17 && p.index / 2 == q.index / 2 && p.index != q.index

/-- Replace a piece and its sibling by their parent, repeatedly (R89 step 3): the new piece, the rest, and the merges
done. -/
def absorb : Nat → Piece → List Piece → Nat → Piece × List Piece × Nat
  | 0, p, ps, n => (p, ps, n)
  | fuel + 1, p, ps, n =>
    match ps.find? (sibling p) with
    | none => (p, ps, n)
    | some q =>
      let lr := if p.index < q.index then mergeRows p.rows q.rows else mergeRows q.rows p.rows
      absorb fuel { p with level := p.level + 1, index := p.index / 2, rows := lr, spilled := false }
        (ps.filter fun r => !(r.head == q.head && r.level == q.level && r.index == q.index)) (n + 1)

/-- What adding a piece did (R89): the pieces, duplicates dropped, nested pieces dropped, merges. -/
structure AddPiece where
  pieces : List Piece
  dup : Nat := 0
  nested : Nat := 0
  merges : Nat := 0
  deriving DecidableEq, Repr

/-- Add a piece to the canonical pieces of a collection (R89). -/
def addPiece (ps : List Piece) (p : Piece) : AddPiece :=
  let same := ps.any fun r => r.head == p.head && r.level == p.level && r.index == p.index
  let inside := ps.any fun r => r.head == p.head && r.lo ≤ p.lo && p.hi ≤ r.hi
  if same then { pieces := ps, dup := 1 }
  else if inside then { pieces := ps, nested := 1 }
  else
    let outer := ps.filter fun r => !(r.head == p.head && p.lo ≤ r.lo && r.hi ≤ p.hi)
    let r := absorb 18 p outer 0
    { pieces := r.2.1 ++ [r.1], nested := ps.length - outer.length, merges := r.2.2 }

/-- Runs covered by the pieces of a head. -/
def coveredRuns (ps : List Piece) (head : Nat) : Nat := ((ps.filter fun p => p.head == head).map fun p => p.hi - p.lo).sum

/-- A run is covered for a head. -/
def runCovered (ps : List Piece) (head run : Nat) : Bool := ps.any fun p => p.head == head && p.lo ≤ run && run < p.hi

end Sys2Proof.Machine
end

