-- ==== Sys2Proof/Config.lean ====
section
/-!
DEFINITION. What one implementation or one node fixes, and the values that the spec leaves open. Every opaque constant
here has no body: nothing can be proved about its values, so a claim about the model holds whatever they are.
-/
namespace Sys2Proof.Config

/-- A value the spec leaves open, drawn fresh at each use: the step gives its counter `State.free`. -/
opaque freeNat : Nat → Nat

/-- Output of the true random number generator (Table 1-2), drawn in the same way. -/
opaque trng : Nat → Nat

/-- Whether an access to a stack address meets the bank that a MEMORY BIST is testing at a time (R159): the spec gives
neither the order of the banks nor the addresses of a bank. -/
opaque bankUnderTest : Nat → Nat → Bool

/-- SM4-XTS over `n` bits under a page key and a tweak (R305 to R307): an invertible map whose values the spec takes
from a published standard. -/
opaque xts : Nat → Nat → (n : Nat) → Equiv.Perm (BitVec n)

/-- Byte i of the SM4-GCM key stream under a wire key and nonce (R217). -/
opaque gcmStream : Nat → Nat → Nat → Byte

/-- SM4-GCM tag of a key, nonce, additional data and ciphertext, as a 128-bit number (R217). -/
opaque gcmTag : Nat → Nat → Bytes → Bytes → Nat

/-- The wire key of an epoch count and direction under a master secret (R315). -/
opaque kdf : Nat → Nat → Nat → Nat

/-- The SM2 agreement (R314, R324): the shared key that the fields of a body give under an anchor, or none when the
agreement fails. -/
opaque sm2Agree : Bytes → Bytes → Option Nat

/-- The SM2 agreement fields that the node itself sends (R313), as one number. -/
opaque sm2Fields : Nat → Nat

/-- The plaintext of a wrapped page key (R307): tenant, generation and the two keys as one number; none when the decryption
or its C3 check fails. -/
opaque sm2Unwrap : Bytes → Option (Nat × Nat × Nat)

/-- Whether an SM2 signature over a message verifies under a public key (R403). -/
opaque sm2Verify : Bytes → Bytes → Bool

/-- An SM2 signature of the node over a message (R323), as one number. -/
opaque sm2Sign : Bytes → Nat

/-- The SM3 digest of a byte string, as one number. -/
opaque sm3 : Bytes → Nat

/-- The HMAC-SM3 tag of a session key and a message. -/
opaque hmac : Nat → Bytes → Nat

/-- The three certificates of the fuse bank (R322), as one number. -/
opaque certs : Nat

/-- The SM3 digest of the boot ROM (Table 11-11). -/
opaque romDigest : Nat

end Sys2Proof.Config
end

