-- ==== Sys2Proof/Machine/RegMap.lean ====
section
/-!
DEFINITION. The register map: which registers each block holds, their access codes bit by bit, their reset values and
staging boundaries (ch. 13, and the register section of each chapter).
-/
namespace Sys2Proof.Machine

/-- Staging boundaries (Table 13-3). -/
inductive Boundary where
  | packet | job | segment | tick
  deriving DecidableEq, Repr

/-- A base register, or an array of `cnt` words `stride` bytes apart: the bits of each access code (R11), the bits that
return 0 when read, the boundary of its WS bits and its reset value. -/
structure RegSpec where
  off : Nat
  cnt : Nat := 1
  stride : Nat := 4
  rw : Nat := 0
  ws : Nat := 0
  w1c : Nat := 0
  zero : Nat := 0
  bnd : Boundary := .tick
  rst : Nat := 0
  deriving DecidableEq, Repr

/-- Registers of the PORT block (ch. 10). -/
def portRegs : List RegSpec :=
  [{ off := 0x0 }, { off := 0x4, ws := 0x3FFF, rst := 0x1001 }, { off := 0x100, cnt := 8, ws := 0xFF, rst := 1 },
   { off := 0x120, ws := 0xFFFFFF, rst := 0x100140 }, { off := 0x200, rw := 0x7F3, zero := 2, rst := 0x10 },
   { off := 0x204, rst := 1 }, { off := 0x400, cnt := 64, rw := 0xFFFFFFFF, rst := 0xFF000001 },
   { off := 0x600, cnt := 128, ws := 0xFFFF, bnd := .packet }, { off := 0x800, cnt := 128, ws := 0xFFFF, bnd := .packet },
   { off := 0xA00, cnt := 64, ws := 0xFFFF, bnd := .packet, rst := 0x1086 }]

/-- Registers of the XPT block (ch. 08). -/
def xptRegs : List RegSpec :=
  [{ off := 0x0, ws := 0xFFFF, rst := 0x4C4D }, { off := 0x4, ws := 0xFFFFF, rst := 0x407D0 },
   { off := 0x8, ws := 0x3FFFFFFF, rst := 0x1F404010 }, { off := 0xC, ws := 0xFFFFFF, rst := 0x40640A },
   { off := 0x10, ws := 0xFFFFFFFF, rst := 0x10000 }, { off := 0x14, ws := 0xFFFFFFFF, rst := 0x40000 },
   { off := 0x18, ws := 0xFFF7FFFF, rst := 0x1011040 }, { off := 0x1C, ws := 0xFF, rst := 4 },
   { off := 0x20 }, { off := 0x24 }, { off := 0x28 }, { off := 0x2C },
   { off := 0x30, rw := 0xFFFFF000 }, { off := 0x34, rw := 0xFFFFFFFF }, { off := 0x40, rw := 0x3FFF },
   { off := 0x44, rw := 3, zero := 3 }, { off := 0x48, cnt := 5 }, { off := 0x5C, rw := 0xFFFFFFFF },
   { off := 0x60, cnt := 2 }, { off := 0x70, rw := 0x3FFF }, { off := 0x74 }]

/-- Registers of the DIR block (ch. 16). -/
def dirRegs : List RegSpec :=
  [{ off := 0x0, ws := 1, rst := 1 }, { off := 0x4, w1c := 6 }, { off := 0x8, rw := 3, zero := 3 },
   { off := 0xC, ws := 0xFFFF, rst := 0x1000 }, { off := 0x10, rw := 0xFFFF0007 }, { off := 0x14 }]

/-- Registers of the TKT block (ch. 06). -/
def tktRegs : List RegSpec :=
  [{ off := 0x0 }, { off := 0x4 }, { off := 0x8, ws := 0x7FFF7FFF, rst := 0x30003800 }]

/-- Registers of the PST block (ch. 06). -/
def pstRegs : List RegSpec :=
  [{ off := 0x0 }, { off := 0x4, ws := 0x1F, bnd := .segment, rst := 0x1F }, { off := 0x10, cnt := 4 },
   { off := 0x20, ws := 0x33F, rst := 0x120 }, { off := 0x24 }, { off := 0x100, cnt := 64, rw := 0x7F },
   { off := 0x200, rw := 0x7FFF }, { off := 0x204, rw := 0xFFFFFFFF }, { off := 0x208, rw := 0xFFFFFFFF },
   { off := 0x20C, rw := 3, zero := 3 }, { off := 0x300 }, { off := 0x310, cnt := 16 }]

/-- Registers of the PCD block (ch. 07). -/
def pcdRegs : List RegSpec :=
  [{ off := 0x0, ws := 3, bnd := .segment, rst := 3 }, { off := 0x4 }, { off := 0x8 },
   { off := 0x10, rw := 0xFFFF00FF }, { off := 0x14 }, { off := 0x100, cnt := 32 }]

/-- Registers of the CORE block (ch. 04). -/
def coreRegs : List RegSpec :=
  [{ off := 0x0, ws := 0xFF, bnd := .job, rst := 0xFF }, { off := 0x4 }, { off := 0x8 },
   { off := 0x10, ws := 0xFFFFFF, bnd := .job, rst := 0x10008 }, { off := 0x14, rw := 1, rst := 1 },
   { off := 0x20, ws := 0xFFFFFFFF, rst := 0x2F0001F4 }, { off := 0x24 }]

/-- Registers of the DOVE block (ch. 04). -/
def doveRegs : List RegSpec := [{ off := 0x0 }, { off := 0x4 }, { off := 0x8, ws := 0x1FFF, rst := 0xE00 }]

/-- Registers of the BSC block (ch. 05). -/
def bscRegs : List RegSpec :=
  [{ off := 0x0, rw := 0xFF01FF, rst := 0x400100 }, { off := 0x4, rw := 0xFFFF }, { off := 0x8, rw := 0xFFFF },
   { off := 0xC, w1c := 1 }, { off := 0x10, cnt := 4, rw := 0xFFFFFFFF }, { off := 0x20, cnt := 6 },
   { off := 0x40, rw := 0xFFFF00FF }, { off := 0x44 }]

/-- Registers of the GLB block (ch. 13). -/
def glbRegs : List RegSpec :=
  [{ off := 0x0, rst := 0x01011600 }, { off := 0x4 }, { off := 0x8, cnt := 2 }, { off := 0x10, rw := 0xFFFFFFFF },
   { off := 0x20, cnt := 2 }]

/-- Registers of the PWR block (ch. 14). -/
def pwrRegs : List RegSpec :=
  [{ off := 0x0, ws := 3 }, { off := 0x4, ws := 0xFF }, { off := 0x8 }, { off := 0xC, ws := 0xFF }, { off := 0x10 },
   { off := 0x20, w1c := 0x40000000 }, { off := 0x100, cnt := 33 }]

/-- Registers of the BOOT block (ch. 15). -/
def bootRegs : List RegSpec := [{ off := 0x0, cnt := 6 }]

/-- Registers of the SEC block (ch. 11). -/
def secRegs : List RegSpec :=
  [{ off := 0x0 }, { off := 0x4 }, { off := 0x10, ws := 0x3F, rst := 0x20 }, { off := 0x100, cnt := 256 },
   { off := 0x800, cnt := 256 }]

/-- Registers of the NRG block (ch. 14). -/
def nrgRegs : List RegSpec :=
  [{ off := 0x0, ws := 0x1F01, rst := 0x401 }, { off := 0x4, rst := 0x4001 }, { off := 0x8, rst := 0x3D40578 },
   { off := 0xC }, { off := 0x100, ws := 0xFFFFFFFF, rst := 17600 }, { off := 0x104, ws := 0xFFFFFFFF, rst := 3900 },
   { off := 0x108, ws := 0xFFFFFFFF, rst := 470 }, { off := 0x10C, ws := 0xFFFFFFFF, rst := 300 },
   { off := 0x110, ws := 0xFFFFFFFF, rst := 40000 }, { off := 0x114, ws := 0xFFFFFFFF, rst := 50000000 },
   { off := 0x118, ws := 0xFFFFFFFF, rst := 5000000 }, { off := 0x11C }, { off := 0x200, cnt := 16 }]

/-- Registers of the EVT, HQ, FMODE, FINJ and SNAP blocks (ch. 12, 13, 10). -/
def evtRegs : List RegSpec := [{ off := 0x0 }]
/-- HQ block (ch. 12). -/
def hqRegs : List RegSpec := [{ off := 0x0 }, { off := 0x4, ws := 0xFFFF, rst := 0x7D0 }]
/-- FMODE block (ch. 13). -/
def fmodeRegs : List RegSpec := [{ off := 0x0, ws := 0x7FF }, { off := 0x4, w1c := 0x7FF }, { off := 0x8 }]
/-- FINJ block (ch. 10). -/
def finjRegs : List RegSpec :=
  [{ off := 0x0, cnt := 2 }, { off := 0x100, cnt := 5 }, { off := 0x120, cnt := 5 }, { off := 0x140, cnt := 5 },
   { off := 0x160, cnt := 5 }]
/-- SNAP block (ch. 13). -/
def snapRegs : List RegSpec := [{ off := 0x0, rw := 0xFFFFFF0F }, { off := 0x4, cnt := 2 }, { off := 0x10, cnt := 2 }]

/-- Block codes (Table 13-4). -/
def bGLB := 0x01
def bPWR := 0x02
def bBOOT := 0x03
def bSEC := 0x04
def bNRG := 0x05
def bEVT := 0x06
def bHQ := 0x07
def bFMODE := 0x08
def bFINJ := 0x09
def bSNAP := 0x0A
def bPORT := 0x10
def bXPT := 0x11
def bDIR := 0x12
def bTKT := 0x13
def bPST := 0x14
def bPCD := 0x15
def bCORE := 0x16
def bDOVE := 0x17
def bBSC := 0x18

/-- The base registers of a block by its code. -/
def blockRegs (code : Nat) : List RegSpec :=
  match code with
  | 0x01 => glbRegs | 0x02 => pwrRegs | 0x03 => bootRegs | 0x04 => secRegs | 0x05 => nrgRegs | 0x06 => evtRegs
  | 0x07 => hqRegs | 0x08 => fmodeRegs | 0x09 => finjRegs | 0x0A => snapRegs | 0x10 => portRegs | 0x11 => xptRegs
  | 0x12 => dirRegs | 0x13 => tktRegs | 0x14 => pstRegs | 0x15 => pcdRegs | 0x16 => coreRegs | 0x17 => doveRegs
  | 0x18 => bscRegs | _ => []

/-- The common registers of every block (Table 13-2). -/
def commonRegs : List RegSpec :=
  [{ off := 0xFE0 }, { off := 0xFE4 }, { off := 0xFF0 }, { off := 0xFF4, rw := 0xFFC }, { off := 0xFF8 }]

/-- The spec of the base or common register at an offset of a block. -/
def regAt (code off : Nat) : Option RegSpec :=
  (blockRegs code ++ commonRegs).find? fun r => r.off ≤ off && off < r.off + r.cnt * r.stride && (off - r.off) % r.stride == 0

/-- Whether a code names a block (Table 13-4). -/
def isBlockCode (code : Nat) : Bool := (1 ≤ code && code ≤ 0x0A) || (0x10 ≤ code && code ≤ 0x18)

/-- PF BAR0 address of a block (Tables 13-5, 13-6). -/
def blockBase (code q : Nat) : Nat :=
  if code < 0x10 then (code - 1) * 0x10000 else 0x100000 + q * 0x100000 + (code - 0x10) * 0x10000

/-- The block that a PF BAR0 address lies in: code, Quarter and offset (Tables 13-5, 13-6). -/
def blockOf (a : Nat) : Option (Nat × Nat × Nat) :=
  if a < 0xA0000 then some (a / 0x10000 + 1, 0, a % 0x10000)
  else if 0x100000 ≤ a ∧ a < 0x500000 then
    let w := (a - 0x100000) % 0x100000
    if w / 0x10000 < 9 then some (0x10 + w / 0x10000, (a - 0x100000) / 0x100000, w % 0x10000) else none
  else none

/-- The statistics counters of a block: first offset, how many units, bytes between units, counters in a unit (counter
tables of each chapter). -/
def counterRanges (code : Nat) : List (Nat × Nat × Nat × Nat) :=
  match code with
  | 0x01 => [(0x4000, 1, 0, 9)] | 0x02 => [(0x4000, 1, 0, 8)] | 0x03 => [(0x4000, 1, 0, 5)] | 0x04 => [(0x4000, 1, 0, 10)]
  | 0x05 => [(0x4000, 1, 0, 5)] | 0x06 => [(0x4000, 1, 0, 8)] | 0x07 => [(0x4000, 1, 0, 10)]
  | 0x09 => [(0x4000, 4, 0x40, 5)] | 0x10 => [(0x4000, 1, 0, 16), (0x5000, 1, 0, 64)] | 0x11 => [(0x4000, 1, 0, 20)]
  | 0x12 => [(0x4000, 1, 0, 11)] | 0x13 => [(0x4000, 1, 0, 8)] | 0x14 => [(0x4000, 1, 0, 12)] | 0x15 => [(0x4000, 1, 0, 12)]
  | 0x16 => [(0x4000, 9, 0x40, 8)] | 0x17 => [(0x4000, 1, 0, 8)] | 0x18 => [(0x4000, 2, 0x40, 8)] | _ => []

/-- Offsets of word +0 of every counter of a block. -/
def counterOffs (code : Nat) : List Nat :=
  (counterRanges code).flatMap fun (o, u, st, n) =>
    (List.range u).flatMap fun k => (List.range n).map fun i => o + k * st + i * 8

/-- Whether an offset is a word of a statistics counter of the block. -/
def isCounterOff (code off : Nat) : Bool :=
  (counterRanges code).any fun (o, u, st, n) =>
    o ≤ off && (if st = 0 then off < o + n * 8 else off < o + u * st && (off - o) % st < n * 8)

/-- Whether an offset is a word of a metering accumulator (BOOT_METER). -/
def isMeterOff (code off : Nat) : Bool := code == 0x03 && 0x5000 ≤ off && off < 0x6000

/-- BLK_ID of a block (Table 13-10). -/
def blkId (code q : Nat) : Nat := code + (if code < 0x10 then 0 else q * 256 + 1024)

/-- Reset value of the word at an offset of a block. -/
def regReset (code q off : Nat) : Nat :=
  if off = 0xFE0 then blkId code q else match regAt code off with | some r => r.rst | none => 0

/-- Codes of the blocks in each Quarter window, and of the Square's blocks. -/
def quarterCodes : List Nat := [0x10, 0x11, 0x12, 0x13, 0x14, 0x15, 0x16, 0x17, 0x18]
/-- Codes of the Square's blocks (Table 13-5). -/
def squareCodes : List Nat := [1, 2, 3, 4, 5, 6, 7, 8, 9, 10]

/-- Every block of the node: code and Quarter. -/
def allBlocks : List (Nat × Nat) :=
  (squareCodes.map fun c => (c, 0)) ++ ([0, 1, 2, 3].flatMap fun q => quarterCodes.map fun c => (c, q))

end Sys2Proof.Machine
end

