-- ==== Sys2Proof/Machine/Ops.lean ====
section
/-!
DEFINITION. The named operations that every meaning is written over: reading and changing a unit of the node, counters,
events, completions, messages handed to a connection, and the answer to an operation.
-/
namespace Sys2Proof.Machine

/-! ### Reading and changing units -/

/-- Quarter q. -/
def State.qtr (s : State) (q : Nat) : Quarter := s.quarters.fetch q {}

/-- Change Quarter q. -/
def State.updQ (s : State) (q : Nat) (f : Quarter → Quarter) : State :=
  { s with quarters := s.quarters.amend q {} f }

/-- Function f. -/
def State.fn (s : State) (f : Nat) : Fn := s.host.fns.fetch f {}

/-- Change function f. -/
def State.updFn (s : State) (f : Nat) (g : Fn → Fn) : State :=
  { s with host := { s.host with fns := s.host.fns.amend f {} g } }

/-- Stack Sn. -/
def State.stack (s : State) (n : Nat) : Stack := s.stk.fetch n {}

/-- Change stack Sn. -/
def State.updStack (s : State) (n : Nat) (f : Stack → Stack) : State := { s with stk := s.stk.amend n {} f }

/-- Tenant t. -/
def State.tenant (s : State) (t : Nat) : Tenant := s.sec.tenants.fetch t {}

/-- Change tenant t. -/
def State.updTenant (s : State) (t : Nat) (f : Tenant → Tenant) : State :=
  { s with sec := { s.sec with tenants := s.sec.tenants.amend t {} f } }

/-- Connection with index i: Quarter i div 16,384 owns it (R220). -/
def State.conn (s : State) (i : Nat) : Conn := (s.qtr (i / 16384)).xpt.conns.fetch (i % 16384) {}

/-- Change connection i. -/
def State.updConn (s : State) (i : Nat) (f : Conn → Conn) : State :=
  s.updQ (i / 16384) fun Q => { Q with xpt := { Q.xpt with conns := Q.xpt.conns.amend (i % 16384) {} f } }

/-- Change the page store of Quarter q. -/
def State.updStore (s : State) (q : Nat) (f : Store → Store) : State :=
  s.updQ q fun Q => { Q with store := f Q.store }

/-- Change the directory slice of Quarter q. -/
def State.updDir (s : State) (q : Nat) (f : Dir → Dir) : State := s.updQ q fun Q => { Q with dir := f Q.dir }

/-- Change the transport of Quarter q. -/
def State.updXpt (s : State) (q : Nat) (f : Xpt → Xpt) : State := s.updQ q fun Q => { Q with xpt := f Q.xpt }

/-- Change the cores and dispatcher of Quarter q. -/
def State.updCore (s : State) (q : Nat) (f : CoreIsland → CoreIsland) : State :=
  s.updQ q fun Q => { Q with core := f Q.core }

/-- Change the port of Quarter q. -/
def State.updPort (s : State) (q : Nat) (f : Port → Port) : State := s.updQ q fun Q => { Q with port := f Q.port }

/-- Change the tickets of Quarter q. -/
def State.updTk (s : State) (q : Nat) (f : TkPool → TkPool) : State := s.updQ q fun Q => { Q with tk := f Q.tk }

/-- Change Dovetail of Quarter q. -/
def State.updDove (s : State) (q : Nat) (f : Dove → Dove) : State := s.updQ q fun Q => { Q with dove := f Q.dove }

/-- Change the coding block of Quarter q. -/
def State.updPcd (s : State) (q : Nat) (f : Pcd → Pcd) : State := s.updQ q fun Q => { Q with pcd := f Q.pcd }

/-- Change the bank-scorer block of Quarter q. -/
def State.updBsc (s : State) (q : Nat) (f : Bsc → Bsc) : State := s.updQ q fun Q => { Q with bsc := f Q.bsc }

/-- Change the scoring stack with local index ls (2 or 3) of Quarter q. -/
def State.updBank (s : State) (q ls : Nat) (f : BscStack → BscStack) : State :=
  s.updBsc q fun b => { b with stk := b.stk.amend ls {} f }

/-- Scoring stack with local index ls of Quarter q. -/
def State.bank (s : State) (q ls : Nat) : BscStack := (s.qtr q).bsc.stk.fetch ls {}

/-- Move the local time counter forward to t; it never runs back (R21). -/
def State.advance (s : State) (t : Nat) : State := { s with time := max s.time t }

/-- Draw a value that the spec leaves open, and count the draw. -/
def State.drawFree (s : State) : Nat × State := (Config.freeNat s.free, { s with free := s.free + 1 })

/-- Draw a value from the true random number generator. -/
def State.drawTrng (s : State) : Nat × State := (Config.trng s.free, { s with free := s.free + 1 })

/-- A fresh identifier for a job, hold or load: the model's own numbering, never shown. -/
def State.fresh (s : State) : Nat × State := (s.nextId, { s with nextId := s.nextId + 1 })

/-! ### Keys (R48, R218) -/

/-- Tenant of a 72-bit directory key (Table 2-8). -/
def keyTenant (k : Nat) : Nat := bits k 71 66

/-- KEY of a request body (Table 9-1). -/
def bodyKey (b : Bytes) : Nat := fieldAt b 8 9

/-- Opcodes whose message has a steering key in its header (R246). -/
def hasKey (op : Nat) : Bool :=
  op == 0x10 || op == 0x11 || op == 0x14 || op == 0x15 || op == 0x17 || op == 0x18 || op == 0x19

/-- XOR-fold of the nine key bytes (R218). -/
def foldKey (k : Nat) : Nat := (xorBytes (leBytes 9 k)).toNat

/-- Home Quarter of a directory key (R218). -/
def homeQ (k : Nat) : Nat :=
  let h := foldKey k
  ((bits h 1 0 ^^^ bits h 3 2) ^^^ bits h 5 4) ^^^ bits h 7 6

/-! ### Status codes (Table 9-12) -/

def sOK := 0x00
def sPARTIAL := 0x01
def sEMPTY := 0x02
def sDUPLICATE := 0x03
def sSTALE := 0x10
def sGAP := 0x11
def sCONFLICT := 0x12
def sWINDOW := 0x13
def sSEALED := 0x14
def sNOMAP := 0x15
def sCTXBUSY := 0x20
def sWILLMISS := 0x21
def sDEADLINE := 0x22
def sPOLICED := 0x23
def sCONNERR := 0x24
def sGONE := 0x30
def sKEYEPOCH := 0x31
def sAUTH := 0x32
def sPERM := 0x33
def sQUOTA := 0x34
def sDECLEN := 0x40
def sDECCODE := 0x41
def sCRC := 0x42
def sECC := 0x43
def sDENIED := 0x50
def sDOMOFF := 0x51
def sTABLEBUSY := 0x52
def sNOTREADY := 0x53
def sMBXTIMEOUT := 0x54
def sDIRFULL := 0x55
def sSTOREFULL := 0x56
def sPINFULL := 0x57
def sXLATE := 0x58
def sTICKETFULL := 0x59
def sCONNFULL := 0x5A
def sORPHANED := 0x60
def sABORTED := 0x61
def sBAD := 0xF0
def sNOSHAPE := 0xF1

/-! ### Registers in effect -/

/-- The value in effect of the RW and WS register word at an offset of a block (R11). -/
def State.reg (s : State) (code q off : Nat) : Nat :=
  (s.regs.val.fetch (blockBase code q + off) (w32 (regReset code q off))).toNat

/-- Set the value in effect of a register word. -/
def State.setReg (s : State) (code q off v : Nat) : State :=
  { s with regs := { s.regs with val := s.regs.val.put (blockBase code q + off) (w32 v) } }

/-- A function index is in host-assisted form (R375). -/
def State.assisted (s : State) (i : Nat) : Bool := bit (s.reg bFMODE 0 0) i

/-! ### Counters (R366) -/

/-- Top value of a statistics counter. -/
def ctrTop : Nat := 2 ^ 48 - 1

/-- One counter after `k` increments, and whether they brought it to its top value. -/
def Counter.add (c : Counter) (k : Nat) : Counter × Bool :=
  if c.n + k ≥ ctrTop ∧ c.n < ctrTop then ({ n := ctrTop, ovf := true }, true)
  else if c.n ≥ ctrTop then (c, false) else ({ c with n := c.n + k }, false)

/-- The counter at a BAR0 address. -/
def State.counter (s : State) (a : Nat) : Counter := s.regs.cnt.fetch a {}

/-- Set the counter at an address. -/
def State.setCounter (s : State) (a : Nat) (c : Counter) : State :=
  { s with regs := { s.regs with cnt := s.regs.cnt.put a c } }

/-- Add to a counter without the event of its saturation. -/
def State.bumpRaw (s : State) (a k : Nat) : State := s.setCounter a ((s.counter a).add k).1

/-! ### Rings, interrupts and events (R334 to R337, R345, R346) -/

/-- Free places of a ring (R334). -/
def Ring.free (r : Ring) : Nat := r.size - r.items.length

/-- Whether writing one more entry sends an interrupt (R337). -/
def Ring.fires (r : Ring) : Bool := r.coalN == 0 || r.items.length + 1 == r.coalN

/-- Write one entry at the tail (R334): the phase inverts at each wrap. -/
def Ring.push (r : Ring) (item : Bool → RingItem) (now : Nat) : Ring :=
  { r with
    items := r.items ++ [item r.phase]
    tail := (r.tail + 1) % r.size
    phase := if r.tail + 1 = r.size then !r.phase else r.phase
    firstAt := if r.items.isEmpty then some now else r.firstAt }

/-- Count an interrupt on a vector. -/
def Fn.irq (f : Fn) (v : Nat) : Fn := { f with irqs := f.irqs.amend v 0 (· + 1) }

/-- Write an entry on ring `qid` of a function, with its interrupt. -/
def Fn.ringPush (f : Fn) (qid : Nat) (item : Bool → RingItem) (now : Nat) : Fn :=
  match f.rings.look qid with
  | none => f
  | some r =>
    let f := { f with rings := f.rings.put qid (r.push item now) }
    if r.fires then f.irq r.vector else f

/-- Set a DB_OUT bit, with the interrupt on vector 0 unless it is masked (R352). -/
def Fn.ringOut (f : Fn) (b : Nat) : Fn :=
  let f' := { f with dbOut := f.dbOut ||| w32 (2 ^ b) }
  if bit f.dbOutMask.toNat b then f' else f'.irq 0

/-- The queue ID of a function's event queue, if it has one. -/
def Fn.eq (f : Fn) : Option Nat := (f.rings.find? fun e => (f.rings.look e.1).any fun r => r.kind == 2).map (·.1)

/-- Counter address in the EVT block. -/
def evtCnt (n : Nat) : Nat := blockBase bEVT 0 + 0x4000 + n * 8

/-- Write the OVERFLOW event when events were lost and two places are free (R336). -/
def State.flushLost (s : State) (f : Nat) : State :=
  let F := s.fn f
  match F.eq with
  | none => s
  | some qid =>
    match F.rings.look qid with
    | none => s
    | some r =>
      if F.lost > 0 ∧ r.free ≥ 2 then
        let e : Ev := { type := 0x10, p0 := sat F.lost (2 ^ 32 - 1), time := s.time }
        let s := s.updFn f fun F => { ((F.ringPush qid (fun p => .evt p e) s.time).ringOut 2) with lost := 0 }
        (s.bumpRaw (evtCnt 2) 1).bumpRaw (evtCnt 0) 1
      else s

/-- Post an event to one function, without the saturation of the event counters (R336). -/
def State.postRaw (s : State) (f : Nat) (e : Ev) : State :=
  let s := s.flushLost f
  let F := s.fn f
  let drop := (s.updFn f fun F => { F with lost := F.lost + 1 }).bumpRaw (evtCnt 1) 1
  match F.eq with
  | none => drop
  | some qid =>
    match F.rings.look qid with
    | none => drop
    | some r =>
      if r.free = 0 ∨ F.lost > 0 then drop
      else
        (s.updFn f fun F => F.ringPush qid (fun p => .evt p { e with time := s.time }) s.time).bumpRaw (evtCnt 0) 1

/-- The COUNTER event of a counter that has saturated (R366). -/
def counterEv (code q off : Nat) : Ev := { type := 0x09, p0 := off + blkId code q * 65536, p1 := 0 }

/-- Post an event, with the COUNTER event when posting brought the posted or lost count to its top value (R366). -/
def State.post (s : State) (f : Nat) (e : Ev) : State :=
  let s' := s.postRaw f e
  let hit := fun n => (s.counter (evtCnt n)).n < ctrTop && (s'.counter (evtCnt n)).n == ctrTop
  let s' := if hit 0 then s'.postRaw 0 (counterEv bEVT 0 0x4000) else s'
  if hit 1 then s'.postRaw 0 (counterEv bEVT 0 0x4008) else s'

/-- Add `k` to counter at offset `off` of a block: it saturates with OVF, a COUNTER event and its own count (R366). -/
def State.bumpOff (s : State) (code q off k : Nat) : State :=
  let a := blockBase code q + off
  let r := (s.counter a).add k
  let s := s.setCounter a r.1
  if r.2 then (s.post 0 (counterEv code q off)).bumpRaw (blockBase bGLB 0 + 0x4000 + 7 * 8) 1 else s

/-- Add to a quantity that a tenant has used in this tick (R418). -/
def State.meter (s : State) (t m k : Nat) : State := { s with tickMeter := s.tickMeter.amend (8 * t + m) 0 (· + k) }

/-- Count `k` on counter n of a block. -/
def State.count (s : State) (code q n : Nat) (k : Nat := 1) : State := s.bumpOff code q (0x4000 + n * 8) k

/-- Count `k` on counter n of unit u of a block whose units lie 0x40 apart. -/
def State.countU (s : State) (code q u n : Nat) (k : Nat := 1) : State := s.bumpOff code q (0x4000 + u * 0x40 + n * 8) k

/-- Post an event that concerns a tenant to a function: in confidential operation only the tenant's own function gets
it (R346). -/
def State.postFor (s : State) (tenant f : Nat) (e : Ev) : State :=
  if s.sec.conf ∧ tenant ≠ 0 then s.post tenant e else s.post f e

/-- Post a TENANT event: to F0, and in confidential operation to the tenant's function as well (R346). -/
def State.postTenant (s : State) (tenant : Nat) (e : Ev) : State :=
  let s := s.post 0 e
  if s.sec.conf ∧ tenant ≠ 0 then s.post tenant e else s

/-- A FAULT event to F0 (R422). -/
def State.postFault (s : State) (cause unit p1 p2 q : Nat) : State :=
  s.post 0 { type := 0x0C, quarter := q, p0 := cause + unit * 256, p1 := p1, p2 := p2 }

/-- A POWER event to F0 (ch. 14). -/
def State.postPower (s : State) (cause unit new old : Nat) : State :=
  s.post 0 { type := 0x0D, p0 := cause + unit * 256, p1 := new, p2 := old }

/-! ### Completions (R336, R341) -/

/-- Whether a completion for this command is still wanted: its function's queues have not been reset since the fetch
(R353). -/
def State.wanted (s : State) (h : HostCmd) : Bool :=
  h.epoch == (s.fn h.fn).epoch + (if h.sq = 0 then (s.fn h.fn).admEpoch else 0)

/-- Events of a command are still wanted: its function has not been reset since the fetch (R353); a reset of the administrative pair
discards completions only. -/
def State.heard (s : State) (h : HostCmd) : Bool := decide ((s.fn h.fn).epoch ≤ h.epoch)

/-- Host memory of a function. -/
def State.hostMem (s : State) (f : Nat) : Mem := s.host.mem.fetch f []

/-- Write bytes into the bus address space of a function. -/
def State.hostWrite (s : State) (f a : Nat) (b : Bytes) : State :=
  { s with host := { s.host with mem := s.host.mem.amend f [] fun m => Mem.write m a b } }

/-- How many of the n result bytes at the result address are written before the address at which writing fails. -/
def okBytes (h : HostCmd) (n : Nat) : Nat :=
  match h.resultFault with
  | none => n
  | some a => if h.resultAddr ≤ a ∧ a < h.resultAddr + n then a - h.resultAddr else n

/-- Write the result of a command: from byte 0, stopping at RESULT_LEN or at a write fault (R341). -/
def State.writeResult (s : State) (h : HostCmd) (result : Bytes) : State × Bool :=
  let n := min result.length h.resultLen
  let k := okBytes h n
  let s := s.hostWrite h.fn h.resultAddr (result.take k)
  if k < n then
    (s.post h.fn { type := 0x0F, p0 := h.sq + 2 * 2048, p1 := h.resultAddr + k, p2 := h.cid }, true)
  else (s, false)

/-- Write a completion into its CQ, or let it wait while the CQ is full (R336). -/
def State.placeCpl (s : State) (f sq : Nat) (c : Cpl) : State :=
  let F := s.fn f
  match F.sqs.look sq with
  | none => s
  | some S =>
    match F.rings.look S.cq with
    | none => s
    | some r =>
      if r.waiting.isEmpty ∧ r.free > 0 then
        let s := s.updFn f fun F =>
          let F := F.ringPush S.cq (fun p => .cpl p c) s.time
          { F with sqs := F.sqs.put sq { S with live := S.live - 1 } }
        s.count bHQ 0 1
      else s.updFn f fun F => { F with rings := F.rings.put S.cq { r with waiting := r.waiting ++ [c] } }

/-- Complete a command without looking for queue deletions that this lets end. -/
def State.completeCore (s : State) (h : HostCmd) (status detail : Nat) (result : Bytes) : State :=
  if s.wanted h then
    let w := s.writeResult h result
    let trunc := result.length > h.resultLen
    let s := if trunc then w.1.count bHQ 0 3 else w.1
    let s := if w.2 then s.count bHQ 0 4 else s
    s.placeCpl h.fn h.sq
      { cid := h.cid, sq := h.sq, sqHead := h.head, status := status, detail := detail, bytes := result.length,
        trunc := trunc, resultFault := w.2 }
  else if h.sq = 0 ∧ (s.fn h.fn).admStop then s.updFn h.fn fun F => { F with admStop := false, admRdy := false }
  else s

/-- Every fetched entry of a deleted SQ has completed, the deleting commands themselves aside (R338). -/
def Sq.drained (S : Sq) (qid : Nat) : Bool := S.live ≤ (S.deleting.filter fun h => h.sq == qid).length

/-- End the deletions of SQs whose fetched entries have all completed (R338): each deleting command completes, then the
SQ is gone. -/
def State.endDeletes : Nat → State → Nat → State
  | 0, s, _ => s
  | fuel + 1, s, f =>
    match (s.fn f).sqs.find? (fun e => !e.2.deleting.isEmpty && e.2.drained e.1) with
    | none => s
    | some (qid, S) =>
      let s := s.updFn f fun F => { F with sqs := F.sqs.put qid { S with deleting := [] } }
      let s := S.deleting.foldl (fun s h => s.completeCore h sOK 0 []) s
      State.endDeletes fuel (s.updFn f fun F => { F with sqs := F.sqs.del qid }) f

/-- Complete a command with a status, DETAIL and result (R341). -/
def State.complete (s : State) (h : HostCmd) (status : Nat) (detail : Nat := 0) (result : Bytes := []) : State :=
  let s := s.completeCore h status detail result
  State.endDeletes ((s.fn h.fn).sqs.length + 1) s h.fn

/-! ### Messages and answers (R225, R248) -/

/-- A unit that acts when its message fails. -/
def MsgOwner.acts (o : MsgOwner) : Bool :=
  match o with | .none => false | .response => false | .conn _ _ _ => true | .forward _ _ => true | .child _ _ => true | .reseat _ => true

/-- Hand a message to a connection. In OPENING or OPEN it is queued; in CLOSING it is queued while the connection has
not sent its own CLOSE; otherwise it completes at once with CONN_ERROR at its sending unit (R225, R245, R278). -/
def State.hand (s : State) (i : Nat) (m : OutMsg) : State :=
  let c := s.conn i
  let ok := match c.state with
    | .opening => true | .opened => true | .closing => !c.closeSent | .free => false | .error => false
  if ok then s.updConn i fun c => { c with queue := c.queue ++ [m], lastActive := s.time }
  else if m.owner.acts then { s with unitErrs := s.unitErrs ++ [(m.owner, sCONNERR)] } else s

/-- What an operation answers: the fields of the response header (Table 9-2) and what follows it. -/
structure Ans where
  tag : Nat := 0
  status : Nat
  opcode : Nat := 0
  gen : Nat := 0
  st : Nat := 0
  entry : Bool := false
  copies : Nat := 0
  detail : Nat := 0
  covered : Nat := 0
  data : Bytes := []
  deriving DecidableEq, Repr

/-- The response header and what follows it, as bytes (Table 9-2). -/
def Ans.bytes (a : Ans) : Bytes :=
  leBytes 8 a.tag ++ leBytes 1 a.status ++ leBytes 1 a.opcode ++ leBytes 2 a.gen ++
  leBytes 1 (a.st + 8 * b2n a.entry) ++ leBytes 1 a.copies ++ leBytes 2 0 ++ leBytes 4 a.detail ++
  leBytes 4 a.covered ++ leBytes 8 0 ++ a.data

/-- HINT_Q of an answer on connection i for work done in Quarter q (R219). -/
def hintOf (i q : Nat) : Option Nat := if i / 16384 = q then none else some q

/-- Answer an operation to where it came from: a RESPONSE on its connection, or a completion whose result is the
response (R248, R342). `op` is 0x1A for a RESPONSE and 0x16 for a PARTIAL. -/
def State.answerOp (s : State) (o : Origin) (q : Nat) (a : Ans) (op : Nat) : State :=
  match o with
  | .wire i => s.hand i { opcode := op, body := a.bytes, owner := .response, hint := hintOf i q }
  | .host h => s.complete h a.status a.detail a.bytes

/-- Answer an operation with a RESPONSE or a completion. -/
def State.answer (s : State) (o : Origin) (q : Nat) (a : Ans) : State := s.answerOp o q a 0x1A

/-- Take the accepted message or submission that this operation carries out, if there is one: its arrival is the
request's arrival (R22). An operation with no accepted message arrives now. -/
def Inbound.matches (o : Origin) (op : Nat) (body : Bytes) (e : Inbound) : Bool :=
  e.opcode == op && e.body == body &&
    (match o, e.origin with
     | .wire i, .wire j => i == j
     | .host h, .host k => h.fn == k.fn && h.sq == k.sq && h.cid == k.cid && h.epoch == k.epoch
     | _, _ => false)

/-- Remove the first element that satisfies a test. -/
def dropFirst {α : Type} (p : α → Bool) : List α → List α
  | [] => []
  | a :: t => if p a then t else a :: dropFirst p t

/-- The arrival of an operation, and the state without its accepted message. -/
def State.take (s : State) (o : Origin) (op : Nat) (body : Bytes) : Nat × State :=
  match s.inbox.find? (Inbound.matches o op body) with
  | none => (s.time, s)
  | some e => (e.arrival, { s with inbox := dropFirst (Inbound.matches o op body) s.inbox })

/-- Post a NOTICE of a request: a NOTICE message on its connection, or a NOTICE event to its function (R249, R342). -/
def State.noticeTo (s : State) (o : Origin) (tag kind value : Nat) : State :=
  match o with
  | .wire i =>
    s.hand i { opcode := 0x1B, body := leBytes 8 tag ++ leBytes 1 kind ++ leBytes 3 value ++ leBytes 4 0 }
  | .host h => if s.heard h then s.post h.fn { type := 0x03, p0 := kind + value * 256, p1 := tag } else s

end Sys2Proof.Machine
end

