-- ==== Sys2Proof/Machine/Pages.lean ====
section
/-!
DEFINITION. Pages (ch. 02, 06, 07, 11): the sizes a shape gives, the places of elements and scales in a slot, accesses to a
stack and to spilled frames, and reading or writing a page slot through encryption and coding.
-/
namespace Sys2Proof.Machine

/-! ### Sizes (Tables 2-1, 2-4, 2-5) -/

/-- Head dimension of a DIM code (Table 2-1). -/
def dimOf (c : Nat) : Nat :=
  match c with | 0 => 64 | 1 => 96 | 2 => 128 | 3 => 192 | _ => 256

/-- Head dimension d. -/
def Shape.d (sh : Shape) : Nat := dimOf sh.dim
/-- K is MXINT8 (R36). -/
def Shape.k8 (sh : Shape) : Bool := sh.fmt == 0
/-- V is MXINT8 (R36). -/
def Shape.v8 (sh : Shape) : Bool := sh.fmt != 2
/-- K element bytes per token. -/
def Shape.aK (sh : Shape) : Nat := if sh.k8 then sh.d else sh.d / 2
/-- V element bytes per token. -/
def Shape.aV (sh : Shape) : Nat := if sh.v8 then sh.d else sh.d / 2
/-- Bytes of the K element region. -/
def Shape.kb (sh : Shape) : Nat := 64 * sh.aK
/-- Bytes of the V element region. -/
def Shape.vb (sh : Shape) : Nat := 64 * sh.aV
/-- K blocks per token. -/
def Shape.sc (sh : Shape) : Nat := sh.d / 32
/-- Payload bytes (R37). -/
def Shape.payload (sh : Shape) : Nat := sh.kb + sh.vb + 64 * sh.sc + 2 * sh.d
/-- Slot bytes (R38). -/
def Shape.slot (sh : Shape) : Nat := ceilDiv (64 + sh.payload) 256 * 256
/-- Frame bytes (R38). -/
def Shape.frame (sh : Shape) : Nat := 32 * sh.slot
/-- Frames of a segment (R33). -/
def Shape.nframes (sh : Shape) : Nat := sh.layers * sh.kvh
/-- Lines of a plain cache entry (R169). -/
def Shape.lines (sh : Shape) : Nat := ceilDiv sh.slot 1024
/-- Lines of an open page's entry (R170). -/
def Shape.openLines (sh : Shape) : Nat := ceilDiv (sh.slot + 128 * sh.d) 1024

/-! ### Keys -/

/-- Conversation of a key (Table 2-8). -/
def keyConv (k : Nat) : Nat := bits k 65 18
/-- Segment index of a key. -/
def keySeg (k : Nat) : Nat := bits k 17 3
/-- TYPE of a key. -/
def keyType (k : Nat) : Nat := k % 8
/-- The key of a segment (Table 2-8). -/
def mkKey (tenant conv seg : Nat) : Nat := tenant * 2 ^ 66 + conv * 2 ^ 18 + seg * 8

/-- The shape of a tenant (R28). -/
def State.shape (s : State) (t id : Nat) : Option Shape := Tab.look (t * 16 + id) s.sec.shapes

/-- Event fields that name a key (Table 12-11). -/
def pageEv (key frame page code : Nat) : Ev :=
  { type := 0x05, code := code, quarter := 0, p0 := key / 2 ^ 64 + frame % 4096 * 256 + page * 2 ^ 20, p1 := key % 2 ^ 64 }

/-- A SEGMENT event (Table 12-11). -/
def segEv (key cause node : Nat) : Ev :=
  { type := 0x06, p0 := key / 2 ^ 64 + cause * 256, p1 := key % 2 ^ 64, p2 := node }

/-! ### Stacks (R135, R148, R184) -/

/-- Bytes of a pseudo-channel of a scoring stack (R135). -/
def pchBytes : Nat := 768 * 2 ^ 20
/-- Pseudo-channel of a scoring-stack address. -/
def pchOf (a : Nat) : Nat := a / pchBytes
/-- Address of a byte of local stack ls of Quarter q in the node's HBM. -/
def hbmAddr (q ls a : Nat) : Nat := (4 * q + ls) * 2 ^ 36 + a

/-- Mode in effect of a channel: every channel of a stack whose scorer island is gated acts as MEM (Table 5-6, R153). -/
def BscStack.modeOf (b : BscStack) (c : Nat) : Nat := if b.powered then b.mode.fetch c 0 else 0

/-- Sequences issued to a scorer and not yet retired. -/
def BscStack.queueOf (b : BscStack) (k : Nat) : List Sequence := b.seqs.fetch k []

/-- An access to a stack is answered NOT_READY (Table 6-6). -/
def State.notReady (s : State) (q ls a : Nat) (read : Bool) : Bool :=
  let S := s.stack (4 * q + ls)
  let B := s.bank q ls
  let c := pchOf a / 2
  S.st == .training || S.st == .draining || S.st == .off ||
  (ls ≥ 2 && (match S.bistBank with | some (ch, _) => ch == c && Config.bankUnderTest (hbmAddr q ls a) s.time | none => false)) ||
  (ls ≥ 2 && read && B.modeOf c == 2)

/-- A waiting write as a reader of [a, a + n) sees it: what it covers of the range is replaced. -/
def overlay (a n : Nat) (m : Mem) (w : ChAccess) : Mem :=
  let lo := max a w.addr
  let hi := min (a + n) (w.addr + w.len)
  if w.isWrite ∧ lo < hi then Mem.paste m (lo - a) (hi - lo) (Mem.slice w.data (lo - w.addr) (hi - lo)) else m

/-- Bytes of a stack as an ordinary read sees them: what is stored, with the writes that wait ahead of it in the channels'
queues (Table 5-6). -/
def State.stackBytes (s : State) (q ls a n : Nat) : Mem :=
  let base := Mem.slice s.hbm (hbmAddr q ls a) n
  if ls < 2 then base
  else ((s.bank q ls).accesses.flatMap fun e => e.2).foldl (overlay a n) base

/-- An ordinary read waits for a crossing: it is counted, and the channel shows busy (R148, Table 5-15). -/
def State.readWaits (s : State) (q ls a n : Nat) : State :=
  if ls < 2 then s
  else
    let B := s.bank q ls
    let k := pchOf a
    if B.modeOf (k / 2) = 1 ∧ B.queueOf k ≠ [] then
      (s.updBank q ls fun B => { B with accesses := B.accesses.amend k [] fun l => l ++ [{ isWrite := false, addr := a, len := n }] }).countU
        bBSC q (ls - 2) 6
    else s

/-- Write a part of a stack: at once, or in the channel's queue or append buffer while a scorer holds the pseudo-channel
(R148, R151, R152). -/
def State.stackWrite (s : State) (q ls a n : Nat) (c : Mem) : State :=
  let now := { s with hbm := Mem.paste s.hbm (hbmAddr q ls a) n c }
  if ls < 2 then now
  else
    let B := s.bank q ls
    let k := pchOf a
    if B.queueOf k = [] ∧ B.accesses.fetch k [] = [] ∧ B.held.fetch k [] = [] then now
    else if B.modeOf (k / 2) = 2 then
      s.updBank q ls fun B => { B with held := B.held.amend k [] fun l => l ++ [{ isWrite := true, addr := a, data := c, len := n }] }
    else
      (s.updBank q ls fun B =>
        { B with accesses := B.accesses.amend k [] fun l => l ++ [{ isWrite := true, addr := a, data := c, len := n }] }).countU
          bBSC q (ls - 2) 6

/-! ### Spilled frames (R173 to R175) -/

/-- Translate a spill offset of Quarter q for a tenant: a fault class of Table 6-5, or the host bus address. -/
def State.spillAt (s : State) (q off tenant : Nat) (write : Bool) : Except Nat Nat :=
  let l1 := s.reg bPST q (0x100 + 4 * (off / 2 ^ 30 % 64))
  let e := ((s.qtr q).store.hsm.fetch (bits l1 6 1 * 512 + off / 2 ^ 21 % 512) 0).toNat
  if !bit l1 0 || !bit e 0 || bits e 20 9 != 0 then .error 1
  else if (if write then !bit e 2 else !bit e 1) || bits e 8 3 != tenant then .error 2
  else .ok (bits e 63 21 * 2 ^ 21 + off % 2 ^ 21)

/-! ### The page header (Table 2-6) -/

/-- A page header. -/
structure PageHdr where
  tokens : Nat := 0
  coded : Bool := false
  damaged : Bool := false
  enc : Bool := false
  keyGen : Nat := 0
  kLen : Nat := 0
  vLen : Nat := 0
  tweak : Nat := 0
  deriving DecidableEq, Repr

/-- The 64 bytes of a page header. -/
def PageHdr.bytes (h : PageHdr) : Bytes :=
  leBytes 1 h.tokens ++ leBytes 1 (b2n h.coded + 2 * b2n h.damaged + 4 * b2n h.enc) ++ leBytes 1 h.keyGen ++ leBytes 1 0 ++
  leBytes 2 h.kLen ++ leBytes 2 h.vLen ++ leBytes 2 h.tweak ++ leBytes 54 0

/-- The header that 64 stored bytes hold. -/
def PageHdr.ofBytes (b : Bytes) : PageHdr :=
  { tokens := byteAt b 0 % 128, coded := bit (byteAt b 1) 0, damaged := bit (byteAt b 1) 1, enc := bit (byteAt b 1) 2
    keyGen := byteAt b 2, kLen := fieldAt b 4 2, vLen := fieldAt b 6 2, tweak := fieldAt b 8 2 }

/-- A sparse copy of a byte string from address a. -/
def memOf (b : Bytes) : Mem := Mem.write [] 0 b

/-! ### Encryption (R304 to R306) -/

/-- The tweak of a page (Table 11-3). -/
def pageTweak (tw page frame : Nat) (key : Nat) : Nat :=
  tw + page * 2 ^ 16 + frame * 2 ^ 21 + keySeg key * 2 ^ 33 + keyConv key * 2 ^ 48 + keyTenant key * 2 ^ 96

/-- Encrypt a payload. -/
def encryptPay (k tw : Nat) (b : Bytes) : Bytes :=
  leBytes b.length (Config.xts k tw (8 * b.length) (BitVec.ofNat _ (leNat b))).toNat

/-- Decrypt a payload. -/
def decryptPay (k tw : Nat) (b : Bytes) : Bytes :=
  leBytes b.length ((Config.xts k tw (8 * b.length)).symm (BitVec.ofNat _ (leNat b))).toNat

/-- The key of a generation that a tenant holds (R306). -/
def Tenant.keyOf (t : Tenant) (gen : Nat) : Option Nat :=
  if gen = 0 then none else if gen = t.curGen then some t.curKey else if gen = t.prevGen then some t.prevKey else none

/-- The stored bytes of a slot: header, payload encrypted under the tenant's current generation when it is encrypted, and
padding (R38, R305). `payload` is plain or coded, of Table 2-4's length. -/
def State.storedSlot (s : State) (key gen frame page : Nat) (sh : Shape) (h : PageHdr) (payload : Bytes) : Bytes :=
  let t := s.tenant (keyTenant key)
  let pay := payload ++ List.replicate (sh.payload - payload.length) 0
  let h := if t.encrypt then { h with enc := true, keyGen := t.curGen, tweak := gen }
    else { h with enc := false, keyGen := 0, tweak := 0 }
  let pay := if t.encrypt then encryptPay t.curKey (pageTweak gen page frame key) pay else pay
  h.bytes ++ pay ++ List.replicate (sh.slot - 64 - sh.payload) 0

/-! ### Reading a page (R169, R204 to R207) -/

/-- Why a page cannot be read. -/
inductive PageErr where
  | notReady (ls : Nat)
  | keyEpoch
  | damaged
  | fresh (status : Nat)
  | tableAbsent
  | xlate (cls : Nat)
  | denied
  | needHost (hdr : PageHdr) (payload : Bytes)
  deriving DecidableEq, Repr

/-- The result of reading a page: its header and plain uncoded payload. -/
inductive PageRead where
  | ok (h : PageHdr) (payload : Bytes)
  | err (e : PageErr)
  deriving DecidableEq, Repr

/-- The LOADED slot of a coding table in Quarter q (R205). -/
def State.tableSlot (s : State) (q id : Nat) : Option TableSlot :=
  ((s.qtr q).pcd.slots.find? fun e => e.2.state == .loaded && e.2.id == id).map (·.2)

/-- The stored bytes of a page slot, or the reason there are none. -/
def State.slotStored (s : State) (q key : Nat) (fr : FrameRef) (page : Nat) (sh : Shape) : Except PageErr Bytes :=
  if fr.spilled then
    match s.spillAt q (fr.addr + page * sh.slot) (keyTenant key) false with
    | .error c => .error (.xlate c)
    | .ok a => .ok (Mem.read (s.hostMem 0) a sh.slot)
  else if (s.stack (4 * q + fr.stack)).st = .failed then .error .damaged
  else if s.notReady q fr.stack (fr.addr + page * sh.slot) true then .error (.notReady fr.stack)
  else .ok (Mem.read (s.stackBytes q fr.stack (fr.addr + page * sh.slot) sh.slot) 0 sh.slot)

/-- Expand the two units of a coded payload (R205): the plain payload, or the failure. -/
def expandUnits (tbl : Nat → Option TableSlot) (sh : Shape) (h : PageHdr) (pay : Bytes) : Except PageErr Bytes :=
  if h.kLen < 8 ∨ h.vLen < 8 ∨ h.kLen + h.vLen > sh.kb + sh.vb then .error (.fresh 0x40)
  else
    match decodeUnit tbl pay h.kLen sh.kb with
    | .damage st => .error (.fresh st)
    | .tableAbsent => .error .tableAbsent
    | .ok k =>
      match decodeUnit tbl (pay.drop h.kLen) h.vLen sh.vb with
      | .damage st => .error (.fresh st)
      | .tableAbsent => .error .tableAbsent
      | .ok v => .ok (k ++ v ++ pay.drop (sh.kb + sh.vb))

/-- A stored page in plain, uncoded form: decrypted, checked and expanded (R195, R205, R306). -/
def State.plainStored (s : State) (q key : Nat) (fr : FrameRef) (frame page : Nat) (sh : Shape) : PageRead :=
  if bit fr.damaged page then .err .damaged
  else
    match s.slotStored q key fr page sh with
    | .error e => .err e
    | .ok b =>
      let h := PageHdr.ofBytes b
      let pay := (b.drop 64).take sh.payload
      let plain : Except PageErr Bytes :=
        if h.enc then
          match (s.tenant (keyTenant key)).keyOf h.keyGen with
          | none => .error .keyEpoch
          | some k => .ok (decryptPay k (pageTweak h.tweak page frame key) pay)
        else .ok pay
      if h.damaged then .err .damaged
      else match plain with
        | .error e => .err e
        | .ok p =>
          if !h.coded then .ok h p
          else if s.assisted 4 then (if s.sec.conf then .err .denied else .err (.needHost h p))
          else match expandUnits (s.tableSlot q) sh h p with
            | .error e => .err e
            | .ok u => .ok h u

/-- The page-cache entry of a kind that holds a page. -/
def State.cacheOf (s : State) (q key frame page : Nat) (want : CacheKind → Bool) : Option CacheEntry :=
  (s.qtr q).store.cache.find? fun e => want e.kind && e.key == key && e.frame == frame && e.page == page

/-- A page in plain form, from the cache where it is cached, else as stored (R169). An open page is not read here. -/
def State.plainPage (s : State) (q key : Nat) (fr : FrameRef) (frame page : Nat) (sh : Shape) : PageRead :=
  match s.cacheOf q key frame page fun k => k == .writeback || k == .readPage || k == .held with
  | some e =>
    if bit fr.damaged page then .err .damaged
    else .ok (PageHdr.ofBytes (Mem.read e.slot 0 64)) (Mem.read e.slot 64 sh.payload)
  | none => s.plainStored q key fr frame page sh

/-! ### Marks and events of a failed read (R206, R207, R306) -/

/-- Change the segment descriptor of a key in Quarter q. -/
def State.updSegOf (s : State) (q key : Nat) (f : Seg → Seg) : State :=
  s.updStore q fun S => { S with segs := S.segs.map fun e =>
    (if mkKey e.2.tenant e.2.conv e.2.seg = key then (e.1, f e.2) else e) }

/-- The segment descriptor of a key, with its address. -/
def State.segOf (s : State) (q key : Nat) : Option (Nat × Seg) :=
  (s.qtr q).store.segs.find? fun e => mkKey e.2.tenant e.2.conv e.2.seg == key

/-- Drop the cached read page of a page (R172). -/
def State.dropCached (s : State) (q key frame : Nat) (page : Option Nat) : State :=
  s.updStore q fun S => { S with cache := S.cache.filter fun e =>
    !(e.kind == .readPage && e.key == key && e.frame == frame && (match page with | some p => e.page == p | none => true)) }

/-- Set bit n of DAMAGED_MAP of frame f of a descriptor. -/
def Seg.markFrame (g : Seg) (f n : Nat) : Seg :=
  { g with frames := ((List.range g.frames.length).zip g.frames).map fun e =>
      (if e.1 = f then { e.2 with damaged := setBit e.2.damaged n true } else e.2) }

/-- Mark a page damaged: its header, its bit in DAMAGED_MAP, its cached copy, and a PAGE event (R206). -/
def State.damagePage (s : State) (q key : Nat) (fr : FrameRef) (frame page status : Nat) (sh : Shape) : State :=
  let a := fr.addr + page * sh.slot
  let s := if fr.spilled then
      match s.spillAt q a (keyTenant key) true with
      | .error _ => s
      | .ok h =>
        let b := Mem.get (h + 1) (s.hostMem 0)
        s.hostWrite 0 (h + 1) [b ||| 2]
    else { s with hbm := Mem.set (hbmAddr q fr.stack a + 1) (Mem.get (hbmAddr q fr.stack a + 1) s.hbm ||| 2) s.hbm }
  let s := s.updSegOf q key fun g => g.markFrame frame page
  let s := s.dropCached q key frame (some page)
  let s := if status = 0x40 then s.count bPCD q 6 else if status = 0x41 then s.count bPCD q 7
    else if status = 0x42 then s.count bPCD q 8 else s
  s.postFor (keyTenant key) 0 { pageEv key frame page status with quarter := q }

/-- What a failed read does besides failing (R206, R207, R306). -/
def State.pageFailed (s : State) (q key : Nat) (fr : FrameRef) (frame page : Nat) (sh : Shape) (e : PageErr) : State :=
  match e with
  | .keyEpoch =>
    (s.count bSEC 0 6).postFor (keyTenant key) 0 { pageEv key frame page sKEYEPOCH with quarter := q }
  | .fresh st => s.damagePage q key fr frame page st sh
  | .tableAbsent => s.count bPCD q 9
  | .xlate c => s.postFor (keyTenant key) 0
      { pageEv key frame page (if c = 1 then sXLATE else sPERM) with quarter := q }
  | .notReady ls => if ls ≥ 2 then s.countU bBSC q (ls - 2) 7 else s
  | _ => s

/-! ### Elements (R35 to R37, R71, R81) -/

/-- An 8-bit two's complement value. -/
def int8 (b : Nat) : Int := if b ≥ 128 then (b : Int) - 256 else b
/-- A 4-bit two's complement value. -/
def int4 (b : Nat) : Int := if b ≥ 8 then (b : Int) - 16 else b

/-- Elements of a byte string in MXINT8 (`wide`) or packed MXI4. -/
def elems (wide : Bool) (b : Bytes) : List Int :=
  if wide then b.map fun x => int8 x.toNat else b.flatMap fun x => [int4 (x.toNat % 16), int4 (x.toNat / 16)]

/-- Pack pairs of 4-bit elements. -/
def packNibbles : List Int → Bytes
  | a :: b :: t => BitVec.ofNat 8 ((a % 16).toNat + 16 * (b % 16).toNat) :: packNibbles t
  | [a] => [BitVec.ofNat 8 (a % 16).toNat]
  | [] => []

/-- The bytes of elements. -/
def elemBytes (wide : Bool) (l : List Int) : Bytes :=
  if wide then l.map fun a => BitVec.ofNat 8 (a % 256).toNat else packNibbles l

/-- Effective exponent of a scale byte (Table 2-3). -/
def effExp (wide : Bool) (e : Nat) : Int := if wide then (e : Int) - 133 else (e : Int) - 129

/-- The K blocks of token t of a plain payload (R71). -/
def keyTok (sh : Shape) (pay : Bytes) (segPos page t : Nat) : KeyTok :=
  let es := elems sh.k8 ((pay.drop (t * sh.aK)).take sh.aK)
  let sc := (pay.drop (sh.kb + sh.vb + t * sh.sc)).take sh.sc
  { pos := segPos + page * 64 + t
    k := (sc.zip (chunks32 sh.sc es)).map fun e => (effExp sh.k8 e.1.toNat, e.2) }

/-- Transpose token rows into d columns. -/
def columns (d : Nat) (rows : List (List Int)) : List (List Int) :=
  (List.range d).map fun j => rows.map fun r => r.getD j 0

/-- The columns of V block b of a plain payload (R81). -/
def vCols (sh : Shape) (pay : Bytes) (b : Nat) : List (Int × List Int) :=
  let rows := (List.range 32).map fun t => elems sh.v8 ((pay.drop (sh.kb + (32 * b + t) * sh.aV)).take sh.aV)
  let sc := (pay.drop (sh.kb + sh.vb + 64 * sh.sc + b * sh.d)).take sh.d
  (sc.zip (columns sh.d rows)).map fun e => (effExp sh.v8 e.1.toNat, e.2)

/-- The BF16 values of column j of V block b that are retained, tokens at or above `stop` as +0 (R44). -/
def retainedCol (sh : Shape) (v : Tab Nat) (b j stop : Nat) : List Dy :=
  (List.range 32).map fun t =>
    if 32 * b + t < stop then dyOf (ofBF16 (v.fetch ((32 * b + t) * sh.d + j) 0)) else (0, 0)

/-- The columns of V block b quantised from the retained values of the tokens below `stop` (R41, R44). -/
def retainedCols (sh : Shape) (v : Tab Nat) (b stop : Nat) : List (Int × List Int) :=
  (List.range sh.d).map fun j =>
    let r := quantBlock sh.v8 (retainedCol sh v b j stop)
    (effExp sh.v8 r.1, r.2)

/-- The elements, by token, and the scale bytes of V block b by final quantisation of the retained values (R46). -/
def finalV (sh : Shape) (v : Tab Nat) (b tokens : Nat) : List Bytes × Bytes :=
  let cols := (List.range sh.d).map fun j => quantBlock sh.v8 (retainedCol sh v b j tokens)
  ((List.range 32).map fun t => elemBytes sh.v8 (cols.map fun c => c.2.getD t 0), cols.map fun c => BitVec.ofNat 8 c.1)

/-- One V block as a reader sees it: the stored tokens' keys, and the columns that R44 selects for a view end. `closed`
blocks use final values; others the staging quantisation of the retained values. -/
def vBlock (sh : Shape) (pay : Bytes) (tokens segPos page b viewEnd : Nat) (retained : Option (Tab Nat)) (isSealed : Bool) :
    VBlk :=
  let lo := segPos + page * 64 + 32 * b
  let n := min 32 (tokens - 32 * b)
  let keys := (List.range n).map fun t => (t, keyTok sh pay segPos page (32 * b + t))
  let closed := lo + 32 ≤ viewEnd || (isSealed && lo + n ≤ viewEnd)
  match retained with
  | none => { keys := keys, cols := vCols sh pay b }
  | some v =>
    let stop := if closed then tokens else min tokens (viewEnd - (segPos + page * 64))
    { keys := keys, cols := retainedCols sh v b stop }

end Sys2Proof.Machine
end

