-- ==== Sys2Proof/Machine/HostIf.lean ====
section
/-!
DEFINITION. The host interface (ch. 12): doorbells, fetching and checking submission entries, completions, queue
commands, mailboxes, doorbell bits and TDI states. What resets a function is in Start.lean.
-/
namespace Sys2Proof.Machine

/-- HQ_STATUS.READY (R328, R398): phase 10 reached, PCIe up, and the node neither failed nor fail-stopped. -/
def State.ready (s : State) : Bool := s.boot.phase == 10 && s.host.configOk && !s.boot.failStop

/-- A QUEUE_ERROR event to a function (Table 12-11). -/
def queueErr (qid kind cause p1 p2 : Nat) : Ev :=
  { type := 0x0F, p0 := qid % 512 + kind * 512 + cause * 2048, p1 := p1, p2 := p2 }

/-- Count and report an ignored doorbell write (R334). -/
def badDoorbell (s : State) (f qid kind value : Nat) : State :=
  (s.count bHQ 0 2).post f (queueErr qid kind 0 value 0)

/-- SQ_TAIL_DOORBELL (R334, R340): the index of the next free entry; it also restarts a fetch that failed. -/
def sqTail (s : State) (f qid value : Nat) : State :=
  match (s.fn f).sqs.look qid with
  | none => badDoorbell s f qid 0 value
  | some S =>
    if value ≥ S.size ∨ S.deleting ≠ [] then badDoorbell s f qid 0 value
    else s.updFn f fun F => { F with sqs := F.sqs.put qid { S with tail := value, stopped := false } }

/-- SQ_TAIL_DOORBELL. -/
def execSqTailDoorbell (fn : Fin 64) (qid value : Nat) (s : State) : Host.Outcome State Fault Refusal :=
  .next (sqTail s fn qid value)

/-- A ring after software frees its entries up to index `value` (R334). On a full ring the index of its own head frees every
entry (DEDUCED, assumption 34). -/
def Ring.freeTo (r : Ring) (value now : Nat) : Ring :=
  let n := (value + r.size - r.head) % r.size
  let left := if n = 0 ∧ r.items.length = r.size then [] else r.items.drop n
  { r with head := value, items := left, firstAt := if left.isEmpty then none else some now }

/-- CQ_HEAD_DOORBELL (R334, R336): free entries of a CQ, EQ or AQ; an EQ with two free places gets its OVERFLOW event. -/
def cqHead (s : State) (f qid value : Nat) : State :=
  match (s.fn f).rings.look qid with
  | none => badDoorbell s f qid 1 value
  | some r =>
    if value ≥ r.size then badDoorbell s f qid r.kind value
    else
      let s := s.updFn f fun F => { F with rings := F.rings.put qid (r.freeTo value s.time) }
      if r.kind = 2 then s.flushLost f else s

/-- CQ_HEAD_DOORBELL. -/
def execCqHeadDoorbell (fn : Fin 64) (qid value : Nat) (s : State) : Host.Outcome State Fault Refusal :=
  .next (cqHead s fn qid value)

/-! ### Submission entries (R339 to R343) -/

/-- Who may issue a command and which tenants it may name (Table 12-9). -/
inductive Issuer where
  | own | ownOrF0 | f0 | any | none
  deriving DecidableEq, Repr

/-- Table 12-9 by opcode. -/
def issuerOf (op : Nat) : Issuer :=
  if op = 0x10 ∨ op = 0x11 ∨ op = 0x14 ∨ op = 0x15 then .own
  else if op = 0x17 ∨ op = 0x18 ∨ op = 0x19 ∨ op = 0x42 ∨ op = 0x43 then .ownOrF0
  else if (0x44 ≤ op ∧ op ≤ 0x4A) ∨ op = 0x40 ∨ op = 0x41 ∨ op = 0x50 then .f0
  else if op = 0x4B ∨ op = 0x60 ∨ op = 0x61 then .any
  else .none

/-- A function may name a tenant in a command of this kind (R330). -/
def mayName (i : Issuer) (f t : Nat) : Bool :=
  match i with
  | .own => t == f
  | .ownOrF0 => t == f || f == 0
  | _ => t == 0

/-- The opcodes of wire operations that a host may submit (R342). -/
def isWireOp (op : Nat) : Bool :=
  op == 0x10 || op == 0x11 || op == 0x14 || op == 0x15 || op == 0x17 || op == 0x18 || op == 0x19

/-- Checks 2, 3 and 5 to 7 of R340 on a command with a readable body: the status of the first that fails. -/
def hostCheck (s : State) (h : HostCmd) (op : Nat) (body : Bytes) : Option Nat :=
  let i := issuerOf op
  let f := h.fn.val
  if i = .f0 ∧ f ≠ 0 then some sPERM
  else if !mayName i f h.tenant then some sAUTH
  else if isWireOp op && body.length ≥ 24 && !mayName i f (keyTenant (bodyKey body)) then some sAUTH
  else if !s.ready && !(op == 0x60 || op == 0x61 || op == 0x4B) then some sNOTREADY
  else if (op = 0x42 ∨ op = 0x43) ∧ (s.tenant h.tenant).state ≠ .active then some sGONE
  else none

/-- Opcodes whose operation is given by PARAM and not by a body (Table 12-9). -/
def byParam (op : Nat) : Bool := op == 0x46 || op == 0x48 || op == 0x49 || op == 0x4A

/-- PARAM bits that a command does not use are set (Table 12-9); FUNC_MODE and SNAPSHOT check their own. -/
def paramBad (op : Nat) (p : Bytes) : Bool :=
  if op = 0x46 ∨ op = 0x4A then false
  else if op = 0x48 ∨ op = 0x49 then byteAt p 0 / 4 != 0 || byteAt p 1 != 0 || !zeroRange p 4 16
  else if op = 0x43 then !zeroRange p 6 16
  else !zeroRange p 0 16

/-- Check 1 of R340: reserved fields, an unlisted opcode, a tenant where the command takes none. -/
def entryBad (e : Bytes) : Bool :=
  let op := byteAt e 0
  let i := issuerOf op
  let len := fieldAt e 16 4
  i == .none || byteAt e 1 != 0 || byteAt e 4 / 4 != 0 || byteAt e 5 / 64 != 0 || !zeroRange e 6 8 ||
  len > 268435456 || paramBad op ((e.drop 40).take 16) || !zeroRange e 20 24 || !zeroRange e 36 40 || !zeroRange e 56 64 ||
  (byteAt e 4 != 0 && !(op == 0x48 || op == 0x49 || op == 0x50)) ||
  (fieldAt e 8 8 != 0 && len == 0) || (byteAt e 5 != 0 && (i == .f0 || i == .any))

/-- The command that a submission entry gives: its answer goes back to this queue (R339, R341). -/
def entryCmd (F : Fn) (f : Fin 64) (qid head : Nat) (e : Bytes) : HostCmd :=
  { fn := f, sq := qid, cid := fieldAt e 2 2, head := head, tenant := byteAt e 5 % 64
    epoch := F.epoch + (if qid = 0 then F.admEpoch else 0), resultAddr := fieldAt e 24 8, resultLen := fieldAt e 32 4 }

/-- The SQ may be fetched from (R335): it has an entry, its fetch has not failed, it is not being deleted, its CQ has a
place for every entry already fetched, and an administrative pair runs one entry at a time. -/
def fetchable (F : Fn) (qid : Nat) (S : Sq) : Bool :=
  S.head != S.tail && !S.stopped && S.deleting.isEmpty && (qid != 0 || S.live == 0) &&
  (match F.rings.look S.cq with | some r => r.waiting.isEmpty && S.live ≤ r.free && 0 < r.free | none => false)

/-- SUBMISSION_FETCH (R335, R340): fetch the entry at the head, check it, and accept its command, whose arrival is this
fetch (R22). `entry` is none when host memory does not give it, `body` likewise. -/
def submissionFetch (s : State) (f : Fin 64) (qid at_ : Nat) (entry body : Option Bytes) : State :=
  let F := s.fn f
  match F.sqs.look qid with
  | none => s
  | some S =>
    if !fetchable F qid S then s
    else
      let s := s.advance at_
      match entry with
      | none =>
        (s.updFn f fun F => { F with sqs := F.sqs.put qid { S with stopped := true } }).post f (queueErr qid 0 1 S.head 0)
      | some e =>
        let head := (S.head + 1) % S.size
        let h := entryCmd F f qid head e
        let s := (s.updFn f fun F => { F with sqs := F.sqs.put qid { S with head := head, live := S.live + 1 } }).count bHQ 0 0
        let op := byteAt e 0
        let len := fieldAt e 16 4
        let b := if byParam op then (e.drop 40).take 16 else (body.getD []).take len
        if entryBad e then s.complete h sBAD
        else if issuerOf op = .f0 ∧ f.val ≠ 0 then s.complete h sPERM
        else if !mayName (issuerOf op) f h.tenant then s.complete h sAUTH
        else if len > 0 ∧ body.isNone then s.complete h sXLATE
        else match hostCheck s h op b with
          | some st => s.complete h st
          | none => { s with inbox := s.inbox ++ [{ origin := .host h, opcode := op, body := b, arrival := s.time }] }

/-- SUBMISSION_FETCH. -/
def execSubmissionFetch (fn : Fin 64) (qid at_ : Nat) (entry body : Option Bytes) (s : State) :
    Host.Outcome State Fault Refusal :=
  .next (submissionFetch s fn qid at_ entry body)

/-- COMPLETION_POST (R336): the oldest waiting completion is written when its CQ has a free place. -/
def completionPost (s : State) (f cq : Nat) : State :=
  match (s.fn f).rings.look cq with
  | none => s
  | some r =>
    match r.waiting with
    | [] => s
    | c :: rest =>
      if r.free = 0 then s
      else
        let s := s.updFn f fun F => { F with rings := F.rings.put cq { r with waiting := rest } }
        let s := s.updFn f fun F =>
          let F := F.ringPush cq (fun p => .cpl p c) s.time
          { F with sqs := match F.sqs.look c.sq with | some S => F.sqs.put c.sq { S with live := S.live - 1 } | none => F.sqs }
        let s := s.count bHQ 0 1
        State.endDeletes ((s.fn f).sqs.length + 1) s f

/-- COMPLETION_POST. -/
def execCompletionPost (fn : Fin 64) (cq : Nat) (s : State) : Host.Outcome State Fault Refusal :=
  .next (completionPost s fn cq)

/-- COAL_TIMER_EXPIRY (R337): COAL_US after the first unread entry an interrupt is sent. -/
def coalTimer (s : State) (f qid : Nat) : State :=
  match (s.fn f).rings.look qid with
  | none => s
  | some r =>
    match r.firstAt with
    | none => s
    | some t =>
      if r.coalN = 0 ∨ r.items.isEmpty then s
      else (s.advance (t + r.coalUs * 1000)).updFn f fun F =>
        { F with rings := F.rings.put qid { r with firstAt := none } }.irq r.vector

/-- COAL_TIMER_EXPIRY. -/
def execCoalTimerExpiry (fn : Fin 64) (qid : Nat) (s : State) : Host.Outcome State Fault Refusal :=
  .next (coalTimer s fn qid)

/-! ### Queue commands (R333, R338) -/

/-- I/O SQs in use, node-wide (R333). -/
def State.sqsUsed (s : State) : Nat := (s.host.fns.map fun e => (e.2.sqs.filter fun q => q.1 != 0).length).sum

/-- CQs, EQs and AQs in use, node-wide (R333). -/
def State.cqsUsed (s : State) : Nat := (s.host.fns.map fun e => (e.2.rings.filter fun q => q.1 != 0).length).sum

/-- MSI-X vectors of a function (Table 12-1). -/
def vectorsOf (f : Nat) : Nat := if f = 0 then 256 else 16

/-- A QUEUE_CREATE body with a field outside its range (R338). -/
def queueBad (f : Nat) (b : Bytes) : Bool :=
  let kind := byteAt b 0 % 8
  b.length != 32 || byteAt b 0 / 8 != 0 || byteAt b 1 != 0 || kind ≥ 4 || fieldAt b 2 2 == 0 || fieldAt b 2 2 ≥ 512 ||
  fieldAt b 4 2 < 4 || fieldAt b 4 2 > 14 || fieldAt b 6 2 ≥ 512 || (kind != 0 && fieldAt b 6 2 != 0) ||
  fieldAt b 8 8 % 4096 != 0 || fieldAt b 16 2 ≥ vectorsOf f || !zeroRange b 20 32

/-- A QUEUE_CREATE that contradicts the queues that exist (R338). -/
def queueClash (F : Fn) (b : Bytes) : Bool :=
  let kind := byteAt b 0 % 8
  let qid := fieldAt b 2 2
  if kind = 0 then
    (F.sqs.look qid).isSome ||
      !(match F.rings.look (fieldAt b 6 2) with | some r => r.kind == 1 && fieldAt b 6 2 != 0 | none => false)
  else (F.rings.look qid).isSome || (kind != 1 && F.rings.any fun e => e.2.kind == kind)

/-- The function with the queue of a QUEUE_CREATE body added (R338). -/
def addQueue (F : Fn) (b : Bytes) : Fn :=
  let kind := byteAt b 0 % 8
  let qid := fieldAt b 2 2
  let size := 2 ^ fieldAt b 4 2
  if kind = 0 then { F with sqs := F.sqs.put qid { size := size, base := fieldAt b 8 8, cq := fieldAt b 6 2 } }
  else { F with rings := F.rings.put qid { kind := kind, size := size, base := fieldAt b 8 8, vector := fieldAt b 16 2
                                           coalN := byteAt b 18, coalUs := byteAt b 19 } }

/-- QUEUE_CREATE (R338): the status, and the state in which the queue exists when it is OK. -/
def queueCreate (s : State) (h : HostCmd) (b : Bytes) : Nat × State :=
  let kind := byteAt b 0 % 8
  if queueBad h.fn b then (sBAD, s)
  else if queueClash (s.fn h.fn) b then (sCONFLICT, s)
  else if kind = 3 ∧ h.fn.val ≠ 0 then (sPERM, s)
  else if (kind = 0 ∧ s.sqsUsed ≥ 4096) ∨ (kind ≠ 0 ∧ s.cqsUsed ≥ 4096) then (sQUOTA, s)
  else
    let s := s.updFn h.fn fun F => addQueue F b
    (sOK, if kind = 2 then s.flushLost h.fn else s)

/-- QUEUE_CREATE. -/
def execQueueCreate (h : HostCmd) (body : Bytes) (s : State) : Host.Outcome State Fault Refusal :=
  let s := (s.take (.host h) 0x60 body).2
  match hostCheck s h 0x60 body with
  | some st => .next (s.complete h st)
  | none => let r := queueCreate s h body; .next (r.2.complete h r.1)

/-- QUEUE_DELETE (R338): a refusal's status, or the deletion, which for an SQ ends once every fetched entry has
completed. -/
def queueDelete (s : State) (h : HostCmd) (b : Bytes) : State :=
  let kind := byteAt b 0 % 8
  let qid := fieldAt b 2 2
  let F := s.fn h.fn
  if byteAt b 0 / 8 ≠ 0 ∨ byteAt b 1 ≠ 0 ∨ kind ≥ 4 ∨ qid = 0 ∨ qid ≥ 512 ∨ b.length ≠ 4 then s.complete h sBAD
  else if kind = 0 then
    match F.sqs.look qid with
    | none => s.complete h sSTALE
    | some S =>
      let s := s.updFn h.fn fun F => { F with sqs := F.sqs.put qid { S with deleting := S.deleting ++ [h] } }
      State.endDeletes (F.sqs.length + 1) s h.fn
  else
    match F.rings.look qid with
    | none => s.complete h sSTALE
    | some r =>
      if r.kind ≠ kind then s.complete h sSTALE
      else if kind = 1 ∧ F.sqs.any (fun e => e.2.cq == qid) then s.complete h sCONFLICT
      else (s.updFn h.fn fun F => { F with rings := F.rings.del qid }).complete h sOK

/-- QUEUE_DELETE. -/
def execQueueDelete (h : HostCmd) (body : Bytes) (s : State) : Host.Outcome State Fault Refusal :=
  let s := (s.take (.host h) 0x61 body).2
  match hostCheck s h 0x61 body with
  | some st => .next (s.complete h st)
  | none => .next (queueDelete s h body)

/-! ### The administrative pair (R353, Table 12-18) -/

/-- A size field of HQ_ADM_CTL: 4 to 12; others are treated as 4. -/
def admLog2 (v : Nat) : Nat := if 4 ≤ v ∧ v ≤ 12 then v else 4

/-- The administrative pair with the bases and sizes in the registers (Table 12-18). -/
def admStart (F : Fn) (ctl : Nat) : Fn :=
  let r := fun o => (F.admRegs.fetch o 0).toNat
  { F with
    admRdy := true
    admStop := false
    sqs := F.sqs.put 0 { size := 2 ^ admLog2 (bits ctl 7 4), base := r 0x200 / 4096 * 4096 + r 0x204 * 2 ^ 32, cq := 0 }
    rings := F.rings.put 0 { kind := 1, size := 2 ^ admLog2 (bits ctl 11 8)
                             base := r 0x208 / 4096 * 4096 + r 0x20C * 2 ^ 32, vector := bits ctl 19 12 } }

/-- The pair reset: its queues go, and completions of commands already fetched are discarded; RDY falls when those
commands have ended (R353). -/
def admReset (F : Fn) : Fn :=
  let live := match F.sqs.look 0 with | some S => S.live | none => 0
  { F with admRdy := F.admRdy && live != 0, admStop := live != 0, admEpoch := F.admEpoch + 1
           sqs := F.sqs.del 0, rings := F.rings.del 0 }

/-- A write of HQ_ADM_CTL (R353). -/
def admQueueCtl (s : State) (f : Nat) (value : Word) : State :=
  let F := s.fn f
  let was := bit (F.admRegs.fetch 0x210 0x440).toNat 0
  let now := bit value.toNat 0
  let F' := { F with admRegs := F.admRegs.put 0x210 (value &&& 0xFFFF1) }
  s.updFn f fun _ => if now && !was then admStart F' value.toNat else if was && !now then admReset F' else F'

/-- ADM_QUEUE_CTL. -/
def execAdmQueueCtl (fn : Fin 64) (value : Word) (s : State) : Host.Outcome State Fault Refusal :=
  .next (admQueueCtl s fn value)

/-! ### Mailboxes and doorbells (R347 to R352) -/

/-- An inbound message is waiting for its agent (MBX_IN_CTL.GO). -/
def Fn.go (F : Fn) : Bool := bit F.mbxInCtl.toNat 8

/-- AGENT of the inbound message. -/
def Fn.agent (F : Fn) : Nat := bits F.mbxInCtl.toNat 7 5

/-- Type of the inbound message (Table 12-12). -/
def Fn.msgType (F : Fn) : Nat := (F.mbxIn.fetch 0 0).toNat % 256

/-- An outbound message is waiting for software (MBX_OUT_CTL.FULL). -/
def Fn.full (F : Fn) : Bool := bit F.mbxOutCtl.toNat 8

/-- The agent's answer: ACK code, VALID, GO cleared, DB_OUT bit 0 (R347). -/
def Fn.ackIn (F : Fn) (code : Nat) : Fn :=
  { F with mbxInAck := w32 (code % 256 + 256), mbxInCtl := F.mbxInCtl &&& 0xFFFFFEFF, mbxInAt := none }.ringOut 0

/-- Whether Quarter q is in Q-OFF, entered or held there (Table 14-16). -/
def State.qOff (s : State) (q : Nat) : Bool := (s.qtr q).power == .off || (s.qtr q).power == .leaving

/-- HQ_STATUS (Table 12-16). -/
def State.hqStatus (s : State) : Nat :=
  b2n s.ready + 2 * b2n s.host.degraded + 4 * sat s.sqsUsed 4096 + 32768 * sat s.cqsUsed 4096

/-- HQ_AGENT_STATUSq (Table 12-20). -/
def State.agentStatus (s : State) (q : Nat) : Nat :=
  (if (s.qtr q).power = .idle then 1 else 0) + 4 * (s.reg bCORE q 0 % 256)

/-- FN_INFO_REPLY (Table 12-12). -/
def State.fnInfoReply (s : State) (f : Nat) : OutMail :=
  { agent := 0
    words := [0x82, f, vectorsOf f, 4096 - s.sqsUsed, 4096 - s.cqsUsed, s.boot.nodeId.getD 0, b2n s.boot.nodeId.isSome,
              s.hqStatus] }

/-- The acknowledgement code that a waiting inbound message gets (R347, R351, Tables 12-12, 12-24). -/
def State.mbxCode (s : State) (f : Nat) : Nat :=
  let F := s.fn f
  let len := F.mbxInCtl.toNat % 32
  if len < 8 ∨ len > 16 ∨ F.agent > 4 then sBAD
  else if F.agent ≠ 0 ∧ s.qOff (F.agent - 1) then sDOMOFF
  else if F.msgType = 1 then sOK
  else if F.msgType = 2 ∧ F.agent = 0 then sOK
  else if F.msgType = 3 ∧ F.agent ≠ 0 then sOK
  else sBAD

/-- The reply that an agent sends to an inbound message acknowledged OK (Table 12-12). -/
def State.mbxReply (s : State) (f : Nat) : List OutMail :=
  let F := s.fn f
  if s.mbxCode f ≠ sOK then []
  else if F.msgType = 2 then [s.fnInfoReply f]
  else if F.msgType = 3 then [{ agent := F.agent, words := [0x83, s.agentStatus (F.agent - 1), 0, 0, 0, 0, 0, 0] }]
  else []

/-- The agent answers the inbound message of a function, whatever the state of the outbound mailbox (R347, R349). -/
def agentAnswer (s : State) (f : Nat) : State :=
  if (s.fn f).go then
    let code := s.mbxCode f
    let reply := s.mbxReply f
    s.updFn f fun F => { F.ackIn code with outWait := F.outWait ++ reply }
  else s

/-- PING (R347): acknowledged OK. It acts on a waiting inbound message of that type. -/
def execPing (fn : Fin 64) (s : State) : Host.Outcome State Fault Refusal :=
  .next (if (s.fn fn).msgType = 1 then agentAnswer s fn else s)

/-- FN_INFO (R347): acknowledged, and answered by FN_INFO_REPLY. -/
def execFnInfo (fn : Fin 64) (s : State) : Host.Outcome State Fault Refusal :=
  .next (if (s.fn fn).msgType = 2 then agentAnswer s fn else s)

/-- AGENT_STATUS (R351): acknowledged and answered by AGENT_REPLY, or acknowledged DOMAIN_OFF. -/
def execAgentStatus (fn : Fin 64) (s : State) : Host.Outcome State Fault Refusal :=
  .next (if (s.fn fn).msgType = 3 then agentAnswer s fn else s)

/-- MBX_AGENT_ANSWER (R347): the agent answers whatever message is waiting, with the code its type gives. -/
def execMbxAgentAnswer (fn : Fin 64) (s : State) : Host.Outcome State Fault Refusal :=
  .next (agentAnswer s fn)

/-- MBX_IN_TIMEOUT (R350): 10 ms without an answer. -/
def mbxInTimeout (s : State) (f : Nat) : State :=
  match (s.fn f).mbxInAt with
  | none => s
  | some t =>
    if (s.fn f).go then
      (s.advance (t + 10000000)).updFn f fun F =>
        { F with mbxInAck := (F.mbxInAck &&& 0xFFFFFF00) ||| w32 sMBXTIMEOUT, mbxInCtl := F.mbxInCtl &&& 0xFFFFFEFF
                 mbxInAt := none }
    else s

/-- MBX_IN_TIMEOUT. -/
def execMbxInTimeout (fn : Fin 64) (s : State) : Host.Outcome State Fault Refusal := .next (mbxInTimeout s fn)

/-- Post the first waiting outbound message when FULL is 0 (R348). -/
def Fn.postOut (F : Fn) (now : Nat) : Fn :=
  match F.outWait with
  | [] => F
  | m :: rest =>
    if F.full then F
    else { F with outWait := rest
                  mbxOut := (List.range m.words.length).zip (m.words.map w32)
                  mbxOutCtl := w32 (m.words.length + m.agent * 32 + 256)
                  mbxOutAt := some now }.ringOut 1

/-- MBX_OUT_POST (R348). -/
def execMbxOutPost (fn : Fin 64) (s : State) : Host.Outcome State Fault Refusal :=
  .next (s.updFn fn fun F => F.postOut s.time)

/-- Software takes the outbound message with a code: FULL is cleared (R348). -/
def Fn.takeOut (F : Fn) (code : Nat) : Fn :=
  { F with mbxOutAck := w32 (code % 256), mbxOutCtl := F.mbxOutCtl &&& 0xFFFFFEFF, mbxOutAt := none }

/-- MBX_OUT_ACK (R348): a write of MBX_OUT_ACK with GO = 1. -/
def execMbxOutAck (fn : Fin 64) (code : BitVec 8) (s : State) : Host.Outcome State Fault Refusal :=
  .next (s.updFn fn fun F => F.takeOut code.toNat)

/-- OUTBOUND_TAKEN (R348): a write of DB_IN bit 0, with code OK. -/
def execOutboundTaken (fn : Fin 64) (s : State) : Host.Outcome State Fault Refusal :=
  .next (s.updFn fn fun F => F.takeOut sOK)

/-- EQ_DRAINED (R352): a write of DB_IN bit 1 clears DB_OUT bit 2. -/
def execEqDrained (fn : Fin 64) (s : State) : Host.Outcome State Fault Refusal :=
  .next (s.updFn fn fun F => { F with dbOut := F.dbOut &&& 0xFFFFFFFB })

/-- MBX_OUT_TIMEOUT (R350): an unacknowledged outbound message is withdrawn after 10 ms. -/
def mbxOutTimeout (s : State) (f : Nat) : State :=
  match (s.fn f).mbxOutAt with
  | none => s
  | some t =>
    if (s.fn f).full then
      let agent := bits (s.fn f).mbxOutCtl.toNat 7 5
      ((s.advance (t + 10000000)).updFn f fun F => F.takeOut sMBXTIMEOUT).post f
        { type := 0x0E, code := sMBXTIMEOUT, p0 := agent + 8 }
    else s

/-- MBX_OUT_TIMEOUT. -/
def execMbxOutTimeout (fn : Fin 64) (s : State) : Host.Outcome State Fault Refusal := .next (mbxOutTimeout s fn)

/-! ### Link and TDI (R329, R332) -/

/-- The PCIe link may train: main power is good, the node has not fail-stopped, and start-up has reached the phase "PCIe up",
which comes after the scrub when there is one (R399, R405, R430). -/
def State.pcieMay (s : State) : Bool :=
  s.pins.mainPg && !s.boot.failStop && 5 ≤ s.boot.phase && s.boot.phase ≤ 10 &&
    !(s.boot.scrubNeed && (s.boot.phase == 6 || s.boot.phase == 7))

/-- PCIE_LINK_TRAINED (R329): a link that trains has its reference clock. -/
def pcieLinkTrained (s : State) (rate width : Nat) : State :=
  if !s.pcieMay then s else
  let deg := rate < 128 || width < 16
  let s := { s with host := { s.host with linkUp := true, linkRate := rate, linkWidth := width, degraded := deg }
                    pins := { s.pins with pcieClk := true } }
  if deg then s.post 0 { type := 0x0A, p0 := 8 } else s

/-- PCIE_LINK_TRAINED. -/
def execPcieLinkTrained (rate width : Nat) (s : State) : Host.Outcome State Fault Refusal :=
  .next (pcieLinkTrained s rate width)

/-- PCIE_REFCLK_LOSS (R450): the link is held down; the rest of the node runs. -/
def execPcieRefclkLoss (s : State) : Host.Outcome State Fault Refusal :=
  .next { s with pins := { s.pins with pcieClk := false }, host := { s.host with linkUp := false } }

/-- A function's TDI takes a state; HQ_FN_STATUS changes, which DB_OUT bit 3 shows (R352). -/
def Fn.setTdi (F : Fn) (v : Nat) : Fn := if F.tdi = v then F else { F with tdi := v }.ringOut 3

/-- TDISP_REQUEST (R332): CONFIG_UNLOCKED to CONFIG_LOCKED, or CONFIG_LOCKED to RUN. F0 has no TDI. -/
def execTdispRequest (fn : Fin 64) (toRun : Bool) (s : State) : Host.Outcome State Fault Refusal :=
  let F := s.fn fn
  .next (if fn.val = 0 then s
    else if toRun then (if F.tdi = 1 then s.updFn fn fun F => F.setTdi 2 else s)
    else if F.tdi = 0 then s.updFn fn fun F => F.setTdi 1 else s)

end Sys2Proof.Machine
end

