-- ==== Sys2Proof/Machine/Registers.lean ====
section
/-!
DEFINITION. What holds for every register block (ch. 13): staged writes, counters and their latches, snapshots, and the
function-mode register. The register writes themselves, which reach into every unit, are in RegWrite.lean.
-/
namespace Sys2Proof.Machine

/-- Record an access error (Table 13-19). -/
def State.accError (s : State) (kind f addr : Nat) : State :=
  { s with regs := { s.regs with accErr := w32 (kind + f * 256), accAddr := w32 (addr % 2 ^ 26) } }

/-- A write to a register of a Quarter in Q-OFF is discarded, counted and logged (R372). -/
def State.offWrite (s : State) (code q off : Nat) : State := (s.count bGLB 0 2).accError 3 0 (blockBase code q + off)

/-! ### Staging (R362, R363) -/

/-- The staged value of a register word, if a write is pending. -/
def State.pendingAt (s : State) (code q off : Nat) : Option Nat :=
  (s.regs.staged.look (blockBase code q + off)).map (·.toNat)

/-- Stage a value: it replaces the whole staged value (R362). -/
def State.stage (s : State) (code q off v : Nat) : State :=
  let a := blockBase code q + off
  { s with regs := { s.regs with staged := s.regs.staged.put a (w32 v), stagedDone := s.regs.stagedDone.del a } }

/-- The WS bits of the word at an offset. -/
def wsMask (code off : Nat) : Nat := match regAt code off with | some r => r.ws | none => 0

/-- A staged value takes effect: the WS bits change, the register's other bits stay (R362). -/
def State.applyAt (s : State) (code q off : Nat) : State :=
  match s.pendingAt code q off with
  | none => s
  | some v =>
    let m := wsMask code off
    let cur := s.reg code q off
    let s := s.setReg code q off ((w32 v &&& w32 m) ||| (w32 cur &&& ~~~ (w32 m))).toNat
    let a := blockBase code q + off
    { s with regs := { s.regs with staged := s.regs.staged.del a, stagedDone := s.regs.stagedDone.del a } }

/-- The boundary of the word at a BAR0 address, and its block. -/
def boundaryOf (a : Nat) : Option (Boundary × Nat × Nat × Nat) :=
  match blockOf a with
  | none => none
  | some (c, q, off) => match regAt c off with | some r => some (r.bnd, c, q, off) | none => none

/-- Every pending word of one boundary takes effect in the blocks that `want` admits. -/
def State.applyBoundary (s : State) (b : Boundary) (want : Nat → Nat → Bool) : State :=
  s.regs.staged.foldl (fun acc e =>
    match boundaryOf e.1 with
    | some (b', c, q, off) => if b' = b ∧ want c q then acc.applyAt c q off else acc
    | none => acc) s

/-! ### Counters and latches (R365, R366) -/

/-- The two words of a counter as one 64-bit value (Table 4-14). -/
def Counter.raw (c : Counter) : Nat := c.n + (if c.ovf then 2 ^ 63 else 0)

/-- Per-tenant statistics, which read 0 in confidential operation: PORT_POLCNT and its holding copies (R320, R367). -/
def isTenantCounter (code off : Nat) : Bool :=
  code == bPORT && ((0x5000 ≤ off && off < 0x5200) || (0xD000 ≤ off && off < 0xD200))

/-- The 64-bit value whose word +0 lies at an offset of a block: a counter, an accumulator, a holding copy of one, or a
time pair (R365); none where there is no such pair. -/
def State.pairAt (s : State) (code q off : Nat) : Option Nat :=
  let a := blockBase code q + off
  if off % 8 ≠ 0 then none
  else if isTenantCounter code off && s.sec.conf then some 0
  else if off < 0x4000 then
    if code = bGLB ∧ off = 8 then some (s.time % 2 ^ 64)
    else if code = bSNAP ∧ off = 0x10 then some s.regs.snap.lastTime
    else if code = bBOOT ∧ off = 0x10 then some s.boot.readyTime else none
  else if isMeterOff code off then some (s.regs.meter.fetch a 0)
  else if isCounterOff code off then some (s.counter a).raw
  else if 0xC000 ≤ off && (isCounterOff code (off - 0x8000) || isMeterOff code (off - 0x8000)) then
    some (s.regs.hold.fetch a 0)
  else none

/-- Add to a metering accumulator: it wraps at 2^64 with an event and its count (R366). -/
def State.addMeter (s : State) (t m k : Nat) : State :=
  let a := blockBase bBOOT 0 + 0x5000 + t * 0x40 + m * 8
  let v := s.regs.meter.fetch a 0 + k
  let s := { s with regs := { s.regs with meter := s.regs.meter.put a (v % 2 ^ 64) } }
  if v ≥ 2 ^ 64 then
    (s.post 0 { counterEv bBOOT 0 (0x5000 + t * 0x40 + m * 8) with p1 := 1 }).count bGLB 0 8
  else s

/-! ### Snapshots (R367, R368) -/

/-- The blocks in the scope of a SNAP_CTL value; none when the scope or block code is reserved. -/
def snapScope (ctl : Nat) : Option (List Nat) :=
  let q := bits ctl 3 2
  let c := bits ctl 15 8
  match bits ctl 1 0 with
  | 0 => some (allBlocks.map fun e => blockBase e.1 e.2)
  | 1 => if isBlockCode c then some [blockBase c (if c < 0x10 then 0 else q)] else none
  | 2 => some (quarterCodes.map fun c => blockBase c q)
  | _ => none

/-- The block base that an address lies in. -/
def baseOf (a : Nat) : Nat := a / 0x10000 * 0x10000

/-- Capture: every counter and accumulator of the scope, at its holding copy's address. -/
def State.capture (s : State) (blocks : List Nat) : Tab Nat :=
  let inScope := fun a => blocks.contains (baseOf a)
  ((s.regs.cnt.filter fun e => inScope e.1).map fun e => (e.1 + 0x8000, e.2.raw)).foldl
    (fun t e => Tab.put e.1 e.2 t)
    ((s.regs.meter.filter fun e => inScope e.1).map fun e => (e.1 + 0x8000, e.2))

/-- Start a snapshot with capture time now (R367). -/
def State.startSnap (s : State) (blocks : List Nat) (cmd : Option HostCmd) (seqNo : Nat) : State :=
  { s with regs := { s.regs with snap :=
      { s.regs.snap with busy := true, byCmd := cmd, seqRunning := seqNo, time := s.time, blocks := blocks
                         captured := s.capture blocks } } }

/-- SNAPSHOT (R368): refused for a reserved scope or block code; it waits while another snapshot runs. -/
def snapshotCmd (s : State) (h : HostCmd) (param : Bytes) : State :=
  let ctl := fieldAt param 0 2
  match snapScope ctl with
  | none => s.complete h sBAD
  | some bl =>
    if bits ctl 7 4 ≠ 0 then s.complete h sBAD
    else if s.regs.snap.busy then
      { s with regs := { s.regs with snap := { s.regs.snap with waiting := s.regs.snap.waiting ++ [(h, ctl)] } } }
    else s.startSnap bl (some h) 0

/-- SNAPSHOT. -/
def execSnapshot (h : HostCmd) (param : Bytes) (s : State) : Host.Outcome State Fault Refusal :=
  let s := (s.take (.host h) 0x4A param).2
  match hostCheck s h 0x4A param with
  | some st => .next (s.complete h st)
  | none => .next (snapshotCmd s h param)

/-- SNAPSHOT_REG_START (R368): a write of SNAP_CTL. One that changes SNAP_SEQ starts a snapshot; while one runs, or for a
reserved scope or block code, it is refused. -/
def snapshotRegStart (s : State) (value : Nat) : State :=
  let cur := s.reg bSNAP 0 0
  let seqNo := bits value 31 16
  let keep := fun (s : State) => s.setReg bSNAP 0 0 (w32 value &&& 0xFFFFFF0F).toNat
  let refuse := fun (s : State) =>
    let s := (s.count bGLB 0 6).accError 7 0 (blockBase bSNAP 0)
    { s with regs := { s.regs with snap := { s.regs.snap with refused := true, doneSeq := seqNo } } }
  if bits cur 31 16 = seqNo then keep s
  else if s.regs.snap.busy then refuse s
  else match snapScope value with
    | none => refuse (keep s)
    | some bl =>
      let s := keep s
      ({ s with regs := { s.regs with snap := { s.regs.snap with refused := false } } }).startSnap bl none seqNo

/-- SNAPSHOT_REG_START. -/
def execSnapshotRegStart (value : Word) (s : State) : Host.Outcome State Fault Refusal :=
  .next (snapshotRegStart s value.toNat)

/-- The number that follows a snapshot number: 0xFFFF is followed by 0x0001 (Table 13-23). -/
def nextSnapNo (n : Nat) : Nat := if n ≥ 0xFFFF then 1 else n + 1

/-- SNAPSHOT_DONE (R367, R368): the holding copies of the scope take the captured values, BUSY falls, the command or the
sequence number is answered, and a waiting command starts. -/
def snapshotDone (s : State) : State :=
  let sn := s.regs.snap
  if !sn.busy then s
  else
    let num := nextSnapNo sn.number
    let hold := sn.captured.foldl (fun t e => Tab.put e.1 e.2 t)
      (s.regs.hold.filter fun e => !sn.blocks.contains (baseOf e.1))
    let nos := sn.blocks.foldl (fun t b => Tab.put b num t) s.regs.snapNo
    let sn' := { sn with busy := false, number := num, lastTime := sn.time, byCmd := none, captured := []
                         doneSeq := if sn.byCmd.isNone then sn.seqRunning else sn.doneSeq }
    let s := { s with regs := { s.regs with hold := hold, snapNo := nos, snap := sn' } }
    let s := s.count bGLB 0 5
    let s := match sn.byCmd with | some h => s.complete h sOK num | none => s
    match s.regs.snap.waiting with
    | [] => s
    | (h, ctl) :: rest =>
      let s := { s with regs := { s.regs with snap := { s.regs.snap with waiting := rest } } }
      s.startSnap ((snapScope ctl).getD []) (some h) 0

/-- SNAPSHOT_DONE. -/
def execSnapshotDone (s : State) : Host.Outcome State Fault Refusal := .next (snapshotDone s)

/-! ### Function modes (R375, R376) -/

/-- FMODE_MODE_WRITE (R376): in confidential operation bits 1 and 6 are staged as 0 and shown in FMODE_DENIED. -/
def fmodeModeWrite (s : State) (value : Nat) : State :=
  let deny := if s.sec.conf then w32 value &&& 0x42 else 0
  let s := { s with fmodeDenied := (w32 s.fmodeDenied ||| deny).toNat }
  s.stage bFMODE 0 0 ((w32 value &&& 0x7FF) &&& ~~~ deny).toNat

/-- FMODE_MODE_WRITE. -/
def execFmodeModeWrite (value : Word) (s : State) : Host.Outcome State Fault Refusal :=
  .next (fmodeModeWrite s value.toNat)

/-- FUNC_MODE (R375, R376): stages the indices that its mask names; it completes at the TICK. -/
def funcMode (s : State) (h : HostCmd) (param : Bytes) : State :=
  let mask := fieldAt param 0 2
  let v := fieldAt param 2 2
  if mask ≥ 2048 ∨ v ≥ 2048 ∨ !zeroRange param 4 16 then s.complete h sBAD
  else if s.sec.conf ∧ (w32 mask &&& w32 v &&& 0x42) ≠ 0 then s.complete h sDENIED
  else
    let cur := w32 ((s.pendingAt bFMODE 0 0).getD (s.reg bFMODE 0 0))
    let s := s.stage bFMODE 0 0 ((cur &&& ~~~ (w32 mask)) ||| (w32 v &&& w32 mask)).toNat
    { s with host := { s.host with funcModeWait := s.host.funcModeWait ++ [h] } }

/-- FUNC_MODE. -/
def execFuncMode (h : HostCmd) (param : Bytes) (s : State) : Host.Outcome State Fault Refusal :=
  let s := (s.take (.host h) 0x46 param).2
  match hostCheck s h 0x46 param with
  | some st => .next (s.complete h st)
  | none => .next (funcMode s h param)

end Sys2Proof.Machine
end

