-- ==== Sys2Proof/Machine/Directory.lean ====
section
/-!
DEFINITION. The directory, allocation and tickets (ch. 02, 06, 16): lookup with its parity and MULTI checks, entries and
tombstones, frames and descriptors, pin reservations, quotas, release, assist entries and the ticket pools.
-/
namespace Sys2Proof.Machine

/-! ### Assist entries (R344, R432) -/

/-- Post an entry on the Assist Queue of F0: false when there is no queue or it is full, and then the entry is timed out at
once. A tag of 0 expects no reply. -/
def State.postAssist (s : State) (a : AssistPost) (purpose : Option AssistFor) (data : Bytes) : Bool × State :=
  match (s.fn 0).rings.find? fun e => e.2.kind == 3 with
  | none => (false, s.count bHQ 0 5)
  | some (qid, r) =>
    if r.free = 0 then (false, s.count bHQ 0 5)
    else
      let tag := if purpose.isSome then s.host.nextTag else 0
      let s := s.updFn 0 fun F => F.ringPush qid (fun p => .assist p { a with tag := tag, len := data.length }) s.time
      match purpose with
      | none => (true, s)
      | some p =>
        (true, { s with host := { s.host with
          nextTag := if s.host.nextTag ≥ 2 ^ 32 - 1 then 1 else s.host.nextTag + 1
          assists := s.host.assists ++
            [{ tag := tag, posted := s.time, quarter := a.q, index := a.kind, purpose := p, data := data }] } })

/-! ### Lookup (R49, R425, R426) -/

/-- Entries of a slice that hold a key, lowest address first. -/
def Dir.entriesOf (d : Dir) (key : Nat) : Tab DirEntry := d.slots.filter fun e => e.2.key == key

/-- Start a rebuild of a slice (R425); a running one goes on. -/
def State.startRebuild (s : State) (q : Nat) : State :=
  if (s.qtr q).dir.rebuilding then s else (s.updDir q fun d => { d with rebuilding := true }).count bDIR q 4

/-- Entries that a rebuild loses: those whose shadow is uncorrectable. -/
def Dir.toLose (d : Dir) : Nat := (d.slots.filter fun e => d.shadowBad.contains e.1).length

/-- A parity error at an entry (R425). -/
def State.dirParity (s : State) (q a : Nat) : State :=
  let s := (s.updDir q fun d => { d with parity := true }).count bDIR q 2
  (s.postFault 2 q a (s.qtr q).dir.toLose q).startRebuild q

/-- A lookup matched more than one entry (R426). -/
def State.dirMulti (s : State) (q key : Nat) : State :=
  let s := (s.updDir q fun d => { d with multi := true }).count bDIR q 3
  (s.postFault 3 q (key % 2 ^ 64) (key / 2 ^ 64) q).startRebuild q

/-- What a lookup gives: an entry and its address, none, or an operation that waits. -/
inductive Found where
  | hit (a : Nat) (e : DirEntry)
  | miss
  | parked
  deriving DecidableEq, Repr

/-- Look a key up for an operation (R49). While a rebuild runs the operation waits; a miss goes to the host when function
mode 0 is host-assisted and it has not been asked (Table 16-7). -/
def State.lookup (s : State) (q key : Nat) (op : Inbound) : Found × State :=
  let park := fun (s : State) => s.updDir q fun d => { d with waiting := d.waiting ++ [op] }
  if (s.qtr q).dir.rebuilding then (.parked, park s)
  else
    let s := s.count bDIR q 0
    match (s.qtr q).dir.entriesOf key with
    | [] =>
      let s := s.count bDIR q 1
      if s.assisted 0 && !op.asked.contains key then
        let r := (s.count bDIR q 9).postAssist { tag := 0, kind := 0, q := q, key := key } (some (.dirLookup key op)) []
        if r.1 then (.parked, r.2) else (.miss, r.2)
      else (.miss, s)
    | (a, e) :: rest =>
      if e.bad then (.parked, park (s.dirParity q a))
      else if rest ≠ [] then (.hit a e, s.dirMulti q key)
      else (.hit a e, s)

/-- The entry of a key without a counted lookup: what a unit that already holds the entry sees. -/
def State.entryOf (s : State) (q key : Nat) : Option (Nat × DirEntry) := ((s.qtr q).dir.entriesOf key).head?

/-- Write an entry and its shadow, with good parity (R425). -/
def State.dirPut (s : State) (q a : Nat) (e : DirEntry) : State :=
  let e := { e with bad := false }
  s.updDir q fun d => { d with slots := d.slots.put a e, shadow := d.shadow.put a e
                               shadowBad := d.shadowBad.filter fun x => x != a }

/-- Remove an entry and its shadow. -/
def State.dirDel (s : State) (q a : Nat) : State :=
  s.updDir q fun d => { d with slots := d.slots.del a, shadow := d.shadow.del a
                               shadowBad := d.shadowBad.filter fun x => x != a }

/-- Change the entry of a key and the copies in its descriptor in one step (R54, R60). -/
def State.setEntry (s : State) (q key : Nat) (f : DirEntry → DirEntry) : State :=
  match s.entryOf q key with
  | none => s
  | some (a, e) => (s.dirPut q a (f e)).updSegOf q key fun g => { g with gen := (f e).gen }

/-- A state that is live: it serves attention or waits to (R53). -/
def SegState.live (t : SegState) : Bool := t != .retired

/-- The next generation (R52). -/
def nextGen (g : Nat) : Nat := if g ≥ 0xFFFF then 1 else g + 1

/-- A tombstone whose frames have all been released (R51, R167). -/
def State.reclaimable (s : State) (q : Nat) (e : DirEntry) : Bool :=
  e.state == .retired && !(s.qtr q).store.releases.any fun r => r.key == e.key && r.gen == e.gen

/-- The oldest reclaimable tombstone of a slice. -/
def State.oldestTomb (s : State) (q : Nat) : Option Nat :=
  (((s.qtr q).dir.slots.filter fun e => s.reclaimable q e.2).foldl (fun (a : Option (Nat × DirEntry)) e =>
    match a with | none => some e | some b => if e.2.tombOrder < b.2.tombOrder then some e else some b) none).map (·.1)

/-- The entry address that an insertion takes: the lowest free one, else the oldest reclaimable tombstone's (R51). -/
def State.freeEntry (s : State) (q : Nat) : Option Nat :=
  match Tab.freeFrom (s.qtr q).dir.slots 65536 0 with
  | some a => some a
  | none => s.oldestTomb q

/-! ### Frames and descriptors (R161 to R164) -/

/-- First byte of the descriptor heap of local stack 0, in 64-byte units (Table 6-1). -/
def heapBase : Nat := 61440 * 16384
/-- Units of the descriptor heap. -/
def heapUnits : Nat := 3832 * 16384
/-- Chunks of frame space of a local stack (Table 6-1). -/
def frameChunks (ls : Nat) : Nat := if ls = 0 then 960 else if ls = 1 then 1023 else 768
/-- Bytes of a chunk. -/
def chunkBytes : Nat := 67108864

/-- The lowest free frame of size F in the chunks that are already dedicated to it. -/
def Alloc.freeIn (a : Alloc) (F : Nat) : Option Nat :=
  a.chunks.findSome? fun e =>
    if e.2 = F then
      ((List.range (chunkBytes / F)).find? fun n => (Tab.look (e.1 * chunkBytes + n * F) a.used).isNone).map fun n =>
        e.1 * chunkBytes + n * F
    else none

/-- Take a frame of size F from one stack (R163). -/
def Alloc.take (a : Alloc) (n F : Nat) : Option (Nat × Alloc) :=
  match a.freeIn F with
  | some p => some (p, { a with used := a.used.put p F })
  | none =>
    match Tab.freeFrom a.chunks n 0 with
    | some c => if c < n then some (c * chunkBytes, { chunks := a.chunks.put c F, used := a.used.put (c * chunkBytes) F }) else none
    | none => none

/-- Return a frame to its free list; a chunk whose frames are all free becomes a free chunk (R167). -/
def Alloc.give (a : Alloc) (p : Nat) : Alloc :=
  let used := a.used.del p
  let c := p / chunkBytes
  { chunks := if used.any fun e => e.1 / chunkBytes == c then a.chunks else a.chunks.del c, used := used }

/-- Stack order of frame f under a placement hint (Table 6-2). -/
def stackOrder (place f : Nat) (fallback : Bool) : List Nat :=
  match place with
  | 0 => (List.range 4).map fun k => (f + k) % 4
  | 1 => [2 + f % 2, 3 - f % 2] ++ (if fallback then [f % 2, 1 - f % 2] else [])
  | _ => [f % 2, 1 - f % 2]

/-- A stack may supply frames (R164). -/
def State.stackEligible (s : State) (q ls : Nat) : Bool :=
  let S := s.stack (4 * q + ls)
  bit (s.reg bPST q 4) ls && S.st == .ready && !S.off && !S.selfRefresh

/-- Take one frame from the first stack of an order that can supply it. -/
def takeFrame (A : Tab Alloc) (order : List Nat) (F : Nat) : Option (Nat × Nat × Tab Alloc) :=
  order.findSome? fun ls => ((A.fetch ls {}).take (frameChunks ls) F).map fun r => (ls, r.1, A.put ls r.2)

/-- Take n frames, frame f first trying its own stack order (R164): all or nothing. -/
def takeFrames (ok : Nat → Bool) (place F : Nat) (fallback : Bool) : Nat → Nat → Tab Alloc → Option (List FrameRef × Tab Alloc)
  | 0, _, A => some ([], A)
  | n + 1, f, A =>
    match takeFrame A ((stackOrder place f fallback).filter ok) F with
    | none => none
    | some (ls, p, A') => (takeFrames ok place F fallback n (f + 1) A').map fun r => ({ stack := ls, addr := p } :: r.1, r.2)

/-- Extents of the descriptor heap in use: address and length in 64-byte units. -/
def Quarter.extents (Q : Quarter) : List (Nat × Nat) :=
  (Q.store.segs.map fun e => (e.1, ceilDiv (64 + 8 * e.2.frames.length) 64)) ++
  (Q.maps.map fun m => (m.addr, ceilDiv (32 + 16 * m.entries.length) 64))

/-- The lowest place of n units in the descriptor heap (R162). -/
def Quarter.heapPlace (Q : Quarter) (n : Nat) : Option Nat :=
  let ext := Q.extents
  let ok := fun c => c + n ≤ heapBase + heapUnits && ext.all fun e => c + n ≤ e.1 || e.1 + e.2 ≤ c
  ((heapBase :: ext.map fun e => e.1 + e.2).filter ok).foldl (fun (a : Option Nat) c =>
    match a with | none => some c | some b => some (min b c)) none

/-! ### Pins and quotas (R171, R303) -/

/-- A segment in a state that holds a pin reservation (R171). -/
def holdsPin (st prior : SegState) : Bool := st == .opened || st == .incoming || (st == .moving && prior == .opened)

/-- Lines reserved for one segment. -/
def State.segPin (s : State) (q : Nat) (e : DirEntry) : Nat :=
  match s.segOf q e.key with
  | none => 0
  | some (_, g) =>
    if holdsPin e.state g.prior then
      match s.shape g.tenant g.shapeId with | some sh => g.frames.length * sh.openLines | none => 0
    else 0

/-- Lines reserved in a Quarter (Table 6-13). -/
def State.pinLines (s : State) (q : Nat) : Nat := ((s.qtr q).dir.slots.map fun e => s.segPin q e.2).sum

/-- PIN_LIMIT_MIB in effect, in lines (Table 6-12). -/
def State.pinLimit (s : State) (q : Nat) : Nat := clampN (s.reg bPST q 0x20 % 64) 8 44 * 1024

/-- Bytes of HBM frames held for a tenant (Table 11-2). -/
def State.poolUsed (s : State) (t : Nat) : Nat :=
  (s.quarters.map fun e =>
    ((e.2.store.segs.filter fun g => g.2.tenant == t).map fun g =>
      match s.shape t g.2.shapeId with
      | some sh => (g.2.frames.filter fun f => !f.spilled).length * sh.frame | none => 0).sum +
    ((e.2.store.releases.filter fun r => r.tenant == t).map fun r => r.size).sum).sum

/-- Directory entries of a tenant that are not RETIRED (Table 11-2). -/
def State.dirUsed (s : State) (t : Nat) : Nat :=
  (s.quarters.map fun e => (e.2.dir.slots.filter fun x => keyTenant x.2.key == t && x.2.state.live).length).sum

/-! ### Allocation (R162, R165) -/

/-- Outcome of an allocation. -/
inductive AllocRes where
  | done (s : State)
  | refused (status : Nat) (s : State)
  | parked (s : State)

/-- A host's address for a frame of size F passes the checks of R165: frame space, 4 KiB alignment, one chunk that is free
or dedicated to the size, and a free frame. -/
def hostFrameOk (A : Tab Alloc) (F : Nat) (ls a : Nat) : Bool :=
  let al := A.fetch ls {}
  let c := a / chunkBytes
  ls < 4 && a % 4096 == 0 && c < frameChunks ls && (a + F - 1) / chunkBytes == c && (a - c * chunkBytes) % F == 0 &&
  (match Tab.look c al.chunks with
   | none => !al.used.any fun e => e.1 / chunkBytes == c
   | some z => z == F && (Tab.look a al.used).isNone)

/-- Take the frames that the host names (R165): the index of the first that fails, or the frames. -/
def takeHost (F : Nat) : Nat → List (Nat × Nat) → Tab Alloc → Except Nat (List FrameRef × Tab Alloc)
  | _, [], A => .ok ([], A)
  | n, (ls, a) :: t, A =>
    if hostFrameOk A F ls a then
      let al := A.fetch ls {}
      let A' := A.put ls { chunks := al.chunks.put (a / chunkBytes) F, used := al.used.put a F }
      match takeHost F (n + 1) t A' with
      | .ok r => .ok ({ stack := ls, addr := a } :: r.1, r.2)
      | .error k => .error k
    else .error n

/-- Enter a new segment: descriptor, fresh page headers, directory entry (R53, R162, R168). -/
def State.enterSeg (s : State) (q key shapeId gen entry desc : Nat) (sh : Shape) (st : SegState) (frames : List FrameRef)
    (A : Tab Alloc) : State :=
  let oldGen := match s.entryOf q key with | some (_, e) => e.gen | none => 0
  let g : Seg := { conv := keyConv key, tenant := keyTenant key, shapeId := shapeId, seg := keySeg key, gen := gen
                   frames := frames, counts := List.replicate sh.layers 0, oldGen := oldGen }
  let s := s.updStore q fun S => { S with allocs := A, segs := S.segs.put desc g }
  let hbm := frames.foldl (fun m f => (List.range 32).foldl (fun m p =>
    Mem.clear m (hbmAddr q f.stack (f.addr + p * sh.slot)) 64) m) s.hbm
  let s := { s with hbm := hbm }
  let order := match s.entryOf q key with | some (_, e) => e.tombOrder | none => 0
  (s.dirPut q entry { key := key, stack := 0, descAddr := desc, gen := gen, state := st, tombOrder := order }).count bPST q 0

/-- Allocate a segment (R162): the checks in order, then all of it. `addrs` are the host's frame addresses under
host-assisted allocation (R165). A staged PST_ALLOC_CTL takes effect before it (Table 13-3). -/
def State.allocSeg (s : State) (q key shapeId place gen : Nat) (sh : Shape) (st : SegState) (op : Inbound)
    (addrs : Option (List (Nat × Nat))) : AllocRes :=
  let s := if addrs.isNone then s.applyAt bPST q 4 else s
  let t := s.tenant (keyTenant key)
  let n := sh.nframes
  let have_ := s.entryOf q key
  let entry := match have_ with | some (a, _) => some a | none => s.freeEntry q
  if t.encrypt && t.curGen == 0 then .refused sKEYEPOCH s
  else if s.dirUsed (keyTenant key) + 1 > t.dirMax then .refused sQUOTA s
  else if s.poolUsed (keyTenant key) + n * sh.frame > t.poolMib * 2 ^ 20 then .refused sQUOTA s
  else match entry with
    | none => .refused sDIRFULL s
    | some a =>
      if s.pinLines q + n * sh.openLines > s.pinLimit q then .refused sPINFULL (s.count bPST q 2)
      else
        let full := fun (s : State) => AllocRes.refused sSTOREFULL (s.count bPST q 1)
        match (s.qtr q).heapPlace (ceilDiv (64 + 8 * n) 64) with
        | none => full s
        | some desc =>
          let enter := fun (s : State) (r : List FrameRef × Tab Alloc) =>
            let s := if have_.isNone && (Tab.look a (s.qtr q).dir.slots).isSome then s.dirDel q a else s
            AllocRes.done (s.enterSeg q key shapeId gen a desc sh st r.1 r.2)
          match addrs with
          | some l =>
            if l.length ≠ n then full (s.postFor (keyTenant key) 0 { pageEv key 0 0 sSTOREFULL with quarter := q })
            else match takeHost sh.frame 0 l (s.qtr q).store.allocs with
              | .ok r => enter s r
              | .error k => full (s.postFor (keyTenant key) 0 { pageEv key k 0 sSTOREFULL with quarter := q })
          | none =>
            if s.assisted 2 then
              let r := s.postAssist { tag := 0, kind := 2, q := q, key := key, words := [n, sh.frame] } (some (.alloc op)) []
              if r.1 then .parked r.2 else full (r.2.postFor (keyTenant key) 0 { pageEv key 0 0 sSTOREFULL with quarter := q })
            else match takeFrames (s.stackEligible q) place sh.frame (bit (s.reg bPST q 4) 4) n 0 (s.qtr q).store.allocs with
              | none => full s
              | some r => enter s r

/-! ### Release (R166, R167) -/

/-- A job, an issued sequence or a DMA descriptor names a frame (R166). -/
def State.frameNamed (s : State) (q ls a size : Nat) : Bool :=
  let Q := s.qtr q
  let overlaps := fun (d : Dma) =>
    if d.op = 0 then d.srcKind == 0 && d.src / 2 ^ 36 % 4 == ls && d.src % 2 ^ 36 < a + size && a < d.src % 2 ^ 36 + d.length
    else d.newStack == ls && d.newAddr == a
  (Q.core.jobs.any fun j => j.frames.any fun f => !f.spilled && f.stack == ls && f.addr == a) ||
  ((s.bank q ls).seqs.any fun e => e.2.any fun x => x.frameAddr == a) ||
  (Q.store.dmaQueue.any overlaps) ||
  (Q.store.engines.any fun e => match e.2.desc with | some d => overlaps d | none => false)

/-- The frames of a segment become releasable: spilled ones are released at once, HBM ones wait for their references and
their scrub; their cached pages are dropped (R166, R167, R172). An open page that a formed job reads is kept for it as a
held entry (DEDUCED, assumption 24). -/
def State.releaseSeg (s : State) (q key : Nat) : State :=
  match s.segOf q key with
  | none => s
  | some (a, g) =>
    let size := match s.shape g.tenant g.shapeId with | some sh => sh.frame | none => 0
    let tombGen := match s.entryOf q key with | some (_, e) => e.gen | none => g.gen
    let spilled := (g.frames.filter fun f => f.spilled).length
    let rel := (g.frames.filter fun f => !f.spilled).map fun f : FrameRef =>
      ({ stack := f.stack, addr := f.addr, size := size, key := key, gen := tombGen, tenant := g.tenant } : Release)
    let at_ := fun (x : JobFrame) => match g.frames[x.frame]? with | some r => r.stack == x.stack && r.addr == x.addr | none => false
    let jobsOn := fun (f : Nat) => ((s.qtr q).core.jobs.filter fun j =>
      j.frames.any fun x => x.key == key && x.frame == f && at_ x).map fun j => j.id
    let s := s.updStore q fun S => { S with
      segs := S.segs.del a
      releases := S.releases ++ rel
      cache := S.cache.filterMap fun e =>
        if e.key != key then some e
        else if e.kind == .held then some e
        else if e.kind == .open_ && jobsOn e.frame != [] then some { e with kind := .held, jobs := jobsOn e.frame }
        else none }
    s.count bPST q 3 spilled

/-- FRAME_SCRUB_DONE (R167): a frame with no reference has been zeroed, so that its ECC is good again, and returns to its free list. -/
def frameScrubDone (s : State) (n addr : Nat) : State :=
  let q := n / 4
  let ls := n % 4
  match (s.qtr q).store.releases.find? fun r => r.stack == ls && r.addr == addr with
  | none => s
  | some r =>
    if s.frameNamed q ls addr r.size || ((s.qtr q).pcd.coders.any fun c => c.2.key == some r.key && c.2.holding) then s
    else
      let s := { s with hbm := Mem.clear s.hbm (hbmAddr q ls addr) r.size }
      let s := s.updStack n fun S => { S with uncorrectable := S.uncorrectable.filter fun x => !(addr ≤ x && x < addr + r.size) }
      (s.updStore q fun S => { S with
        releases := S.releases.filter fun x => !(x.stack == ls && x.addr == addr)
        allocs := S.allocs.amend ls {} fun a => a.give addr }).count bPST q 3

/-- FRAME_SCRUB_DONE. -/
def execFrameScrubDone (stack : Fin 16) (addr : Nat) (s : State) : Host.Outcome State Fault Refusal :=
  .next (frameScrubDone s stack addr)

/-! ### Tickets (R186 to R188) -/

/-- Slot of a ticket ID in its Quarter's pool, and the Quarter. -/
def tkSlot (id : Nat) : Nat := id % 2 ^ 18
/-- Quarter of a ticket ID. -/
def tkQ (id : Nat) : Nat := id / 2 ^ 18 % 4

/-- The lowest number that is not in a rising list, from n. -/
def lowestFree : List Nat → Nat → Nat
  | [], n => n
  | a :: t, n => if a = n then lowestFree t (n + 1) else n

/-- Insert into a rising list. -/
def insertUp (n : Nat) : List Nat → List Nat
  | [] => [n]
  | a :: t => if n < a then n :: a :: t else if n = a then a :: t else a :: insertUp n t

/-- A ticket can be taken in Quarter q (R187). -/
def State.ticketFree (s : State) (q : Nat) : Bool := (s.qtr q).tk.inUse.length < 2 ^ 18

/-- HIGH_WM and LOW_WM in effect (Table 6-22). -/
def State.tkHigh (s : State) (q : Nat) : Nat := bits (s.reg bTKT q 8) 14 0
/-- LOW_WM in effect. -/
def State.tkLow (s : State) (q : Nat) : Nat :=
  let l := bits (s.reg bTKT q 8) 30 16
  if l ≥ s.tkHigh q then s.tkHigh q - 1 else l

/-- Handing tickets to the spill pool starts above HIGH_WM and stops at LOW_WM (R187). -/
def State.tkLevel (s : State) (q : Nat) : State :=
  let n := (s.qtr q).tk.onChip.length
  s.updTk q fun T => { T with spilling := if n > s.tkHigh q then true else if n ≤ s.tkLow q then false else T.spilling }

/-- Take a ticket in Quarter q: on chip, or in the spill pool while the on-chip pool is full (R187). Its ID, or none when
the allocation bitmap is full. -/
def State.takeTicket (s : State) (q : Nat) (t : Ticket) : Option Nat × State :=
  let T := (s.qtr q).tk
  if T.inUse.length ≥ 2 ^ 18 then (none, s.count bTKT q 1)
  else
    let slot := lowestFree T.inUse 0
    let id := q * 2 ^ 18 + slot
    let full := T.onChip.length ≥ 16384
    let t := { t with id := id, ownerSpill := full }
    let s := s.updTk q fun T =>
      { T with inUse := insertUp slot T.inUse, touched := T.touched ++ [slot]
               onChip := if full then T.onChip else T.onChip.put slot t
               spill := if full then T.spill.put slot t else T.spill }
    (some id, (s.count bTKT q 0).tkLevel q)

/-- The live record of a ticket. -/
def State.ticket (s : State) (id : Nat) : Option Ticket :=
  let T := (s.qtr (tkQ id)).tk
  if !T.inUse.contains (tkSlot id) then none
  else match T.onChip.look (tkSlot id) with
    | some t => if t.moved then none else some t
    | none => match T.spill.look (tkSlot id) with
      | some t => if t.moved then none else some t
      | none => none

/-- Change the live record of a ticket; the event touches it (R187). -/
def State.updTicket (s : State) (id : Nat) (f : Ticket → Ticket) : State :=
  let slot := tkSlot id
  s.updTk (tkQ id) fun T =>
    let T := { T with touched := (T.touched.filter fun x => x != slot) ++ [slot] }
    match T.onChip.look slot with
    | some t => { T with onChip := T.onChip.put slot (f t) }
    | none => match T.spill.look slot with
      | some t => { T with spill := T.spill.put slot (f t) }
      | none => T

/-- A fan-out ticket uses a conversation map version (R64). -/
def Ticket.usesMap (t : Ticket) (m : ConvMap) : Bool :=
  t.kind == 2 && t.tenant == keyTenant m.key && t.conv == keyConv m.key && t.mapVer == m.version

/-- Some ticket of the node uses a map version. -/
def State.mapUsed (s : State) (m : ConvMap) : Bool :=
  s.quarters.any fun e => e.2.tk.onChip.any (fun t => t.2.usesMap m) || e.2.tk.spill.any (fun t => t.2.usesMap m)

/-- A conversation map version that no ticket uses any more is dropped (R64). -/
def State.dropMaps (s : State) : State :=
  { s with quarters := s.quarters.map fun e =>
      (e.1, { e.2 with maps := e.2.maps.filter (fun m => m.current || s.mapUsed m) }) }

/-- Release a ticket: its ID is free (R186). -/
def State.freeTicket (s : State) (id : Nat) : State :=
  let slot := tkSlot id
  ((s.updTk (tkQ id) fun T =>
    { T with inUse := T.inUse.filter fun x => x != slot, touched := T.touched.filter fun x => x != slot
             orphans := T.orphans.filter fun x => x != slot
             onChip := T.onChip.del slot, spill := T.spill.del slot }).tkLevel (tkQ id)).dropMaps

/-- TICKET_HANDOFF (R187, R188): to the on-chip pool a spilled ticket that an event touches; to the spill pool the least
recently touched ticket while the on-chip pool is above its level. Both phases take effect together; an interrupted handoff
is what POOL_FAILURE resolves. -/
def ticketHandoff (s : State) (q slot : Nat) (toSpill : Bool) : State :=
  let T := (s.qtr q).tk
  if !T.inUse.contains slot then s
  else if toSpill then
    match T.onChip.look slot with
    | none => s
    | some t =>
      if T.spilling ∧ (T.touched.find? fun x => (T.onChip.look x).isSome) = some slot then
        ((s.updTk q fun T => { T with
          onChip := T.onChip.del slot
          spill := T.spill.put slot { t with epoch := (t.epoch + 1) % 65536, ownerSpill := true } }).tkLevel q).count bTKT q 2
      else s
  else
    match T.onChip.look slot, T.spill.look slot with
    | none, some t =>
      if t.moved ∨ T.onChip.length ≥ 16384 then s
      else
        let e := (t.epoch + 1) % 65536
        ((s.updTk q fun T => { T with
          onChip := T.onChip.put slot { t with epoch := e, ownerSpill := false }
          spill := T.spill.put slot { t with epoch := e, ownerSpill := false, moved := true } }).tkLevel q).count bTKT q 3
    | _, _ => s

/-- TICKET_HANDOFF. -/
def execTicketHandoff (q : Fin 4) (id : Nat) (toSpill : Bool) (s : State) : Host.Outcome State Fault Refusal :=
  .next (ticketHandoff s q (tkSlot id) toSpill)

end Sys2Proof.Machine
end

