-- ==== Sys2Proof/Machine/Wire.lean ====
section
/-!
DEFINITION. The sending side of Epcen (ch. 08): register limits, addresses and routes, building a frame and queueing it at
a port, opening and failing a connection, and the acknowledgement that a connection sends.
-/
namespace Sys2Proof.Machine

/-! ### Limits from the registers (Tables 8-14 to 8-21) -/

/-- RTO_MIN_US in effect. -/
def State.rtoMin (s : State) (q : Nat) : Nat := clampN (bits (s.reg bXPT q 8) 7 0) 16 8000
/-- RTO_MAX_US in effect. -/
def State.rtoMax (s : State) (q : Nat) : Nat := clampN (bits (s.reg bXPT q 8) 29 16) (s.rtoMin q) 8000
/-- RTO_INIT_US in effect. -/
def State.rtoInit (s : State) (q : Nat) : Nat := clampN (bits (s.reg bXPT q 8) 15 8) (s.rtoMin q) (s.rtoMax q)
/-- One full packet: the window floor (R235). -/
def cwndFloor : Nat := 4160
/-- CWND_MAX in effect. -/
def State.cwndMax (s : State) (q : Nat) : Nat := clampN (s.reg bXPT q 0x14) cwndFloor 266240
/-- CWND_INIT in effect. -/
def State.cwndInit (s : State) (q : Nat) : Nat := clampN (s.reg bXPT q 0x10) cwndFloor (s.cwndMax q)
/-- AI_BYTES in effect. -/
def State.aiBytes (s : State) (q : Nat) : Nat :=
  let v := bits (s.reg bXPT q 0x18) 15 0; if v = 0 then 64 else v
/-- MD_SHIFT in effect. -/
def State.mdShift (s : State) (q : Nat) : Nat :=
  let v := bits (s.reg bXPT q 0x18) 18 16; if v = 0 then 1 else v
/-- RTT_TARGET_US. -/
def State.rttTarget (s : State) (q : Nat) : Nat := bits (s.reg bXPT q 0x18) 31 20
/-- ACK_DELAY_NS in effect. -/
def State.ackDelay (s : State) (q : Nat) : Nat := max 100 (bits (s.reg bXPT q 4) 15 0)
/-- ACK_COAL in effect. -/
def State.ackCoal (s : State) (q : Nat) : Nat := max 1 (bits (s.reg bXPT q 4) 19 16)
/-- UDP_PORT in effect. -/
def State.udpPort (s : State) (q : Nat) : Nat := let v := s.reg bXPT q 0 % 65536; if v = 0 then 0x4C4D else v

/-! ### Addresses and routes (R213, R244) -/

/-- The fabric prefix of the image in use. -/
def State.fabricPfx (s : State) : Nat := match s.boot.image with | some i => i.fabricPfx | none => 0

/-- The derived address of port p of a node (R213). -/
def State.derivedAddr (s : State) (node p : Nat) : Nat := s.fabricPfx * 2 ^ 64 + node * 65536 + p

/-- Port p is up for the routing rule: its link is up and not looped back (R244, R284). -/
def State.portUsable (s : State) (p : Nat) : Bool := (s.qtr p).port.linkUp && !bit (s.reg bPORT p 4) 13

/-- A node ID of a peer (R247). -/
def isPeer (node : Nat) : Bool := node ≤ 16383

/-- The port by which a packet of connection i leaves, if there is one (R244). -/
def State.routeOf (s : State) (i : Nat) (c : Conn) : Option Nat :=
  let own := i / 16384
  if s.boot.nodeId.isNone then none
  else if !isPeer c.remoteNode then (if s.portUsable own then some own else none)
  else
    let ports := (s.qtr own).xpt.routes.fetch c.remoteNode 0
    let usable := [0, 1, 2, 3].filter fun p => bit ports p && s.portUsable p
    if usable.contains own then some own else usable[i % max 1 usable.length]?

/-- Where packets of a connection go: a peer's derived address for its port, or the requester's address. -/
def State.remoteAddrOf (s : State) (c : Conn) : Nat :=
  if isPeer c.remoteNode then s.derivedAddr c.remoteNode c.remotePort else c.remoteAddr

/-! ### Frames (R210, R214, R217) -/

/-- The fields of an Epcen header (Table 8-2). -/
structure Hdr where
  prot : Bool := false
  ackReq : Bool := false
  last : Bool := false
  opcode : Nat
  srcNode : Nat := 0xFFFF
  dstNode : Nat := 0xFFFF
  tenant : Nat := 0
  tc : Nat := 0
  hint : Option Nat := none
  dstConn : Nat := 0xFFFFFF
  srcConn : Nat := 0xFFFFFF
  psn : Nat := 0
  ackPsn : Nat := 0
  ackValid : Bool := false
  ece : Bool := false
  msn : Nat := 0
  idx : Nat := 0
  payLen : Nat := 0
  deriving DecidableEq, Repr

/-- The 32 bytes of a header (Table 8-2). -/
def Hdr.bytes (h : Hdr) : Bytes :=
  leBytes 1 (1 + 16 * b2n h.prot + 64 * b2n h.ackReq + 128 * b2n h.last) ++ leBytes 1 h.opcode ++
  leBytes 2 h.srcNode ++ leBytes 2 h.dstNode ++ leBytes 1 h.tenant ++
  leBytes 1 (h.tc + (match h.hint with | some q => 8 + 16 * q | none => 0)) ++
  leBytes 4 h.dstConn ++ leBytes 4 h.srcConn ++ leBytes 4 h.psn ++
  leBytes 4 (h.ackPsn + 2 ^ 24 * b2n h.ackValid + 2 ^ 25 * b2n h.ece) ++
  leBytes 2 h.msn ++ leBytes 2 h.idx ++ leBytes 2 h.payLen ++ leBytes 2 0

/-- The header fields that a received header carries. -/
def Hdr.ofBytes (b : Bytes) : Hdr :=
  { prot := bits (byteAt b 0) 5 4 == 1, ackReq := bit (byteAt b 0) 6, last := bit (byteAt b 0) 7, opcode := byteAt b 1
    srcNode := fieldAt b 2 2, dstNode := fieldAt b 4 2, tenant := byteAt b 6 % 64, tc := byteAt b 7 % 8
    hint := if bit (byteAt b 7) 3 then some (bits (byteAt b 7) 5 4) else none
    dstConn := fieldAt b 8 3, srcConn := fieldAt b 12 3, psn := fieldAt b 16 3, ackPsn := fieldAt b 20 3
    ackValid := bit (byteAt b 23) 0, ece := bit (byteAt b 23) 1, msn := fieldAt b 24 2, idx := fieldAt b 26 2
    payLen := fieldAt b 28 2 % 8192 }

/-- Bytes of a whole frame with a payload of n bytes, from destination MAC to FCS (Table 8-1). -/
def frameLen (prot : Bool) (n : Nat) : Nat := 14 + 4 + 40 + 8 + 32 + n + 4 + (if prot then 32 else 4)

/-- The 24-bit ID of connection i (R220). -/
def connId (i : Nat) (c : Conn) : Nat := i + c.incarn % 256 * 65536

/-- Seal a frame: CRC-32C for PROT 0, GCM for PROT 1 under the sender's current key (R217). -/
def sealFrame (c : Conn) (id : Nat) (h : Hdr) (payload : Bytes) : TxFrame :=
  let head := h.bytes
  let base : TxFrame :=
    { conn := id, tenant := h.tenant, tc := h.tc, bytes := frameLen h.prot payload.length, opcode := h.opcode, psn := h.psn
      header := head }
  if h.prot then
    let nonce := h.srcConn + c.keys.txCount * 2 ^ 32
    let sec := leBytes 1 (c.keys.txEpoch % 16) ++ leBytes 3 0 ++ leBytes 12 nonce
    let key := Config.kdf c.keys.secret c.keys.txEpoch (if c.opener then 0 else 1)
    let ct := (List.range payload.length).map fun k => payload.getD k 0 ^^^ Config.gcmStream key nonce k
    { base with sec := sec, payload := ct, trailer := leBytes 16 (Config.gcmTag key nonce (head ++ sec) ct) }
  else { base with payload := payload, trailer := leBytes 4 (crc32c (head ++ payload)) }

/-! ### Port queues (ch. 10) -/

/-- A class of a port takes frames: PORT_CLASSc.EN (R288). -/
def State.classEn (s : State) (p c : Nat) : Bool := bit (s.reg bPORT p (0x100 + 4 * c)) 0

/-- Where a resend stands in its queue: ahead of every new packet of its connection (ch. 10). -/
def insertResend (f : TxFrame) : List TxFrame → List TxFrame
  | [] => [f]
  | g :: t => if g.conn = f.conn ∧ !g.resend then f :: g :: t else g :: insertResend f t

/-- A class with a frame added to its tenant's queue; a queue that becomes active goes to the tail (R293). -/
def TxClass.enqueue (k : TxClass) (f : TxFrame) : TxClass :=
  if k.round.any fun q => q.tenant == f.tenant then
    { k with round := k.round.map fun q =>
        if q.tenant == f.tenant then
          { q with frames := if f.resend then insertResend f q.frames else q.frames ++ [f] } else q }
  else { k with round := k.round ++ [{ tenant := f.tenant, frames := [f] }] }

/-- Hand a frame to port p: it joins its queue, or is discarded and counted while its class is disabled (R288). -/
def State.toPort (s : State) (p : Nat) (f : TxFrame) : State :=
  if s.classEn p f.tc then
    s.updPort p fun P => { P with classes := P.classes.amend f.tc {} fun k => k.enqueue f }
  else s.count bPORT p 15

/-- A written routing table takes effect before the next packet (R243, Table 13-3). -/
def State.newRoutes (s : State) (q : Nat) : State :=
  s.updXpt q fun X => match X.routesNew with | some t => { X with routes := t, routesNew := none } | none => X

/-- Send a frame of connection i: TX_COUNT and the send epoch move, and the frame joins the queue of the port that the
route gives; with no usable port nothing is sent (R244, R316). -/
def State.sendOn (s : State) (i : Nat) (h : Hdr) (payload : Bytes) (resend : Bool) : State :=
  let q := i / 16384
  let s := s.newRoutes q
  let c := s.conn i
  let log := clampN (bits (s.reg bSEC 0 0x10) 5 0) 20 48
  let adv := h.prot && (c.keys.rotate || c.keys.txCount ≥ 2 ^ log)
  let keys := if adv then { c.keys with txEpoch := c.keys.txEpoch + 1, txCount := 0, rotate := false } else c.keys
  let s := if adv then s.count bSEC 0 4 else s
  match s.routeOf i c with
  | none => s.updConn i fun c => { c with keys := keys }
  | some p =>
    let f := { sealFrame { c with keys := keys } (connId i c) h payload with resend := resend, dst := s.remoteAddrOf c }
    let keys := if h.prot then { keys with txCount := keys.txCount + 1 } else keys
    ((s.updConn i fun c => { c with keys := keys }).toPort p f).count bXPT q 1

/-- The header of a packet of connection i. -/
def State.connHdr (s : State) (i : Nat) (opcode : Nat) : Hdr :=
  let c := s.conn i
  { prot := c.prot, opcode := opcode, srcNode := s.boot.nodeId.getD 0xFFFF, dstNode := c.remoteNode, tenant := c.tenant
    tc := c.tc, dstConn := c.remoteConn, srcConn := connId i c }

/-! ### HELLO (R223, R224) -/

/-- A HELLO body (Table 8-8); a protected OPEN or ACCEPT carries the agreement fields (R313). -/
def helloBody (kind : Nat) (protect : Bool) (status init : Nat) (fields : Option Nat) : Bytes :=
  leBytes 1 (kind + 4 * b2n protect) ++ leBytes 1 status ++ leBytes 2 0 ++ leBytes 4 init ++ leBytes 24 0 ++
    (match fields with | some v => leBytes 420 v | none => [])

/-- Send a HELLO on connection i. It carries PROT = 0 (R223). -/
def State.sendHello (s : State) (i kind status : Nat) : State :=
  let c := s.conn i
  let withFields := c.prot && kind ≤ 1
  let r := if withFields then s.drawTrng else (0, s)
  let body := helloBody kind (c.prot && kind ≤ 1) status (if kind ≤ 1 then c.initPsn else 0)
    (if withFields then some (Config.sm2Fields r.1) else none)
  let h := { r.2.connHdr i 1 with prot := false, payLen := body.length
                                  dstConn := if kind = 0 then 0xFFFFFF else c.remoteConn }
  r.2.sendOn i h body false

/-- Send a RESET that answers a packet which has no connection: it names the connection that the packet named (R224). -/
def State.sendReset (s : State) (p : Nat) (toAddr : Nat) (rx : Hdr) (status : Nat) : State :=
  if !s.portUsable p || s.boot.nodeId.isNone then s
  else
    let body := helloBody 3 false status 0 none
    let h : Hdr :=
      { opcode := 1, srcNode := s.boot.nodeId.getD 0xFFFF, dstNode := rx.srcNode, tenant := rx.tenant, tc := rx.tc
        dstConn := rx.srcConn, srcConn := rx.dstConn, payLen := body.length }
    (((s.toPort p { sealFrame {} rx.dstConn h body with dst := toAddr }).count bXPT p 1).count bXPT p 15)

/-- The lowest FREE index of a Quarter (R224). -/
def State.freeConnIdx (s : State) (q : Nat) : Option Nat :=
  let live := (s.qtr q).xpt.conns.filter fun e => e.2.state != .free
  (Tab.freeFrom live 16384 0).map (· + q * 16384)

/-- Connections of a tenant that are not FREE (Table 11-18). -/
def State.connsOf (s : State) (t : Nat) : Nat :=
  (s.quarters.map fun e => e.2.xpt.conns.count fun c => c.state != .free && c.tenant == t).sum

/-- A new connection on a FREE index, its context cached (R236, R239). -/
def State.startConn (s : State) (i : Nat) (c : Conn) : State :=
  let q := i / 16384
  let old := s.conn i
  let s := s.updConn i fun _ => { c with incarn := old.incarn, cwnd := s.cwndInit q, rto := s.rtoInit q * 1000
                                         lastActive := s.time }
  s.updXpt q fun X => { X with ctx := X.ctx.put (i % 16384) { dirty := true, used := s.time } }

/-- Open a connection of Quarter q to a peer's port q for a tenant (R219, R224): its index, or none when no index is free
or the tenant's limit is reached. The class is 0 (DESIGN CHOICE, assumption 20). -/
def State.openConn (s : State) (q node tenant : Nat) : Option Nat × State :=
  match s.freeConnIdx q with
  | none => (none, s)
  | some i =>
    if s.connsOf tenant ≥ (s.tenant tenant).connMax then (none, s)
    else
      let r := s.drawTrng
      let init := r.1 % 2 ^ 24
      let s := r.2.startConn i
        { state := .opening, opener := true, peerOpener := false, remoteNode := node, remotePort := q, tenant := tenant
          prot := (s.tenant tenant).wireProt || s.sec.conf, initPsn := init, nextPsn := init, ackPsn := init }
      let s := s.updConn i fun c => { c with ctlTimerAt := some (s.time + c.rto) }
      (some i, s.sendHello i 0 0)

/-- The connection that carries messages of Quarter q to a peer for a tenant: the one in use, or a new one (R219, R257). -/
def State.peerConn (s : State) (q node tenant : Nat) : Option Nat × State :=
  match (s.qtr q).xpt.conns.find? fun e =>
      (e.2.state == .opening || e.2.state == .opened) && e.2.opener && e.2.remoteNode == node && e.2.tenant == tenant with
  | some e => (some (q * 16384 + e.1), s)
  | none => s.openConn q node tenant

/-! ### The end of a connection (R221, R225, R233) -/

/-- The messages of a connection that are not wholly acknowledged, by their sending units (R231, R233). -/
def Conn.owners (c : Conn) : List MsgOwner :=
  ((c.flight.filter fun p => p.last).map fun p => p.owner) ++ c.queue.map fun m => m.owner

/-- The index returns to FREE: INCARN increases, and the context is dropped (R220). -/
def State.freeConn (s : State) (i : Nat) : State :=
  let s := s.updConn i fun c => { incarn := (c.incarn + 1) % 256 }
  s.updXpt (i / 16384) fun X => { X with ctx := X.ctx.del (i % 16384), miss := X.miss.filter fun m => m.conn != i }

/-- OPENING ends without success: FREE, and its messages complete with CONN_ERROR (Table 8-6). -/
def State.failOpening (s : State) (i : Nat) : State :=
  let c := s.conn i
  { s.freeConn i with unitErrs := s.unitErrs ++ (c.owners.map fun o => (o, sCONNERR)) ++
      [(MsgOwner.conn i c.remoteNode c.tenant, sCONNERR)] }

/-- The connection goes to ERROR: copies and partly received messages go, each message not wholly acknowledged completes
with `status` at its sending unit, and an event names the connection (R233). -/
def State.connError (s : State) (i : Nat) (status : Nat) : State :=
  let c := s.conn i
  let s := { s with unitErrs := s.unitErrs ++ (c.owners.map fun o => (o, status)) ++
    [(MsgOwner.conn i c.remoteNode c.tenant, status)] }
  let s := s.updConn i fun c =>
    { c with state := .error, errAt := s.time, flight := [], queue := [], sentOfHead := 0, heldRx := [], rxPart := []
             idxRx := 0, timerAt := none, ctlTimerAt := none, ackDueAt := none, ackRun := 0 }
  let s := s.count bXPT (i / 16384) 12
  s.postFor c.tenant 0 { type := 0x07, code := sCONNERR, quarter := i / 16384, p0 := connId i c, p1 := c.remoteNode }

/-- A closing connection goes on: its own CLOSE is sent once nothing of its own is outstanding, and it is FREE once both
ends have sent CLOSE (R225). -/
def State.closeStep (s : State) (i : Nat) : State :=
  let c := s.conn i
  if c.state = .closing ∧ c.flight = [] ∧ c.queue = [] then
    let s := if c.closeSent then s else
      (s.updConn i fun c => { c with closeSent := true, ctlTimerAt := some (s.time + c.rto), ctlRetries := 0 }).sendHello i 2 0
    if (s.conn i).closeRcvd then s.freeConn i else s
  else s

/-! ### Acknowledgements and resends (R228, R231) -/

/-- Send an ACK: ePSN, ECE and the SACK bitmap (R228, R229). -/
def State.sendAck (s : State) (i : Nat) : State :=
  let c := s.conn i
  let sack := c.heldRx.foldl (fun a p =>
    let d := serialDiff 16777216 p.psn c.ePsn
    if 1 ≤ d ∧ d ≤ 64 then setBit a (d - 1) true else a) 0
  let h := { s.connHdr i 2 with ackPsn := c.ePsn, ackValid := true, ece := c.ceNew, payLen := 8 }
  let s := s.updConn i fun c => { c with ackRun := 0, ackDueAt := none, ceNew := false }
  s.sendOn i h (leBytes 8 sack) false

/-- Put a packet of the flight on the wire, for the first time or again. It carries the current ePSN, which counts as an
ACK (R228). -/
def State.transmit (s : State) (i : Nat) (p : TxPkt) (resend : Bool) : State :=
  let c := s.conn i
  let h := { s.connHdr i p.opcode with
    last := p.last, psn := p.psn, msn := p.msn % 65536, idx := p.idx, payLen := p.payload.length, hint := p.hint
    ackPsn := c.ePsn, ackValid := true, ece := c.ceNew }
  let s := s.updConn i fun c => { c with ackRun := 0, ackDueAt := none, ceNew := false, lastActive := s.time }
  let s := s.sendOn i h p.payload resend
  if resend then s.count bXPT (i / 16384) 2 else s

/-- Resend packet `psn` of connection i (R231): it is marked as resent, so it gives no RTT sample. -/
def State.resendPkt (s : State) (i psn : Nat) : State :=
  match (s.conn i).flight.find? fun p => p.psn == psn with
  | none => s
  | some p =>
    let s := s.updConn i fun c => { c with flight := c.flight.map fun x =>
      if x.psn = psn then { x with resent := true, retryAt := none } else x }
    s.transmit i p true

/-- Bytes that a packet counts (R235). -/
def TxPkt.size (p : TxPkt) : Nat := p.payload.length + 64

/-- Outstanding bytes of a connection (R231, R235). -/
def Conn.outstanding (c : Conn) : Nat := ((c.flight.filter fun p => !p.sacked).map TxPkt.size).sum

/-- Bytes of copies in the retransmit buffer of a Quarter (R231). -/
def State.rtxBytes (s : State) (q : Nat) : Nat :=
  ((s.qtr q).xpt.conns.map fun e => (e.2.flight.map TxPkt.size).sum).sum

end Sys2Proof.Machine
end

