-- ==== Sys2Proof/Machine/Cache.lean ====
section
/-!
DEFINITION. The page cache and the writing of pages (ch. 02, 06): lines, eviction, the open page of a frame, page fill and
seal, write-back and held entries.
-/
namespace Sys2Proof.Machine

/-! ### Lines (R169 to R172, R184) -/

/-- Lines of the page cache (ch. 06). -/
def cacheLines : Nat := 49152

/-- Lines that the entries of some kinds take. -/
def State.linesOf (s : State) (q : Nat) (want : CacheKind → Bool) : Nat :=
  ((s.qtr q).store.cache.map fun e => if want e.kind then e.lines else 0).sum

/-- Unpinned lines: those that no pin reservation holds. -/
def State.unpinned (s : State) (q : Nat) : Nat := cacheLines - s.pinLines q

/-- An entry of this kind is made of unpinned lines and is never evicted (R46, R184). -/
def CacheKind.kept : CacheKind → Bool
  | .writeback => true | .held => true | .open_ => false | .readPage => false

/-- Unpinned lines that write-back and held entries leave (R172). -/
def State.roomLines (s : State) (q : Nat) : Nat := s.unpinned q - s.linesOf q CacheKind.kept

/-- The least recently used read page. -/
def lruRead (l : List CacheEntry) : Option CacheEntry :=
  (l.filter fun e => e.kind == .readPage).foldl (fun (a : Option CacheEntry) e =>
    match a with | none => some e | some b => if e.used < b.used then some e else some b) none

/-- Evict read pages, least recently used first, until those left fit in `room` lines. -/
def evictTo (room : Nat) : Nat → List CacheEntry → List CacheEntry
  | 0, l => l
  | fuel + 1, l =>
    if (l.map fun e => if e.kind = .readPage then e.lines else 0).sum ≤ room then l
    else match lruRead l with
      | none => l
      | some v => evictTo room fuel (l.filter fun e => !(e == v))

/-- Evict what no longer fits: read pages beyond the unpinned lines that other entries leave (R172). -/
def State.trimReads (s : State) (q : Nat) : State :=
  let room := s.roomLines q
  s.updStore q fun S => { S with cache := evictTo room S.cache.length S.cache }

/-- Add an entry to the page cache; a read page that no longer fits beside it goes (R184). -/
def State.addCache (s : State) (q : Nat) (e : CacheEntry) : State :=
  (s.updStore q fun S => { S with cache := S.cache ++ [{ e with used := S.clock }], clock := S.clock + 1 }).trimReads q

/-- The page cache serves a read: the entry becomes the most recently used. -/
def State.touchCache (s : State) (q key frame page : Nat) : State :=
  s.updStore q fun S => { S with
    clock := S.clock + 1
    cache := S.cache.map fun e =>
      (if e.key = key ∧ e.frame = frame ∧ e.page = page then { e with used := S.clock } else e) }

/-- FILL in effect: 3 is treated as 1 (Table 6-12). -/
def State.fillMode (s : State) (q : Nat) : Nat := let f := bits (s.reg bPST q 0x20) 9 8; if f = 3 then 1 else f

/-- Fill the cache with a page that a job read, when the entry fits in the lines that pins, write-back and held entries
leave (R172). -/
def State.fillRead (s : State) (q key frame page stk addr : Nat) (sh : Shape) (h : PageHdr) (pay : Bytes) : State :=
  if sh.lines ≤ s.roomLines q then
    let head := { h with coded := false, enc := false, kLen := sh.kb, vLen := sh.vb }
    s.addCache q { kind := .readPage, key := key, frame := frame, page := page, stack := stk, addr := addr
                   lines := sh.lines, slot := memOf (head.bytes ++ pay) }
  else s

/-- A page of a frame waits in a write-back entry. -/
def State.inWriteback (s : State) (q key frame page : Nat) : Bool :=
  (s.cacheOf q key frame page fun k => k == .writeback).isSome

/-! ### The open page of a frame (R40, R43, R46, R170) -/

/-- The open-page entry of a frame. -/
def State.openOf (s : State) (q key frame : Nat) : Option CacheEntry :=
  (s.qtr q).store.cache.find? fun e => e.kind == .open_ && e.key == key && e.frame == frame

/-- Tokens of a plain entry. -/
def CacheEntry.tokens (e : CacheEntry) : Nat := (Mem.get 0 e.slot).toNat % 128

/-- A plain entry's header: its tokens, CODED and ENC clear (R169). -/
def CacheEntry.setTokens (e : CacheEntry) (sh : Shape) (n : Nat) : CacheEntry :=
  { e with slot := Mem.write e.slot 0 (({ tokens := n, kLen := sh.kb, vLen := sh.vb } : PageHdr).bytes.take 8) }

/-- Set the form of V block b of an entry. -/
def CacheEntry.setForm (e : CacheEntry) (b f : Nat) : CacheEntry :=
  { e with vform := if b = 0 then [f, e.vform.getD 1 0] else [e.vform.getD 0 0, f] }

/-- The K elements and scales of one token from its BF16 values (R41). -/
def quantKey (sh : Shape) (k : List Nat) : Bytes × Bytes :=
  let blocks := (chunks32 sh.sc k).map fun b => quantBlock sh.k8 (b.map fun x => dyOf (ofBF16 x))
  (blocks.flatMap fun b => elemBytes sh.k8 b.2, blocks.map fun b => BitVec.ofNat 8 b.1)

/-- Store one BF16 token at place t of an open page (R43, R44). -/
def CacheEntry.putTok (e : CacheEntry) (sh : Shape) (t : Nat) (k v : List Nat) : CacheEntry :=
  let kq := quantKey sh k
  let slot := Mem.write (Mem.write e.slot (64 + t * sh.aK) kq.1) (64 + sh.kb + sh.vb + t * sh.sc) kq.2
  let vals := ((List.range sh.d).zip v).foldl (fun m x => Tab.put (t * sh.d + x.1) x.2 m) e.v
  (({ e with slot := slot, v := vals }).setForm (t / 32) 1).setTokens sh (t + 1)

/-- The four parts of a pre-quantised block of 32 tokens (R250). -/
structure PreBlock where
  k : Bytes
  ks : Bytes
  v : Bytes
  vs : Bytes
  deriving DecidableEq, Repr

/-- Store a pre-quantised block as block b of an open page. -/
def CacheEntry.putBlk (e : CacheEntry) (sh : Shape) (b : Nat) (x : PreBlock) : CacheEntry :=
  let m := Mem.write (Mem.write e.slot (64 + 32 * b * sh.aK) x.k) (64 + sh.kb + sh.vb + 32 * b * sh.sc) x.ks
  let m := Mem.write (Mem.write m (64 + sh.kb + 32 * b * sh.aV) x.v) (64 + sh.kb + sh.vb + 64 * sh.sc + b * sh.d) x.vs
  (({ e with slot := m }).setForm b 2).setTokens sh (32 * b + 32)

/-- Write the final quantisation of one BF16 V block into a slot (R46). -/
def finalBlock (sh : Shape) (e : CacheEntry) (tokens : Nat) (m : Mem) (b : Nat) : Mem :=
  if e.vform.getD b 0 = 1 ∧ 32 * b < tokens then
    let r := finalV sh e.v b tokens
    let m := ((List.range 32).zip r.1).foldl (fun m x => Mem.write m (64 + sh.kb + (32 * b + x.1) * sh.aV) x.2) m
    Mem.write m (64 + sh.kb + sh.vb + 64 * sh.sc + b * sh.d) r.2
  else m

/-- The plain slot of a page that fills or is sealed (R46). -/
def CacheEntry.final (e : CacheEntry) (sh : Shape) : Mem :=
  finalBlock sh e e.tokens (finalBlock sh e e.tokens e.slot 0) 1

/-! ### Writing a page to its slot (R46, R184, R305) -/

/-- Write a plain slot to its frame in stored form: the current key and the segment's generation apply (R305). -/
def State.writeSlot (s : State) (q key gen frame page : Nat) (fr : FrameRef) (sh : Shape) (plain : Mem) : State :=
  let h := PageHdr.ofBytes (Mem.read plain 0 64)
  s.stackWrite q fr.stack (fr.addr + page * sh.slot) sh.slot
    (memOf (s.storedSlot key gen frame page sh h (Mem.read plain 64 sh.payload)))

/-- The slot write of a page meets NOT_READY (R184). -/
def State.writeBlocked (s : State) (q page : Nat) (fr : FrameRef) (sh : Shape) : Bool :=
  s.notReady q fr.stack (fr.addr + page * sh.slot) false

/-- Jobs formed on a frame that read a page of it (R46, R103). -/
def State.readersOf (s : State) (q key frame page : Nat) : List Nat :=
  ((s.qtr q).core.jobs.filter fun j =>
    j.firstRun ≤ keySeg key * 4 + page / 8 && keySeg key * 4 + page / 8 < j.firstRun + j.runs &&
      j.frames.any fun x => x.key == key && x.frame == frame).map fun j => j.id

/-- Unpinned lines that writing a finished page needs: a held entry for the jobs that read it, and a write-back entry while
its slot cannot be written (R46, R184). -/
def State.linesToClose (s : State) (q key frame page : Nat) (fr : FrameRef) (sh : Shape) : Nat :=
  (if s.readersOf q key frame page = [] then 0 else sh.openLines) + (if s.writeBlocked q page fr sh then sh.lines else 0)

/-- A finished page leaves the open state (R46): its slot is written, or waits in a write-back entry (R184), and its
retained values stay in a held entry while jobs formed before read them. -/
def State.closePage (s : State) (q key gen frame page : Nat) (fr : FrameRef) (sh : Shape) (e : CacheEntry) : State :=
  let plain := e.final sh
  let jobs := s.readersOf q key frame page
  let s := if jobs = [] then s else s.addCache q { e with kind := .held, slot := plain, jobs := jobs, lines := sh.openLines }
  if s.writeBlocked q page fr sh then
    s.addCache q { e with kind := .writeback, slot := plain, v := [], jobs := [], lines := sh.lines }
  else s.writeSlot q key gen frame page fr sh plain

/-! ### Appending to a frame -/

/-- What an append supplies, by layer and head of the append (R250). -/
structure AppendData where
  preq : Bool
  count : Nat
  kvh : Nat
  sh : Shape
  body : Bytes
  deriving DecidableEq, Repr

/-- `n` 16-bit values from byte `off`. -/
def u16s (b : Bytes) (off n : Nat) : List Nat :=
  let b := b.drop off
  (List.range n).map fun i => fieldAt b (2 * i) 2

/-- The K and V values of token k of layer li and head h of a BF16 append. -/
def AppendData.tok (a : AppendData) (li h k : Nat) : List Nat × List Nat :=
  let off := 48 + ((li * a.kvh + h) * a.count + k) * 4 * a.sh.d
  (u16s a.body off a.sh.d, u16s a.body (off + 2 * a.sh.d) a.sh.d)

/-- Bytes of a pre-quantised block. -/
def Shape.preLen (sh : Shape) : Nat := 32 * sh.aK + 32 * sh.sc + 32 * sh.aV + sh.d

/-- Block j of layer li and head h of a pre-quantised append. -/
def AppendData.blk (a : AppendData) (li h j : Nat) : PreBlock :=
  let sh := a.sh
  let b := a.body.drop (48 + ((li * a.kvh + h) * (a.count / 32) + j) * sh.preLen)
  { k := b.take (32 * sh.aK), ks := (b.drop (32 * sh.aK)).take (32 * sh.sc)
    v := (b.drop (32 * sh.aK + 32 * sh.sc)).take (32 * sh.aV)
    vs := (b.drop (32 * sh.aK + 32 * sh.sc + 32 * sh.aV)).take sh.d }

/-- Bytes of data that an append of some layers carries (R250). -/
def AppendData.dataLen (a : AppendData) (layers : Nat) : Nat :=
  layers * a.kvh * (if a.preq then a.count / 32 * a.sh.preLen else a.count * 4 * a.sh.d)

/-- A fresh open page. -/
def freshOpen (key frame page : Nat) (fr : FrameRef) (sh : Shape) : CacheEntry :=
  { kind := .open_, key := key, frame := frame, page := page, stack := fr.stack, addr := fr.addr + page * sh.slot
    lines := sh.openLines }

/-- The tokens from `n` up of an append that begins at `first` in the segment, stored in the open pages of one frame: the
page left open, and those that have filled, oldest first (R252). -/
def AppendData.fill (a : AppendData) (li h first n key frame : Nat) (fr : FrameRef) (cur : Option CacheEntry) :
    Option CacheEntry × List CacheEntry :=
  let step := if a.preq then 32 else 1
  (List.range (a.count / step)).foldl (fun (st : Option CacheEntry × List CacheEntry) k =>
    let pos := first + k * step
    if pos < n then st
    else
      let e := match st.1 with | some e => e | none => freshOpen key frame (pos / 64) fr a.sh
      let e := if a.preq then e.putBlk a.sh (pos % 64 / 32) (a.blk li h k)
        else let x := a.tok li h k; e.putTok a.sh (pos % 64) x.1 x.2
      if (pos + step) % 64 = 0 then (none, st.2 ++ [e]) else (some e, st.2)) (cur, [])

/-! ### Comparing an overlap (R254, Table 9-15) -/

/-- A stored page as the comparison of an overlap sees it: the open entry, the plain payload, or nothing readable. -/
inductive SeenPage where
  | open_ (e : CacheEntry)
  | written (pay : Bytes)
  | unreadable
  deriving DecidableEq, Repr

/-- What a page of a frame holds for a comparison. -/
def State.seePage (s : State) (q key frame page : Nat) (fr : FrameRef) (sh : Shape) : SeenPage :=
  match s.openOf q key frame with
  | some e => if e.page = page then .open_ e else
    match s.plainPage q key fr frame page sh with | .ok _ p => .written p | .err _ => .unreadable
  | none => match s.plainPage q key fr frame page sh with | .ok _ p => .written p | .err _ => .unreadable

/-- A K or scale region of a plain payload. -/
def region (pay : Bytes) (off n : Nat) : Bytes := (pay.drop off).take n

/-- One overlapping BF16 token agrees with what is stored (Table 9-15, the BF16 rows). -/
def sameTok (sh : Shape) (pg : SeenPage) (t : Nat) (x : List Nat × List Nat) : Option Bool :=
  let kq := quantKey sh x.1
  let kSame := fun (pay : Bytes) =>
    region pay (t * sh.aK) sh.aK == kq.1 && region pay (sh.kb + sh.vb + t * sh.sc) sh.sc == kq.2
  match pg with
  | .unreadable => none
  | .written pay => some (kSame pay)
  | .open_ e =>
    some (kSame (Mem.read e.slot 64 sh.payload) &&
      (e.vform.getD (t / 32) 0 != 1 || (List.range sh.d).map (fun j => e.v.fetch (t * sh.d + j) 0) == x.2))

/-- One overlapping pre-quantised block agrees with what is stored (Table 9-15, the pre-quantised rows). -/
def sameBlk (sh : Shape) (pg : SeenPage) (b : Nat) (x : PreBlock) : Option Bool :=
  let kSame := fun (pay : Bytes) =>
    region pay (32 * b * sh.aK) (32 * sh.aK) == x.k && region pay (sh.kb + sh.vb + 32 * b * sh.sc) (32 * sh.sc) == x.ks
  let vSame := fun (pay : Bytes) =>
    region pay (sh.kb + 32 * b * sh.aV) (32 * sh.aV) == x.v &&
      region pay (sh.kb + sh.vb + 64 * sh.sc + b * sh.d) sh.d == x.vs
  match pg with
  | .unreadable => none
  | .written pay => some (kSame pay && vSame pay)
  | .open_ e =>
    let pay := Mem.read e.slot 64 sh.payload
    if e.vform.getD b 0 = 1 then
      if e.tokens < 32 * b + 32 then some false
      else some (kSame pay && vSame (Mem.read (finalBlock sh e e.tokens e.slot b) 64 sh.payload))
    else some (kSame pay && vSame pay)

/-- The overlap of one frame, below its next position n: identical, not, or not to be read (none). -/
def State.sameFrame (s : State) (q key : Nat) (a : AppendData) (li h first n frame : Nat) (fr : FrameRef) : Option Bool :=
  let step := if a.preq then 32 else 1
  (List.range (a.count / step)).foldl (fun (acc : Option Bool) k =>
    let pos := first + k * step
    if pos ≥ n then acc
    else
      let pg := s.seePage q key frame (pos / 64) fr a.sh
      let r := if a.preq then sameBlk a.sh pg (pos % 64 / 32) (a.blk li h k) else sameTok a.sh pg (pos % 64) (a.tok li h k)
      match acc, r with
      | some false, _ => some false
      | _, some false => some false
      | none, _ => none
      | _, none => none
      | some true, some true => some true) (some true)

end Sys2Proof.Machine
end

