-- ==== Sys2Proof/Machine/Requests.lean ====
section
/-!
DEFINITION. What every conversation operation shares (ch. 09): the request header and its checks, the ticket, the answer with
the entry's generation and state, chains of replicas, and reseat tickets.
-/
namespace Sys2Proof.Machine

/-- A conversation operation under way: where it came from, its body, its arrival, its ticket and its request header
(Table 9-1). `gen` is the generation it names; an append that has allocated its segment names that one. -/
structure Op where
  asked : List Nat := []
  o : Origin
  opcode : Nat
  body : Bytes
  arrival : Nat
  tk : Nat
  tag : Nat
  key : Nat
  shapeId : Nat
  role : Nat
  gen : Nat
  us : Nat
  q : Nat
  deriving DecidableEq, Repr

/-- The operation of an accepted message, with its ticket (Table 9-1). -/
def Inbound.toOp (e : Inbound) (tk : Nat) : Op :=
  { asked := e.asked, o := e.origin, opcode := e.opcode, body := e.body, arrival := e.arrival, tk := tk, tag := fieldAt e.body 0 8
    key := bodyKey e.body, shapeId := byteAt e.body 17 % 16, role := bits (byteAt e.body 17) 5 4
    gen := fieldAt e.body 18 2, us := fieldAt e.body 20 3, q := homeQ (bodyKey e.body) }

/-- The accepted message that an operation under way came from, holding its ticket. -/
def Op.toInbound (p : Op) : Inbound :=
  { origin := p.o, opcode := p.opcode, body := p.body, arrival := p.arrival, ticket := some p.tk, asked := p.asked }

/-- Local time at which an operation's deadline passes (R22, R272). -/
def Op.deadline (p : Op) : Nat := p.arrival + p.us * 1000

/-! ### Checks of the request header (R247, R459) -/

/-- FANOUT of an ATTEND body. -/
def bodyFanout (b : Bytes) : Bool := bit (byteAt b 52) 3

/-- ROLE values that an operation takes (Table 9-14). -/
def roleOk (op role : Nat) (b : Bytes) : Bool :=
  if op = 0x10 ∨ op = 0x11 ∨ op = 0x17 then role ≤ 1
  else if op = 0x15 then role == 0 || (role == 2 && !bodyFanout b)
  else if op = 0x18 then
    match byteAt b 24 % 8 with
    | 0 => role == 0 | 1 => role == 0 | 2 => role == 0 || role == 3 | 3 => role == 3 | 4 => role == 3 | _ => false
  else role == 0

/-- KEY has the form that the operation takes (R459, R269). -/
def keyForm (op key : Nat) (b : Bytes) : Bool :=
  if op = 0x15 then
    if bodyFanout b then keyType key == 1 && keySeg key == 0
    else keyType key == 0 && keySeg key == fieldAt b 44 2 % 32768
  else keyType key == 0

/-- Check 1 of R247. -/
def headerBad (op : Nat) (b : Bytes) : Bool :=
  b.length < 24 || byteAt b 17 / 64 != 0 || byteAt b 23 != 0 || fieldAt b 20 3 == 0 || (op == 0x15 && fieldAt b 18 2 != 0) ||
  !keyForm op (bodyKey b) b || !roleOk op (bits (byteAt b 17) 5 4) b

/-- The sender is a peer (R247). -/
def State.fromPeer (s : State) (o : Origin) : Bool :=
  match o with | .wire i => isPeer (s.conn i).remoteNode | .host _ => false

/-- The sender may name a tenant: the tenant of its connection, or one that its function may name (R247, R330). -/
def State.mayUse (s : State) (o : Origin) (op t : Nat) : Bool :=
  match o with
  | .wire i => (s.conn i).tenant == t
  | .host h => mayName (issuerOf op) h.fn t && h.tenant == t

/-- Checks 1 to 5 of R247: the status of the first that fails. -/
def State.headerCheck (s : State) (o : Origin) (op : Nat) (b : Bytes) : Option Nat :=
  let t := keyTenant (bodyKey b)
  if headerBad op b then some sBAD
  else if !s.mayUse o op t then some sAUTH
  else if bits (byteAt b 17) 5 4 != 0 && !s.fromPeer o then some sAUTH
  else if (s.tenant t).state ≠ .active then some sGONE
  else if (s.shape t (byteAt b 17 % 16)).isNone then some sNOSHAPE
  else none

/-! ### Answers (R248) -/

/-- State codes of Table 2-10. -/
def SegState.code : SegState → Nat
  | .opened => 0 | .sealed => 1 | .coded => 2 | .moving => 3 | .retired => 4 | .incoming => 5

/-- An answer that carries GEN, STATE and ENTRY of a key (R248). -/
def State.withEntry (s : State) (q key : Nat) (a : Ans) : Ans :=
  match s.entryOf q key with
  | some (_, e) => { a with gen := e.gen, st := e.state.code, entry := true }
  | none => { a with gen := 0, st := 0, entry := false }

/-- The sender of an accepted message is still there to be answered: a RESPONSE that finds the connection FREE, or the index
in use again, is discarded (Table 9-10). -/
def State.reachable (s : State) (o : Origin) (incarn : Nat) : Bool :=
  match o with | .wire i => (s.conn i).incarn == incarn && (s.conn i).state != .free | .host _ => true

/-- Refuse an operation that holds no ticket (R247, R248). -/
def State.refuse (s : State) (e : Inbound) (status : Nat) : State :=
  let q := homeQ (bodyKey e.body)
  let tag := if e.body.length ≥ 8 then fieldAt e.body 0 8 else 0
  let a : Ans := { tag := tag, status := status, opcode := e.opcode }
  let a := if e.body.length ≥ 17 then s.withEntry q (bodyKey e.body) a else a
  s.answerOp e.origin q a (if e.opcode = 0x15 ∧ bits (byteAt e.body 17) 5 4 = 2 then 0x16 else 0x1A)

/-- End an operation: its ticket is released and its answer sent; a fan-out child answers with a PARTIAL (R186, R248, R275). -/
def State.finish (s : State) (tk status : Nat) (detail : Nat := 0) (copies : Nat := 0) (data : Bytes := [])
    (covered : Nat := 0) : State :=
  match s.ticket tk with
  | none => s
  | some t =>
    let q := tkQ tk
    let a := s.withEntry q t.key
      { tag := t.cmd, status := status, opcode := t.opcode, copies := copies, detail := detail, data := data
        covered := covered }
    let s := s.freeTicket tk
    if s.reachable t.origin t.connIncarn then s.answerOp t.origin q a (if t.child then 0x16 else 0x1A) else s

/-! ### Conversation maps (R61, R64, R273) -/

/-- The map key of a conversation. -/
def mapKey (t conv : Nat) : Nat := mkKey t conv 0 + 1

/-- The installed map of a conversation. -/
def State.mapOf (s : State) (t conv : Nat) : Option ConvMap :=
  (s.qtr (homeQ (mapKey t conv))).maps.find? fun m => m.current && m.key == mapKey t conv

/-- A version of a map that is kept (R64). -/
def State.mapVersion (s : State) (t conv v : Nat) : Option ConvMap :=
  (s.qtr (homeQ (mapKey t conv))).maps.find? fun m => m.version == v && m.key == mapKey t conv

/-- The entry that covers a segment. -/
def ConvMap.covering (m : ConvMap) (seg : Nat) : Option MapEntry := m.entries.find? fun e => e.first ≤ seg && seg ≤ e.last

/-- The nodes of an entry: HOME, REPLICA1, REPLICA2, without 0xFFFF. -/
def MapEntry.nodes (e : MapEntry) : List Nat := [e.home, e.rep1, e.rep2].filter fun n => n != 0xFFFF

/-! ### Beginning an operation -/

/-- The ticket record of an operation (Table 6-8). -/
def Op.ticket (p : Op) (s : State) : Ticket :=
  { id := 0, kind := 1, arrival := p.arrival, deadline := p.us, origin := p.o
    connIncarn := (match p.o with | .wire i => (s.conn i).incarn | .host _ => 0)
    tenant := keyTenant p.key, cmd := p.tag, conv := keyConv p.key, opcode := p.opcode, key := p.key
    child := p.opcode == 0x15 && p.role == 2
    ackAtHome := p.role == 0 && (match s.mapOf (keyTenant p.key) (keyConv p.key) with | some m => m.ackAtHome | none => false) }

/-- The checks of R247: a refusal, or the operation with its ticket. An operation that waited with its ticket goes on. -/
def State.beginOp (s : State) (e : Inbound) : Except State (Op × State) :=
  match e.ticket with
  | some t => .ok (e.toOp t, s)
  | none =>
    let q := homeQ (bodyKey e.body)
    if e.body.length ≥ 17 ∧ s.qOff q then .error (s.refuse e sDOMOFF)
    else match s.headerCheck e.origin e.opcode e.body with
      | some st => .error (s.refuse e st)
      | none =>
        match s.takeTicket q ((e.toOp 0).ticket s) with
        | (none, s) => .error (s.refuse e sTICKETFULL)
        | (some id, s) => .ok (e.toOp id, s)

/-- The live segment entry of a key: neither a tombstone nor INCOMING (Table 2-10). -/
def State.liveEntry (s : State) (q key : Nat) : Option DirEntry :=
  match s.entryOf q key with
  | some (_, e) => if e.state = .retired ∨ e.state = .incoming then none else some e
  | none => none

/-- The reseat ticket of a segment on one side: 0 source, 1 destination (Table 9-9). -/
def State.reseatOf (s : State) (q key side : Nat) : Option Ticket :=
  let T := (s.qtr q).tk
  let want := fun (e : Nat × Ticket) => e.2.kind == 3 && !e.2.moved && e.2.key == key && e.2.side == side
  match T.onChip.find? want with
  | some e => some e.2
  | none => (T.spill.find? want).map (·.2)

/-- The source of a reseat has stopped accepting appends (R266 step 5). -/
def State.cutting (s : State) (q key : Nat) : Bool :=
  match s.reseatOf q key 0 with | some t => t.phase ≥ 1 | none => false

/-! ### Chains (R256 to R259) -/

/-- Change the chain record of a segment. -/
def State.updChain (s : State) (q key : Nat) (f : Chain → Chain) : State :=
  s.updSegOf q key fun g => { g with chain := f g.chain }

/-- The chain record that a node forms at the first append it handles for a segment (R256, R257). -/
def State.formChain (s : State) (p : Op) : Chain :=
  if p.role = 1 then
    { succ := fieldAt p.body 34 2, nextHop := 0xFFFF }
  else
    match s.mapOf (keyTenant p.key) (keyConv p.key) with
    | none => {}
    | some m =>
      match m.covering (keySeg p.key) with
      | none => {}
      | some e =>
        if some e.home = s.boot.nodeId then
          { succ := e.nodes.getD 1 0xFFFF, nextHop := e.nodes.getD 2 0xFFFF }
        else {}

/-- The body that a node forwards to its successor (R257): its own TAG, ROLE 1, the generation of the chain record and, in an
append, NEXT_HOP. -/
def forwardBody (f : Forward) (c : Chain) : Bytes :=
  let b := leBytes 8 f.id ++ (f.body.drop 8).take 9 ++ leBytes 1 (byteAt f.body 17 % 16 + 16) ++ leBytes 2 c.succGen ++
    f.body.drop 20
  if f.opcode = 0x17 then b else b.take 34 ++ leBytes 2 c.nextHop ++ b.drop 36

/-- The immediate of an APPEND_IMM, posted on the home node when the append is acknowledged OK (R255). -/
def State.postImm (s : State) (q opcode status : Nat) (body : Bytes) : State :=
  if opcode = 0x11 ∧ status = sOK ∧ bits (byteAt body 17) 5 4 = 0 then
    let key := bodyKey body
    s.post (keyTenant key)
      { type := 0x04, quarter := q, p0 := 0x11, p1 := fieldAt body 40 8, p2 := keyConv key + keySeg key * 2 ^ 48 }
  else s

/-- Acknowledge an append or a SEAL with its own outcome (R255, R258). -/
def State.ackOp (s : State) (tk status detail copies : Nat) (body : Bytes) : State :=
  match s.ticket tk with
  | none => s
  | some t => (s.postImm (tkQ tk) t.opcode status body).finish tk status detail copies

/-- Answer an operation that waits on a successor, with its own outcome (R258, R259). -/
def State.ackWaiter (s : State) (f : Forward) (copies : Nat) : State :=
  match f.waiter with
  | none => s
  | some tk =>
    match s.ticket tk with
    | none => s
    | some t => s.ackOp tk t.answerStatus t.answerDetail copies f.body

/-- The chain of a segment breaks (R259). -/
def State.breakChain (s : State) (q key : Nat) : State :=
  match s.segOf q key with
  | none => s
  | some (_, g) =>
    let waiting := g.chain.outstanding ++ g.chain.queue
    let s := s.updChain q key fun c => { c with outstanding := [], queue := [], broken := true }
    let s := waiting.foldl (fun s f => s.ackWaiter f 1) s
    if g.chain.broken then s
    else s.postFor (keyTenant key) 0 { segEv key 0 g.chain.succ with quarter := q }

/-- Send one forward to the successor of a segment (R257). When no connection can be had, or the chain is broken, the chain breaks
at this node (R259). -/
def State.sendForward (s : State) (q key : Nat) (f : Forward) : State :=
  match s.segOf q key with
  | none => s
  | some (_, g) =>
    if g.chain.broken then s.ackWaiter f 1
    else
      let body := forwardBody f g.chain
      let s := s.updChain q key fun c => { c with firstSent := true, outstanding := c.outstanding ++ [f] }
      match s.peerConn q g.chain.succ (keyTenant key) with
      | (none, s) => s.breakChain q key
      | (some i, s) => s.hand i { opcode := f.opcode, body := body, owner := .forward key f.id }

/-- The outcome of an append or a SEAL that was OK or DUPLICATE here (R257, R258): it is forwarded, and answered at once, or
once the successor has answered. -/
def State.chainDone (s : State) (p : Op) (status detail : Nat) : State :=
  match s.segOf p.q p.key with
  | none => s.ackOp p.tk status detail 1 p.body
  | some (_, g) =>
    if g.chain.succ = 0xFFFF ∨ g.chain.broken then s.ackOp p.tk status detail 1 p.body
    else
      let early := match s.ticket p.tk with | some t => t.ackAtHome | none => false
      let s := if early then s.ackOp p.tk status detail 1 p.body
        else s.updTicket p.tk fun t => { t with answerStatus := status, answerDetail := detail }
      let r := s.fresh
      let f : Forward := { id := r.1, opcode := p.opcode, body := p.body, waiter := if early then none else some p.tk }
      if g.chain.succGen = 0 ∧ g.chain.firstSent then
        r.2.updChain p.q p.key fun c => { c with queue := c.queue ++ [f] }
      else r.2.sendForward p.q p.key f

/-- Send the queued forwards of a segment, in order (R257). -/
def State.flushForwards (s : State) (q key : Nat) : State :=
  match s.segOf q key with
  | none => s
  | some (_, g) =>
    let s := s.updChain q key fun c => { c with queue := [] }
    g.chain.queue.foldl (fun s f => s.sendForward q key f) s

/-- The successor has answered a forward (R257 to R259). -/
def State.forwardAnswered (s : State) (q key fwd status gen copies : Nat) : State :=
  match s.segOf q key with
  | none => s
  | some (_, g) =>
    match g.chain.outstanding.find? fun f => f.id == fwd with
    | none => s
    | some f =>
      if status = sOK ∨ status = sDUPLICATE then
        let s := s.updChain q key fun c =>
          { c with outstanding := c.outstanding.filter (fun x => x.id != fwd), succGen := gen }
        (s.ackWaiter f (min 3 (1 + copies))).flushForwards q key
      else s.breakChain q key

/-- A segment leaves with forwards under way: those sent wait for their answers without it, those queued are answered with
their own outcome (DEDUCED, assumption 25). -/
def State.dropChain (s : State) (q key : Nat) : State :=
  match s.segOf q key with
  | none => s
  | some (_, g) =>
    let s := s.updStore q fun S => { S with late := S.late ++ g.chain.outstanding.map fun f => (g.chain.succ, f) }
    let s := s.updChain q key fun c => { c with outstanding := [], queue := [] }
    g.chain.queue.foldl (fun s f => s.ackWaiter f 1) s

/-! ### State changes of a segment (Table 2-11) -/

/-- A segment enters the coding queue (R199). -/
def State.enterCoding (s : State) (q key : Nat) : State :=
  s.updPcd q fun P => { P with queue := (P.queue.filter fun e => e.key != key) ++ [{ key := key }] }

/-- Units that coders of a Quarter are forming with a table (R198). -/
def Pcd.using (P : Pcd) (id : Nat) : Nat := (P.coders.map fun c => (c.2.tables.filter fun t => t == id).length).sum

/-- A RELEASING slot whose count of queued units is zero becomes FREE (R198). -/
def Pcd.freeSlots (P : Pcd) : Pcd :=
  { P with slots := P.slots.filter fun e => !(e.2.state == .releasing && P.using e.2.id == 0) }

/-- A segment leaves the coding queue, and a page of it in flight is discarded (R199, Table 7-5). -/
def Pcd.leave (P : Pcd) (key : Nat) : Pcd :=
  Pcd.freeSlots { P with
    queue := P.queue.filter fun e => e.key != key
    coders := P.coders.map fun e => (e.1, if e.2.key = some key then { sweep := e.2.sweep } else e.2) }

/-- A segment leaves the coding queue (R199). -/
def State.leaveCoding (s : State) (q key : Nat) : State := s.updPcd q fun P => P.leave key

/-- OPEN to SEALED, or PRIOR to SEALED in MOVING (Table 2-11). -/
def State.toSealed (s : State) (q key : Nat) : State :=
  match s.entryOf q key with
  | some (_, e) =>
    if e.state = .opened then (s.setEntry q key fun e => { e with state := .sealed }).enterCoding q key
    else if e.state = .moving then s.updSegOf q key fun g => { g with prior := .sealed }
    else s
  | none => s

/-- TOKENS of a segment: the smallest stored count over its layers (R252). -/
def Seg.tokens (g : Seg) : Nat :=
  match g.counts with | [] => 0 | c :: t => t.foldl min c

/-- An entry accepts tokens: OPEN, or MOVING with PRIOR = OPEN (Table 2-10). -/
def accepts (e : DirEntry) (g : Seg) : Bool := e.state == .opened || (e.state == .moving && g.prior == .opened)

/-- Retire an entry: a tombstone with a generation, its frames releasable, its place in the coding queue given up (Table 2-11,
R166). -/
def State.retireEntry (s : State) (q key gen : Nat) : State :=
  let s := (s.dropChain q key).leaveCoding q key
  let n := (s.qtr q).dir.tombs
  let s := s.setEntry q key fun e => { e with state := .retired, gen := gen, tombOrder := n }
  (s.updDir q fun d => { d with tombs := n + 1 }).releaseSeg q key

end Sys2Proof.Machine
end

