-- ==== Sys2Proof/Machine/Records.lean ====
section
/-!
DEFINITION. Result records (ch. 03): their layout in both result modes, reading them back, and the checks of R95 and R276.
-/
namespace Sys2Proof.Machine

/-! ### Pieces in order -/

/-- Insert a piece by its first run. -/
def insPiece (p : Piece) : List Piece → List Piece
  | [] => [p]
  | r :: t => if p.lo < r.lo then p :: r :: t else r :: insPiece p t

/-- The pieces of one head in ascending order of first run (R93). -/
def piecesOf (ps : List Piece) (head : Nat) : List Piece := (ps.filter fun p => p.head == head).foldr insPiece []

/-- A list cut into parts of at most n elements. -/
def partsOf {α : Type} (n : Nat) : Nat → List α → List (List α)
  | 0, _ => []
  | _, [] => []
  | fuel + 1, l => l.take n :: partsOf n fuel (l.drop n)

/-! ### Writing (Tables 3-6, 3-7) -/

/-- The 8-byte header of a record. `kind` is byte 4: DIM, RECORD, OUT_FMT and CONT. -/
def recHead (layer kvh rows kind n : Nat) : Bytes :=
  leBytes 1 layer ++ leBytes 1 kvh ++ leBytes 2 rows ++ leBytes 1 kind ++ leBytes 1 n ++ leBytes 2 0

/-- A coverage entry. -/
def pieceEntry (p : Piece) : Bytes := leBytes 4 (p.level + p.index * 32)

/-- One row of a partial body. -/
def rowStateBytes (r : RowState) : Bytes :=
  leBytes 4 r.m.toNat ++ leBytes 4 r.l.toNat ++ r.o.flatMap fun x => leBytes 4 x.toNat

/-- One row of a normalised body (R90, R67). -/
def finalRowBytes (bf16 : Bool) (r : RowState) : Bytes :=
  let f := finalRow r
  leBytes 4 f.1 ++ f.2.flatMap fun x => if bf16 then leBytes 2 (toBF16 x) else leBytes 4 x.toNat

/-- A partial record of some pieces (R93, R94). -/
def partialRecord (layer head rows dim : Nat) (ps : List Piece) : Bytes :=
  recHead layer head rows dim ps.length ++ ps.flatMap pieceEntry ++ ps.flatMap fun p => p.rows.flatMap rowStateBytes

/-- The partial records of one head: one with no piece when nothing is covered. -/
def partialRecords (layer head rows dim : Nat) (ps : List Piece) : List Bytes :=
  match ps with
  | [] => [partialRecord layer head rows dim []]
  | _ => (partsOf 255 ps.length ps).map fun l => partialRecord layer head rows dim l

/-- The normalised records of one head: the first carries the body (R93). -/
def normalRecords (layer head rows dim d : Nat) (bf16 : Bool) (ps : List Piece) : List Bytes :=
  let empty := List.replicate rows (emptyRow d)
  let body := (nodeValue empty ps 17 0).flatMap (finalRowBytes bf16)
  let kind := dim + 8 + 16 * b2n bf16
  match partsOf 255 ps.length ps with
  | [] => [recHead layer head rows kind 0 ++ body]
  | l :: t =>
    (recHead layer head rows kind l.length ++ l.flatMap pieceEntry ++ body) ::
      t.map fun m => recHead layer head rows (kind + 32) m.length ++ m.flatMap pieceEntry

/-- The records of one head in the request's result mode. -/
def Request.headRecords (r : Request) (ps : List Piece) (head : Nat) : List Bytes :=
  let l := piecesOf ps head
  if r.partialMode then partialRecords r.layer head r.rows r.shape.dim l
  else normalRecords r.layer head r.rows r.shape.dim r.shape.d r.bf16Out l

/-! ### Reading -/

/-- A record as received: its header, and each piece with its rows. -/
structure Rec where
  layer : Nat
  kvh : Nat
  rows : Nat
  dim : Nat
  normal : Bool
  reserved : Bool
  pieces : List Piece
  deriving DecidableEq, Repr

/-- Head dimension of a record's DIM code; a reserved code has none. -/
def recDim (c : Nat) : Option Nat := if c ≤ 4 then some (dimOf c) else none

/-- The rows of a partial body: `n` rows of d columns. -/
def rowsFrom (d : Nat) : Nat → Bytes → List RowState
  | 0, _ => []
  | n + 1, b =>
    { m := w32 (fieldAt b 0 4), l := w32 (fieldAt b 4 4)
      o := (List.range d).map fun j => w32 (fieldAt b (8 + 4 * j) 4) } :: rowsFrom d n (b.drop (8 + 4 * d))

/-- Length of the body of a record with these header bytes. -/
def bodyLen (b4 n rows d : Nat) : Nat :=
  if bit b4 3 then (if bit b4 5 then 0 else rows * (4 + (if bit b4 4 then 2 else 4) * d)) else n * rows * (8 + 4 * d)

/-- Read one record from the front of a byte string: the record and what follows it; none when its length cannot be
found or it is cut short. -/
def readRec (b : Bytes) : Option (Rec × Bytes) :=
  let rows := fieldAt b 2 2 % 512
  let b4 := byteAt b 4
  let n := byteAt b 5
  match recDim (b4 % 8) with
  | none => none
  | some d =>
    let len := 8 + 4 * n + bodyLen b4 n rows d
    if b.length < len ∨ rows = 0 ∨ rows > 256 then none
    else
      let head := byteAt b 1 % 64
      let mk := fun k =>
        let e := fieldAt b (8 + 4 * k) 4
        ({ head := head, level := e % 32, index := e / 32 % 2 ^ 17
           rows := if bit b4 3 then [] else rowsFrom d rows (b.drop (8 + 4 * n + k * rows * (8 + 4 * d))) } : Piece)
      let resv := byteAt b 1 / 64 != 0 || fieldAt b 2 2 ≥ 512 || bits b4 7 6 != 0 || !zeroRange b 6 8 ||
        (!bit b4 3 && (bit b4 4 || bit b4 5)) || (List.range n).any fun k => fieldAt b (8 + 4 * k) 4 ≥ 2 ^ 22
      some ({ layer := byteAt b 0, kvh := head, rows := rows, dim := b4 % 8, normal := bit b4 3, reserved := resv
              pieces := (List.range n).map mk }, b.drop len)

/-- The records of a byte string, in order; an unreadable rest counts as one malformed record. -/
def readRecs : Nat → Bytes → List (Option Rec)
  | 0, _ => []
  | fuel + 1, b =>
    if b.isEmpty then []
    else match readRec b with
      | none => [none]
      | some (r, t) => some r :: readRecs fuel t

/-! ### The checks of R95 -/

/-- An FP32 pattern is a NaN, an infinity, a subnormal or −0 (R95). -/
def oddFP32 (w : Word) : Bool :=
  let v := w.toNat
  bits v 30 23 == 255 || (bits v 30 23 == 0 && v != 0)

/-- A row of a partial record is malformed (R95). -/
def rowBad (r : RowState) : Bool :=
  let mInf := r.m == negInf
  let mNan := bits r.m.toNat 30 23 == 255 && !mInf
  mNan || (mInf && (r.l != 0 || r.o.any (· != 0))) || (!mInf && fltLt r.l cONE) || oddFP32 r.l || r.o.any oddFP32

/-- Pieces are out of order, or overlap (R95). -/
def outOfOrder : List Piece → Bool
  | p :: q :: t => q.lo < p.hi || outOfOrder (q :: t)
  | _ => false

/-- A partial record is malformed (R95). -/
def recBad (r : Rec) : Bool :=
  r.reserved || r.pieces.any (fun p => p.level > 17 || p.index ≥ 2 ^ (17 - p.level)) || outOfOrder r.pieces ||
  r.pieces.any fun p => p.rows.any rowBad

end Sys2Proof.Machine
end

