-- ==== Sys2Proof/Machine/Segments.lean ====
section
/-!
DEFINITION. APPEND, APPEND_IMM, READ, SEAL and RETIRE (ch. 09): their descriptor checks, their outcomes, and the hold store.
-/
namespace Sys2Proof.Machine

/-- What running an operation comes to: it was answered (or forwarded and waits for its successor); it is held for a gap
(R253); it waits in the page store for lines (R46, R184); or it waits for the directory or the host. -/
inductive StepRes where
  | done (s : State)
  | hold (s : State)
  | wait (s : State)
  | parked (s : State)

/-! ### APPEND fields (Table 9-4) -/

/-- The fields of an append. -/
structure AppendReq where
  first : Nat
  count : Nat
  layer : Nat
  layers : Nat
  preq : Bool
  place : Nat
  deriving DecidableEq, Repr

/-- The fields that a body gives. -/
def appendReq (b : Bytes) : AppendReq :=
  { first := fieldAt b 24 4 % 2 ^ 26, count := fieldAt b 28 2 % 4096, layer := byteAt b 30, layers := byteAt b 31 + 1
    preq := bit (byteAt b 32) 0, place := bits (byteAt b 32) 2 1 }

/-- The data of an append under a shape. -/
def AppendReq.data (r : AppendReq) (sh : Shape) (b : Bytes) : AppendData :=
  { preq := r.preq, count := r.count, kvh := sh.kvh, sh := sh, body := b }

/-- A block's scales hold 0xFF (R47). -/
def PreBlock.badScale (x : PreBlock) : Bool := x.ks.contains 0xFF || x.vs.contains 0xFF

/-- Descriptor checks of an append: reserved fields, R42, R47 and R251. -/
def appendBad (op key role : Nat) (sh : Shape) (b : Bytes) : Bool :=
  let r := appendReq b
  let a := r.data sh b
  let heads := (List.range r.layers).flatMap fun li => (List.range sh.kvh).map fun h => (li, h)
  b.length < 48 || fieldAt b 24 4 ≥ 2 ^ 26 || r.count == 0 || r.count > 2048 || fieldAt b 28 2 ≥ 4096 ||
  byteAt b 32 / 8 != 0 || byteAt b 33 != 0 || !zeroRange b 36 40 || r.place == 3 ||
  (role == 0 && fieldAt b 34 2 != 0) || (role == 1 && fieldAt b 34 2 != 0xFFFF && fieldAt b 34 2 > 16383) ||
  (op == 0x10 && fieldAt b 40 8 != 0) || r.first / 2048 != keySeg key || (r.first + r.count - 1) / 2048 != keySeg key ||
  r.layer + r.layers > sh.layers || (r.preq && (r.first % 32 != 0 || r.count % 32 != 0)) ||
  b.length != 48 + a.dataLen r.layers ||
  (if r.preq then heads.any fun e => (List.range (r.count / 32)).any fun j => (a.blk e.1 e.2 j).badScale
   else (u16s b 48 (a.dataLen r.layers / 2)).any bf16Bad)

/-! ### Outcome of an append (R252, Table 9-13) -/

/-- Next position of a layer, counted from the segment start. -/
def Seg.next (g : Seg) (layer : Nat) : Nat := g.counts.getD layer 0

/-- Layers of an append with their next positions. -/
def AppendReq.nexts (r : AppendReq) (g : Seg) : List (Nat × Nat) :=
  (List.range r.layers).map fun i => (i, g.next (r.layer + i))

/-- The overlap of every frame that an append touches: identical, not, or not to be read. -/
def State.overlap (s : State) (q key : Nat) (g : Seg) (r : AppendReq) (a : AppendData) : Option Bool :=
  let rel := r.first % 2048
  let all := (r.nexts g).flatMap fun e => (List.range a.kvh).map fun h =>
    let f := (r.layer + e.1) * a.kvh + h
    match g.frames[f]? with
    | some fr => s.sameFrame q key a e.1 h rel e.2 f fr
    | none => some true
  if all.contains (some false) then some false else if all.contains none then none else some true

/-- The frames that an append stores to: layer index, head, frame index and next position. -/
def AppendReq.targets (r : AppendReq) (g : Seg) (kvh : Nat) : List (Nat × Nat × Nat × Nat) :=
  (r.nexts g).flatMap fun e => (List.range kvh).map fun h => (e.1, h, (r.layer + e.1) * kvh + h, e.2)

/-- Unpinned lines that the pages which an append fills would need (R46, R184). -/
def State.linesToAppend (s : State) (q key : Nat) (g : Seg) (r : AppendReq) (a : AppendData) : Nat :=
  let rel := r.first % 2048
  ((r.targets g a.kvh).map fun t =>
    match g.frames[t.2.2.1]? with
    | none => 0
    | some fr =>
      ((List.range 32).map fun p =>
        if max rel t.2.2.2 < 64 * p + 64 ∧ 64 * p + 64 ≤ rel + r.count then s.linesToClose q key t.2.2.1 p fr a.sh else 0).sum).sum

/-- Store the new tokens of one frame: its open page grows, full pages are closed, and pages touched during a move are noted
(R46, R252, R266). -/
def State.storeFrame (s : State) (q key gen rel count : Nat) (a : AppendData) (moving : Bool) (t : Nat × Nat × Nat × Nat)
    (fr : FrameRef) : State :=
  let f := t.2.2.1
  let n := t.2.2.2
  let r := a.fill t.1 t.2.1 rel n key f fr (s.openOf q key f)
  let s := s.updStore q fun S => { S with cache := S.cache.filter fun e => !(e.kind == .open_ && e.key == key && e.frame == f) }
  let s := r.2.foldl (fun s e => s.closePage q key gen f e.page fr a.sh e) s
  let s := match r.1 with | some e => s.addCache q e | none => s
  if moving then
    let touched := ((List.range 32).filter fun p => max rel n < 64 * p + 64 && 64 * p < rel + count).map fun p => (f, p)
    s.updSegOf q key fun g => { g with changed := (g.changed.filter fun x => !touched.contains x) ++ touched }
  else s

/-- Store an append: every layer from its next position on, in one step (R252). -/
def State.storeAppend (s : State) (q key : Nat) (e : DirEntry) (g : Seg) (r : AppendReq) (a : AppendData) : State :=
  let rel := r.first % 2048
  let top := rel + r.count
  let s := (r.targets g a.kvh).foldl (fun s t =>
    match g.frames[t.2.2.1]? with
    | some fr => if t.2.2.2 < top then s.storeFrame q key e.gen rel r.count a (e.state == .moving) t fr else s
    | none => s) s
  let newPre := (r.nexts g).flatMap fun x =>
    if r.preq then ((List.range 64).filter fun b => max rel x.2 ≤ 32 * b && 32 * b < top).map fun b => (r.layer + x.1) * 64 + b
    else []
  let s := s.updSegOf q key fun g => { g with
    counts := (List.range g.counts.length).zip g.counts |>.map fun x =>
      (if r.layer ≤ x.1 ∧ x.1 < r.layer + r.layers then max x.2 top else x.2)
    preq := g.preq ++ newPre }
  match s.segOf q key with
  | some (_, g) => if g.tokens = 2048 then s.toSealed q key else s
  | none => s

/-- The answer of an append: DETAIL is the next position of LAYER_FIRST (R252). -/
def State.appendDetail (s : State) (p : Op) : Nat :=
  match s.segOf p.q p.key with | some (_, g) => g.next (byteAt p.body 30) | none => 0

/-- Refuse an append, or answer it without storing. -/
def State.appendAns (s : State) (p : Op) (status : Nat) : State :=
  let d := match s.liveEntry p.q p.key with | some _ => s.appendDetail p | none => 0
  s.finish p.tk status d

/-- The rows of Table 9-13 for an append to a live segment. -/
def appendRows (s : State) (p : Op) (e : DirEntry) (g : Seg) (sh : Shape) : StepRes :=
  let r := appendReq p.body
  let a := r.data sh p.body
  let rel := r.first % 2048
  let top := rel + r.count
  let ns := (r.nexts g).map (·.2)
  if !accepts e g && ns.any (· < top) then .done (s.appendAns p sSEALED)
  else if accepts e g && s.cutting p.q p.key then .hold s
  else
    let o := s.overlap p.q p.key g r a
    let d := if o.isNone then s.drawFree else (0, s)
    let same := match o with | some b => b | none => d.1 % 2 == 1
    let s := d.2
    if !same then .done (s.appendAns p sCONFLICT)
    else if ns.any (· < rel) then .hold s
    else
      let s := if g.chainOn then s else s.updSegOf p.q p.key fun g => { g with chain := s.formChain p, chainOn := true }
      if ns.all (top ≤ ·) then .done (s.chainDone p sDUPLICATE (s.appendDetail p))
      else if s.linesToAppend p.q p.key g r a > s.roomLines p.q then .wait s
      else
        let s := s.storeAppend p.q p.key e g r a
        .done (s.chainDone p sOK (s.appendDetail p))

/-- An append whose segment exists, at its generation. -/
def appendLive (s : State) (p : Op) : StepRes :=
  match s.entryOf p.q p.key, s.segOf p.q p.key, s.shape (keyTenant p.key) p.shapeId with
  | some (_, e), some (_, g), some sh =>
    if g.shapeId ≠ p.shapeId then .done (s.appendAns p sCONFLICT) else appendRows s p e g sh
  | _, _, _ => .done (s.appendAns p sSTALE)

/-- APPEND and APPEND_IMM after their lookup (R252, R53, R54): `addrs` is the host's answer under host-assisted frame
allocation. -/
def appendStep (s : State) (p : Op) (addrs : Option (List (Nat × Nat))) : StepRes :=
  match s.entryOf p.q p.key with
  | some (_, e) =>
    if e.state = .incoming then .done (s.appendAns p sSTALE)
    else if e.state ≠ .retired then
      if p.gen = e.gen then appendLive s p else .done (s.appendAns p sSTALE)
    else if p.gen ≠ 0 then .done (s.appendAns p sSTALE)
    else alloc s (nextGen e.gen)
  | none => if p.gen ≠ 0 then .done (s.appendAns p sSTALE) else alloc s 1
where
  /-- An allocating append (R53, R162, R253). -/
  alloc (s : State) (gen : Nat) : StepRes :=
    let r := appendReq p.body
    match s.shape (keyTenant p.key) p.shapeId with
    | none => .done (s.finish p.tk sNOSHAPE)
    | some sh =>
      if r.first % 2048 ≠ 0 then .done (s.finish p.tk sGAP)
      else match s.allocSeg p.q p.key p.shapeId r.place gen sh .opened p.toInbound addrs with
        | .refused st s => .done (s.finish p.tk st)
        | .parked s => .parked s
        | .done s => appendLive (s.trimReads p.q) { p with gen := gen }

/-! ### SEAL (R264) -/

/-- Descriptor checks of a SEAL. -/
def sealBad (b : Bytes) : Bool :=
  let t := fieldAt b 24 2
  b.length < 26 || t == 0 || t > 2048 || !zeroRange b 26 b.length

/-- The frames of a segment with a page left open: frame index, entry and frame. -/
def State.openPages (s : State) (q key : Nat) (g : Seg) : List (Nat × CacheEntry × FrameRef) :=
  ((List.range g.frames.length).zip g.frames).filterMap fun x => (s.openOf q key x.1).map fun e => (x.1, e, x.2)

/-- Finalise the open pages of a segment (R46). -/
def State.closeAll (s : State) (q key gen : Nat) (g : Seg) (sh : Shape) : State :=
  let l := s.openPages q key g
  let s := s.updStore q fun S => { S with cache := S.cache.filter fun e => !(e.kind == .open_ && e.key == key) }
  let s := l.foldl (fun s x => s.closePage q key gen x.1 x.2.1.page x.2.2 sh x.2.1) s
  match s.entryOf q key with
  | some (_, e) =>
    if e.state = .moving then
      let touched := l.map fun x => (x.1, x.2.1.page)
      s.updSegOf q key fun g => { g with changed := (g.changed.filter fun x => !touched.contains x) ++ touched }
    else s
  | none => s

/-- SEAL after its lookup (R264). -/
def sealStep (s : State) (p : Op) : StepRes :=
  let tok := fieldAt p.body 24 2 % 4096
  match s.liveEntry p.q p.key, s.segOf p.q p.key with
  | some e, some (_, g) =>
    if p.gen ≠ e.gen then .done (s.finish p.tk sSTALE)
    else if !accepts e g && g.tokens == tok then .done (s.chainDone p sDUPLICATE tok)
    else if g.counts.any (tok < ·) then .done (s.finish p.tk sCONFLICT tok)
    else if g.counts.any (· < tok) || !accepts e g || s.cutting p.q p.key then .hold s
    else match s.shape g.tenant g.shapeId with
      | none => .done (s.finish p.tk sNOSHAPE)
      | some sh =>
        let need := ((s.openPages p.q p.key g).map fun x => s.linesToClose p.q p.key x.1 x.2.1.page x.2.2 sh).sum
        if need > s.roomLines p.q then .wait s
        else
          let s := (s.closeAll p.q p.key e.gen g sh).toSealed p.q p.key
          .done (s.chainDone p sOK tok)
  | _, _ => .done (s.finish p.tk sSTALE)

/-! ### RETIRE (R265) -/

/-- Descriptor checks of a RETIRE: the header alone. -/
def retireBad (b : Bytes) : Bool := !zeroRange b 24 b.length

/-- RETIRE after its lookup. -/
def retireStep (s : State) (p : Op) : StepRes :=
  match s.entryOf p.q p.key with
  | none => .done (s.finish p.tk sSTALE)
  | some (_, e) =>
    if p.gen ≠ e.gen ∨ e.state = .retired then .done (s.finish p.tk sSTALE)
    else if e.state = .moving ∨ e.state = .incoming then .done (s.finish p.tk sCONFLICT)
    else .done ((s.retireEntry p.q p.key (nextGen e.gen)).finish p.tk sOK)

/-! ### READ (R263) -/

/-- Descriptor checks of a READ. -/
def readBad (b : Bytes) : Bool :=
  let len := fieldAt b 32 4
  b.length < 36 || fieldAt b 24 2 ≥ 4096 || !zeroRange b 26 28 || len == 0 || len > 1048576 || !zeroRange b 36 b.length

/-- An uncorrectable error lies in a part of a stack (R429). -/
def State.eccIn (s : State) (q ls a n : Nat) : Bool := (s.stack (4 * q + ls)).uncorrectable.any fun x => a ≤ x && x < a + n

/-- The stored form of one page: from its write-back entry while it waits there, else as it lies in HBM or host memory. -/
def State.pageStored (s : State) (q key gen frame page : Nat) (fr : FrameRef) (sh : Shape) : Except PageErr Bytes :=
  match s.cacheOf q key frame page fun k => k == .writeback with
  | some e =>
    .ok (s.storedSlot key gen frame page sh (PageHdr.ofBytes (Mem.read e.slot 0 64)) (Mem.read e.slot 64 sh.payload))
  | none =>
    if !fr.spilled && s.eccIn q fr.stack (fr.addr + page * sh.slot) sh.slot then .error (.fresh 0x43)
    else s.slotStored q key fr page sh

/-- `n` pages of a frame from page `p`, in stored form. -/
def State.pagesStored (s : State) (q key gen frame : Nat) (fr : FrameRef) (sh : Shape) : Nat → Nat → Except PageErr Bytes
  | _, 0 => .ok []
  | p, n + 1 =>
    match s.pageStored q key gen frame p fr sh with
    | .error e => .error e
    | .ok b => match s.pagesStored q key gen frame fr sh (p + 1) n with
      | .error e => .error e
      | .ok t => .ok (b ++ t)

/-- Bytes of a frame in stored form. -/
def State.frameBytes (s : State) (q key gen frame : Nat) (fr : FrameRef) (sh : Shape) (off len : Nat) : Except PageErr Bytes :=
  let p := off / sh.slot
  match s.pagesStored q key gen frame fr sh p ((off + len - 1) / sh.slot + 1 - p) with
  | .error e => .error e
  | .ok b => .ok ((b.drop (off - p * sh.slot)).take len)

/-- Status of a read in stored form that fails: the catalogue's code for the condition (DEDUCED, assumption 26). -/
def PageErr.status : PageErr → Nat
  | .notReady _ => sNOTREADY | .keyEpoch => sKEYEPOCH | .damaged => sECC | .fresh st => st | .tableAbsent => sDECCODE
  | .xlate c => if c = 1 then sXLATE else sPERM | .denied => sDENIED | .needHost _ _ => sDECLEN

/-- READ after its lookup: of a live segment, or of an INCOMING one (R263). -/
def readStep (s : State) (p : Op) : StepRes :=
  let frame := fieldAt p.body 24 2
  let off := fieldAt p.body 28 4
  let len := fieldAt p.body 32 4
  match s.entryOf p.q p.key, s.segOf p.q p.key with
  | some (_, e), some (_, g) =>
    if p.gen ≠ e.gen ∨ e.state = .retired then .done (s.finish p.tk sSTALE)
    else match s.shape g.tenant g.shapeId, g.frames[frame]? with
      | some sh, some fr =>
        if off + len > sh.frame then .done (s.finish p.tk sBAD)
        else match s.frameBytes p.q p.key e.gen frame fr sh off len with
          | .ok b => .done (s.finish p.tk sOK len 0 b)
          | .error er => .done (s.finish p.tk er.status)
      | _, _ => .done (s.finish p.tk sBAD)
  | _, _ => .done (s.finish p.tk sSTALE)

/-! ### Running, holding and answering (R253) -/

/-- Descriptor checks of an operation of this file. -/
def State.opBad (s : State) (p : Op) : Bool :=
  match s.shape (keyTenant p.key) p.shapeId with
  | none => true
  | some sh =>
    if p.opcode = 0x10 ∨ p.opcode = 0x11 then appendBad p.opcode p.key p.role sh p.body
    else if p.opcode = 0x14 then readBad p.body
    else if p.opcode = 0x17 then sealBad p.body
    else retireBad p.body

/-- Run one operation of this file against the directory entry as it stands. -/
def segStep (s : State) (p : Op) (addrs : Option (List (Nat × Nat))) : StepRes :=
  if p.opcode = 0x10 ∨ p.opcode = 0x11 then appendStep s p addrs
  else if p.opcode = 0x14 then readStep s p
  else if p.opcode = 0x17 then sealStep s p
  else retireStep s p

/-- The operation that a hold keeps. -/
def Held.op (h : Held) : Op :=
  { (({ origin := h.origin, opcode := h.opcode, body := h.body, arrival := h.arrival } : Inbound).toOp h.ticket) with
    gen := h.gen }

/-- Take a hold out of its store. -/
def State.unhold (s : State) (q id : Nat) : State :=
  s.updStore q fun S => { S with holds := S.holds.filter fun h => h.id != id }

/-- One held operation of a segment is checked again: whether it went, and the state. -/
def tryHeld (s : State) (q : Nat) (h : Held) : Bool × State :=
  match segStep s h.op none with
  | .done s => (true, s.unhold q h.id)
  | .parked s => (true, s.unhold q h.id)
  | .hold s => (false, s.updStore q fun S => { S with holds := S.holds.map fun x =>
      (if x.id = h.id then { x with inStore := false } else x) })
  | .wait s => (false, s.updStore q fun S => { S with holds := S.holds.map fun x =>
      (if x.id = h.id then { x with inStore := true } else x) })

/-- One pass over the held operations that `want` admits: whether any went. -/
def holdPass (q : Nat) : List Held → State → Bool × State
  | [], s => (false, s)
  | h :: t, s =>
    let r := tryHeld s q h
    let u := holdPass q t r.2
    (r.1 || u.1, u.2)

/-- Check the held operations of a Quarter again, until none moves (R253, R264). -/
def recheckWhere (want : Held → Bool) (q : Nat) : Nat → State → State
  | 0, s => s
  | fuel + 1, s =>
    let r := holdPass q ((s.qtr q).store.holds.filter want) s
    if r.1 then recheckWhere want q fuel r.2 else r.2

/-- Check the held operations of one segment again. -/
def State.recheck (s : State) (q key : Nat) : State :=
  recheckWhere (fun h => h.key == key) q ((s.qtr q).store.holds.length + 1) s

/-- Check the operations that wait in the page store again (R46, R184). -/
def State.recheckWaiting (s : State) (q : Nat) : State :=
  recheckWhere (fun h => h.inStore) q ((s.qtr q).store.holds.length + 1) s

/-- Keep an operation in a Quarter's hold store or page store. -/
def State.keepHeld (s : State) (p : Op) (inStore : Bool) : State :=
  let gen := match s.liveEntry p.q p.key with | some e => if p.gen = 0 then e.gen else p.gen | none => p.gen
  s.updStore p.q fun S =>
    { S with
      nextHold := S.nextHold + 1
      holds := S.holds ++ [{ id := S.nextHold, key := p.key, gen := gen, opcode := p.opcode, origin := p.o, body := p.body
                             arrival := p.arrival, since := s.time, ticket := p.tk, inStore := inStore }] }

/-- DETAIL of a hold that ends in GAP (R253, R264). -/
def State.holdDetail (s : State) (p : Op) : Nat :=
  if p.opcode = 0x17 then (match s.segOf p.q p.key with | some (_, g) => g.tokens | none => 0) else s.appendDetail p

/-- Hold an operation, or answer GAP when the store is full or its deadline has passed (R253, Table 9-11). -/
def State.holdOp (s : State) (p : Op) : State :=
  let l := (s.qtr p.q).store.holds.filter fun h => !h.inStore
  if l.length ≥ 256 ∨ (l.map fun h => h.body.length).sum + p.body.length > 1048576 ∨ p.deadline ≤ s.time then
    s.finish p.tk sGAP (s.holdDetail p)
  else s.keepHeld p false

/-- Run an operation after its checks and its lookup, and what its effect lets go. -/
def segRun (s : State) (p : Op) (addrs : Option (List (Nat × Nat))) : State :=
  match segStep s p addrs with
  | .done s => s.recheck p.q p.key
  | .hold s => s.holdOp p
  | .wait s => s.keepHeld p true
  | .parked s => s

/-- An operation of this file: header checks, descriptor checks, lookup, outcome. `addrs` gives the host's frames (R247, R433). -/
def segOp (s : State) (e : Inbound) (addrs : Option (List (Nat × Nat))) : State :=
  match s.beginOp e with
  | .error s => s
  | .ok (p, s) =>
    if s.opBad p then s.finish p.tk sBAD
    else match s.lookup p.q p.key p.toInbound with
      | (.parked, s) => s
      | (_, s) => segRun s p addrs

/-- An operation that a command brings: a host's is checked by its submission rules first (R340). -/
def State.arrive (s : State) (o : Origin) (op : Nat) (body : Bytes) (run : State → Inbound → State) : State :=
  let r := s.take o op body
  let e : Inbound := { origin := o, opcode := op, body := body, arrival := r.1 }
  match o with
  | .wire _ => run r.2 e
  | .host h =>
    match hostCheck r.2 h op body with
    | some st => r.2.complete h st
    | none => run r.2 e

/-- GAP_HOLD_EXPIRY (R253): the hold time or the operation's deadline ends a hold. -/
def gapHoldExpiry (s : State) (q id : Nat) : State :=
  match (s.qtr q).store.holds.find? fun h => h.id == id && !h.inStore with
  | none => s
  | some h =>
    let s := (s.advance (min (h.since + 200000) h.op.deadline)).unhold q id
    s.finish h.ticket sGAP (s.holdDetail h.op)

end Sys2Proof.Machine
end

