-- ==== Sys2Proof/Machine/Dovetail.lean ====
section
/-!
DEFINITION. Dovetail (ch. 03, 04): collecting leaf pieces and peer pieces, the store and its spill region, coverage, and the
answer to an ATTEND (R271).
-/
namespace Sys2Proof.Machine

/-! ### Requests -/

/-- A ticket number that names no request: that of a running job whose request has ended (R128). -/
def noTicket : Nat := 2 ^ 20

/-- An ATTEND in flight. -/
def State.request (s : State) (tk : Nat) : Option Request := (s.qtr (tkQ tk)).dove.reqs.look tk

/-- Change an ATTEND in flight. -/
def State.updReq (s : State) (tk : Nat) (f : Request → Request) : State :=
  s.updDove (tkQ tk) fun D =>
    match D.reqs.look tk with
    | some r => { D with reqs := D.reqs.put tk (f r) }
    | none => D

/-- Rows of one pass (Table 4-2). -/
def passRows (dim : Nat) : Nat := if dim = 4 then 128 else if dim = 3 then 192 else 256

/-- Row passes of a head (R101). -/
def Request.passes (r : Request) : Nat := ceilDiv r.rows (passRows r.shape.dim)

/-- Rows of a head. -/
def Request.headRows (r : Request) (head : Nat) : List QRow :=
  match r.data.find? fun e => e.1 == head with | some e => e.2 | none => []

/-- The requested runs (R270): the first, and the one after the last. -/
def reqRuns (firstSeg lastSeg viewEnd : Nat) : Nat × Nat := (4 * firstSeg, min (4 * lastSeg + 4) (ceilDiv viewEnd 512))

/-- The requested runs of a request. -/
def Request.runs (r : Request) : List Nat :=
  let e := reqRuns r.firstSeg r.lastSeg r.viewEnd
  (List.range (e.2 - e.1)).map (e.1 + ·)

/-- A run is covered for every head; a head that R45 refused covers none (R271). -/
def Request.covers (r : Request) (run : Nat) : Bool :=
  r.heads.all fun h => !r.outWindow.contains h && runCovered r.pieces h run

/-- COVERED (Table 9-2). -/
def Request.covered (r : Request) : Nat := (r.runs.filter r.covers).length

/-- Every requested run is covered for every head. -/
def Request.complete (r : Request) : Bool := r.runs.all r.covers

/-! ### The store (R130) -/

/-- Bytes of a piece or pass partial of a request. -/
def Request.rowBytes (r : Request) (n : Nat) : Nat := n * (8 + 4 * r.shape.d)

/-- Bytes of the store in use by a request. -/
def Request.stored (r : Request) : Nat :=
  ((r.pieces.filter fun p => !p.spilled).map fun p => r.rowBytes p.rows.length).sum +
  (r.parts.map fun p => r.rowBytes p.rows.length).sum

/-- Bytes of the spill region in use by a request. -/
def Request.spillBytes (r : Request) : Nat := ((r.pieces.filter fun p => p.spilled).map fun p => r.rowBytes p.rows.length).sum

/-- Bytes of the store in use. -/
def Dove.used (D : Dove) : Nat := (D.reqs.map fun e => e.2.stored).sum

/-- Bytes of the spill region in use. -/
def Dove.spillUsed (D : Dove) : Nat := (D.reqs.map fun e => e.2.spillBytes).sum

/-- The piece in the store that has waited longest: its request and age. -/
def Dove.oldest (D : Dove) : Option (Nat × Nat) :=
  (D.reqs.flatMap fun e => (e.2.pieces.filter fun p => !p.spilled).map fun p => (e.1, p.age)).foldl
    (fun (a : Option (Nat × Nat)) x => match a with | none => some x | some b => if x.2 < b.2 then some x else some b) none

/-- Move pieces to the spill region until the store is at its level or the region is full: how many moved. -/
def spillSteps (level : Nat) : Nat → Dove → Nat × Dove
  | 0, D => (0, D)
  | fuel + 1, D =>
    if D.used ≤ level then (0, D)
    else match D.oldest with
      | none => (0, D)
      | some (tk, age) =>
        if D.spillUsed ≥ 2 ^ 28 then (0, D)
        else
          let D := { D with reqs := D.reqs.map fun e =>
            (if e.1 = tk then (e.1, { e.2 with pieces := e.2.pieces.map fun p => (if p.age = age then { p with spilled := true } else p) })
             else e) }
          let r := spillSteps level fuel D
          (r.1 + 1, r.2)

/-- HIGH_WM_KIB in effect, in bytes (Table 4-18). -/
def State.doveLevel (s : State) (q : Nat) : Nat := sat (s.reg bDOVE q 8 % 8192) 4096 * 1024

/-- Keep the store of a Quarter at its level (R130). -/
def State.trimDove (s : State) (q : Nat) : State :=
  let D := (s.qtr q).dove
  let r := spillSteps (s.doveLevel q) ((D.reqs.map fun e => e.2.pieces.length).sum + 1) D
  (s.updDove q fun _ => r.2).count bDOVE q 6 r.1

/-! ### Adding pieces (R89, R129, R131) -/

/-- Hand one piece to the host unmerged (R131, Table 16-7): whether it could be posted. -/
def State.postPiece (s : State) (tk : Nat) (r : Request) (p : Piece) : Bool × State :=
  s.postAssist { tag := 0, kind := 6, sub := 0, q := tkQ tk, ticket := tk, key := r.key, words := [p.level, p.index] }
    (some (.piece tk)) (partialRecord r.layer p.head r.rows r.shape.dim [p])

/-- Dovetail takes one piece of a request. A piece that cannot be handed to the host in the host-assisted form leaves the
request without a merged result (status set for its end). -/
def State.addPieceTo (s : State) (tk : Nat) (p : Piece) : State :=
  match s.request tk with
  | none => s
  | some r =>
    let q := tkQ tk
    let s := s.count bDOVE q 0
    let age := (s.qtr q).dove.clock
    let s := s.updDove q fun D => { D with clock := D.clock + 1 }
    let p := { p with age := age }
    if r.assist6 then
      let w := s.postPiece tk r p
      let s := w.2.updReq tk fun r => { r with pieces := r.pieces ++ [p] }
      (if w.1 then s else s.updTicket tk fun t => { t with answerStatus := sABORTED }).trimDove q
    else
      let a := addPiece r.pieces p
      let s := s.updReq tk fun r => { r with pieces := a.pieces }
      (((s.count bDOVE q 1 a.merges).count bDOVE q 2 a.dup).count bDOVE q 3 a.nested).trimDove q

/-- The pass partials of a run of one head, in pass order. -/
def Request.partRows (r : Request) (head run : Nat) : List RowState :=
  (List.range r.passes).flatMap fun k =>
    match r.parts.find? fun p => p.head == head && p.run == run && p.passNo == k with | some p => p.rows | none => []

/-- A finished run partial of one row pass reaches Dovetail (R129). -/
def State.addLeaf (s : State) (tk head passNo run : Nat) (rows : List RowState) : State :=
  match s.request tk with
  | none => s
  | some r =>
    let leaf := fun (rows : List RowState) => ({ head := head, level := 0, index := run, rows := rows } : Piece)
    if r.passes ≤ 1 then s.addPieceTo tk (leaf rows)
    else if r.parts.any fun p => p.head == head && p.run == run && p.passNo == passNo then s
    else
      let r' := { r with parts := r.parts ++ [({ head := head, passNo := passNo, run := run, rows := rows } : PassPart)] }
      if (r'.parts.filter fun p => p.head == head && p.run == run).length = r.passes then
        (s.updReq tk fun r => { r with parts := r.parts.filter fun p => !(p.head == head && p.run == run) }).addPieceTo tk
          (leaf (r'.partRows head run))
      else (s.updReq tk fun _ => r').trimDove (tkQ tk)

/-! ### The end of a request (R271, R128) -/

/-- Some job of a request has not ended. -/
def State.jobsLeft (s : State) (tk : Nat) : Bool := s.quarters.any fun e => e.2.core.jobs.any fun j => j.ticket == tk

/-- Some child of a request has not ended, or a hedge of it waits for the host (R275). -/
def State.childrenLeft (s : State) (tk : Nat) : Bool :=
  (match s.request tk with | some r => r.children.any fun c => !c.ended | none => false) ||
  s.host.assists.any fun a => match a.purpose with | .steer t _ _ _ => t == tk | _ => false

/-- The sequences of a job are cancelled: what has not finished gets CANCELLED, and each retires (Table 5-9). -/
def cancelSeq (j : Nat) (B : BscStack) : BscStack :=
  let mine := B.seqs.flatMap fun e => e.2.filter fun x => x.job == j && x.done < x.runs
  { B with
    seqs := B.seqs.map fun e => (e.1, e.2.map fun x => (if x.job = j then { x with done := x.runs } else x))
    backlog := B.backlog.filter fun x => x.job != j
    entries := mine.foldl (fun t x => (List.range (x.runs - x.done)).foldl (fun t i =>
      Tab.put (8 * x.pch + x.entry + x.done + i) { tag := x.tag, run := x.firstRun + x.done + i, status := 4 } t) t) B.entries }

/-- Remove the jobs of an ended request (R128): those that run stop at their next clamp point; ready and saved jobs go at once,
with their marks; bank sequences are cancelled. -/
def dropJobs (tk : Nat) (Q : Quarter) : Quarter :=
  let mine := Q.core.jobs.filter fun j => j.ticket == tk
  let gone := (mine.filter fun j => j.state == .ready || j.state == .notReady || j.state == .saved).map fun j => j.id
  let bank := (mine.filter fun j => j.state == .onBank).map fun j => j.id
  let busy := fun (j : Job) => j.state == .running || j.state == .onBank
  { Q with
    core := { Q.core with
      jobs := (Q.core.jobs.filter fun j => j.ticket != tk || (busy j && !(Q.core.cores.any fun c => c.2.saving == some j.id))).map fun j =>
        (if j.ticket = tk then { j with ticket := noTicket } else j)
      cores := Q.core.cores.map fun e =>
        let c := { e.2 with saved := e.2.saved.filter fun i => !gone.contains i }
        let c := match c.mark with | some m => if gone.contains m then { c with mark := none } else c | none => c
        let c := match c.nextJob with | some m => if gone.contains m then { c with nextJob := none } else c | none => c
        (e.1, c) }
    bsc := { Q.bsc with stk := Q.bsc.stk.map fun e => (e.1, bank.foldl (fun B j => cancelSeq j B) e.2) } }

/-- Remove the jobs of an ended request in every Quarter. -/
def State.dropAllJobs (s : State) (tk : Nat) : State :=
  { s with quarters := List.map (fun e => (e.1, dropJobs tk e.2)) s.quarters }

/-- Held entries give up jobs that exist no more; an entry that no job needs goes, and the operations that wait for lines are
checked again (R46, R184). -/
def State.sweepHeld (s : State) (q : Nat) : State :=
  let live := (s.qtr q).core.jobs.map fun j => j.id
  let cut := fun (e : CacheEntry) => if e.kind = .held then { e with jobs := e.jobs.filter live.contains } else e
  let cache := ((s.qtr q).store.cache.map cut).filter fun e => !(e.kind == .held && e.jobs.isEmpty)
  let freed := cache.length < (s.qtr q).store.cache.length
  let s := s.updStore q fun S => { S with cache := cache }
  if freed then s.recheckWaiting q else s

/-- Drop every assist entry that waits for a request. -/
def State.dropAssists (s : State) (tk : Nat) : State :=
  { s with host := { s.host with assists := s.host.assists.filter fun a =>
      match a.purpose with
      | .merge t => t != tk | .piece t => t != tk | .steer t _ _ _ => t != tk | _ => true } }

/-- End a request: its jobs and its pieces go, its ticket is released and it is answered (R271). -/
def State.closeReq (s : State) (tk status detail : Nat) (data : Bytes) (covered : Nat) : State :=
  let s := s.dropAllJobs tk
  let s := (s.updDove (tkQ tk) fun D => { D with reqs := D.reqs.del tk }).dropAssists tk
  let s := s.finish tk status detail 0 data covered
  (List.range 4).foldl (fun s q => s.sweepHeld q) s

/-- STATUS of a request that has records (R271, cases 2 to 4). -/
def Request.status (r : Request) : Nat :=
  if r.outWindow != [] then sWINDOW else if r.complete then sOK else sPARTIAL

/-- End a request with the records of Dovetail's own merge. -/
def State.answerReq (s : State) (tk : Nat) (r : Request) : State :=
  let recs := r.heads.flatMap fun h => r.headRecords (r.pieces.filter fun p => !r.outWindow.contains p.head) h
  let s := if r.partialMode then s else s.count bDOVE (tkQ tk) 5 recs.length
  s.closeReq tk r.status recs.length recs.flatten r.covered

/-- End a request whose work is over: with its own merge, or by handing DONE to the host (R271, R131). A DONE that cannot be
posted is timed out at once. -/
def State.endReq (s : State) (tk : Nat) : State :=
  match s.request tk with
  | none => s
  | some r =>
    if !r.assist6 then s.answerReq tk r
    else if r.doneSent then s
    else if (match s.ticket tk with | some t => t.answerStatus == sABORTED | none => false) then s.closeReq tk sABORTED 0 [] 0
    else
      let s := s.dropAllJobs tk
      let w := s.postAssist { tag := 0, kind := 6, sub := 1, q := tkQ tk, ticket := tk, key := r.key } (some (.merge tk)) []
      if w.1 then w.2.updReq tk fun r => { r with doneSent := true } else w.2.closeReq tk sABORTED 0 [] 0

/-- End a request when its work is over or its coverage is complete (R271). -/
def State.checkReq (s : State) (tk : Nat) : State :=
  match s.request tk with
  | none => s
  | some r => if r.complete || !(s.jobsLeft tk || s.childrenLeft tk) then s.endReq tk else s

/-- Codes of Table 9-12 that are not reserved (R279). -/
def isStatus (c : Nat) : Bool :=
  c ≤ 0x03 || (0x10 ≤ c && c ≤ 0x15) || (0x20 ≤ c && c ≤ 0x24) || (0x30 ≤ c && c ≤ 0x34) || (0x40 ≤ c && c ≤ 0x43) ||
  (0x50 ≤ c && c ≤ 0x5A) || c == 0x60 || c == 0x61 || c == 0xF0 || c == 0xF1

/-- The host answers DONE (Tables 16-7, 17-3 row 16): its status and records are the result; anything else counts as no
answer. -/
def State.mergeAnswer (s : State) (tk : Nat) (answer : Option (Nat × Bytes)) : State :=
  match s.request tk with
  | none => s
  | some r =>
    let fail := s.closeReq tk sABORTED 0 [] 0
    match answer with
    | none => fail
    | some (status, b) =>
      let recs := readRecs (b.length + 1) b
      let good := recs.all fun x => match x with
        | none => false
        | some c => c.normal == !r.partialMode && (c.normal || !recBad c)
      let fmt := r.partialMode || recs.length == 0 || bit (byteAt b 4) 4 == r.bf16Out
      if good && fmt && isStatus status then s.closeReq tk status recs.length b r.covered else fail

/-- The deadline ends a request (R128, R271, Table 17-3 rows 14 and 17). -/
def State.deadlineReq (s : State) (tk : Nat) : State :=
  match s.request tk with
  | none => s
  | some r =>
    let s := s.countU bCORE (tkQ tk) 8 2
    let s := if s.host.assists.any fun a => a.purpose == .merge tk then s.count bHQ 0 5 else s
    if r.assist6 ∨ (!r.byDeadline ∧ !r.complete) then s.closeReq tk sDEADLINE 0 [] 0
    else s.answerReq tk r

end Sys2Proof.Machine
end

