-- ==== Sys2Proof/Machine/Estimate.lean ====
section
/-!
DEFINITION. What the dispatcher computes (ch. 04, 05, 14): the order of jobs, cores in dispatch, fold times, energy estimates,
buckets, completion estimates and WILL_MISS.
-/
namespace Sys2Proof.Machine

/-! ### Cores and jobs -/

/-- Local core k of Quarter q. -/
def State.core (s : State) (q k : Nat) : Core := (s.qtr q).core.cores.fetch k {}

/-- Change local core k of Quarter q. -/
def State.updOne (s : State) (q k : Nat) (f : Core → Core) : State :=
  s.updCore q fun I => { I with cores := I.cores.amend k {} f }

/-- Job `id` of Quarter q. -/
def State.job (s : State) (q id : Nat) : Option Job := (s.qtr q).core.jobs.find? fun j => j.id == id

/-- Change job `id` of Quarter q. -/
def State.updJob (s : State) (q id : Nat) (f : Job → Job) : State :=
  s.updCore q fun I => { I with jobs := I.jobs.map fun j => (if j.id = id then f j else j) }

/-- Remove job `id` of Quarter q. -/
def State.dropJob (s : State) (q id : Nat) : State :=
  s.updCore q fun I => { I with jobs := I.jobs.filter fun j => j.id != id }

/-- A core is in dispatch: its bit of CORE_DISPATCH_EN is set, and it has neither faulted nor failed a test (Table 4-7). -/
def State.inDispatch (s : State) (q k : Nat) : Bool :=
  bit (s.reg bCORE q 0) k && (s.core q k).online && !(s.core q k).faulted

/-- The local cores in dispatch. -/
def State.coresIn (s : State) (q : Nat) : List Nat := (List.range 8).filter fun k => s.inDispatch q k

/-- A core has no job, saves none and holds for no clock change. -/
def Core.idle (c : Core) : Bool := c.job.isNone && c.saving.isNone && c.nextJob.isNone && !c.held && !c.testing

/-- A core is marked to give way to a job. -/
def State.marked (s : State) (q id : Nat) : Bool :=
  (s.qtr q).core.cores.any fun e => e.2.mark == some id || e.2.nextJob == some id

/-- Order of a class (Table 4-4). -/
def JClass.rank : JClass → Nat
  | .express => 0 | .decode => 1 | .prefill => 2

/-- Absolute deadline of a job's request (R122). -/
def State.jobDue (s : State) (j : Job) : Nat :=
  match s.ticket j.ticket with | some t => t.arrival + t.deadline * 1000 | none => 0

/-- The order of R122. -/
def State.before (s : State) (a b : Job) : Bool :=
  let x := [a.cls.rank, s.jobDue a, a.order, a.subOrder, a.id]
  let y := [b.cls.rank, s.jobDue b, b.order, b.subOrder, b.id]
  decide (x < y)

/-- The first job in order among some. -/
def State.firstOf (s : State) (l : List Job) : Option Job :=
  l.foldl (fun (a : Option Job) j => match a with | none => some j | some b => if s.before j b then some j else some b) none

/-- Jobs that may go now, if the bucket and the cores allow: ready ones for which no core is marked, and saved ones whose core
is idle and in dispatch (R118, R122). -/
def State.waitingJobs (s : State) (q : Nat) : List Job :=
  (s.qtr q).core.jobs.filter fun j =>
    (j.state == .ready && !s.marked q j.id) ||
    (j.state == .saved && (s.core q j.core).idle && s.inDispatch q j.core)

/-- The job that the dispatcher admits, resumes or waits for (R123). -/
def State.firstJob (s : State) (q : Nat) : Option Job := s.firstOf (s.waitingJobs q)

/-! ### Fold times (R99, R143) -/

/-- kf of R99. -/
def Shape.kf (sh : Shape) : Nat := if sh.k8 then 1 else 2
/-- vf of R99. -/
def Shape.vf (sh : Shape) : Nat := if sh.v8 then 1 else 2

/-- block_cycles (R99). -/
def blockCycles (rows : Nat) (sh : Shape) : Nat :=
  4 + max (ceilDiv (rows * 32 * sh.d) (16384 * sh.kf))
    (max (ceilDiv (rows * 32) 128) (ceilDiv (rows * 32 * sh.d) (16384 * sh.vf)))

/-- bank_block (R143). -/
def bankBlock (rows : Nat) (sh : Shape) : Nat :=
  6 + max (max (ceilDiv (rows * 32 * sh.d) (128 * sh.kf)) (ceilDiv (rows * 32) 8))
    (max (ceilDiv (rows * 32 * sh.d) (128 * sh.vf)) (ceilDiv (sh.slot / 2) 160))

/-- Bank cycles of a sequence of some runs (R143). -/
def seqCycles (rows runs : Nat) (sh : Shape) : Nat := 300 + runs * 16 * bankBlock rows sh

/-- Core clock of a module power state in MHz (Table 0-4). -/
def coreMhz (p : Nat) : Nat := if p = 0 then 850 else if p = 1 then 600 else 300

/-- Nanoseconds of a core cycle of Quarter q. -/
def State.coreNs (s : State) (q : Nat) : Rat := 1000 / (coreMhz (s.qtr q).core.clock : Rat)

/-- Core cycles of a number of bank cycles, rounded up (R143); one bank cycle is 1 ns. -/
def State.bankToCore (s : State) (q n : Nat) : Nat := ceilDiv (n * coreMhz (s.qtr q).core.clock) 1000

/-- RD_BPC in effect (Table 4-12). -/
def State.rdBpc (s : State) (q : Nat) : Nat := max 1 (bits (s.reg bCORE q 0x20) 31 16)

/-- Core cycles of one run (R126, R387), with n cores in dispatch. -/
def State.runCycles (s : State) (q rows n : Nat) (sh : Shape) : Rat :=
  let fold : Rat := (16 * blockCycles rows sh : Nat)
  let fold := if s.pwr.clamp then fold * 64 / (s.pwr.duty : Rat) else fold
  max fold ((8 * sh.slot * n : Nat) / (s.rdBpc q : Rat))

/-- V blocks that a job has still to fold. -/
def Job.blocksLeft (j : Job) : Nat := (j.runs - j.nextRun) * 16 - j.nextBlock

/-- The shape of a job's request. -/
def State.jobShape (s : State) (j : Job) : Option Shape := (s.request j.ticket).map fun r => r.shape

/-- Core cycles that a job has still to run (R126). -/
def State.cyclesLeft (s : State) (q n : Nat) (j : Job) : Rat :=
  match s.jobShape j with
  | none => 0
  | some sh => (j.blocksLeft : Rat) / 16 * s.runCycles q j.rowN n sh

/-! ### Bank sequences of a job (R138) -/

/-- The frame of a job that holds a run. -/
def Job.frameOf (j : Job) (run : Nat) : Option JobFrame := j.frames.find? fun f => f.seg == run / 4

/-- Consecutive runs of a job that lie in one frame: the first run and how many. -/
def seqParts : List Nat → List (Nat × Nat)
  | [] => []
  | r :: t =>
    match seqParts t with
    | (f, n) :: rest => if f = r + 1 ∧ f / 4 = r / 4 then (r, n + 1) :: rest else (r, 1) :: (f, n) :: rest
    | [] => [(r, 1)]

/-- The sequences of a bank-site job: first run, runs, frame. -/
def Job.parts (j : Job) : List (Nat × Nat × JobFrame) :=
  (seqParts ((List.range j.runs).map (j.firstRun + ·))).filterMap fun e => (j.frameOf e.1).map fun f => (e.1, e.2, f)

/-- Bank cycles still to run on a scorer by what is issued or waits for it (R126). -/
def State.scorerLeft (s : State) (q ls pch : Nat) : Nat :=
  let B := s.bank q ls
  ((B.queueOf pch ++ B.backlog.filter fun x => x.pch == pch).map fun x =>
    match (s.job q x.job).bind s.jobShape with
    | some sh => (if x.done = 0 then 300 else 0) + (x.runs - x.done) * 16 * bankBlock x.rowN sh
    | none => 0).sum

/-- Start and run terms of a bank-site job, in core cycles (R126, R143). -/
def State.bankTerms (s : State) (q : Nat) (j : Job) (sh : Shape) : Nat × Nat :=
  let use := j.parts.map fun p => ((p.2.2.stack, pchOf p.2.2.addr), seqCycles j.rowN p.2.1 sh)
  let at_ := fun k => ((use.filter fun u => u.1 == k).map (·.2)).sum
  let start := (use.map fun u => s.bankToCore q (s.scorerLeft q u.1.1 u.1.2)).foldl max 0
  (start, (use.map fun u => s.bankToCore q (at_ u.1)).foldl max 0)

/-! ### Energy (R379 to R387) -/

/-- Entry i of the Energy Table (Table 14-1). -/
def State.etab (s : State) (i : Nat) : Nat := s.reg bNRG 0 (0x100 + 4 * i)

/-- MAC slots of a run (R379). -/
def runMacs (rows : Nat) (sh : Shape) : Nat := rows * 512 * sh.d / sh.kf + rows * 512 * sh.d / sh.vf

/-- Bytes of a run partial (R379). -/
def runRes (rows : Nat) (sh : Shape) : Nat := rows * (8 + 4 * sh.d)

/-- E of R379 in femtojoules, for some runs of a row pass: on a core, or in `seqs` sequences on bank scorers. -/
def State.energyOf (s : State) (rows runs seqs : Nat) (bank child : Bool) (sh : Shape) : Nat :=
  let run := 8 * sh.slot
  let link := if child then runRes rows sh * runs else 0
  if bank then
    runs * (run * s.etab 1 + runRes rows sh * s.etab 0 + runMacs rows sh * s.etab 3) + link * s.etab 4 + s.etab 6 * seqs
  else runs * (run * s.etab 0 + runMacs rows sh * s.etab 2) + link * s.etab 4 + s.etab 5

/-- The energy state of Quarter q. -/
def State.qe (s : State) (q : Nat) : QEnergy := s.pwr.q.fetch q {}

/-- Change the energy state of Quarter q. -/
def State.updQe (s : State) (q : Nat) (f : QEnergy → QEnergy) : State :=
  { s with pwr := { s.pwr with q := s.pwr.q.amend q {} f } }

/-- The factor of an estimate made now (R379, R385). -/
def State.kNow (s : State) (q : Nat) : Rat := if s.assisted 8 then 1 else (s.qe q).calib

/-- A job's estimate in femtojoules, rounded down. -/
def Job.estFj (j : Job) : Nat := ((j.raw : Rat) * j.factor).floor.toNat

/-- The burst: 0.5 J (R381). -/
def burstFj : Int := 500000000000000

/-- Bucket level of Quarter q now (R381): 1 mW for 1 ns is 1,000 fJ. In Q-OFF the level is held. -/
def State.level (s : State) (q : Nat) : Int :=
  let e := s.qe q
  if s.qOff q then e.levelFj else min burstFj (e.levelFj + ((s.time - e.at_) * e.rateMw * 1000 : Nat))

/-- Bring a bucket up to date. -/
def State.settleBucket (s : State) (q : Nat) : State :=
  let l := s.level q
  s.updQe q fun e => { e with levelFj := l, at_ := s.time }

/-- A job fits the bucket (R123). -/
def State.fits (s : State) (q : Nat) (j : Job) : Bool :=
  decide (s.level q ≥ (j.estFj : Int)) || decide (s.level q ≥ burstFj)

/-- Estimates of the unadmitted jobs ordered before one in its Quarter (R386). -/
def State.aheadFj (s : State) (q : Nat) (j : Job) : Nat :=
  (((s.qtr q).core.jobs.filter fun k => !k.admitted && s.before k j).map Job.estFj).sum

/-- Energy wait of a job in ns (R386); none when it is infinite. -/
def State.ewait (s : State) (q : Nat) (j : Job) : Option Rat :=
  if j.admitted then some 0
  else
    let n : Int := (s.aheadFj q j : Int) + j.estFj - s.level q
    let rate := (s.qe q).rateMw
    if n ≤ 0 then some 0
    else if rate = 0 ∨ s.qOff q then none else some ((n : Rat) / ((rate * 1000 : Nat) : Rat))

/-! ### Completion estimates (R126) -/

/-- Core cycles of the save of one full pass (R120). -/
def saveCycles (rows : Nat) (sh : Shape) : Nat :=
  ceilDiv (rows * (ceilDiv (8 + 4 * sh.d + sh.d + sh.sc) 16 * 16) + 64) 2048

/-- The victim that the dispatcher would mark for a job (R119): the running PREFILL job with the latest deadline, then on the
highest core. -/
def State.victim (s : State) (q : Nat) (j : Job) : Option (Nat × Job) :=
  let ok := fun k =>
    let c := s.core q k
    c.saving.isNone && c.mark.isNone && c.saved.length < 8
  if j.cls = .prefill ∨ !bit (s.reg bCORE q 0x14) 0 ∨ (s.coresIn q).any (fun k => (s.core q k).idle) then none
  else
    (((s.coresIn q).filter ok).filterMap fun k => ((s.core q k).job.bind (s.job q)).map fun v => (k, v)).foldl
      (fun (a : Option (Nat × Job)) x =>
        if x.2.cls ≠ .prefill ∨ x.2.ticket = noTicket then a
        else match a with
          | none => some x
          | some b => if s.jobDue b.2 ≤ s.jobDue x.2 then some x else some b) none

/-- The core island of Quarter q is clock-gated: Q-IDLE with no ready, running or saved job (R392). -/
def State.gated (s : State) (q : Nat) : Bool :=
  (s.qtr q).power == .idle && !(s.qtr q).core.jobs.any fun j => j.state != .notReady

/-- Estimated finish time of a job in ns (R126, R386); none when it is infinite. -/
def State.fin (s : State) (q : Nat) (j : Job) : Option Rat :=
  match s.jobShape j with
  | none => some s.time
  | some sh =>
    let ns := s.coreNs q
    let wake : Rat := match (s.qtr q).wakeAt with | some t => if s.time < t then 2000 else 0 | none => 0
    match s.ewait q j with
    | none => none
    | some w =>
      if j.site = 2 then
        if j.state = .onBank then
          some ((s.time : Rat) + ((j.parts.map fun p => s.bankToCore q (s.scorerLeft q p.2.2.stack (pchOf p.2.2.addr))).foldl max 0 : Nat) * ns)
        else
          let b := s.bankTerms q j sh
          some ((s.time : Rat) + wake + ((b.1 + b.2 : Nat) : Rat) * ns + w)
      else
        let n := (s.coresIn q).length
        if n = 0 then none
        else
          let run := s.cyclesLeft q n j
          if j.state = .running then some ((s.time : Rat) + run * ns)
          else
            let ahead := (((s.qtr q).core.jobs.filter fun k =>
              k.site != 2 && k.id != j.id && (k.state == .running || k.state == .ready || k.state == .saved) && s.before k j).map
                (s.cyclesLeft q n)).sum / (n : Rat)
            let bound : Option Rat :=
              match s.victim q j with
              | none => none
              | some (_, v) => match s.jobShape v with
                | some vs => some ((2 * blockCycles v.rowN vs + saveCycles v.rowN vs : Nat) : Rat)
                | none => none
            let start := match bound with | some b => min b ahead | none => ahead
            some ((s.time : Rat) + wake + (start + run) * ns + w)

/-- The later of two estimates. -/
def later (a b : Option Rat) : Option Rat := match a, b with | some x, some y => some (max x y) | _, _ => none

/-- The estimate of a request (R126): none while it has no local job; `some none` when it is infinite. -/
def State.estimate (s : State) (tk : Nat) : Option (Option Rat) :=
  let fins := (List.range 4).flatMap fun q => ((s.qtr q).core.jobs.filter fun j => j.ticket == tk).map (s.fin q)
  match fins with
  | [] => none
  | f :: t => some ((t.foldl later f).map fun x => x + ((s.reg bCORE (tkQ tk) 0x20 % 65536 : Nat) : Rat))

/-- An estimate in µs from an arrival, rounded up and saturating (Table 9-3). -/
def estUs (arrival : Nat) (e : Option Rat) : Nat :=
  match e with
  | none => 0xFFFFFF
  | some x => sat ((x - arrival) / 1000).ceil.toNat 0xFFFFFF

/-! ### WILL_MISS (R127, R276) -/

/-- Send WILL_MISS for a request, at most once: `base` is a child's part of VALUE (R276). -/
def State.sendMiss (s : State) (tk base : Nat) : State :=
  match s.ticket tk, s.request tk with
  | some t, some r =>
    if t.willMiss then s
    else
      let own := match s.estimate tk with | none => 0 | some e => estUs t.arrival e
      let s := s.updTicket tk fun t => { t with willMiss := true }
      (s.noticeTo r.origin r.tag 0x21 (sat (max base own) 0xFFFFFF)).countU bCORE (tkQ tk) 8 1
  | _, _ => s

/-- Check one request (R127). -/
def State.checkMiss (s : State) (tk : Nat) : State :=
  match s.ticket tk, s.estimate tk with
  | some t, some e =>
    let due : Rat := ((t.arrival + t.deadline * 1000 : Nat) : Rat)
    let late := match e with | none => true | some x => decide (due < x)
    if late then s.sendMiss tk 0 else s
  | _, _ => s

/-- Check every request of the node (R127). -/
def State.checkMisses (s : State) : State :=
  ((List.range 4).flatMap fun q => (s.qtr q).dove.reqs.map fun e => e.1).foldl (fun s tk => s.checkMiss tk) s

end Sys2Proof.Machine
end

