-- ==== Sys2Proof/Machine/Jobs.lean ====
section
/-!
DEFINITION. Jobs (ch. 04, 05, 17): what a page gives a fold, sites, cutting and forming jobs, issuing bank sequences, and the
commands of the dispatcher and the cores.
-/
namespace Sys2Proof.Machine

/-! ### What a page gives a fold (R44, R82, R132, R208) -/

/-- What reading one page for a fold comes to: its two V blocks; nothing, so that its run is not covered; a wait for the host;
or a stack that is not ready. -/
inductive PageView where
  | blocks (l : List VBlk)
  | uncovered
  | stall
  | away (ls : Nat)

/-- A job's frame as a frame of its segment, with the damage marks that the descriptor shows while it names that frame. -/
def State.frameRef (s : State) (q : Nat) (f : JobFrame) : FrameRef :=
  let damaged := match s.segOf q f.key with
    | some (_, g) => (match g.frames[f.frame]? with
      | some r => if r.stack = f.stack ∧ r.addr = f.addr then r.damaged else 0
      | none => 0)
    | none => 0
  { stack := f.stack, addr := f.addr, spilled := f.spilled, damaged := damaged }

/-- The two V blocks of a cache entry (R44). -/
def CacheEntry.view (e : CacheEntry) (sh : Shape) (seg page viewEnd : Nat) : List VBlk :=
  let pay := Mem.read e.slot 64 sh.payload
  [0, 1].map fun b =>
    vBlock sh pay e.tokens (seg * 2048) page b viewEnd (if e.vform.getD b 0 = 1 then some e.v else none) false

/-- The open or held entry that stands for a page of a job (R46). -/
def State.retainedOf (s : State) (q id : Nat) (sh : Shape) (f : JobFrame) (page : Nat) : Option CacheEntry :=
  (s.qtr q).store.cache.find? fun e =>
    e.key == f.key && e.frame == f.frame && e.page == page && e.stack == f.stack &&
      ((e.kind == .held && e.jobs.contains id) || (e.kind == .open_ && e.addr == f.addr + page * sh.slot))

/-- The units of a page are posted to the host in turn (R208): the next one, or the end without an answer. `kPart` holds the
plain K region once the host has given it. -/
def State.postUnit (s : State) (q : Nat) (reader : Reader) (f : JobFrame) (page : Nat) (sh : Shape) (h : PageHdr) (pay : Bytes)
    (kPart : Bytes) : Option State :=
  let isV := !kPart.isEmpty
  let off := if isV then h.kLen else 0
  let len := if isV then h.vLen else h.kLen
  if h.kLen < 8 ∨ h.vLen < 8 ∨ h.kLen + h.vLen > sh.kb + sh.vb then none
  else
    let u := (pay.drop off).take len
    if (unitCheck u len).isSome then none
    else
      let r := s.postAssist { tag := 0, kind := 4, sub := 0, q := q, key := f.key, words := [b2n isV] }
        (some (.decode reader f.key f.frame page isV kPart)) u
      if r.1 then some r.2 else none

/-- A read of a job fills the page cache (Table 6-12). -/
def State.fillsFor (s : State) (q : Nat) (cls : JClass) : Bool :=
  match s.fillMode q with
  | 0 => false
  | 1 => cls != .prefill
  | _ => true

/-- A job waits for the host to expand a page (R208). -/
def State.asksHost (s : State) (q id : Nat) (f : JobFrame) (page : Nat) : Bool :=
  s.host.assists.any fun a => match a.purpose with
    | .decode (.job q' id') key frame p _ _ => q' == q && id' == id && key == f.key && frame == f.frame && p == page
    | _ => false

/-- Read one page for job `id` (R44, R46, R169, R206 to R208). A page that holds no token fills nothing. -/
def State.viewPage (s : State) (q id : Nat) (cls : JClass) (sh : Shape) (f : JobFrame) (page viewEnd : Nat) : PageView × State :=
  let fr := s.frameRef q f
  match s.retainedOf q id sh f page with
  | some e =>
    if bit fr.damaged page then (.uncovered, s)
    else (.blocks (e.view sh f.seg page viewEnd), s.count bPST q 4)
  | none =>
    let cached := s.cacheOf q f.key f.frame page fun k => k == .writeback || k == .readPage
    match s.plainPage q f.key fr f.frame page sh with
    | .ok h pay =>
      let bl := [0, 1].map fun b => vBlock sh pay h.tokens (f.seg * 2048) page b viewEnd none false
      if cached.isSome then (.blocks bl, (s.count bPST q 4).touchCache q f.key f.frame page)
      else
        let s := s.count bPST q 5
        let s := if h.coded then s.count bPCD q 5 2 else s
        (.blocks bl, if s.fillsFor q cls && h.tokens != 0 then s.fillRead q f.key f.frame page f.stack fr.addr sh h pay else s)
    | .err (.notReady ls) => (.away ls, (s.count bPST q 5).pageFailed q f.key fr f.frame page sh (.notReady ls))
    | .err (.needHost h pay) =>
      if s.asksHost q id f page then (.stall, s)
      else
        let s := s.count bPST q 5
        match s.postUnit q (.job q id) f page sh h pay [] with
        | some s => (.stall, s)
        | none => (.uncovered, s)
    | .err e => (.uncovered, (s.count bPST q 5).pageFailed q f.key fr f.frame page sh e)

/-- Fold the V blocks of a page into the rows of a job (R79). -/
def foldPage (r : Request) (j : Job) (bl : List VBlk) : List RowState :=
  let rows := ((r.headRows j.head).drop j.rowLo).take j.rowN
  let st := if j.rows.isEmpty then rows.map fun _ => emptyRow r.shape.d else j.rows
  (rows.zip st).map fun e => bl.foldl (foldBlock r.shape.scale r.pattern r.viewEnd e.1.pos (quantRow e.1.q)) e.2

/-! ### Sites (R111 to R113, R136, R137, R388) -/

/-- Most rows of a sequence (Table 5-2). -/
def bankRows (dim : Nat) : Nat :=
  match dim with | 0 => 64 | 1 => 64 | 2 => 48 | 3 => 32 | _ => 24

/-- The energy state allows bank scoring on a stack (R388). -/
def State.bankAllowed (s : State) (q ls : Nat) : Bool :=
  let S := s.stack (4 * q + ls)
  bit (s.reg bNRG 0 0) 0 && S.st == .ready && !S.off && !S.selfRefresh && !bit s.pwr.hotScoring (2 * q + (ls - 2)) && !s.qOff q

/-- The last four conditions of R111 for a job. -/
def State.bankOk (s : State) (q : Nat) (j : Job) (tenant : Nat) (sh : Shape) : Bool :=
  decide (j.rowN ≤ bankRows sh.dim) && !(s.tenant tenant).encrypt && !s.sec.conf &&
  j.frames.all fun f =>
    f.stack ≥ 2 && !f.spilled && s.bankAllowed q f.stack &&
    (let B := s.bank q f.stack
     let c := pchOf f.addr / 2
     (B.modeOf c == 1 || B.modeOf c == 2) && !B.chFail.contains c)

/-- SITE of an execution control word (Table 4-3). -/
def execSite (e : Nat) : Nat := bits e 3 2

/-- The site of a job (R111 to R113, R441): 1 core, 2 bank scorers. -/
def State.siteOf (s : State) (q : Nat) (j : Job) (r : Request) : Nat :=
  let site := if execSite r.exec = 0 ∧ s.assisted 9 then 1 else execSite r.exec
  let ok := s.bankOk q j (keyTenant r.key) r.shape
  if site = 1 then 1
  else if site = 2 then (if ok then 2 else 1)
  else if r.shape.bscThresh ≠ 0 ∧ j.rowN ≤ r.shape.bscThresh ∧ ok then 2 else 1

/-- A block of a segment is closed for a view end (R44): it ends below it, was pre-quantised, or belongs to a segment that takes
no more tokens and has none at or above the view end in it. -/
def blockClosed (g : Seg) (layer stored viewRel b : Nat) (accepting : Bool) : Bool :=
  32 * b + 32 ≤ viewRel || g.preq.contains (layer * 64 + b) || (!accepting && min stored (32 * b + 32) ≤ viewRel)

/-- A run of a job is bank-eligible (R137). -/
def State.bankEligible (s : State) (q : Nat) (r : Request) (j : Job) (run : Nat) : Bool :=
  match j.frameOf run with
  | none => false
  | some f =>
    match s.entryOf q f.key, s.segOf q f.key with
    | some (_, e), some (_, g) =>
      let n := g.next r.layer
      let rel := r.viewEnd - f.seg * 2048
      let inRun := fun (p : Nat) => p / 8 == run % 4
      let openPage := (s.openOf q f.key f.frame).any fun x => inRun x.page
      !openPage && (List.range 16).all fun i =>
        let b := run % 4 * 16 + i
        decide (min n rel ≤ 32 * b) || blockClosed g r.layer n rel b (accepts e g)
    | _, _ => true

/-! ### Cutting and forming jobs (R103, R106 to R110) -/

/-- SPLIT_MIN_RUNS and LONG_RUNS in effect (Table 4-10). -/
def State.minRuns (s : State) (q : Nat) : Nat := max 1 (s.reg bCORE q 0x10 % 256)
/-- LONG_RUNS in effect. -/
def State.longRuns (s : State) (q : Nat) : Nat := bits (s.reg bCORE q 0x10) 23 8

/-- The slices of a range of n runs under sequence-split (R108): first run and length. -/
def cutRuns (splitCores inDisp minRuns first n : Nat) : List (Nat × Nat) :=
  let k := min (if splitCores = 0 then 8 else splitCores) (min (max 1 inDisp) (min (ceilDiv n minRuns) 8))
  if k ≤ 1 then [(first, n)]
  else
    let len := ceilDiv (ceilDiv n k) minRuns * minRuns
    (List.range k).filterMap fun i => if i * len < n then some (first + i * len, min len (n - i * len)) else none

/-- SPLIT_CORES of an execution control word. -/
def execSplit (e : Nat) : Nat := bits e 11 8

/-- The slices of one part of a range (R106 to R109). -/
def State.slices (s : State) (q exec : Nat) (cls : JClass) (first n rangeRuns : Nat) : List (Nat × Nat) :=
  let mapping := exec % 4
  let split := mapping == 2 || (mapping == 0 && (cls == .prefill || rangeRuns > s.longRuns q))
  if split then cutRuns (execSplit exec) (s.coresIn q).length (s.minRuns q) first n else [(first, n)]

/-- A job's estimate for its site (R379). -/
def State.estimateJob (s : State) (q : Nat) (r : Request) (j : Job) : Job :=
  { j with raw := s.energyOf j.rowN j.runs j.parts.length (j.site == 2) (r.role == 2) r.shape, factor := s.kNow q }

/-- Put a job among the ready ones of its Quarter, waking its core island (R392). -/
def State.addJob (s : State) (q : Nat) (j : Job) : State :=
  let s := if s.gated q then (s.updQ q fun Q => { Q with wakeAt := some (s.time + 2000) }).count bPWR 0 2 else s
  (s.updCore q fun I => { I with jobs := I.jobs ++ [j] }).countU bCORE q 8 0

/-- The pages that are held for a job are held for a job cut from it too (R46). -/
def State.inherit (s : State) (q old heir : Nat) : State :=
  s.updStore q fun S => { S with cache := S.cache.map fun (e : CacheEntry) =>
    if e.kind = .held ∧ e.jobs.contains old then { e with jobs := e.jobs ++ [heir] } else e }

/-- A core job over some of a job's runs (R110, R137, R147): `admitted` when the job it comes from was; such a job is not estimated
again (R458), and `raw` is the part of the first estimate that its completion counts for. -/
def State.addCoreJob (s : State) (q : Nat) (r : Request) (j : Job) (first n sub : Nat) (admitted : Bool) (raw : Nat := 0) :
    State :=
  let i := s.fresh
  let c : Job := { j with id := i.1, firstRun := first, runs := n, site := 1, subOrder := sub, admitted := admitted, state := .ready
                          core := 0, nextRun := 0, nextBlock := 0, rows := [], waitStack := none
                          frames := j.frames.filter fun f => first / 4 ≤ f.seg && f.seg ≤ (first + n - 1) / 4 }
  let c := i.2.estimateJob q r c
  (i.2.inherit q j.id i.1).addJob q (if admitted then { c with raw := raw } else c)

/-- Each of some runs becomes a core job just behind the job it comes from. -/
def State.runsToCores (s : State) (q : Nat) (r : Request) (j : Job) (admitted : Bool) (runs : List Nat) : State :=
  ((List.range runs.length).zip runs).foldl (fun s e => s.addCoreJob q r j e.2 1 (j.subOrder + e.1 + 1) admitted) s

/-- Fix the site of a job, and take the runs that are not bank-eligible from it (R137, R441): none when nothing is left. -/
def State.resolveSite (s : State) (q : Nat) (r : Request) (j : Job) : Option Job × State :=
  let j := s.estimateJob q r { j with site := s.siteOf q j r }
  if j.site ≠ 2 then (some j, s)
  else
    let runs := (List.range j.runs).map (j.firstRun + ·)
    let out := runs.filter fun g => !s.bankEligible q r j g
    if out = [] then (some j, s)
    else
      let s := s.runsToCores q r j false out
      match seqGroups (runs.filter fun g => !out.contains g) with
      | [] => (none, s)
      | (f, n) :: rest =>
        let keep := fun (f n : Nat) => ({ j with firstRun := f, runs := n
                                                 frames := j.frames.filter fun x => f / 4 ≤ x.seg && x.seg ≤ (f + n - 1) / 4 } : Job)
        let s := rest.foldl (fun s e =>
          let i := s.fresh
          (i.2.inherit q j.id i.1).addJob q (i.2.estimateJob q r { keep e.1 e.2 with id := i.1 })) s
        (some (s.estimateJob q r (keep f n)), s)
where
  /-- Maximal groups of consecutive runs. -/
  seqGroups : List Nat → List (Nat × Nat)
    | [] => []
    | r :: t => match seqGroups t with
      | (f, n) :: rest => if f = r + 1 then (r, n + 1) :: rest else (r, 1) :: (f, n) :: rest
      | [] => [(r, 1)]

/-! ### Bank sequences (R138 to R140) -/

/-- A result-entry pair of a scorer is free: no sequence that is issued or uncollected uses it (R147). -/
def BscStack.pairFree (B : BscStack) (k entry : Nat) : Bool :=
  !((B.queueOf k ++ B.notices ++ B.fenced).any fun x => x.pch == k && x.entry == entry)

/-- Issue what the backlog of a stack allows, in order: a scorer takes two sequences (R140). -/
def issueSteps (q ls : Nat) : List Sequence → State → State
  | [], s => s
  | x :: t, s =>
    let B := s.bank q ls
    let k := x.pch
    let entry := if B.pairFree k 0 then some 0 else if B.pairFree k 4 then some 4 else none
    match entry with
    | some e =>
      if (B.queueOf k).length < 2 ∧ !(B.backlog.any fun y => y.pch == k && y.tag < x.tag) then
        let n := B.nextSeq
        let x' := { x with seqNo := n, entry := e, bank := e / 4 }
        let s := (s.updBank q ls fun B => { B with
          seqs := B.seqs.put k (B.queueOf k ++ [x']), nextSeq := n + 1
          backlog := B.backlog.filter fun y => y.tag != x.tag }).countU bBSC q (ls - 2) 0
        issueSteps q ls t s
      else issueSteps q ls t s
    | none => issueSteps q ls t s

/-- Issue from the backlog of a stack. -/
def State.issueBacklog (s : State) (q ls : Nat) : State := issueSteps q ls (s.bank q ls).backlog s

/-- A bank-site job becomes sequences (R138). -/
def State.issueJob (s : State) (q : Nat) (r : Request) (j : Job) : State :=
  let s := s.countU bCORE q 8 5
  let s := j.parts.foldl (fun s p =>
    let i := s.fresh
    let f := p.2.2
    let x : Sequence := { tag := i.1, job := j.id, seqNo := 0, pch := pchOf f.addr, frameAddr := f.addr
                          slotUnits := r.shape.slot / 256, firstPage := p.1 % 4 * 8, runs := p.2.1, firstRun := p.1
                          rowN := j.rowN, bank := 0, entry := 0, viewEnd := r.viewEnd, frame := f }
    i.2.updBank q f.stack fun B => { B with backlog := B.backlog ++ [x] }) s
  (s.issueBacklog q 2).issueBacklog q 3

/-! ### Cores leaving dispatch (R110, R121) -/

/-- Cut the unfinished runs of a job again (R110): the rest of a partly folded run is folded again. -/
def State.recut (s : State) (q : Nat) (j : Job) : State :=
  match s.request j.ticket with
  | none => s.dropJob q j.id
  | some r =>
    let first := j.firstRun + j.nextRun
    let n := j.runs - j.nextRun
    let s := if j.nextBlock > 0 then s.countU bCORE q j.core 6 else s
    let cut := cutRuns (execSplit r.exec) (s.coresIn q).length (s.minRuns q) first n
    let s := s.dropJob q j.id
    ((List.range cut.length).zip cut).foldl (fun s e => s.addCoreJob q r j e.2.1 e.2.2 (j.subOrder + e.1) true (if e.1 = 0 then j.raw else 0)) s

/-- Start a job on a core, or hold it there while the island waits to switch its clock. -/
def State.startJob (s : State) (q k id : Nat) : State :=
  if (s.core q k).held then s.updOne q k fun c => { c with nextJob := some id }
  else (s.updOne q k fun c => { c with job := some id, nextJob := none, mark := none }).updJob q id fun j =>
    { j with state := .running, core := k, admitted := true }

/-- The core has no job any more: the job it is marked for starts, unless the core has left dispatch (Table 4-6). -/
def State.freeCore (s : State) (q k : Nat) : State :=
  let s := s.updOne q k fun c => { c with job := none, held := c.held || (s.qtr q).core.clockPend.isSome }
  match (s.core q k).mark with
  | none => s
  | some id =>
    let s := s.updOne q k fun c => { c with mark := none }
    if s.inDispatch q k ∧ (s.job q id).isSome then s.startJob q k id else s

/-- The contexts that a core holds move to other cores, or their jobs are cut again (R121). -/
def State.moveSaved (s : State) (q k : Nat) : State :=
  (s.core q k).saved.foldl (fun s id =>
    let s := s.updOne q k fun c => { c with saved := c.saved.filter fun i => i != id }
    match (s.coresIn q).find? fun m => m != k && (s.core q m).saved.length < 8 with
    | some m =>
      ((s.updOne q m fun c => { c with saved := c.saved ++ [id] }).updJob q id fun j => { j with core := m }).countU bCORE q m 7
    | none => match s.job q id with
      | some j => s.recut q j
      | none => s) s

/-- A core leaves dispatch at a clamp point: its job is cut again and its contexts move (R110, R121). -/
def State.leaveDispatch (s : State) (q k : Nat) : State :=
  let s := match (s.core q k).job.bind (s.job q) with
    | some j => (s.updOne q k fun c => { c with job := none, mark := none }).recut q j
    | none => s.updOne q k fun c => { c with mark := none }
  let s := if (s.core q k).saving.isSome then s else s.moveSaved q k
  s.checkMisses

/-- The bit of one core in a staged CORE_DISPATCH_EN takes effect (Table 13-3). A failed core stays out of dispatch (R428). -/
def State.coreBit (s : State) (q k : Nat) : State :=
  match s.pendingAt bCORE q 0 with
  | none => s
  | some v =>
    let a := blockBase bCORE q
    let was := s.inDispatch q k
    let b := bit v k && !(s.core q k).faulted
    let done := (s.regs.stagedDone.fetch a 0).toNat
    if bit done k then s
    else
      let s := s.setReg bCORE q 0 (setBit (s.reg bCORE q 0) k b)
      let done := setBit done k true
      let s := { s with regs := { s.regs with
        stagedDone := if done = 255 then s.regs.stagedDone.del a else s.regs.stagedDone.put a (w32 done)
        staged := if done = 255 then s.regs.staged.del a else s.regs.staged } }
      if was && !s.inDispatch q k then s.leaveDispatch q k
      else if !was && s.inDispatch q k then s.checkMisses else s

/-- A core reaches a clamp point, a JOB boundary (Table 13-3): the staged mapping controls and its own bit of
CORE_DISPATCH_EN. -/
def State.jobBoundary (s : State) (q k : Nat) : State := (s.applyAt bCORE q 0x10).coreBit q k

/-! ### The dispatcher's commands -/

/-- Deduct a job's estimate from the bucket, and count the admission (R123). -/
def State.deduct (s : State) (q : Nat) (j : Job) : State :=
  if j.admitted then s
  else
    let s := s.settleBucket q
    let above := (s.qe q).levelFj < j.estFj
    let s := (s.updQe q fun e => { e with levelFj := e.levelFj - j.estFj }).count bNRG 0 0
    if above then s.count bNRG 0 1 else s

/-- JOB_ADMIT (R119, R122, R123): the first job in order starts on the lowest idle core, has a victim marked for it, or goes to
the bank scorers. -/
def jobAdmit (s : State) (q : Nat) : State :=
  match s.firstJob q with
  | none => s
  | some j0 =>
    if j0.state ≠ .ready then s
    else match s.request j0.ticket with
      | none => s.dropJob q j0.id
      | some r =>
        let w := if j0.admitted then (some j0, s) else s.resolveSite q r j0
        match w.1 with
        | none => w.2.dropJob q j0.id
        | some j =>
          let s := w.2.updJob q j.id fun _ => j
          if !j.admitted && (s.pwr.clamp || !s.fits q j) then s
          else
            let fall := !j.admitted && execSite r.exec == 2 && j.site == 1
            let go := fun (s : State) =>
              let s := if fall then s.countU bCORE q 8 6 else s
              (s.deduct q j).updJob q j.id fun j => { j with admitted := true }
            if j.site = 2 then
              (((go s).updJob q j.id fun j => { j with state := .onBank }).issueJob q r j).checkMisses
            else match (s.coresIn q).find? fun k => (s.core q k).idle with
              | some k => ((go s).startJob q k j.id).checkMisses
              | none => match s.victim q j with
                | some (k, _) => ((((go s).updOne q k fun c => { c with mark := some j.id }).countU bCORE q 8 3)).checkMisses
                | none => s

/-- JOB_ADMIT. -/
def execJobAdmit (q : Fin 4) (s : State) : Host.Outcome State Fault Refusal := .next (jobAdmit s q)

/-- A job on a core has ended (R132): the core is free, and the request may be over. -/
def State.jobEnded (s : State) (q k : Nat) (j : Job) : State :=
  let s := ((s.countU bCORE q k 0).dropJob q j.id).updQe q fun e => { e with doneFj := e.doneFj + j.raw }
  ((s.freeCore q k).sweepHeld q).checkReq j.ticket

/-- What a core does at a clamp point after folding a page (R116, R119, R391): it saves its job for the one it is marked for, leaves
dispatch, or holds for a clock change. -/
def State.clampActs (s : State) (q k : Nat) : State :=
  let s := s.jobBoundary q k
  let c := s.core q k
  match c.job with
  | none => s
  | some id =>
    match c.mark with
    | some m =>
      ((s.updOne q k fun c => { c with job := none, saving := some id, mark := none, nextJob := some m }).countU bCORE q k 3).updJob
        q m fun j => { j with admitted := true }
    | none => if (s.qtr q).core.clockPend.isSome then s.updOne q k fun c => { c with held := true } else s

/-- A job leaves its current run uncovered. -/
def Job.skip (j : Job) : Job := { j with nextRun := j.nextRun + 1, nextBlock := 0, rows := [] }

/-- The V blocks of a page are folded by a job on core k (R79, R82): the job as it stands after the page. -/
def State.foldBlocks (s : State) (q k : Nat) (r : Request) (j : Job) (bl : List VBlk) : Job × State :=
  let busy := 2 * blockCycles j.rowN r.shape
  let s := ((s.countU bCORE q k 2 2).countU bCORE q k 5 busy).meter (keyTenant r.key) 1 busy
  let rows := foldPage r j bl
  if j.nextBlock + 2 < 16 then ({ j with nextBlock := j.nextBlock + 2, rows := rows }, s)
  else (j.skip, (s.countU bCORE q k 1).addLeaf j.ticket j.head j.passNo (j.firstRun + j.nextRun) rows)

/-- One page of a job's fold: the job as it stands after the page, unless it waits for the host. -/
def foldStep (s : State) (q k : Nat) (r : Request) (j : Job) : Option Job × State :=
  let run := j.firstRun + j.nextRun
  match j.frameOf run with
  | none => (some j.skip, s)
  | some f =>
    match s.viewPage q j.id j.cls r.shape f (run % 4 * 8 + j.nextBlock / 2) r.viewEnd with
    | (.stall, s) => (none, s)
    | (.uncovered, s) => (some j.skip, s)
    | (.away ls, s) => (some { j with state := .notReady, waitStack := some ls }, s)
    | (.blocks bl, s) => let w := s.foldBlocks q k r j bl; (some w.1, w.2)

/-- What follows a page (R116, R128, R132): the job's new state, its end, or the clamp point's own actions. -/
def State.afterFold (s : State) (q k : Nat) (j j' : Job) : State :=
  if (s.job q j.id).isNone ∨ (s.request j.ticket).isNone then ((s.dropJob q j.id).freeCore q k).sweepHeld q
  else
    let s := s.updJob q j.id fun _ => j'
    if j'.state = .notReady then (s.freeCore q k).jobBoundary q k
    else if j'.nextRun ≥ j'.runs then (s.jobEnded q k j').jobBoundary q k
    else (s.clampActs q k).checkReq j.ticket

/-- CORE_CLAMP_POINT (R79, R116, R128, R132): the core has reached the end of the page it was folding. -/
def coreClampPoint (s : State) (q k : Nat) : State :=
  let c := s.core q k
  if c.held then s
  else match c.job with
    | none => s
    | some id =>
      match s.job q id with
      | none => s.freeCore q k
      | some j =>
        match s.request j.ticket with
        | none => (((s.dropJob q id).freeCore q k).jobBoundary q k).sweepHeld q
        | some r =>
          match foldStep s q k r j with
          | (none, s) => s
          | (some j', s) => s.afterFold q k j j'

/-- CORE_CLAMP_POINT. -/
def execCoreClampPoint (core : Fin 32) (s : State) : Host.Outcome State Fault Refusal :=
  .next (coreClampPoint s (core / 8) (core % 8))

/-- CONTEXT_SAVE_DONE (R117, R119, Table 4-6): the saved job stands in a context slot, and the job that waits takes the core, unless
the core has left dispatch. -/
def contextSaveDone (s : State) (q k : Nat) : State :=
  let c := s.core q k
  match c.saving with
  | none => s
  | some id =>
    let kept := (s.job q id).isSome
    let s := s.updOne q k fun c => { c with saving := none, saved := if kept then c.saved ++ [id] else c.saved
                                            nextJob := none, held := (s.qtr q).core.clockPend.isSome }
    let s := s.updJob q id fun j => { j with state := .saved, core := k }
    if !s.inDispatch q k then s.moveSaved q k
    else match c.nextJob with
      | some m => if (s.job q m).isSome then s.startJob q k m else s
      | none => s

/-- CONTEXT_SAVE_DONE. -/
def execContextSaveDone (core : Fin 32) (s : State) : Host.Outcome State Fault Refusal :=
  .next (contextSaveDone s (core / 8) (core % 8))

/-- JOB_RESUME (R118): a saved job that is first in order goes on, on the core that holds it. -/
def jobResume (s : State) (q k id : Nat) : State :=
  match s.firstJob q with
  | none => s
  | some j =>
    if j.id = id ∧ j.state = .saved ∧ j.core = k then
      let s := s.updOne q k fun c => { c with saved := c.saved.filter (fun i => i != id), job := some id }
      (s.updJob q id fun j => { j with state := .running }).countU bCORE q k 4
    else s

/-- JOB_RESUME. -/
def execJobResume (core : Fin 32) (job : Nat) (s : State) : Host.Outcome State Fault Refusal :=
  .next (jobResume s (core / 8) (core % 8) job)

/-- CLOCK_SWITCH (R125, R391): once every core of the island holds, it switches, and every core goes on. -/
def clockSwitch (s : State) (q : Nat) : State :=
  match (s.qtr q).core.clockPend with
  | none => s
  | some p =>
    if (List.range 8).all fun k => (s.core q k).held || !(s.core q k).online || (s.core q k).faulted then
      let s := s.updCore q fun I => { I with clock := p, clockPend := none }
      (List.range 8).foldl (fun s k =>
        let s := s.updOne q k fun c => { c with held := false }
        match (s.core q k).nextJob with
        | some id => if (s.core q k).saving.isNone then s.startJob q k id else s
        | none => s) s
    else s

/-- CLOCK_SWITCH. -/
def execClockSwitch (q : Fin 4) (s : State) : Host.Outcome State Fault Refusal := .next (clockSwitch s q)

/-- A clock change is due (R391): idle cores hold at once. -/
def State.pendClock (s : State) (q p : Nat) : State :=
  let s := s.updCore q fun I => { I with clockPend := if I.clock = p then none else some p }
  (List.range 8).foldl (fun s k =>
    let c := s.core q k
    s.updOne q k fun d => { d with held :=
      (s.qtr q).core.clockPend.isSome && (c.held || (c.job.isNone && c.saving.isNone)) }) s

/-- The page that a waiting job reads next still answers NOT_READY (R132, Table 6-6). -/
def State.jobBlocked (s : State) (q : Nat) (j : Job) : Bool :=
  let run := j.firstRun + j.nextRun
  match s.request j.ticket, j.frameOf run with
  | some r, some f => !f.spilled && s.notReady q f.stack (f.addr + (run % 4 * 8 + j.nextBlock / 2) * r.shape.slot) true
  | _, _ => false

/-- Jobs whose NOT_READY condition has ended are ready again (R132). -/
def State.wakeJobs (s : State) (q : Nat) : State :=
  s.updCore q fun I => { I with jobs := I.jobs.map fun j =>
    (if j.state = .notReady ∧ !s.jobBlocked q j then { j with state := .ready, waitStack := none } else j) }

end Sys2Proof.Machine
end

