-- ==== Sys2Proof/Machine/Bank.lean ====
section
/-!
DEFINITION. The scoring stacks (ch. 05): running and retiring sequences, fences and collection, crossings, channel modes, refresh
and BIST.
-/
namespace Sys2Proof.Machine

/-! ### Running a sequence (R142, R145) -/

/-- Result entry of run i of a sequence (R144). -/
def Sequence.slot (x : Sequence) (i : Nat) : Nat := 8 * x.pch + x.entry + i

/-- Write a result entry of a sequence. -/
def BscStack.putEntry (B : BscStack) (x : Sequence) (i status : Nat) (rows : List RowState) : BscStack :=
  { B with entries := B.entries.put (x.slot i) { tag := x.tag, run := x.firstRun + i, status := status, rows := rows } }

/-- Change the sequence at the front of a scorer's queue. -/
def BscStack.front (B : BscStack) (k : Nat) (f : Sequence → Sequence) : BscStack :=
  match B.queueOf k with
  | [] => B
  | x :: t => { B with seqs := B.seqs.put k (f x :: t) }

/-- The pages of a run as a scorer reads them (R142): status 1 REDIRECT, 2 DAMAGED, or the V blocks. -/
def State.bankPages (s : State) (q ls : Nat) (f : JobFrame) (sh : Shape) : Nat → Nat → Except Nat (List VBlk)
  | _, 0 => .ok []
  | p, n + 1 =>
    let fr := s.frameRef q f
    let a := f.addr + p * sh.slot
    let b := Mem.read (Mem.slice s.hbm (hbmAddr q ls a) sh.slot) 0 sh.slot
    let h := PageHdr.ofBytes b
    if h.coded || h.enc then .error 1
    else if h.damaged || bit fr.damaged p || s.eccIn q ls a sh.slot then .error 2
    else
      let pay := (b.drop 64).take sh.payload
      match s.bankPages q ls f sh (p + 1) n with
      | .error e => .error e
      | .ok t => .ok ([0, 1].map (fun k => vBlock sh pay h.tokens (f.seg * 2048) p k 0 none false) ++ t)

/-- A scorer finds bad parity in its descriptor or row store (R141, Table 16-1): every entry that the front sequence has still to write
gets FAULT. -/
def BscStack.seqFault (B : BscStack) (k : Nat) : BscStack :=
  match B.queueOf k with
  | [] => B
  | x :: _ =>
    ((List.range (x.runs - x.done)).foldl (fun B i => B.putEntry x (x.done + i) 5 []) B).front k fun x =>
      { x with done := x.runs, bad := false }

/-- SCORER_RUN_DONE (R142, R79): the scorer finishes one run of its sequence and writes the run's entry, or finds a fault. -/
def scorerRunDone (s : State) (q ls k : Nat) (fault : Bool) : State :=
  let B := s.bank q ls
  match B.queueOf k with
  | [] => s
  | x :: _ =>
    if x.done ≥ x.runs ∨ B.crossing.contains k then s
    else if fault then s.updBank q ls fun B => B.seqFault k
    else match (s.job q x.job).bind fun j => (s.request j.ticket).map fun r => (j, r) with
      | none => s
      | some (j, r) =>
        let run := x.firstRun + x.done
        let put := fun (status : Nat) (rows : List RowState) (s : State) =>
          s.updBank q ls fun B => (B.putEntry x x.done status rows).front k fun x => { x with done := x.done + 1, bad := false }
        match s.bankPages q ls x.frame r.shape (run % 4 * 8) 8 with
        | .error 1 => (put 1 [] s).countU bBSC q (ls - 2) 2
        | .error _ => put 2 [] s
        | .ok bl => (put 0 (foldPage r { j with rows := [] } bl) s).countU bBSC q (ls - 2) 1

/-- Local stack of a node-wide stack number. -/
def localStack (n : Nat) : Nat := n % 4

/-- SCORER_RUN_DONE. -/
def execScorerRunDone (stack : Fin 16) (scorer : Fin 64) (fault : Bool) (s : State) : Host.Outcome State Fault Refusal :=
  .next (if localStack stack ≥ 2 then scorerRunDone s (stack / 4) (localStack stack) scorer fault else s)

/-- Issue the issuer's fence when notices wait and none is under way (R147): it waits for every sequence issued before it. -/
def BscStack.startIssuer (B : BscStack) : BscStack :=
  if B.notices.isEmpty || B.issuerFence.isSome then B
  else { B with issuerFence := some (B.seqs.flatMap fun e => e.2.map fun x => x.tag), fenced := B.notices, notices := [] }

/-- SEQUENCE_RETIRE (R145): every entry of the front sequence holds its final header and body. -/
def sequenceRetire (s : State) (q ls k : Nat) : State :=
  match (s.bank q ls).queueOf k with
  | [] => s
  | x :: t =>
    if x.done < x.runs then s
    else s.updBank q ls fun B =>
      ({ B with seqs := if t.isEmpty then B.seqs.del k else B.seqs.put k t
                notices := B.notices ++ [{ x with retired := true }]
                restarts := B.restarts.del k }).startIssuer

/-- SEQUENCE_RETIRE. -/
def execSequenceRetire (stack : Fin 16) (scorer : Fin 64) (s : State) : Host.Outcome State Fault Refusal :=
  .next (if localStack stack ≥ 2 then sequenceRetire s (stack / 4) (localStack stack) scorer else s)

/-! ### Fences (R146, R147) -/

/-- A fence over some sequences is complete. -/
def BscStack.fenceOver (B : BscStack) (tags : List Nat) : Bool :=
  !tags.any fun t => B.seqs.any fun e => e.2.any fun x => x.tag == t

/-- BSC_FENCE (R146, Table 5-11): a write of FENCE_SEQ that differs from DONE_SEQ issues a fence on the stack; one with no sequence
before it completes at once. -/
def bscFence (s : State) (q ls v : Nat) : State :=
  let off := if ls = 2 then 4 else 8
  let s := s.setReg bBSC q off (v % 65536)
  let B := s.bank q ls
  if v % 65536 = B.doneSeq then s
  else
    let tags := B.seqs.flatMap fun e => e.2.map fun x => x.tag
    if tags.isEmpty then s.updBank q ls fun B => { B with fenceSeq := v % 65536, doneSeq := v % 65536, fenceWait := none }
    else s.updBank q ls fun B => { B with fenceSeq := v % 65536, fenceWait := some tags }

/-- BSC_FENCE: plain stacks have no scorers and no fence register. A Quarter in Q-OFF discards the write (R372). -/
def execBscFence (stack : Fin 16) (seqNo : Nat) (s : State) : Host.Outcome State Fault Refusal :=
  let q := stack.val / 4
  let ls := localStack stack
  .next (if ls < 2 then s
    else if s.qOff q then (s.count bGLB 0 2).accError 3 0 (blockBase bBSC q + (if ls = 2 then 4 else 8))
    else bscFence s q ls seqNo)

/-- A SCORER event (Table 12-11): the stack, channel and unit, and a test result or a sequence's tag. -/
def State.postScorer (s : State) (q ls c unit v : Nat) : State :=
  s.post 0 { type := 0x0B, quarter := q, p0 := (ls - 2) + 2 * c + 64 * unit, p1 := v }

/-- The outcome of one collected entry (Table 5-5). -/
def State.collectRun (s : State) (q ls : Nat) (x : Sequence) (i : Nat) : State :=
  match s.job q x.job with
  | none => s
  | some j =>
    match s.request j.ticket with
    | none => s
    | some r =>
      let again := fun (s : State) => s.runsToCores q r j true [x.firstRun + i]
      match (s.bank q ls).entries.look (x.slot i) with
      | none => s
      | some e =>
        match e.status with
        | 0 => s.addLeaf j.ticket j.head j.passNo e.run e.rows
        | 1 => again s
        | 3 => again s
        | 5 => again ((s.postScorer q ls (x.pch / 2) (x.pch % 2) (x.tag % 65536)).postFault 5 (4 * q + ls)
            ((ls - 2) + 2 * (x.pch / 2)) (x.tag % 65536) q)
        | _ => s

/-- Every entry of a collected sequence is read, and its pair is free (R147). -/
def State.collectSeq (s : State) (q ls : Nat) (x : Sequence) : State :=
  let s := (List.range x.runs).foldl (fun s i => s.collectRun q ls x i) s
  s.updBank q ls fun B => { B with
    entries := (List.range 4).foldl (fun t i => t.del (x.slot i)) B.entries
    fenced := B.fenced.filter fun y => y.tag != x.tag }

/-- Sequences of a job that are issued, waiting or uncollected. -/
def State.seqsOf (s : State) (q id : Nat) : Bool :=
  [2, 3].any fun ls =>
    let B := s.bank q ls
    (B.seqs.any fun e => e.2.any fun x => x.job == id) || (B.backlog ++ B.notices ++ B.fenced).any fun x => x.job == id

/-- A bank-site job ends when its last sequence has been collected. -/
def State.endBankJob (s : State) (q id : Nat) : State :=
  match s.job q id with
  | none => s
  | some j =>
    if j.state ≠ .onBank ∨ s.seqsOf q id then s
    else
      let s := (s.dropJob q id).updQe q fun e => { e with doneFj := e.doneFj + j.raw }
      (s.sweepHeld q).checkReq j.ticket

/-- FENCE_COMPLETE (R146, R147): the software fence, and the issuer's fence with the collection behind it, as far as the sequences
they wait for have retired. -/
def fenceComplete (s : State) (q ls : Nat) : State :=
  let s := s.updBank q ls fun B =>
    match B.fenceWait with
    | some tags => if B.fenceOver tags then { B with fenceWait := none, doneSeq := B.fenceSeq } else B
    | none => B
  let B := s.bank q ls
  match B.issuerFence with
  | none => s
  | some tags =>
    if !B.fenceOver tags then s
    else
      let jobs := (B.fenced.map fun x => x.job).eraseDups
      let s := B.fenced.foldl (fun s x => s.collectSeq q ls x) s
      let s := s.updBank q ls fun B => ({ B with issuerFence := none }).startIssuer
      let s := s.issueBacklog q ls
      jobs.foldl (fun s id => s.endBankJob q id) s

/-- FENCE_COMPLETE. -/
def execFenceComplete (stack : Fin 16) (s : State) : Host.Outcome State Fault Refusal :=
  .next (if localStack stack ≥ 2 then fenceComplete s (stack / 4) (localStack stack) else s)

/-! ### Crossings (R151, R152, R154) -/

/-- XING_INTERVAL and XING_WINDOW in effect (Table 5-10). -/
def State.xingInterval (s : State) (q : Nat) : Nat := clampN (s.reg bBSC q 0 % 512) 32 256
/-- XING_WINDOW in effect. -/
def State.xingWindow (s : State) (q : Nat) : Nat := max 16 (bits (s.reg bBSC q 0) 23 16)

/-- An access lies under an issued sequence's page slots and waits for it to retire (R152). -/
def BscStack.covered (B : BscStack) (a : ChAccess) : Bool :=
  a.isWrite && B.seqs.any fun e => e.2.any fun x =>
    let lo := x.frameAddr + x.firstPage * (x.slotUnits * 256)
    !x.retired && decide (lo < a.addr + a.len) && decide (a.addr < lo + x.runs * 8 * (x.slotUnits * 256))

/-- Work is pending for a pseudo-channel (R154). -/
def BscStack.work (B : BscStack) (k : Nat) : Bool :=
  B.refreshDue.contains k || !((B.held.fetch k []) ++ (B.accesses.fetch k [])).isEmpty

/-- Perform an access: a write reaches the banks; a read was given what the queue shows it. -/
def State.perform (s : State) (q ls : Nat) (a : ChAccess) : State :=
  if a.isWrite then { s with hbm := Mem.paste s.hbm (hbmAddr q ls a.addr) a.len a.data } else s

/-- Serve at most n of a pseudo-channel's accesses: due refreshes first, held writes, then the queue in order; a write under a
sequence stays (R152, R154). -/
def State.serve (s : State) (q ls k n : Nat) : State :=
  let B := s.bank q ls
  let all := (B.held.fetch k []).map (fun a => (true, a)) ++ (B.accesses.fetch k []).map fun a => (false, a)
  let go := (all.filter fun e => !B.covered e.2).take n
  let left := all.filter fun e => !go.contains e
  let s := go.foldl (fun s e => s.perform q ls e.2) s
  s.updBank q ls fun B => { B with
    refreshDue := B.refreshDue.filter fun x => x != k
    held := B.held.put k ((left.filter fun e => e.1).map (·.2))
    accesses := B.accesses.put k ((left.filter fun e => !e.1).map (·.2)) }

/-- CROSSING_ENTER (R154, R157): with work pending, the scorer yields at the first boundary at which the interval has passed; the
controller serves what fits in the window (how many is left open), and all of it when the scorer has no sequence. -/
def crossingEnter (s : State) (q ls k : Nat) : State :=
  let B := s.bank q ls
  if !B.work k || B.crossing.contains k then s
  else if B.queueOf k = [] then s.serve q ls k ((B.held.fetch k []).length + (B.accesses.fetch k []).length)
  else
    let iv := if (B.restarts.fetch k 0) > 0 then 32 else s.xingInterval q
    let s := s.advance (B.lastXing.fetch k 0 + iv)
    let d := s.drawFree
    let s := (d.2.serve q ls k (d.1 % 256)).countU bBSC q (ls - 2) 5
    s.updBank q ls fun B => { B with crossing := B.crossing ++ [k] }

/-- CROSSING_ENTER. -/
def execCrossingEnter (stack : Fin 16) (pch : Fin 64) (s : State) : Host.Outcome State Fault Refusal :=
  .next (if localStack stack ≥ 2 then crossingEnter s (stack / 4) (localStack stack) pch else s)

/-- CROSSING_WINDOW_END (R154): the scorer goes on. -/
def crossingWindowEnd (s : State) (q ls k : Nat) : State :=
  if (s.bank q ls).crossing.contains k then
    s.updBank q ls fun B => { B with crossing := B.crossing.filter (fun x => x != k), lastXing := B.lastXing.put k s.time }
  else s

/-- CROSSING_WINDOW_END. -/
def execCrossingWindowEnd (stack : Fin 16) (pch : Fin 64) (s : State) : Host.Outcome State Fault Refusal :=
  .next (if localStack stack ≥ 2 then crossingWindowEnd s (stack / 4) (localStack stack) pch else s)

/-- REFRESH_ABORT (R156, R157): the running sequence stops, its bank is refreshed, and the run it was folding is folded again, with
an interval of 32 bank cycles from then on. A run is restarted at most once. -/
def refreshAbort (s : State) (q ls k : Nat) : State :=
  match (s.bank q ls).queueOf k with
  | [] => s
  | x :: _ =>
    if x.done ≥ x.runs ∨ x.bad then s
    else (s.updBank q ls fun B =>
      { (B.front k fun x => { x with bad := true }) with
        restarts := B.restarts.put k 1, refreshDue := B.refreshDue.filter fun y => y != k }).countU bBSC q (ls - 2) 3

/-- REFRESH_ABORT. -/
def execRefreshAbort (stack : Fin 16) (pch : Fin 64) (s : State) : Host.Outcome State Fault Refusal :=
  .next (if localStack stack ≥ 2 then refreshAbort s (stack / 4) (localStack stack) pch else s)

/-! ### Channel modes (R148 to R153) -/

/-- End a scorer's sequences as a change to MEM does (Table 5-7): what has not finished gets ABORTED, and each sequence has
retired. -/
def BscStack.abortPch (B : BscStack) (k : Nat) : BscStack :=
  let l := B.queueOf k
  let B := l.foldl (fun B x => (List.range (x.runs - x.done)).foldl (fun B i => B.putEntry x (x.done + i) 3 []) B) B
  let ended : List Sequence := l.map fun x => { x with done := x.runs, retired := true }
  ({ B with
      seqs := B.seqs.del k
      notices := B.notices ++ ended
      crossing := B.crossing.filter fun y => y != k
      restarts := B.restarts.del k } : BscStack).startIssuer

/-- Sequences that wait in the backlog for a channel are not issued: their runs go back to the dispatcher (R114). -/
def State.returnBacklog (s : State) (q ls : Nat) (want : Nat → Bool) : State :=
  let l := (s.bank q ls).backlog.filter fun x => want x.pch
  let s := s.updBank q ls fun B => { B with backlog := B.backlog.filter fun x => !want x.pch }
  let s := l.foldl (fun s x =>
    match s.job q x.job with
    | none => s
    | some j => match s.request j.ticket with
      | none => s
      | some r => s.runsToCores q r j true ((List.range x.runs).map (x.firstRun + ·))) s
  (l.map fun x => x.job).eraseDups.foldl (fun s id => s.endBankJob q id) s

/-- End the sequences of some pseudo-channels of a stack, in the order of Table 5-7. -/
def State.endSeqs (s : State) (q ls : Nat) (pchs : List Nat) : State :=
  let n := (pchs.map fun k => ((s.bank q ls).queueOf k).length).sum
  let s := s.updBank q ls fun B => pchs.foldl (fun B k => B.abortPch k) B
  (s.countU bBSC q (ls - 2) 4 n).returnBacklog q ls pchs.contains

/-- The two pseudo-channels of a channel (R133). -/
def pchsOf (c : Nat) : List Nat := [2 * c, 2 * c + 1]

/-- Start a change of a channel from its mode to `new` (Table 5-7). MEM to SHARED completes at once. While the island has no power
the channel's accesses stay those of MEM, and only its register changes (R153). -/
def State.startMode (s : State) (q ls c new : Nat) : State :=
  let B := s.bank q ls
  let old := B.mode.fetch c 0
  if old = new then s.updBank q ls fun B => { B with pendFrom := B.pendFrom.del c }
  else
    let s := s.updBank q ls fun B => { B with
      mode := B.mode.put c new, pendFrom := if old = 0 ∧ new = 1 then B.pendFrom.del c else B.pendFrom.put c old }
    if new = 0 then s.endSeqs q ls (pchsOf c)
    else if old = 2 ∧ new = 1 then
      s.updBank q ls fun B => (pchsOf c).foldl (fun B k =>
        { B with accesses := B.accesses.put k (B.held.fetch k [] ++ B.accesses.fetch k []), held := B.held.del k }) B
    else s

/-- A write of one channel's mode (R150): code 3 sets BAD_MODE; during a pending change only the latest write counts. -/
def State.chanMode (s : State) (q ls c v : Nat) : State :=
  if v = 3 then s.updBsc q fun b => { b with badMode := true }
  else
    let s := s.updBank q ls fun B => { B with want := B.want.put c v }
    if ((s.bank q ls).pendFrom.look c).isSome then s else s.startMode q ls c v

/-- A write of BSC_CHMODEn_L or _H. -/
def bscChmode (s : State) (q ls : Nat) (hi : Bool) (v : Nat) : State :=
  (List.range 16).foldl (fun s i => s.chanMode q ls (i + (if hi then 16 else 0)) (bits v (2 * i + 1) (2 * i))) s

/-- BSC_CHMODE. -/
def execBscChmode (stack : Fin 16) (hi : Bool) (value : Word) (s : State) : Host.Outcome State Fault Refusal :=
  let q := stack.val / 4
  let ls := localStack stack
  .next (if ls < 2 then s
    else if s.qOff q then (s.count bGLB 0 2).accError 3 0 (blockBase bBSC q + 0x10 + 8 * (ls - 2) + 4 * b2n hi)
    else bscChmode s q ls hi value.toNat)

/-- MODE_CHANGE_COMPLETE (Table 5-7): the actions of a pending change have been done, so that what waits is written; a write that came
meanwhile starts its own change. -/
def modeChangeComplete (s : State) (q ls c : Nat) : State :=
  let B := s.bank q ls
  match B.pendFrom.look c with
  | none => s
  | some _ =>
    if (pchsOf c).any fun k => B.mode.fetch c 0 = 0 ∧ B.queueOf k ≠ [] then s
    else
      let s := (pchsOf c).foldl (fun s k =>
        let B := s.bank q ls
        let n := (B.held.fetch k []).length + (B.accesses.fetch k []).length
        if B.mode.fetch c 0 = 2 then
          s.updBank q ls fun B => { B with accesses := B.accesses.amend k [] (fun l => l.filter fun a => a.isWrite) }
        else if B.mode.fetch c 0 = 1 ∧ B.queueOf k ≠ [] then
          let keep := (B.accesses.fetch k []).filter B.covered
          s.serve q ls k (n - keep.length)
        else s.serve q ls k n) s
      let s := s.updBank q ls fun B => { B with pendFrom := B.pendFrom.del c }
      s.startMode q ls c ((s.bank q ls).want.fetch c 0)

/-- MODE_CHANGE_COMPLETE. -/
def execModeChangeComplete (stack : Fin 16) (chan : Fin 32) (s : State) : Host.Outcome State Fault Refusal :=
  .next (if localStack stack ≥ 2 then modeChangeComplete s (stack / 4) (localStack stack) chan else s)

/-- Write out everything that waits in a stack's queues and append buffer (R153). -/
def State.flushStack (s : State) (q ls : Nat) : State :=
  let B := s.bank q ls
  ((B.held.map fun e => e.1) ++ B.accesses.map fun e => e.1).foldl (fun s k =>
    let B := s.bank q ls
    s.serve q ls k ((B.held.fetch k []).length + (B.accesses.fetch k []).length)) s

/-- The stack's sequences end as for a change to MEM, with every channel's mode register unchanged (R153). -/
def State.quietStack (s : State) (q ls : Nat) : State := (s.endSeqs q ls (List.range 64)).flushStack q ls

/-- The bank-scorer island of a stack loses or regains its power (R153). -/
def State.setBankPower (s : State) (q ls : Nat) (on : Bool) : State :=
  if (s.bank q ls).powered = on then s
  else
    let s := if on then s else s.quietStack q ls
    s.updBank q ls fun B => { B with powered := on }

/-! ### Channel BIST (R159, R160) -/

/-- BSC_BIST_START (R159, Table 5-17): a write of BSC_BIST_CTL that changes BIST_SEQ starts the test or ends it REFUSED at once. -/
def bscBistStart (s : State) (q v : Nat) : State :=
  let old := s.reg bBSC q 0x40
  let s := s.setReg bBSC q 0x40 (w32 v &&& 0xFFFF00FF).toNat
  let no := bits v 31 16
  if bits old 31 16 = no then s
  else
    let ls := 2 + v % 2
    let c := bits v 5 1
    let kind := bits v 7 6
    let B := s.bank q ls
    let b := (s.qtr q).bsc
    if B.mode.fetch c 0 = 0 ∧ (B.pendFrom.look c).isNone ∧ b.bistRunning.isNone ∧ (kind = 1 ∨ kind = 2) then
      let s := s.updBsc q fun b => { b with bistRunning := some (ls, c, kind, no) }
      if kind = 2 then s.updStack (4 * q + ls) fun S => { S with bistBank := some (c, 0) } else s
    else s.updBsc q fun b => { b with bistSeq := no, bistResult := 3 }

/-- BSC_BIST_START. -/
def execBscBistStart (q : Fin 4) (value : Word) (s : State) : Host.Outcome State Fault Refusal :=
  .next (if s.qOff q then (s.count bGLB 0 2).accError 3 0 (blockBase bBSC q + 0x40) else bscBistStart s q value.toNat)

/-- BIST_COMPLETE (R160): the result; a failed SCORER test bars its channel, a failed MEMORY test posts an event and sets the stack
DRAINING (R429). -/
def bistComplete (s : State) (q : Nat) (pass : Bool) (unit : Nat) : State :=
  match (s.qtr q).bsc.bistRunning with
  | none => s
  | some (ls, c, kind, no) =>
    let s := s.updBsc q fun b => { b with bistRunning := none, bistSeq := no, bistResult := if pass then 1 else 2
                                          bistUnit := if pass then b.bistUnit else unit % 64 }
    let s := s.updStack (4 * q + ls) fun S => { S with bistBank := none }
    if pass then s
    else if kind = 1 then s.updBank q ls fun B => { B with chFail := if B.chFail.contains c then B.chFail else B.chFail ++ [c] }
    else
      let s := (s.postScorer q ls c (unit % 64) 2).postFault 9 (4 * q + ls) ((ls - 2) + 2 * c) (unit % 64) q
      let s := (s.quietStack q ls).updStack (4 * q + ls) fun S => { S with st := .draining }
      s.postFault 7 (4 * q + ls) ls 0 q

/-- BIST_COMPLETE. -/
def execBistComplete (q : Fin 4) (pass : Bool) (unit : Nat) (s : State) : Host.Outcome State Fault Refusal :=
  .next (bistComplete s q pass unit)

end Sys2Proof.Machine
end

