-- ==== Sys2Proof/Machine/Coding.lean ====
section
/-!
DEFINITION. Coding tables, coders and the recode sweep (ch. 07).
-/
namespace Sys2Proof.Machine

/-! ### Tables (R196 to R198) -/

/-- Quarters that QMASK names. -/
def maskQuarters (m : Nat) : List Nat := (List.range 4).filter fun q => bit m q

/-- A table block breaks its layout, or its lengths are refused (R196, R197). -/
def tableBad (b : Bytes) : Bool :=
  let op := byteAt b 1 % 4
  let ls := (b.drop 8).take 128
  b.length != 136 || byteAt b 0 == 0 || op ≥ 2 || byteAt b 1 / 32 != 0 || byteAt b 2 == 0 || byteAt b 2 / 16 != 0 ||
  !zeroRange b 3 8 ||
  (if op = 1 then byteAt b 1 / 4 != 0 || !zeroRange b 8 136 else lengthsBad (tableLengths ls))

/-- The slot of a table in a Quarter, with its number. -/
def State.slotOf (s : State) (q id : Nat) : Option (Nat × TableSlot) := (s.qtr q).pcd.slots.find? fun e => e.2.id == id

/-- Change every table slot of a Quarter. -/
def Pcd.mapSlots (P : Pcd) (f : TableSlot → TableSlot) : Pcd := { P with slots := P.slots.map fun e => (e.1, f e.2) }

/-- Make a table current for its role in a Quarter (R198). -/
def Pcd.makeCurrent (P : Pcd) (id role : Nat) : Pcd :=
  P.mapSlots fun t =>
    if t.id = id then { t with current := true } else if t.role = role then { t with current := false } else t

/-- TABLE_LOAD (R197, Table 7-3). -/
def tableLoad (s : State) (h : HostCmd) (b : Bytes) : State :=
  let id := byteAt b 0
  let role := bits (byteAt b 1) 3 2
  let cur := bit (byteAt b 1) 4
  let qs := maskQuarters (byteAt b 2)
  let ls := (b.drop 8).take 128
  let tag := crc32c ls % 256
  let slots := qs.map fun q => (q, s.slotOf q id)
  let clash := fun (e : Nat × Option (Nat × TableSlot)) =>
    match e.2 with | some x => x.2.tag != tag || x.2.role != role | none => false
  let busy := fun (e : Nat × Option (Nat × TableSlot)) =>
    match e.2 with | some x => x.2.state == .releasing | none => (s.qtr e.1).pcd.slots.length ≥ 16
  let current := fun (s : State) => if cur then qs.foldl (fun s q => s.updPcd q fun P => P.makeCurrent id role) s else s
  if tableBad b then s.complete h sBAD
  else if qs.any s.qOff then s.complete h sDOMOFF
  else if slots.any clash then s.complete h sCONFLICT
  else if slots.any busy then s.complete h sTABLEBUSY
  else if slots.all fun e => e.2.isSome then (current s).complete h sDUPLICATE
  else
    let r := s.fresh
    let put := fun (s : State) (e : Nat × Option (Nat × TableSlot)) =>
      if e.2.isSome then s
      else s.updPcd e.1 fun P =>
        let t : TableSlot :=
          { id := id, tag := tag, state := .loading, role := role, lengths := tableLengths ls, load := r.1 }
        { P with slots := P.slots.put ((Tab.freeFrom P.slots 16 0).getD 0) t }
    let s := slots.foldl put r.2
    { s with loads := s.loads ++ [{ id := r.1, host := h, quarters := qs, makeCurrent := cur, tableId := id }] }

/-- TABLE_LOAD: a table block whose OP is LOAD. A reserved OP is refused here too. -/
def execTableLoad (h : HostCmd) (body : Bytes) (s : State) : Host.Outcome State Fault Refusal :=
  if byteAt body 1 % 4 = 1 then .next s
  else
    let s := (s.take (.host h) 0x44 body).2
    match hostCheck s h 0x44 body with
    | some st => .next (s.complete h st)
    | none => .next (tableLoad s h body)

/-- TABLE_LOAD_COMPLETE (R197): every named Quarter has reached LOADED; MAKE_CURRENT applies, and the command completes. -/
def tableLoadComplete (s : State) (id : Nat) : State :=
  match s.loads.find? fun l => l.id == id with
  | none => s
  | some l =>
    let s := { s with loads := s.loads.filter fun x => x.id != id }
    let done := fun (s : State) (q : Nat) => s.updPcd q fun P =>
      let P := P.mapSlots fun t => if t.load = id ∧ t.state = .loading then { t with state := .loaded } else t
      match P.slots.find? fun e => e.2.id == l.tableId && e.2.state == .loaded with
      | some e => if l.makeCurrent then P.makeCurrent l.tableId e.2.role else P
      | none => P
    (l.quarters.foldl done s).complete l.host sOK

/-- TABLE_LOAD_COMPLETE. -/
def execTableLoadComplete (loadId : Nat) (s : State) : Host.Outcome State Fault Refusal :=
  .next (tableLoadComplete s loadId)

/-- TABLE_RELEASE (R198). A named Quarter in Q-OFF ends it with DOMAIN_OFF (R19). -/
def tableRelease (s : State) (h : HostCmd) (b : Bytes) : State :=
  let qs := maskQuarters (byteAt b 2)
  if tableBad b then s.complete h sBAD
  else if qs.any s.qOff then s.complete h sDOMOFF
  else
    let rel := fun (s : State) (q : Nat) => s.updPcd q fun P => Pcd.freeSlots (P.mapSlots fun t =>
      if t.id = byteAt b 0 ∧ t.state = .loaded then { t with state := .releasing, current := false } else t)
    (qs.foldl rel s).complete h sOK

/-- TABLE_RELEASE: a table block whose OP is RELEASE. -/
def execTableRelease (h : HostCmd) (body : Bytes) (s : State) : Host.Outcome State Fault Refusal :=
  if byteAt body 1 % 4 ≠ 1 then .next s
  else
    let s := (s.take (.host h) 0x44 body).2
    match hostCheck s h 0x44 body with
    | some st => .next (s.complete h st)
    | none => .next (tableRelease s h body)

/-! ### Pages that a coder takes (R200, R203) -/

/-- Coder c of Quarter q. -/
def State.coder (s : State) (q c : Nat) : Coder := (s.qtr q).pcd.coders.fetch c {}

/-- Change a coder; slots that wait for it may become FREE (R198). -/
def State.updCoder (s : State) (q c : Nat) (f : Coder → Coder) : State :=
  s.updPcd q fun P => Pcd.freeSlots { P with coders := P.coders.amend c {} f }

/-- The role of a shape's K or V units (Table 7-2). -/
def kRole (sh : Shape) : Nat := if sh.k8 then 0 else 1
/-- The role of V units. -/
def vRole (sh : Shape) : Nat := if sh.v8 then 2 else 3

/-- The current table of a role (R198). -/
def State.currentTable (s : State) (q role : Nat) : Option TableSlot :=
  ((s.qtr q).pcd.slots.find? fun e => e.2.current && e.2.state == .loaded && e.2.role == role).map (·.2)

/-- TABLE_IDs that the two units of a payload name. -/
def unitTables (h : PageHdr) (pay : Bytes) : List Nat := [byteAt pay 0, byteAt (pay.drop h.kLen) 0]

/-- What a coder does with the page it stands at: it passes it by, meets NOT_READY on a stack, or holds it. -/
inductive CodeAct where
  | pass
  | stop (ls : Nat)
  | held
  deriving DecidableEq, Repr

/-- A page of a sweep has no valid answer: it stays as it is, and its frame counts once in SKIPPED (Table 17-3, row 19). -/
def State.noteSkip (s : State) (q c : Nat) : State :=
  let C := s.coder q c
  if C.sweep && !C.noted then
    (s.updCoder q c fun C => { C with noted := true }).updPcd q fun P => { P with skipped := sat (P.skipped + 1) 0x7FFF }
  else s

/-- Hold a page: the bytes that will replace its regions. -/
def State.holdPage (s : State) (q c : Nat) (hdr units : Bytes) (kLen : Nat) (tables : List Nat) (coded asked : Bool) : State :=
  s.updCoder q c fun C =>
    { C with holding := true, asked := asked, coded := coded, header := hdr, units := units, kLen := kLen
             tables := tables.filter fun t => t != 0 }

/-- Form the units of a plain page (R200): held coded, or kept plain. A sweep writes a page that becomes plain (R203). -/
def State.formPage (s : State) (q c : Nat) (sh : Shape) (hdr plain : Bytes) (sweep : Bool) : CodeAct × State :=
  let kt := s.currentTable q (kRole sh)
  let vt := s.currentTable q (vRole sh)
  let k := encodeUnit kt (plain.take sh.kb)
  let v := encodeUnit vt ((plain.drop sh.kb).take sh.vb)
  let id := fun (t : Option TableSlot) (raw : Bool) => match t with | some x => if raw then 0 else x.id | none => 0
  if k.1.length + v.1.length ≤ sh.kb + sh.vb then
    (.held, s.holdPage q c hdr (k.1 ++ v.1) k.1.length [id kt k.2, id vt v.2] true false)
  else
    let s := s.count bPCD q 1
    if sweep then (.held, s.holdPage q c hdr (plain.take (sh.kb + sh.vb)) sh.kb [] false false) else (.pass, s)

/-- A plain page that the coder is to code: formed here, or posted to the host (R208); a page that cannot be posted stays plain. -/
def State.takePage (s : State) (q c key frame page : Nat) (sh : Shape) (hdr : Bytes) (h : PageHdr) (plain : Bytes) (sweep : Bool) :
    CodeAct × State :=
  if s.assisted 3 then
    let head : PageHdr := { h with coded := false, enc := false, kLen := sh.kb, vLen := sh.vb }
    let r := s.postAssist { tag := 0, kind := 3, q := q, key := key, words := [frame, page] } (some (.encode q c key frame page))
      (head.bytes ++ plain)
    if r.1 then (.held, r.2.holdPage q c hdr [] 0 [] true true) else (.pass, (r.2.noteSkip q c).count bPCD q 1)
  else s.formPage q c sh hdr plain sweep

/-- The plain payload of stored bytes that are not coded. -/
def State.openPlain (s : State) (key frame page : Nat) (sh : Shape) (b : Bytes) : Option Bytes :=
  let h := PageHdr.ofBytes b
  let pay := (b.drop 64).take sh.payload
  if h.enc then ((s.tenant (keyTenant key)).keyOf h.keyGen).map fun k => decryptPay k (pageTweak h.tweak page frame key) pay
  else some pay

/-- One page of a pass or of a sweep for table `id` (R200, R203). -/
def State.codePage (s : State) (q c key : Nat) (fr : FrameRef) (frame page : Nat) (sh : Shape) (sweep : Option Nat) :
    CodeAct × State :=
  let a := fr.addr + page * sh.slot
  if bit fr.damaged page then (.pass, s)
  else if s.inWriteback q key frame page then (.stop fr.stack, s)
  else match s.slotStored q key fr page sh with
    | .error (.notReady ls) => (.stop ls, s.pageFailed q key fr frame page sh (.notReady ls))
    | .error _ => (.pass, s)
    | .ok b =>
      let h := PageHdr.ofBytes b
      if s.eccIn q fr.stack a sh.slot || h.damaged || h.tokens == 0 || (h.coded && sweep.isNone) || (!h.coded && sweep.isSome) then
        (.pass, s)
      else match s.openPlain key frame page sh b with
        | none => (.pass, s.pageFailed q key fr frame page sh .keyEpoch)
        | some pay =>
          match sweep with
          | none => s.takePage q c key frame page sh (b.take 64) h pay false
          | some id =>
            if !(unitTables h pay).contains id then (.pass, s)
            else match s.plainStored q key fr frame page sh with
              | .ok _ plain => (s.count bPCD q 5 2).takePage q c key frame page sh (b.take 64) h plain true
              | .err (.needHost h p) =>
                let f : JobFrame := { seg := keySeg key, key := key, gen := 0, frame := frame, stack := fr.stack, addr := fr.addr }
                match s.postUnit q (.coder q c) f page sh h p [] with
                | some s => (.held, s.holdPage q c (b.take 64) [] 0 [] true true)
                | none => (.pass, s.noteSkip q c)
              | .err e => (.pass, s.pageFailed q key fr frame page sh e)

/-- A frame that a pass or a sweep leaves alone as a whole (R200, R203). -/
def State.frameLeft (s : State) (q : Nat) (fr : FrameRef) (sweep : Bool) : Bool :=
  fr.spilled || (!sweep && fr.stack ≥ 2 && bit (s.reg bPCD q 0) 1)

/-- Whether some page of a frame names a table. -/
def State.frameNames (s : State) (q key frame : Nat) (fr : FrameRef) (sh : Shape) (id : Nat) : Bool :=
  (List.range 32).any fun n =>
    match s.slotStored q key fr n sh with
    | .error _ => false
    | .ok b =>
      let h := PageHdr.ofBytes b
      h.coded && (match s.openPlain key frame n sh b with | some p => (unitTables h p).contains id | none => false)

/-- The segment that a coder works on, while it is one that its pass or sweep may change: SEALED for a pass, SEALED or CODED for a
sweep. -/
def State.codeSeg (s : State) (q key : Nat) (sweep : Bool) : Option (DirEntry × Seg × Shape) :=
  match s.entryOf q key, s.segOf q key with
  | some (_, e), some (_, g) =>
    if e.state == .sealed || (sweep && e.state == .coded) then (s.shape g.tenant g.shapeId).map fun sh => (e, g, sh) else none
  | _, _ => none

/-- Table that the running sweep is for. -/
def State.sweepTable (s : State) (q : Nat) : Nat := match (s.qtr q).pcd.sweepRun with | some r => r.2 | none => 0

/-- Frames of a segment that a sweep counts and leaves (R203): spilled ones, or every frame of a MOVING or INCOMING segment. -/
def State.sweepSkips (s : State) (q key : Nat) : Nat :=
  match s.entryOf q key, s.segOf q key with
  | some (_, e), some (_, g) =>
    match s.shape g.tenant g.shapeId with
    | none => 0
    | some sh =>
      (((List.range g.frames.length).zip g.frames).filter fun x =>
        (e.state == .moving || e.state == .incoming || x.2.spilled) && s.frameNames q key x.1 x.2 sh (s.sweepTable q)).length
  | _, _ => 0

/-- A sweep's coder takes its next segment; the frames that it must leave are counted (R203). -/
def State.nextSweep (s : State) (q c : Nat) : State :=
  match (s.qtr q).pcd.sweepKeys with
  | [] => s.updCoder q c fun _ => {}
  | k :: rest =>
    let n := s.sweepSkips q k
    (s.updPcd q fun P => { P with sweepKeys := rest, skipped := sat (P.skipped + n) 0x7FFF }).updCoder q c fun _ =>
      { key := some k, sweep := true }

/-- The end of a pass (R200): the segment becomes CODED. -/
def State.endPass (s : State) (q c key : Nat) : State :=
  ((s.updCoder q c fun _ => {}).setEntry q key fun e => (if e.state = .sealed then { e with state := .coded } else e)).leaveCoding q key

/-- A pass meets NOT_READY (R202): its segment returns to the tail with the place that stopped it. -/
def State.stopPass (s : State) (q c key ls addr : Nat) : State :=
  (s.updCoder q c fun _ => {}).updPcd q fun P =>
    { P with queue := (P.queue.filter fun e => e.key != key) ++ [{ key := key, waitAt := some (ls, addr) }] }

/-- A coder goes on from where it stands until it holds a page, stops, or its pass or sweep has no page left. A sweep that meets
NOT_READY waits there. In confidential operation host-assisted coding stops (R208). -/
def coderRun : Nat → State → Nat → Nat → State
  | 0, s, _, _ => s
  | fuel + 1, s, q, c =>
    let C := s.coder q c
    if s.assisted 3 && s.sec.conf then s
    else match C.key with
    | none => if C.sweep then (let s := s.nextSweep q c; if (s.coder q c).key.isSome then coderRun fuel s q c else s) else s
    | some key =>
      match s.codeSeg q key C.sweep with
      | none =>
        if C.sweep then coderRun fuel (s.nextSweep q c) q c
        else s.updCoder q c fun _ => {}
      | some (_, g, sh) =>
        match g.frames[C.frame]? with
        | none => if C.sweep then coderRun fuel (s.nextSweep q c) q c else s.endPass q c key
        | some fr =>
          let onward := fun (s : State) => s.updCoder q c fun C =>
            if C.page ≥ 31 then { C with frame := C.frame + 1, page := 0, noted := false } else { C with page := C.page + 1 }
          if s.frameLeft q fr C.sweep then coderRun fuel (s.updCoder q c fun C => { C with frame := C.frame + 1, page := 0, noted := false }) q c
          else
            match s.codePage q c key fr C.frame C.page sh (if C.sweep then some (s.sweepTable q) else none) with
            | (.pass, s) => coderRun fuel (onward s) q c
            | (.stop ls, s) => if C.sweep then s else s.stopPass q c key ls (fr.addr + C.page * sh.slot)
            | (.held, s) => s

/-- Pages that a coder's run may stand at, over all segments of the slice: fuel for `coderRun`. -/
def State.coderFuel (s : State) (q : Nat) : Nat :=
  ((s.qtr q).store.segs.map fun e => (e.2.frames.length + 1) * 33).sum + (s.qtr q).pcd.sweepKeys.length + 2

/-- Run a coder. -/
def State.runCoder (s : State) (q c : Nat) : State := coderRun (s.coderFuel q) s q c

/-- Drop the page that a coder holds, and go on with the next one, or with the same one again. -/
def State.dropPage (s : State) (q c : Nat) (again : Bool) : State :=
  let s := s.updCoder q c fun C =>
    let C := { C with holding := false, asked := false, coded := true, header := [], units := [], kLen := 0, tables := [] }
    if again then C else if C.page ≥ 31 then { C with frame := C.frame + 1, page := 0, noted := false } else { C with page := C.page + 1 }
  s.runCoder q c

/-! ### The rows of the coders -/

/-- The queued segment that a coder may start (R199): the oldest that waits for nothing, is not under a coder, and has a current table
for its K or its V, which host-assisted coding does without (R438). -/
def State.startable (s : State) (q : Nat) : Option Nat :=
  ((s.qtr q).pcd.queue.find? fun e =>
    e.waitAt.isNone && !((s.qtr q).pcd.coders.any fun c => c.2.key == some e.key) &&
    (match s.codeSeg q e.key false with
     | some (_, _, sh) => s.assisted 3 || (s.currentTable q (kRole sh)).isSome || (s.currentTable q (vRole sh)).isSome
     | none => false)).map fun e => e.key

/-- CODER_START (R199): an idle coder takes a sweep that has none, else the oldest segment it may start. Staged PCD_CTL takes effect
first (Table 13-3). -/
def coderStart (s : State) (q c : Nat) : State :=
  let C := s.coder q c
  if C.key.isSome || C.sweep || s.qOff q || (s.assisted 3 && s.sec.conf) then s
  else
    let s := s.applyAt bPCD q 0
    if (s.qtr q).pcd.sweepRun.isSome && (s.qtr q).pcd.sweepKeys != [] && !((s.qtr q).pcd.coders.any fun e => e.2.sweep) then
      (s.updCoder q c fun _ => { sweep := true }).runCoder q c
    else if !bit (s.reg bPCD q 0) 0 && !s.assisted 3 then s
    else match s.startable q with
      | none => s
      | some k => (s.updCoder q c fun _ => { key := some k }).runCoder q c

/-- CODER_START. -/
def execCoderStart (q : Fin 4) (coder : Fin 2) (s : State) : Host.Outcome State Fault Refusal := .next (coderStart s q coder)

/-- The page that a coder holds names a table that is RELEASING (R201). -/
def State.tablesGoing (s : State) (q : Nat) (C : Coder) : Bool :=
  (s.qtr q).pcd.slots.any fun e => e.2.state == .releasing && C.tables.contains e.2.id

/-- Write the page that a coder holds (R201): slot, header and encryption of the current generation. -/
def State.commitPage (s : State) (q key : Nat) (C : Coder) (e : DirEntry) (fr : FrameRef) (sh : Shape) (b units : Bytes) (coded : Bool)
    (kLen : Nat) : State :=
  let h := PageHdr.ofBytes b
  match s.openPlain key C.frame C.page sh b with
  | none => s
  | some pay =>
    let body := units ++ List.replicate (sh.kb + sh.vb - units.length) 0 ++ pay.drop (sh.kb + sh.vb)
    let head : PageHdr := { tokens := h.tokens, coded := coded, kLen := kLen, vLen := if coded then units.length - kLen else sh.vb }
    s.stackWrite q fr.stack (fr.addr + C.page * sh.slot) sh.slot (memOf (s.storedSlot key e.gen C.frame C.page sh head body))

/-- The plain regions of a stored page that the coder is about to rewrite. -/
def State.regionsOf (s : State) (q key : Nat) (C : Coder) (fr : FrameRef) (sh : Shape) : Bytes :=
  match s.plainStored q key fr C.frame C.page sh with | .ok _ p => p.take (sh.kb + sh.vb) | .err _ => []

/-- CODER_PAGE_COMMIT (R201): the page held is committed, kept plain after a mismatch, or discarded; the coder goes on. A coder that
holds nothing tries its page again. -/
def coderPageCommit (s : State) (q c : Nat) (mismatch : Bool) : State :=
  let C := s.coder q c
  match C.key with
  | none => s
  | some key =>
    if C.asked || s.qOff q then s
    else if !C.holding then s.runCoder q c
    else
      match s.codeSeg q key C.sweep with
      | none => s.dropPage q c false
      | some (e, g, sh) =>
        match g.frames[C.frame]? with
        | none => s.dropPage q c false
        | some fr =>
          let a := fr.addr + C.page * sh.slot
          let slotWrite : ChAccess := { isWrite := true, addr := a, len := sh.slot }
          if fr.spilled then (s.count bPCD q 4).dropPage q c true
          else if fr.stack ≥ 2 && (s.bank q fr.stack).covered slotWrite then s
          else match s.slotStored q key fr C.page sh with
            | .error (.notReady ls) =>
              if C.sweep then s else s.stopPass q c key ls a
            | .error _ => (s.count bPCD q 4).dropPage q c false
            | .ok b =>
              if b.take 64 ≠ C.header then (s.count bPCD q 4).dropPage q c false
              else if mismatch then
                let s := ((s.count bPCD q 3).count bPCD q 1).postFor (keyTenant key) 0 { segEv key 2 0 with quarter := q }
                let s := if C.sweep then
                    (s.commitPage q key C e fr sh b (s.regionsOf q key C fr sh) false sh.kb).count bPCD q 10 else s
                s.dropPage q c false
              else if s.tablesGoing q C then (s.count bPCD q 4).dropPage q c true
              else
                let s := s.commitPage q key C e fr sh b C.units C.coded C.kLen
                let raws := if C.coded then 2 - C.tables.length else 0
                let s := if C.coded then (s.count bPCD q 0).count bPCD q 2 raws else s
                (if C.sweep then s.count bPCD q 10 else s).dropPage q c false

/-- CODER_PAGE_COMMIT. -/
def execCoderPageCommit (q : Fin 4) (coder : Fin 2) (mismatch : Bool) (s : State) : Host.Outcome State Fault Refusal :=
  .next (coderPageCommit s q coder mismatch)

/-- The host has answered a page that a coder posted, or has not (R208): units that pass R205 and R201 are held, anything else leaves
the page plain. -/
def coderUnits (s : State) (q c : Nat) (answer : Option Bytes) : State :=
  let C := s.coder q c
  let plain := fun (s : State) => ((s.noteSkip q c).count bPCD q 1).dropPage q c false
  match C.key with
  | none => s
  | some key =>
    if !C.asked then s
    else match s.codeSeg q key C.sweep, answer with
      | some (_, g, sh), some b =>
        match g.frames[C.frame]? with
        | none => plain s
        | some fr =>
          let kLen := fieldAt b 2 2 + 8
          let vLen := b.length - kLen
          let h : PageHdr := { kLen := kLen, vLen := vLen }
          let region := s.regionsOf q key C fr sh
          let same := match expandUnits (s.tableSlot q) sh h (b ++ List.replicate (sh.kb + sh.vb - b.length) 0) with
            | .ok u => u.take (sh.kb + sh.vb) == region && region != []
            | .error _ => false
          if kLen + 8 ≤ b.length && b.length ≤ sh.kb + sh.vb && same then
            s.holdPage q c C.header b kLen (unitTables h b) true false
          else plain s
      | _, _ => plain s

/-- The host has expanded a page that a sweep re-codes, or has not: its plain regions are coded, or the page is left (R208). -/
def coderPlain (s : State) (q c : Nat) (regions : Option Bytes) : State :=
  let C := s.coder q c
  match C.key, regions with
  | some key, some r =>
    if !C.asked then s
    else match s.codeSeg q key C.sweep with
      | none => s.dropPage q c false
      | some (_, g, sh) =>
        match g.frames[C.frame]? with
        | none => s.dropPage q c false
        | some fr =>
          match s.slotStored q key fr C.page sh with
          | .error _ => s.dropPage q c false
          | .ok b =>
            match s.openPlain key C.frame C.page sh b with
            | none => s.dropPage q c false
            | some pay =>
              match s.takePage q c key C.frame C.page sh (b.take 64) (PageHdr.ofBytes b) (r ++ pay.drop (sh.kb + sh.vb)) C.sweep with
              | (.held, s) => s
              | (_, s) => s.dropPage q c false
  | some _, none => if C.asked then (s.noteSkip q c).dropPage q c false else s
  | none, _ => s

/-! ### The recode sweep (R203) -/

/-- Keys that a sweep visits: every live segment of the slice in entry order; MOVING and INCOMING ones for their count. -/
def State.sweepList (s : State) (q : Nat) : List Nat :=
  ((s.qtr q).dir.slots.filter fun e => e.2.state != .retired && e.2.state != .opened).map fun e => e.2.key

/-- The sweep ends: its number and its count are shown. -/
def State.sweepDone (s : State) (q : Nat) : State :=
  match (s.qtr q).pcd.sweepRun with
  | none => s
  | some r => s.updPcd q fun P => { P with sweepDone := r.1, sweepRun := none, sweepKeys := [] }

/-- RECODE_SWEEP_START: a write of PCD_RECODE that changes RECODE_SEQ (Table 7-9). -/
def recodeStart (s : State) (q value : Nat) : State :=
  let v := (w32 value &&& 0xFFFF00FF).toNat
  let seqNo := bits v 31 16
  if bits (s.reg bPCD q 0x10) 31 16 = seqNo then s.setReg bPCD q 0x10 v
  else if (s.qtr q).pcd.sweepRun.isSome then s.count bPCD q 11
  else
    let s := s.setReg bPCD q 0x10 v
    let id := v % 256
    let keys := if id = 0 then [] else s.sweepList q
    let s := s.updPcd q fun P => { P with sweepSeq := seqNo, sweepRun := some (seqNo, id), sweepKeys := keys, skipped := 0 }
    if id = 0 then s.sweepDone q else s

/-- RECODE_SWEEP_START. A Quarter in Q-OFF discards the write (R372). -/
def execRecodeSweepStart (q : Fin 4) (value : Word) (s : State) : Host.Outcome State Fault Refusal :=
  .next (if s.qOff q then (s.count bGLB 0 2).accError 3 0 (blockBase bPCD q + 0x10) else recodeStart s q value.toNat)

/-- RECODE_SWEEP_END (R203): every segment has been visited. -/
def execRecodeSweepEnd (q : Fin 4) (s : State) : Host.Outcome State Fault Refusal :=
  let P := (s.qtr q).pcd
  .next (if P.sweepRun.isSome && P.sweepKeys == [] && !(P.coders.any fun e => e.2.sweep) then s.sweepDone q else s)

end Sys2Proof.Machine
end

