-- ==== Sys2Proof/Machine/Transport.lean ====
section
/-!
DEFINITION. The receiving side of Epcen and its timers (ch. 08, ch. 10): the receive checks of a frame, HELLO, PSNs and
delivery, acknowledgement and congestion control, and the connection registers.
-/
namespace Sys2Proof.Machine

/-! ### Acknowledgement (R230 to R236) -/

/-- on_rtt_sample (R232). -/
def rttSample (c : Conn) (r : Nat) (lo hi : Nat) : Conn :=
  let sv := match c.srtt with
    | none => (r, r / 2)
    | some sr => ((7 * sr + r) / 8, (3 * c.rttvar + (if sr ≥ r then sr - r else r - sr)) / 4)
  { c with srtt := some sv.1, rttvar := sv.2, rto := clampN (sv.1 + 4 * sv.2) lo hi }

/-- Additive increase (R235): acc holds the bytes acknowledged since the last increase. -/
def ccGrow (ai top : Nat) : Nat → Nat → Nat → Nat × Nat
  | 0, cwnd, acc => (cwnd, acc)
  | fuel + 1, cwnd, acc => if acc ≥ cwnd then ccGrow ai top fuel (min top (cwnd + ai)) (acc - cwnd) else (cwnd, acc)

/-- Whether an ACK signals congestion (R235). -/
def ccSignal (ece : Bool) (targetUs : Nat) (sample : Option Nat) : Bool :=
  ece || (targetUs != 0 && match sample with | some r => r > targetUs * 1000 | none => false)

/-- on_ack (R235): the window after an ACK, and whether it was decreased. -/
def ccAck (c : Conn) (now bytes : Nat) (ece : Bool) (sample : Option Nat) (target ai md top : Nat) : Conn × Bool :=
  if ccSignal ece target sample then
    let free := match c.decTime with | none => true | some d => now ≥ d + c.srtt.getD 0
    if free then ({ c with cwnd := max cwndFloor (c.cwnd - c.cwnd / 2 ^ md), acc := 0, decTime := some now }, true)
    else (c, false)
  else
    let r := ccGrow ai top (bytes + c.acc) c.cwnd (c.acc + bytes)
    ({ c with cwnd := r.1, acc := r.2 }, false)

/-- A packet of the flight is newly acknowledged by an ACK (R231). -/
def newlyAcked (ackPsn sack : Nat) (p : TxPkt) : Bool × Bool :=
  let cum := psnNewer ackPsn p.psn
  let d := serialDiff 16777216 p.psn ackPsn
  (cum, 1 ≤ d && d ≤ 64 && bit sack (d - 1))

/-- Packets to resend at once: outstanding, with at least three newer PSNs shown received, at most once in each SRTT
(R234). -/
def fastResends (c : Conn) (now ackPsn sack : Nat) : List Nat :=
  (c.flight.filter fun p =>
    !p.sacked &&
    ((List.range 64).filter fun i => bit sack i && psnNewer ((ackPsn + 1 + i) % 16777216) p.psn).length ≥ 3 &&
    (match p.fastAt with | none => true | some t => now ≥ t + c.srtt.getD 0)).map fun p => p.psn

/-- An ACK reaches connection i (R231 to R235). An ACK_PSN beyond what was sent is ignored (DEDUCED, assumption 21). -/
def ackCore (s : State) (i ackPsn : Nat) (ece : Bool) (sack : Nat) : State :=
  let q := i / 16384
  let c := s.conn i
  let adv := serialDiff 16777216 ackPsn c.ackPsn
  let inFlight := serialDiff 16777216 c.nextPsn c.ackPsn
  let stale := adv > inFlight
  let beyond := stale && adv < 8388608
  if beyond then s
  else
    let fresh := c.flight.filter fun p =>
      !p.sacked && ((newlyAcked ackPsn sack p).1 || (newlyAcked ackPsn sack p).2)
    let bytes := (fresh.map TxPkt.size).sum
    let newest := fresh.foldl (fun (a : Option TxPkt) p => match a with
      | none => some p | some b => if psnNewer p.psn b.psn then some p else some b) none
    let sample := match newest with | some p => if p.resent then none else some (s.time - p.sentAt) | none => none
    let flight := (c.flight.filter fun p => !(newlyAcked ackPsn sack p).1).map fun p =>
      if (newlyAcked ackPsn sack p).2 then { p with sacked := true } else p
    let moved := !stale && adv != 0
    let c := { c with flight := flight, ackPsn := if moved then ackPsn else c.ackPsn, lastActive := s.time
                      retries := if moved then 0 else c.retries }
    let c := match sample with
      | some r => rttSample c r (s.rtoMin q * 1000) (s.rtoMax q * 1000) | none => c
    let live := flight.any fun p => !p.sacked
    let c := { c with timerAt := if !live then none else if moved then some (s.time + c.rto) else c.timerAt }
    let assisted := s.assisted 5
    let r := if assisted then
        ({ c with assistMark := c.assistMark || ccSignal ece (s.rttTarget q) sample, ccCe := c.ccCe + b2n ece
                  ccRtt := max c.ccRtt (sample.getD 0) }, false)
      else ccAck { c with cwnd := min c.cwnd (s.cwndMax q) } s.time bytes ece sample (s.rttTarget q) (s.aiBytes q)
        (s.mdShift q) (s.cwndMax q)
    let s := s.updConn i fun _ => r.1
    let s := if r.2 then s.count bXPT q 14 else s
    let fast := fastResends r.1 s.time ackPsn sack
    let s := s.updConn i fun c => { c with flight := c.flight.map fun p =>
      (if fast.contains p.psn then { p with fastAt := some s.time } else p) }
    (fast.foldl (fun s p => s.resendPkt i p) s).closeStep i

/-- The states in which a connection carries packets. -/
def Conn.carries (c : Conn) : Bool := c.state == .opened || c.state == .closing

/-- ACK (R232). -/
def execAck (conn : Nat) (at_ : Nat) (ackPsn : Nat) (ece : Bool) (sack : Nat) (s : State) :
    Host.Outcome State Fault Refusal :=
  let s := s.advance at_
  .next (if (s.conn conn).carries && !s.qOff (conn / 16384) then ackCore s conn (ackPsn % 16777216) ece sack else s)

/-- The four actions of a timer expiry on a connection that carries packets; the eighth goes to ERROR (R232, R233). -/
def rtoCore (s : State) (i : Nat) : State :=
  let q := i / 16384
  let c := s.conn i
  let s := s.count bXPT q 3
  if c.retries ≥ 7 then s.connError i sCONNERR
  else
    let s := s.updConn i fun c =>
      { c with rto := min (2 * c.rto) (s.rtoMax q * 1000), retries := c.retries + 1, cwnd := cwndFloor, acc := 0
               decTime := some s.time }
    let s := s.updConn i fun c => { c with timerAt := some (s.time + c.rto) }
    match c.flight.find? fun p => !p.sacked with
    | some p => s.resendPkt i p.psn
    | none => s

/-- NAK (R230): CTX_BUSY delays one packet's resend, and its 64th in a row counts as an expiry; OUT_OF_WINDOW changes
nothing; another status or a malformed body is counted. -/
def nakCore (s : State) (i : Nat) (b : Bytes) : State :=
  let q := i / 16384
  let st := byteAt b 0
  let bad := b.length != 12 || byteAt b 1 != 0 || byteAt b 7 != 0 || !zeroRange b 8 12
  if bad || !(st == sCTXBUSY || st == sWINDOW) then s.count bXPT q 17
  else if st = sWINDOW then s
  else
    let psn := fieldAt b 4 3
    match (s.conn i).flight.find? fun p => p.psn == psn && !p.sacked with
    | none => s
    | some p =>
      let set := fun (busy : Nat) (retry : Option Nat) => s.updConn i fun c =>
        { c with flight := c.flight.map fun x => if x.psn = psn then { x with busy := busy, retryAt := retry } else x }
      if p.busy + 1 ≥ 64 then rtoCore (set 0 none) i else set (p.busy + 1) (some (s.time + fieldAt b 2 2 * 1000))

/-- CTX_BUSY_RETRY (R230): the refused packet is resent, and none later. -/
def execCtxBusyRetry (conn : Nat) (psn : Nat) (s : State) : Host.Outcome State Fault Refusal :=
  .next (match (s.conn conn).flight.find? fun p => p.psn == psn with
    | none => s
    | some p => match p.retryAt with
      | none => s
      | some t => if s.qOff (conn / 16384) then s else (s.advance t).resendPkt conn psn)

/-- RTO_EXPIRY (R224, R225, R233): the timer of OPENING, of a CLOSE, or of outstanding packets. -/
def rtoExpiry (s : State) (i : Nat) : State :=
  let q := i / 16384
  let c := s.conn i
  let control := fun (t kind : Nat) =>
    let s := (s.advance t).count bXPT q 3
    if c.ctlRetries ≥ 7 then (if kind = 0 then s.failOpening i else s.freeConn i)
    else
      let s := s.updConn i fun c => { c with ctlRetries := c.ctlRetries + 1, rto := min (2 * c.rto) (s.rtoMax q * 1000) }
      (s.updConn i fun c => { c with ctlTimerAt := some (s.time + c.rto) }).sendHello i kind 0
  match c.state, c.ctlTimerAt, c.timerAt with
  | .opening, some t, _ => control t 0
  | .closing, some t, none => if c.closeSent then control t 2 else s
  | .opened, _, some t => rtoCore (s.advance t) i
  | .closing, _, some t => rtoCore (s.advance t) i
  | _, _, _ => s

/-- ACK_DELAY_EXPIRY (R228). -/
def execAckDelayExpiry (conn : Nat) (s : State) : Host.Outcome State Fault Refusal :=
  .next (match (s.conn conn).ackDueAt with
    | some t => if (s.conn conn).carries && !s.qOff (conn / 16384) then (s.advance t).sendAck conn else s
    | none => s)

/-- ERR_HOLD_EXPIRY (R221). -/
def execErrHoldExpiry (conn : Nat) (s : State) : Host.Outcome State Fault Refusal :=
  let c := s.conn conn
  let ms := max 1 (bits (s.reg bXPT (conn / 16384) 0xC) 7 0)
  .next (if c.state = .error ∧ !s.qOff (conn / 16384) then (s.advance (c.errAt + ms * 1000000)).freeConn conn else s)

/-- IDLE_CLOSE (R225): only a connection that the node opened. -/
def execIdleClose (conn : Nat) (s : State) : Host.Outcome State Fault Refusal :=
  let c := s.conn conn
  let ms := bits (s.reg bXPT (conn / 16384) 0xC) 15 8
  .next (if c.state = .opened ∧ c.opener ∧ ms ≠ 0 ∧ c.flight = [] ∧ c.queue = [] ∧ !s.qOff (conn / 16384) then
      ((s.advance (c.lastActive + ms * 1000000)).updConn conn fun c => { c with state := .closing }).closeStep conn
    else s)

/-- PACKET_SEND (R231, R234, R235): the next packet of the oldest waiting message, when the PSN window, cwnd, the
retransmit buffer and the context allow it. -/
def packetSend (s : State) (i : Nat) : State :=
  let q := i / 16384
  let c := s.conn i
  let cached := match (s.qtr q).xpt.ctx.look (i % 16384) with | some e => !e.fetching | none => false
  match c.queue with
  | [] => s
  | m :: rest =>
    if !(c.state == .opened || (c.state == .closing && !c.closeSent)) then s
    else if !cached then
      s.updXpt q fun X => { X with ctx := X.ctx.amend (i % 16384) { fetching := true } fun e => { e with fetching := true } }
    else
      let pay := (m.body.drop (c.sentOfHead * 4096)).take 4096
      let last := m.body.length ≤ (c.sentOfHead + 1) * 4096
      if serialDiff 16777216 c.nextPsn c.ackPsn > 63 then s
      else if c.outstanding + pay.length + 64 > c.cwnd then s
      else if s.rtxBytes q + pay.length + 64 > 8388608 then s
      else
        let p : TxPkt :=
          { psn := c.nextPsn, opcode := m.opcode, msn := c.msnTx % 65536, idx := c.sentOfHead, last := last, payload := pay
            hint := m.hint, owner := m.owner, sentAt := s.time }
        let s := s.updConn i fun c =>
          { c with nextPsn := (c.nextPsn + 1) % 16777216, flight := c.flight ++ [p]
                   queue := if last then rest else c.queue, sentOfHead := if last then 0 else c.sentOfHead + 1
                   msnTx := if last then (c.msnTx + 1) % 65536 else c.msnTx
                   timerAt := match c.timerAt with | some t => some t | none => some (s.time + c.rto) }
        s.transmit i p false

/-- PACKET_SEND. -/
def execPacketSend (conn : Nat) (at_ : Nat) (s : State) : Host.Outcome State Fault Refusal :=
  .next (if s.qOff (conn / 16384) then s.advance at_ else packetSend (s.advance at_) conn)

/-! ### HELLO (R224, R225, R314) -/

/-- A received HELLO body breaks its layout (Tables 8-8, 11-6). -/
def helloBad (h : Hdr) (b : Bytes) : Bool :=
  let kind := byteAt b 0 % 4
  let protect := bit (byteAt b 0) 2
  let cred := byteAt b 32
  b.length < 32 || byteAt b 0 / 8 != 0 || !zeroRange b 2 4 || byteAt b 7 != 0 || !zeroRange b 8 32 || h.prot ||
  (kind != 3 && byteAt b 1 != 0) ||
  (if protect && kind ≤ 1 then
     cred ≥ 2 || !zeroRange b 33 36 || b.length != (if cred = 0 then 452 else 292) ||
       (kind == 0 && !zeroRange b 100 132)
   else b.length != 32) ||
  (kind == 0 && h.dstConn != 0xFFFFFF)

/-- The node accepts an OPEN (R224): a connection in OPEN, and ACCEPT. -/
def acceptOpen (s : State) (p i : Nat) (f : RxFrame) (h : Hdr) (protect : Bool) (secret : Nat) : State :=
  let r := s.drawTrng
  let init := r.1 % 2 ^ 24
  let req := protect && byteAt f.payload 32 == 1
  let node := if isPeer h.srcNode && !req then h.srcNode else 0xFFFF
  let s := r.2.startConn i
    { state := .opened, peerOpener := true, remoteNode := node, remoteConn := h.srcConn, remoteAddr := f.srcAddr
      remotePort := if isPeer node then f.srcAddr % 65536 else p, tenant := h.tenant, tc := h.tc, prot := protect
      keys := { secret := secret }, initPsn := init, nextPsn := init, ackPsn := init, ePsn := fieldAt f.payload 4 3 }
  s.sendHello i 1 0

/-- HELLO OPEN (R224): the first check that applies decides. -/
def helloOpen (s : State) (p : Nat) (f : RxFrame) (h : Hdr) : State :=
  let t := s.tenant h.tenant
  let protect := bit (byteAt f.payload 0) 2
  let refuse := fun (s : State) (st : Nat) => s.sendReset p f.srcAddr h st
  if helloBad h f.payload then refuse s sBAD
  else
    match (s.qtr p).xpt.conns.find? fun e =>
        (e.2.state == .opened || e.2.state == .error || e.2.state == .closing) && e.2.peerOpener &&
          e.2.remoteAddr == f.srcAddr && e.2.remoteConn == h.srcConn && e.2.tenant == h.tenant with
    | some e => s.sendHello (p * 16384 + e.1) 1 0
    | none =>
      if t.state ≠ .active then refuse s sGONE
      else if !protect && (t.wireProt || s.sec.conf) then refuse s sAUTH
      else if s.connsOf h.tenant ≥ t.connMax then refuse s sQUOTA
      else
        match s.freeConnIdx p with
        | none => refuse s sCONNFULL
        | some i =>
          if protect then
            match Config.sm2Agree t.anchor f.payload with
            | none => refuse (s.count bSEC 0 3) sAUTH
            | some k => acceptOpen (s.count bSEC 0 2) p i f h true k
          else acceptOpen s p i f h false 0

/-- HELLO ACCEPT completes OPENING (R224); a failed agreement leaves the connection OPENING (DEDUCED, assumption 22). -/
def helloAccept (s : State) (i : Nat) (f : RxFrame) (h : Hdr) : State :=
  let c := s.conn i
  if c.state ≠ .opening then s
  else
    let done := fun (s : State) (k : Nat) => s.updConn i fun c =>
      { c with state := .opened, remoteConn := h.srcConn, ePsn := fieldAt f.payload 4 3, ctlTimerAt := none, ctlRetries := 0
               remoteAddr := f.srcAddr, keys := { c.keys with secret := k }, lastActive := s.time }
    if c.prot then
      match Config.sm2Agree (s.tenant c.tenant).anchor f.payload with
      | none => s.count bSEC 0 3
      | some k => done (s.count bSEC 0 2) k
    else done s 0

/-- HELLO CLOSE (R225). -/
def helloClose (s : State) (i : Nat) : State :=
  let c := s.conn i
  match c.state with
  | .opened => (s.updConn i fun c => { c with state := .closing, closeRcvd := true }).closeStep i
  | .closing => (s.updConn i fun c => { c with closeRcvd := true }).closeStep i
  | _ => s

/-- HELLO RESET (R224): accepted when SRC_CONN and tenant match; in ERROR it is counted. An OPENING connection does not yet
know its far end's ID, so any SRC_CONN matches it (DEDUCED, assumption 22). -/
def helloReset (s : State) (i : Nat) (h : Hdr) : State :=
  let c := s.conn i
  let same := h.tenant == c.tenant && h.srcConn == c.remoteConn
  match c.state with
  | .opening => if h.tenant = c.tenant then s.failOpening i else s
  | .opened => if same then s.connError i sCONNERR else s
  | .closing => if same then s.connError i sCONNERR else s
  | .error => s.count bXPT (i / 16384) 19
  | .free => s.count bXPT (i / 16384) 19

/-! ### Delivery (R215, R216, R226 to R228) -/

/-- A complete message reaches its consumer: it is accepted for its operation, or refused (R216, R219, R245). -/
def deliverMsg (s : State) (i op : Nat) (bad : Bool) (body : Bytes) (arrival : Nat) : State :=
  let q := if hasKey op && body.length ≥ 17 then homeQ (bodyKey body) else i / 16384
  let refuse := fun (st : Nat) => s.answer (.wire i) (i / 16384)
    { tag := if body.length ≥ 8 then fieldAt body 0 8 else 0, status := st, opcode := op }
  if bad || op ≥ 0x1C || body.length < 8 then refuse sBAD
  else if s.qOff q then refuse sDOMOFF
  else { s with inbox := s.inbox ++ [{ origin := .wire i, opcode := op, body := body, arrival := arrival }] }

/-- Deliver one packet in PSN order (R215, R227): it extends the message in progress; a packet that breaks the rules of
R215 makes the message malformed. -/
def deliverPkt (s : State) (i : Nat) (p : RxPkt) : State :=
  let c := s.conn i
  let first := c.rxPart.isEmpty && c.idxRx == 0
  let op := if first then p.opcode else c.rxOpcode
  let arrival := if first then p.arrival else c.rxArrival
  let bad := c.rxBad || p.msn != c.msnRx || p.idx != c.idxRx || p.opcode != op || (!p.last && p.payload.length != 4096) ||
    c.idxRx ≥ 65536
  let body := c.rxPart ++ p.payload
  let s := s.updConn i fun c =>
    { c with ePsn := (p.psn + 1) % 16777216, lastActive := s.time
             rxPart := if p.last then [] else body, idxRx := if p.last then 0 else c.idxRx + 1
             rxOpcode := op, rxArrival := arrival, rxBad := !p.last && bad
             msnRx := if p.last then (c.msnRx + 1) % 65536 else c.msnRx }
  if p.last then deliverMsg s i op bad body arrival else s

/-- Deliver the held packets that have become in order. -/
def drainHeld : Nat → State → Nat → State
  | 0, s, _ => s
  | fuel + 1, s, i =>
    match (s.conn i).heldRx.find? fun p => p.psn == (s.conn i).ePsn with
    | none => s
    | some p =>
      let s := s.updConn i fun c => { c with heldRx := c.heldRx.filter fun x => x.psn != p.psn }
      drainHeld fuel (deliverPkt s i p) i

/-- A sequenced packet that passed every check before the window (R226, R228). -/
def rxSequenced (s : State) (i : Nat) (h : Hdr) (payload : Bytes) (ce : Bool) (now : Nat) : State :=
  let q := i / 16384
  let c := s.conn i
  let d := serialDiff 16777216 h.psn c.ePsn
  let dup := d ≥ 8388608 || c.heldRx.any fun p => p.psn == h.psn
  if dup then (s.count bXPT q 4).sendAck i
  else if d ≥ 64 then
    let s := s.count bXPT q 5
    let body := leBytes 1 sWINDOW ++ leBytes 1 0 ++ leBytes 2 0 ++ leBytes 4 h.psn ++ leBytes 4 0
    s.sendOn i { s.connHdr i 3 with payLen := 12 } body false
  else
    let p : RxPkt := { psn := h.psn, opcode := h.opcode, msn := h.msn, idx := h.idx, last := h.last, payload := payload
                       ce := ce, arrival := now }
    let hole := c.heldRx != []
    let s := s.updConn i fun c => { c with ceNew := c.ceNew || ce }
    let s := if d = 0 then drainHeld 64 (deliverPkt s i p) i
      else s.updConn i fun c => { c with heldRx := c.heldRx ++ [p] }
    let c := s.conn i
    if h.ackReq || hole || c.heldRx != [] || c.ackRun + 1 ≥ s.ackCoal q then s.sendAck i
    else s.updConn i fun c => { c with ackRun := c.ackRun + 1
                                       ackDueAt := match c.ackDueAt with | some t => some t | none => some (s.time + s.ackDelay q) }

/-! ### Receive checks (R222, R285 to R287) -/

/-- The level of a bucket brought up to date: 1/80 byte units, RATE units of 100 Mb/s (R286). -/
def Bucket.levelAt (b : Bucket) (now rate burstKib : Nat) : Int :=
  let cap : Int := (max 5 burstKib * 1024 * 80 : Nat)
  if b.full then cap else min cap (b.level + ((min rate 8000 * (now - b.at_) : Nat) : Int))

/-- The ingress policer of tenant t at port p meets L bytes (R286): whether the packet conforms. -/
def police (s : State) (p t len : Nat) : Bool × State :=
  let rate := s.reg bPORT p (0x600 + 8 * t) % 65536
  if rate = 0 then (true, s)
  else
    let b := (s.qtr p).port.pol.fetch t {}
    let lv := b.levelAt s.time rate (s.reg bPORT p (0x604 + 8 * t) % 65536)
    let ok := decide (((len * 80 : Nat) : Int) ≤ lv)
    (ok, s.updPort p fun P =>
      { P with pol := P.pol.put t { level := if ok then lv - ((len * 80 : Nat) : Int) else lv, at_ := s.time, full := false } })

/-- Hand the POLICED notice that is due on a connection (R249, R287). -/
def policedNotice (s : State) (i : Nat) : State :=
  let c := s.conn i
  let gap := match c.noticeAt with | some t => decide (t + 64000 ≤ s.time) | none => true
  if c.state = .opened ∧ c.drops > 0 ∧ gap = true then
    let v := sat c.drops 0xFFFFFF
    let s := s.updConn i fun c => { c with drops := 0, noticeAt := some s.time }
    s.hand i { opcode := 0x1B, body := leBytes 8 0 ++ leBytes 1 sPOLICED ++ leBytes 3 v ++ leBytes 4 0 }
  else s

/-- A policed drop is counted, and charged to the connection it names (R287). -/
def policedDrop (s : State) (p : Nat) (h : Hdr) : State :=
  let s := (s.count bPORT p 8).bumpOff bPORT p (0x5000 + 8 * h.tenant) 1
  let i := h.dstConn % 65536
  let c := s.conn i
  if h.opcode ≥ 0x10 ∧ c.state = .opened ∧ c.incarn % 256 = h.dstConn / 65536 ∧ c.tenant = h.tenant then
    policedNotice (s.updConn i fun c => { c with drops := c.drops + 1 }) i
  else s

/-- POLICED_NOTICE_GAP_END (R287): 64 µs after the last notice, while drops are charged. -/
def execPolicedNoticeGapEnd (conn : Nat) (s : State) : Host.Outcome State Fault Refusal :=
  .next (match (s.conn conn).noticeAt with
    | some t => if (s.conn conn).drops > 0 ∧ !s.qOff (conn / 16384) then policedNotice (s.advance (t + 64000)) conn else s
    | none => s)

/-- Bytes that class c holds in the receive buffer of port q: packets held out of order (R242). -/
def State.rxUsed (s : State) (q c : Nat) : Nat :=
  ((s.qtr q).xpt.conns.map fun e =>
    if e.2.tc = c then (e.2.heldRx.map fun p => frameLen e.2.prot p.payload.length).sum else 0).sum

/-- Bytes of class c beyond its reservation (R289). -/
def State.rxShared (s : State) (q c : Nat) : Nat := s.rxUsed q c - 65536

/-- XOFF_KIB and XON_KIB in effect (Table 10-9). -/
def State.xoffKib (s : State) (q : Nat) : Nat := clampN (bits (s.reg bPORT q 0x120) 11 0) 16 2560
/-- XON_KIB in effect. -/
def State.xonKib (s : State) (q : Nat) : Nat :=
  let v := bits (s.reg bPORT q 0x120) 23 12
  if v ≥ s.xoffKib q then s.xoffKib q - 16 else v

/-- A class takes PFC: PORT_CLASSc.PFC_EN. -/
def State.pfcEn (s : State) (q c : Nat) : Bool := bit (s.reg bPORT q (0x100 + 4 * c)) 1

/-- The receive buffer of port q has room for a frame of class c (Table 8-11): the reservation, the shared pool, and the
headroom of a class with PFC. -/
def State.rxRoom (s : State) (q c len : Nat) : Bool :=
  let shared := ((List.range 8).map fun k => s.rxShared q k).sum
  let past := s.rxUsed q c + len - 65536
  let more := past - s.rxShared q c
  shared + more ≤ 2560 * 1024 + (if s.pfcEn q c then 128 * 1024 else 0)

/-- Bring the PFC state of every class up to date after the buffer has changed (R289). -/
def pfcUpdate (s : State) (q : Nat) : State :=
  (List.range 8).foldl (fun s c =>
    let k := (s.qtr q).port.classes.fetch c {}
    let n := s.rxShared q c
    let set := fun (s : State) (x : Bool) => s.updPort q fun P =>
      { P with classes := P.classes.amend c {} fun k => { k with xoff := x, xoffAt := s.time, pfcDue := true } }
    if !s.pfcEn q c then s
    else if !k.xoff && n ≥ s.xoffKib q * 1024 then set s true
    else if k.xoff && n < s.xonKib q * 1024 then set s false
    else s) s

/-- PFC_RECEIVE (R290): each enabled class that takes PFC is paused for its time, or resumes. -/
def pfcReceive (s : State) (p : Nat) (enable : Nat) (times : List Nat) : State :=
  let s := s.count bPORT p 10
  (List.range 8).foldl (fun s c =>
    if !bit enable c then s
    else if !s.pfcEn p c then s.count bPORT p 11
    else
      let t := times.getD c 0
      s.updPort p fun P => { P with classes := P.classes.amend c {} fun k =>
        { k with pausedUntil := if t = 0 then none else some (s.time + ceilDiv (t * 64) 100) } }) s

/-- PFC_RECEIVE. -/
def execPfcReceive (port : Fin 4) (at_ : Nat) (enable : BitVec 8) (times : List Nat) (s : State) :
    Host.Outcome State Fault Refusal :=
  .next (pfcReceive (s.advance at_) port enable.toNat times)

/-- Migration step 3 (R428): a valid packet of an OPEN connection from another derived address of its remote node moves
the connection there, and its outstanding packets are resent without counting a retry. -/
def migrate (s : State) (i : Nat) (src : Nat) : State :=
  let c := s.conn i
  let p := src % 65536
  if c.state = .opened ∧ isPeer c.remoteNode ∧ p < 4 ∧ p ≠ c.remotePort ∧ src = s.derivedAddr c.remoteNode p then
    let s := s.updConn i fun c => { c with remotePort := p }
    (c.flight.filter fun x => !x.sacked).foldl (fun s x => s.resendPkt i x.psn) s
  else s

/-- Checks 8 to 11 of Table 8-7, and what the packet does (R222, R226, R317): its context is at hand. -/
def rxOnConn (s : State) (i : Nat) (f : RxFrame) (h : Hdr) : State :=
  let q := i / 16384
  let c := s.conn i
  let hello := h.opcode == 1
  if h.tenant ≠ c.tenant ∨ h.tc ≠ c.tc ∨ (!hello && h.prot != c.prot) then s.count bXPT q 8
  else
    let ep := byteAt f.sec 0 % 16
    let cur := ep == c.keys.rxEpoch % 16
    let nxt := ep == (c.keys.rxEpoch + 1) % 16
    if h.prot && (c.keys.zeroised || !(cur || nxt)) then s.count bXPT q 9
    else
      let n := if cur then c.keys.rxEpoch else c.keys.rxEpoch + 1
      let key := Config.kdf c.keys.secret n (if c.opener then 1 else 0)
      let nonce := fieldAt f.sec 4 12
      let tagOk := fieldAt f.trailer 0 16 == Config.gcmTag key nonce (f.header ++ f.sec) f.payload
      if h.prot && !tagOk then s.count bXPT q 8
      else
        let s := if h.prot then s.updConn i fun c => { c with keys := { c.keys with rxEpoch := n } } else s
        let pay := if h.prot then
            (List.range f.payload.length).map fun k => f.payload.getD k 0 ^^^ Config.gcmStream key nonce k else f.payload
        let s := s.count bXPT q 0
        let s := if f.ce then s.count bXPT q 13 else s
        let s := migrate s i f.srcAddr
        let s := s.updXpt q fun X => { X with ctx := X.ctx.amend (i % 16384) {} fun e => { e with used := s.time, dirty := true, writeback := false } }
        let s := if h.ackValid && h.opcode ≥ 0x10 then ackCore s i h.ackPsn h.ece 0 else s
        if h.opcode = 1 then
          let kind := byteAt pay 0 % 4
          if helloBad h pay then s
          else if kind = 1 then helloAccept s i f h
          else if kind = 2 then helloClose s i
          else helloReset s i h
        else if h.opcode = 2 then
          (if h.ackValid && pay.length = 8 then ackCore s i h.ackPsn h.ece (fieldAt pay 0 8) else s)
        else if h.opcode = 3 then nakCore s i pay
        else if (s.conn i).carries then pfcUpdate (rxSequenced s i h pay f.ce f.at_) q
        else s

/-- A context can be evicted (R239). -/
def State.ctxPinned (s : State) (q k : Nat) (e : CtxEntry) : Bool :=
  let c := s.conn (q * 16384 + k)
  e.fetching || e.writeback || c.flight.any (fun p => !p.sacked) || c.queue != [] || c.heldRx != [] ||
    c.state == .opening || c.state == .closing

/-- Make room for one more context: the least recently used entry that is not pinned leaves (R239). -/
def State.ctxRoom (s : State) (q : Nat) : Option State :=
  let X := (s.qtr q).xpt
  if X.ctx.length < 8192 then some s
  else
    match (X.ctx.filter fun e => !s.ctxPinned q e.1 e.2).foldl (fun (a : Option (Nat × CtxEntry)) e =>
        match a with | none => some e | some b => if e.2.used < b.2.used then some e else some b) none with
    | none => none
    | some e => some (s.updXpt q fun X => { X with ctx := X.ctx.del e.1 })

/-- Start the fetch of a context when an entry can be had (R240). -/
def State.startFetch (s : State) (i : Nat) : State :=
  let q := i / 16384
  if ((s.qtr q).xpt.ctx.look (i % 16384)).isSome then s
  else match s.ctxRoom q with
    | none => s
    | some s => s.updXpt q fun X => { X with ctx := X.ctx.put (i % 16384) { fetching := true, used := s.time } }

/-- Bytes in the miss buffer of a Quarter's port (R240). -/
def Xpt.missBytes (X : Xpt) : Nat := (X.miss.map fun m => m.bytes).sum

/-- A packet at check 7 (R222, R224, R240): it needs a live connection and its context. -/
def rxContext (s : State) (p : Nat) (f : RxFrame) (h : Hdr) : State :=
  let i := h.dstConn % 65536
  let q := i / 16384
  let c := s.conn i
  let reset := h.opcode == 1 && byteAt f.payload 0 % 4 == 3
  let answer := fun (s : State) =>
    if reset then s.count bXPT q 19
    else
      let min := bits (s.reg bXPT p 0xC) 23 16 * 1000
      match (s.qtr p).xpt.lastRst with
      | some t => if s.time < t + min then s else (s.sendReset p f.srcAddr h sCONNERR).updXpt p fun X => { X with lastRst := some s.time }
      | none => (s.sendReset p f.srcAddr h sCONNERR).updXpt p fun X => { X with lastRst := some s.time }
  if s.qOff q then s
  else if c.state = .free ∨ c.incarn % 256 ≠ h.dstConn / 65536 then answer s
  else if h.opcode ≠ 1 ∧ c.state = .error then answer s
  else if h.opcode ≠ 1 ∧ c.state = .opening then s.count bXPT q 18
  else
    let waits := (s.qtr q).xpt.miss.any fun m => m.conn == i
    match (s.qtr q).xpt.ctx.look (i % 16384), waits with
    | some e, false => if e.fetching then
          s.updXpt q fun X => { X with miss := X.miss ++ [{ conn := i, bytes := f.len, frame := f }] }
        else rxOnConn s i f h
    | _, _ =>
      let s := s.count bXPT q 10
      if (s.qtr q).xpt.missBytes + f.len > 262144 then
        let s := s.count bXPT q 11
        let us := max 1 (s.reg bXPT q 0x1C % 256)
        let body := leBytes 1 sCTXBUSY ++ leBytes 1 0 ++ leBytes 2 us ++ leBytes 4 h.psn ++ leBytes 4 0
        let nh : Hdr := { opcode := 3, srcNode := s.boot.nodeId.getD 0xFFFF, dstNode := h.srcNode, tenant := h.tenant, tc := h.tc
                          dstConn := h.srcConn, srcConn := h.dstConn, payLen := 12 }
        if s.portUsable p then ((s.toPort p { sealFrame {} h.dstConn nh body with dst := f.srcAddr }).count bXPT p 1) else s
      else
        (s.updXpt q fun X => { X with miss := X.miss ++ [{ conn := i, bytes := f.len, frame := f }] }).startFetch i

/-- Bring a tenant's policer (`base` 0x600) or shaper (0x800) at a port up to date under the values in effect (R286, R292). -/
def State.settlePort (s : State) (p base t : Nat) : State :=
  let bring := fun (b : Bucket) =>
    ({ level := b.levelAt s.time (s.reg bPORT p (base + 8 * t) % 65536) (s.reg bPORT p (base + 8 * t + 4) % 65536)
       at_ := s.time, full := false } : Bucket)
  s.updPort p fun P => if base = 0x600 then { P with pol := P.pol.amend t {} bring } else { P with shp := P.shp.amend t {} bring }

/-- Staged POL or SHP words of a tenant at a port take effect at the PACKET boundary (R363); the bucket has been credited under the
old values until then. -/
def applyPacket (s : State) (p base t : Nat) : State :=
  let s := if (s.pendingAt bPORT p (base + 8 * t)).isSome ∨ (s.pendingAt bPORT p (base + 8 * t + 4)).isSome then
    s.settlePort p base t else s
  (s.applyAt bPORT p (base + 8 * t)).applyAt bPORT p (base + 8 * t + 4)

/-- The counter of the check that discards an Epcen frame (checks 2 to 5 of Table 8-7), if one does. -/
def State.epcenDrop (s : State) (p : Nat) (f : RxFrame) : Option Nat :=
  let h := Hdr.ofBytes f.header
  let b0 := byteAt f.header 0
  let addrOk := match s.boot.nodeId with | some n => f.dstAddr == s.derivedAddr n p | none => false
  let total := 40 + f.sec.length + f.payload.length + f.trailer.length
  if !addrOk || f.nextHdr ≠ 17 || f.fragment || f.udpDst ≠ s.udpPort p || f.udpLen ≠ total || !f.udpSumOk ||
      f.header.length ≠ 32 then some 6
  else if b0 % 16 ≠ 1 || bits b0 5 4 ≥ 2 || byteAt f.header 6 ≥ 64 || byteAt f.header 7 ≥ 64 || byteAt f.header 11 ≠ 0 ||
      byteAt f.header 15 ≠ 0 || byteAt f.header 19 ≠ 0 || byteAt f.header 23 ≥ 4 || byteAt f.header 29 ≥ 32 ||
      fieldAt f.header 30 2 ≠ 0 || h.opcode = 0 || (4 ≤ h.opcode ∧ h.opcode ≤ 15) ||
      f.udpLen ≠ 40 + h.payLen + (if h.prot then 32 else 4) || h.tc ≠ f.pcp then some 6
  else if some h.dstNode ≠ s.boot.nodeId then some 6
  else if !h.prot && fieldAt f.trailer 0 4 ≠ crc32c (f.header ++ f.payload) then some 7
  else none

/-- Checks 2 to 6 of Table 8-7. -/
def rxEpcen (s : State) (p : Nat) (f : RxFrame) : State :=
  match s.epcenDrop p f with
  | some n => s.count bXPT p n
  | none =>
    let h := Hdr.ofBytes f.header
    let s := applyPacket s p 0x600 h.tenant
    let r := police s p h.tenant f.len
    if !r.1 then policedDrop r.2 p h
    else
      let s := r.2.meter h.tenant 3 f.len
      if h.opcode = 1 ∧ byteAt f.payload 0 % 4 = 0 then
        helloOpen (if f.ce then (s.count bXPT p 0).count bXPT p 13 else s.count bXPT p 0) p f h
      else rxContext s p f h

/-- MAC address of port p (R213). -/
def State.macOf (s : State) (p : Nat) : Nat := (match s.boot.image with | some i => i.baseMac | none => 0) + p

/-- VID in effect (Table 10-7). -/
def State.vid (s : State) (p : Nat) : Nat := let v := s.reg bPORT p 4 % 4096; if v = 0 ∨ v = 4095 then 1 else v

/-- The counter of the check of Table 10-2 that discards a frame, if one does. -/
def State.portDrop (s : State) (p : Nat) (f : RxFrame) : Option Nat :=
  if !f.fcsOk || f.len < 64 || f.len > 4230 then some 2
  else if f.dstMac ≠ s.macOf p ∧ f.dstMac ≠ 0x0180C2000001 then some 3
  else if f.etherOuter = 0x8808 then (if f.pause.isNone then some 4 else none)
  else if !f.tagged || f.etherOuter ≠ 0x8100 || f.vid ≠ s.vid p || f.etherInner ≠ 0x86DD then some 5
  else if !s.classEn p (f.pcp % 8) then some 6
  else if !s.rxRoom p (f.pcp % 8) f.len then some 7
  else none

/-- A frame at a port (Table 10-2): the first check that fails decides. A port that is down, or in a Quarter in Q-OFF,
receives nothing. -/
def frameReceive (s : State) (p : Nat) (f : RxFrame) : State :=
  let P := (s.qtr p).port
  if !(P.linkUp || bit (s.reg bPORT p 4) 13) || s.qOff p then s
  else
    let s := (s.advance f.at_).count bPORT p 0
    match s.portDrop p f, f.pause with
    | some n, _ => s.count bPORT p n
    | none, some (en, ts) => if f.etherOuter = 0x8808 then pfcReceive s p en ts else rxEpcen s p f
    | none, none => rxEpcen s p f

/-- Whether a frame carries a HELLO of a kind. -/
def isHello (f : RxFrame) (kind : Nat) : Bool := byteAt f.header 1 == 1 && byteAt f.payload 0 % 4 == kind

/-- CONTEXT_FETCH_DONE (R240): the context is cached, and the packets that waited for it proceed in order. -/
def contextFetchDone (s : State) (i : Nat) : State :=
  let q := i / 16384
  let s := s.startFetch i
  match (s.qtr q).xpt.ctx.look (i % 16384) with
  | none => s
  | some e =>
    if !e.fetching then s
    else
      let wait := (s.qtr q).xpt.miss.filter fun m => m.conn == i
      let s := s.updXpt q fun X =>
        { X with ctx := X.ctx.put (i % 16384) { e with fetching := false }, miss := X.miss.filter fun m => m.conn != i }
      wait.foldl (fun s m => rxOnConn s i m.frame (Hdr.ofBytes m.frame.header)) s

/-! ### Connection registers (Tables 8-27, 8-28) -/

/-- The snapshot of a connection that LOAD puts in XPT_CONN_DATA (Table 8-28); words 2 to 7 read 0 in confidential
operation (R320). -/
def connWords (s : State) (i : Nat) : List Nat :=
  let c := s.conn i
  let code := match c.state with | .free => 0 | .opening => 1 | .opened => 2 | .closing => 3 | .error => 4
  let w := [connId i c + code * 2 ^ 24 + b2n c.prot * 2 ^ 27, c.remoteNode % 65536 + c.tenant * 65536 + c.tc * 2 ^ 22]
  let v := [c.nextPsn + c.retries * 2 ^ 24, c.ackPsn, c.ePsn, c.cwnd, sat (c.srtt.getD 0) (2 ^ 32 - 1),
            sat (ceilDiv c.rto 1000) 16383]
  w ++ (if s.sec.conf then v.map fun _ => 0 else v)

/-- XPT_CONN_CMD.LOAD (Table 8-27). -/
def connLoad (s : State) (q : Nat) : State :=
  let i := q * 16384 + s.reg bXPT q 0x40 % 16384
  let ws := connWords s i
  let s := s.updXpt q fun X => { X with data := (List.range 8).zip (ws.map w32) }
  s.setReg bXPT q 0x5C (ws.getD 5 0)

/-- CONN_LOAD. -/
def execConnLoad (q : Fin 4) (s : State) : Host.Outcome State Fault Refusal :=
  .next (if s.qOff q then s.offWrite bXPT q 0x44 else connLoad s q)

/-- XPT_CONN_CMD.SET_CWND (R237): only while function mode 5 is host-assisted; otherwise ignored and counted. -/
def setCwnd (s : State) (q : Nat) : State :=
  if s.assisted 5 then
    s.updConn (q * 16384 + s.reg bXPT q 0x40 % 16384) fun c => { c with cwnd := clampN (s.reg bXPT q 0x5C) cwndFloor (s.cwndMax q) }
  else s.count bXPT q 16

/-- SET_CWND. -/
def execSetCwnd (q : Fin 4) (s : State) : Host.Outcome State Fault Refusal :=
  .next (if s.qOff q then s.offWrite bXPT q 0x44 else setCwnd s q)

/-- CONTEXT_REGION_COPY_DONE (R241): fetches and write-backs use the new place. -/
def execContextRegionCopyDone (q : Fin 4) (s : State) : Host.Outcome State Fault Refusal :=
  .next (match (s.qtr q).xpt.copyHost with
    | none => s
    | some b => if s.qOff q then s else s.updXpt q fun X => { X with ctxInHost := b, copyHost := none })

end Sys2Proof.Machine
end

