-- ==== Sys2Proof/Machine/Ports.lean ====
section
/-!
DEFINITION. The transmit side of a port (ch. 10): time gates, deficit round robin, shapers, injectors, PFC frames, loopback, and the
link coming up and going down.
-/
namespace Sys2Proof.Machine

/-! ### Gate lists (R294, R295) -/

/-- Entry e of a gate list as a PORT_GCLe word. -/
def Gcl.word (g : Gcl) (e : Nat) : Nat := (g.entries.fetch e 0xFF000001).toNat
/-- Port cycles of entry e (Table 10-12). -/
def Gcl.cycles (g : Gcl) (e : Nat) : Nat := max 1 (g.word e % 2 ^ 24)
/-- Whether the gate of class c is open in entry e. -/
def Gcl.opens (g : Gcl) (e c : Nat) : Bool := bit (g.word e) (24 + c)
/-- Entries of a list (Table 10-10). -/
def Gcl.size (g : Gcl) : Nat := clampN g.len 1 64

/-- Port cycles for which class c stays open over entries that follow one another; none when every one of them has it open and
nothing ends the list. -/
def Gcl.openCycles (g : Gcl) (c : Nat) (ends : Bool) : List Nat → Option Nat
  | [] => if ends then some 0 else none
  | e :: t => if g.opens e c then (g.openCycles c ends t).map (· + g.cycles e) else some 0

/-- Now, in fifths of a nanosecond, at a port whose frame boundary may lie inside a nanosecond. -/
def State.portNow (s : State) (p : Nat) : Nat := max (5 * s.time) (s.qtr p).port.freeAt

/-- The remaining window of class c in fifths of a nanosecond (R294): none when its gate does not close. -/
def State.gateWindow (s : State) (p c : Nat) : Option Nat :=
  let P := (s.qtr p).port
  if !P.gclRun then none
  else if !P.active.opens P.gclEntry c then some 0
  else
    let rest := (List.range P.active.size).drop (P.gclEntry + 1)
    let list := if P.swapPend then rest else rest ++ List.range (P.gclEntry + 1)
    (P.active.openCycles c P.swapPend list).map fun n =>
      P.gclStart + 4 * P.active.cycles P.gclEntry - s.portNow p + 4 * n

/-- A frame of class c fits its gate window (R294). -/
def State.gateFits (s : State) (p c : Nat) (f : TxFrame) : Bool :=
  match s.gateWindow p c with | none => true | some w => 4 * ceilDiv (f.bytes + 20) 80 ≤ w

/-- The shadow list as the registers hold it (Tables 10-10, 10-12). -/
def State.shadowGcl (s : State) (p : Nat) : Gcl :=
  { entries := (List.range 64).map fun e => (e, w32 (s.reg bPORT p (0x400 + 4 * e))), len := bits (s.reg bPORT p 0x200) 10 4 }

/-- The lists change places, and the list in effect starts at its entry 0 (R295). -/
def State.swapGcl (s : State) (p : Nat) : State :=
  let old := (s.qtr p).port.active
  let fresh := s.shadowGcl p
  let s := s.updPort p fun P => { P with active := fresh, activeBank := !P.activeBank, swapPend := false }
  let s := (List.range 64).foldl (fun s e => s.setReg bPORT p (0x400 + 4 * e) (old.word e)) s
  s.setReg bPORT p 0x200 (s.reg bPORT p 0x200 % 16 + 16 * old.size)

/-- SWAP is requested: at once while EN is 0, else at the end of the last entry; a further request changes nothing (R295). -/
def gclSwap (s : State) (p : Nat) : State :=
  if !(s.qtr p).port.gclRun then s.swapGcl p else s.updPort p fun P => { P with swapPend := true }

/-- EN becomes 1: the active list starts at entry 0 at the next port cycle (R294). -/
def gclEnable (s : State) (p : Nat) : State :=
  if (s.qtr p).port.gclRun then s
  else
    let s := s.setReg bPORT p 0x200 (s.reg bPORT p 0x200 / 2 * 2 + 1)
    s.updPort p fun P => { P with gclRun := true, gclEntry := 0, gclStart := 5 * s.time + 4 }

/-- EN becomes 0: every gate opens, and a pending swap happens at once (Table 10-5). -/
def gclDisable (s : State) (p : Nat) : State :=
  let s := s.setReg bPORT p 0x200 (s.reg bPORT p 0x200 / 2 * 2)
  let pend := (s.qtr p).port.swapPend
  let s := s.updPort p fun P => { P with gclRun := false, gclEntry := 0 }
  if pend then s.swapGcl p else s

/-- A write of PORT_GCL_CTL (Table 10-10). SHADOW_LEN belongs to the shadow list, so a change of it while a swap is pending is
ignored and counted (DEDUCED from R295). -/
def gclCtl (s : State) (p v : Nat) : State :=
  let cur := s.reg bPORT p 0x200
  let len := bits v 10 4
  let s := if (s.qtr p).port.swapPend then (if len = bits cur 10 4 then s else s.count bPORT p 14)
    else s.setReg bPORT p 0x200 (cur % 16 + 16 * len)
  let s := if bit v 0 then gclEnable s p else if bit cur 0 then gclDisable s p else s
  if bit v 1 then gclSwap s p else s

/-- A write of PORT_GCLe (R295). -/
def gclWrite (s : State) (p e v : Nat) : State :=
  if (s.qtr p).port.swapPend then s.count bPORT p 14 else s.setReg bPORT p (0x400 + 4 * e) v

/-- GATE_ENTRY_EXPIRY (R294, R295): the next entry runs; at the end of the last one a pending swap happens. -/
def gateEntryExpiry (s : State) (p : Nat) : State :=
  let P := (s.qtr p).port
  if !P.gclRun then s
  else
    let due := P.gclStart + 4 * P.active.cycles P.gclEntry
    let s := s.advance (ceilDiv due 5)
    if P.gclEntry + 1 < P.active.size then s.updPort p fun P => { P with gclEntry := P.gclEntry + 1, gclStart := due }
    else
      let s := if P.swapPend then s.swapGcl p else s
      s.updPort p fun P => { P with gclEntry := 0, gclStart := due }

/-- GATE_ENTRY_EXPIRY. -/
def execGateEntryExpiry (port : Fin 4) (s : State) : Host.Outcome State Fault Refusal := .next (gateEntryExpiry s port)

/-- GCL_ENABLE (R294). -/
def execGclEnable (port : Fin 4) (s : State) : Host.Outcome State Fault Refusal :=
  .next (if s.qOff port then s.offWrite bPORT port 0x200 else gclEnable s port)

/-- GCL_SWAP (R295). -/
def execGclSwap (port : Fin 4) (s : State) : Host.Outcome State Fault Refusal :=
  .next (if s.qOff port then s.offWrite bPORT port 0x200 else gclSwap s port)

/-! ### Deficit round robin and shapers (R291 to R293) -/

/-- A tenant's shaper admits a frame (R292). -/
def State.eligible (s : State) (p t : Nat) : Bool :=
  let rate := s.reg bPORT p (0x800 + 8 * t) % 65536
  rate == 0 || decide (0 ≤ ((s.qtr p).port.shp.fetch t {}).levelAt s.time rate (s.reg bPORT p (0x804 + 8 * t) % 65536))

/-- A frame of L bytes is charged to its tenant's shaper. -/
def State.chargeShaper (s : State) (p t len : Nat) : State :=
  if s.reg bPORT p (0x800 + 8 * t) % 65536 = 0 then s
  else (s.settlePort p 0x800 t).updPort p fun P =>
    { P with shp := P.shp.amend t {} fun b => { b with level := b.level - ((80 * len : Nat) : Int) } }

/-- QUANTUM of a tenant (Table 10-14). -/
def State.quantum (s : State) (p t : Nat) : Nat :=
  let v := s.reg bPORT p (0xA00 + 4 * t) % 65536
  if v = 0 then 64 else v

/-- serve_class (R293): the class after the visits that end, and the frame that it sends; a head that does not fit its gate window
waits, marked. -/
def drrServe (elig : Nat → Bool) (quant : Nat → Nat) (fits : TxFrame → Bool) : Nat → TxClass → TxClass × Option TxFrame
  | 0, k => (k, none)
  | fuel + 1, k =>
    match k.round with
    | [] => (k, none)
    | q :: rest =>
      let q := if k.visiting then q else { q with deficit := q.deficit + quant q.tenant }
      let ended : TxClass := { k with round := rest ++ [q], visiting := false }
      if !elig q.tenant then drrServe elig quant fits fuel ended
      else match q.frames with
        | [] => drrServe elig quant fits fuel { k with round := rest, visiting := false }
        | f :: fs =>
          if q.deficit < f.bytes then drrServe elig quant fits fuel ended
          else if fits f then
            let left := if fs = [] then rest else { q with frames := fs, deficit := q.deficit - f.bytes } :: rest
            ({ k with round := left, visiting := fs != [] }, some f)
          else ({ k with round := { q with frames := { f with waited := true } :: fs } :: rest, visiting := true }, none)

/-- Frames of a class that have waited for a gate window. -/
def TxClass.waits (k : TxClass) : Nat := (k.round.map fun q => (q.frames.filter fun f => f.waited).length).sum

/-- A received pause of class c is in force (R290). -/
def State.classPaused (s : State) (p c : Nat) : Bool :=
  match ((s.qtr p).port.classes.fetch c {}).pausedUntil with | some u => s.time < u | none => false

/-- One class at a frame boundary (R291): nothing while it is paused, its gate is closed or no tenant with a frame is eligible. -/
def State.serveClass (s : State) (p c : Nat) : Option TxFrame × State :=
  let k := (s.qtr p).port.classes.fetch c {}
  if s.classPaused p c || s.gateWindow p c == some 0 || !(k.round.any fun q => s.eligible p q.tenant) then (none, s)
  else
    let r := drrServe (s.eligible p) (s.quantum p) (s.gateFits p c) 8192 k
    let s := s.updPort p fun P => { P with classes := P.classes.put c r.1 }
    match r.2 with
    | some f => (some f, s)
    | none => (none, if r.1.waits > k.waits then s.count bPORT p 12 else s)

/-- The classes from the highest down. -/
def serveFrom (p : Nat) : List Nat → State → Option TxFrame × State
  | [], s => (none, s)
  | c :: t, s =>
    match s.serveClass p c with
    | (some f, s) => (some f, s)
    | (none, s) => serveFrom p t s

/-! ### Injectors (R296 to R298) -/

/-- Word i of an injector (Table 10-15). -/
def Inject.word (j : Inject) (i : Nat) : Nat := (j.words.getD i 0).toNat
/-- MODE. -/
def Inject.mode (j : Inject) : Nat := j.word 0 % 8

/-- One advance of the generator (R297). -/
def lfsrNext (v : Word) : Word := if v.getLsbD 0 then (v >>> 1) ^^^ 0x80200003 else v >>> 1

/-- A frame matches the filter (R297). -/
def Inject.hits (j : Inject) (f : TxFrame) : Bool :=
  let h := Hdr.ofBytes f.header
  (!bit (j.word 1) 24 || j.word 1 % 2 ^ 24 == h.srcConn) && (!bit (j.word 2) 6 || j.word 2 % 64 == h.tenant) &&
  (!bit (j.word 2) 16 || bits (j.word 2) 15 8 == h.opcode) && (bits (j.word 2) 31 24 == 0 || bit (bits (j.word 2) 31 24) f.tc)

/-- SELECT is evaluated for a matching frame (R297): whether the injector acts. -/
def Inject.select (j : Inject) : Bool × Inject :=
  match bits (j.word 0) 4 3 with
  | 1 =>
    let v := lfsrNext j.lfsr
    (v.toNat % 2 ^ bits (j.word 0) 9 5 == 0, { j with lfsr := v })
  | 2 => ((j.matched + 1) % max 1 j.nth == 0, { j with matched := j.matched + 1 })
  | _ => (true, j)

/-- Draw `n` different bit positions of a region of `top` bits (R298). -/
def drawFlips (top n : Nat) : Nat → Word → List Nat → List Nat × Word
  | 0, v, l => (l, v)
  | fuel + 1, v, l =>
    if l.length ≥ n then (l, v)
    else
      let v := lfsrNext v
      let b := v.toNat % top
      drawFlips top n fuel v (if l.contains b then l else l ++ [b])

/-- A byte string with the bits at some positions inverted. -/
def flipBits (b : Bytes) (l : List Nat) : Bytes :=
  ((List.range b.length).zip b).map fun e =>
    l.foldl (fun (x : Byte) n => if n / 8 = e.1 then x ^^^ BitVec.ofNat 8 (2 ^ (n % 8)) else x) e.2

/-- The injector acts on a frame (Table 10-4): what is sent at once, if anything, and the injector after it. -/
def Inject.act (j : Inject) (f : TxFrame) (now : Nat) : Option TxFrame × Inject :=
  let n := bits (j.word 0) 16 14 + 1
  match j.mode with
  | 1 => (none, j)
  | 2 =>
    let r := drawFlips (8 * (f.bytes - 4)) n 1048576 j.lfsr []
    (some { f with flips := r.1 }, { j with lfsr := r.2 })
  | 3 =>
    let all := f.payload ++ f.trailer
    let r := drawFlips (8 * all.length) n 1048576 j.lfsr []
    let out := flipBits all r.1
    (some { f with payload := out.take f.payload.length, trailer := out.drop f.payload.length }, { j with lfsr := r.2 })
  | 4 => (none, { j with held := some (f, bits (j.word 0) 13 10, now) })
  | 5 => (some f, { j with release := j.release ++ [f] })
  | _ => (some f, j)

/-- The injector of a port sees the frame that the scheduler has chosen. -/
def State.inject (s : State) (p : Nat) (f : TxFrame) : Option TxFrame × State :=
  let j := (s.qtr p).port.inj
  if !j.armed || !j.hits f then (some f, s)
  else
    let s := s.countU bFINJ 0 p 0
    if j.held.isSome then (some f, s)
    else
      let r := j.select
      if !r.1 then (some f, s.updPort p fun P => { P with inj := r.2 })
      else
        let a := r.2.act f s.time
        (a.1, (s.updPort p fun P => { P with inj := a.2 }).countU bFINJ 0 p 1)

/-- A held frame becomes due for release. -/
def Inject.free (j : Inject) : Inject :=
  match j.held with | some h => { j with release := j.release ++ [h.1], held := none } | none => j

/-- One more frame has left the port: a held frame is due after REORDER_K of them. -/
def Inject.left (j : Inject) : Inject :=
  match j.held with
  | some (f, k, t) => if k ≤ 1 then j.free else { j with held := some (f, k - 1, t) }
  | none => j

/-- An arm that waited takes effect once the held frame has been released (R296). -/
def Inject.arm (j : Inject) : Inject :=
  match j.next with
  | some (w, n, e) =>
    if j.release = [] then
      let v := w.getD 3 0
      { armed := true, words := w, nth := n, endAt := e, lfsr := if v = 0 then 1 else v }
    else j
  | none => j

/-- Disarm an injector: a held frame is released at once (Table 10-5). -/
def Inject.disarm (j : Inject) : Inject := { j.free with armed := false, next := none, words := [0, 0, 0, 0], nth := 0 }

/-- INJECTOR_EXPIRY (R296). -/
def injectorExpiry (s : State) (p : Nat) : State :=
  let j := (s.qtr p).port.inj
  if !j.armed then s
  else ((s.advance j.endAt).updPort p fun P =>
    { P with inj := { P.inj.disarm with next := P.inj.next } }).countU bFINJ 0 p 4

/-- INJECTOR_EXPIRY. -/
def execInjectorExpiry (port : Fin 4) (s : State) : Host.Outcome State Fault Refusal := .next (injectorExpiry s port)

/-- REORDER_TIMEOUT (R298): 10 µs after the hold. -/
def reorderTimeout (s : State) (p : Nat) : State :=
  match (s.qtr p).port.inj.held with
  | none => s
  | some h =>
    ((s.advance (h.2.2 + 10000)).updPort p fun P => { P with inj := P.inj.free }).countU bFINJ 0 p 2

/-- REORDER_TIMEOUT. -/
def execReorderTimeout (port : Fin 4) (s : State) : Host.Outcome State Fault Refusal := .next (reorderTimeout s port)

/-- FINJ_STATUS: ARMED and HOLDING by port. -/
def State.finjStatus (s : State) : Nat :=
  ((List.range 4).map fun q => 2 ^ q * b2n (s.qtr q).port.inj.armed + 2 ^ (4 + q) * b2n (s.qtr q).port.inj.held.isSome).sum

/-! ### FRAME_TRANSMIT (R284, R291) -/

/-- A port loops its frames back (R284). -/
def State.loops (s : State) (p : Nat) : Bool := bit (s.reg bPORT p 4) 13

/-- A frame returns on the port's own receive path (R284). One for another station's address carries another MAC address (DEDUCED). -/
def loopBack (s : State) (p : Nat) (f : TxFrame) : State :=
  let rx : RxFrame :=
    { at_ := s.time, len := f.bytes, fcsOk := f.flips == []
      dstMac := if f.pfc.isSome then 0x0180C2000001
        else if (match s.boot.nodeId with | some n => f.dst == s.derivedAddr n p | none => false) then s.macOf p else s.macOf p + 1
      pause := f.pfc, etherOuter := if f.pfc.isSome then 0x8808 else 0x8100, vid := s.vid p, pcp := f.tc
      srcAddr := (match s.boot.nodeId with | some n => s.derivedAddr n p | none => 0), dstAddr := f.dst
      udpDst := s.udpPort p, udpLen := 40 + f.sec.length + f.payload.length + f.trailer.length
      header := f.header, sec := f.sec, payload := f.payload, trailer := f.trailer }
  frameReceive s p rx

/-- A frame starts on the wire: it is counted and metered, and the port is busy until it has left. -/
def State.putOnWire (s : State) (p : Nat) (f : TxFrame) : State :=
  let ends := s.portNow p + 4 * ceilDiv (f.bytes + 20) 80
  let s := s.count bPORT p 1
  let s := if f.pfc.isSome then s.count bPORT p 9 else s.meter f.tenant 4 f.bytes
  if s.loops p then loopBack (s.updPort p fun P => { P with freeAt := ends, inj := P.inj.left }) p f
  else s.updPort p fun P => { P with freeAt := ends, inj := P.inj.left, sent := P.sent ++ [f] }

/-- A PFC frame is due (R289). -/
def State.pfcDue (s : State) (p : Nat) : Bool :=
  (List.range 8).any fun c => s.pfcEn p c && ((s.qtr p).port.classes.fetch c {}).pfcDue

/-- Send the state of every class that takes PFC in one frame (R289). -/
def State.sendPfc (s : State) (p : Nat) : State :=
  let en := (List.range 8).filter fun c => s.pfcEn p c
  let x := fun (c : Nat) => ((s.qtr p).port.classes.fetch c {}).xoff
  let f : TxFrame :=
    { conn := 0, tenant := 0, tc := 0, bytes := 64, opcode := 0
      pfc := some ((en.map fun c => 2 ^ c).sum, (List.range 8).map fun c => if s.pfcEn p c && x c then 0xFFFF else 0) }
  let s := s.updPort p fun P => { P with classes := P.classes.map fun (e : Nat × TxClass) => (e.1, { e.2 with pfcDue := false }) }
  s.putOnWire p f

/-- The first frame that an injector releases and whose class is not paused (R298). -/
def State.released (s : State) (p : Nat) : Option TxFrame :=
  (s.qtr p).port.inj.release.find? fun f => !s.classPaused p f.tc

/-- A port has a frame to send. -/
def Port.hasFrame (P : Port) : Bool := P.classes.any (fun k => !k.2.round.isEmpty) || P.inj.release != []

/-- Staged SHP and QUANT words take effect before the next frame (R363). -/
def State.applyTx (s : State) (p : Nat) : State :=
  (List.range 64).foldl (fun s t => (applyPacket s p 0x800 t).applyAt bPORT p (0xA00 + 4 * t)) s

/-- What leaves a port at a frame boundary (R291). -/
def sendNext (s : State) (p : Nat) : State :=
  let s := s.updPort p fun P => { P with inj := P.inj.arm }
  if s.pfcDue p then s.sendPfc p
  else if !(s.qtr p).port.hasFrame then s
  else
    let s := s.applyTx p
    match s.released p with
    | some f => (s.updPort p fun P => { P with inj := { P.inj with release := P.inj.release.erase f } }).putOnWire p f
    | none =>
      match serveFrom p [7, 6, 5, 4, 3, 2, 1, 0] s with
      | (none, s) => s
      | (some f, s) =>
        match (s.chargeShaper p f.tenant f.bytes).inject p f with
        | (none, s) => s
        | (some g, s) => s.putOnWire p g

/-- FRAME_TRANSMIT: nothing while a frame is on the wire, while the port has neither a link nor a loop, or in Q-OFF. -/
def frameTransmit (s : State) (p at_ : Nat) : State :=
  let P := (s.qtr p).port
  if P.freeAt > 5 * at_ + 4 || s.qOff p || !(P.linkUp || s.loops p) then s
  else sendNext (s.advance at_) p

/-! ### PFC timers (R289, R290) -/

/-- PFC_PAUSE_EXPIRY (R290). -/
def pfcPauseExpiry (s : State) (p c : Nat) : State :=
  match ((s.qtr p).port.classes.fetch c {}).pausedUntil with
  | none => s
  | some t => (s.advance t).updPort p fun P => { P with classes := P.classes.amend c {} fun k => { k with pausedUntil := none } }

/-- PFC_PAUSE_EXPIRY. -/
def execPfcPauseExpiry (port : Fin 4) (cls : Fin 8) (s : State) : Host.Outcome State Fault Refusal :=
  .next (pfcPauseExpiry s port cls)

/-- PFC_REFRESH (R289): 20 µs after the last pause frame of a class that stays at or above XON_KIB. -/
def pfcRefresh (s : State) (p : Nat) : State :=
  let on := (List.range 8).filter fun c => s.pfcEn p c && ((s.qtr p).port.classes.fetch c {}).xoff
  match (on.map fun c => ((s.qtr p).port.classes.fetch c {}).xoffAt + 20000).min? with
  | none => s
  | some due =>
    let s := s.advance due
    on.foldl (fun s c => s.updPort p fun P => { P with classes := P.classes.amend c {} fun k =>
      if k.xoffAt + 20000 ≤ s.time then { k with xoffAt := s.time, pfcDue := true } else k }) s

/-- PFC_REFRESH. -/
def execPfcRefresh (port : Fin 4) (s : State) : Host.Outcome State Fault Refusal := .next (pfcRefresh s port)

/-! ### The link (R283, R428) -/

/-- Every frame queued at a port, or held by its injector, is discarded. -/
def Port.flush (P : Port) : Port :=
  { P with classes := P.classes.map fun (e : Nat × TxClass) => (e.1, { e.2 with round := [], visiting := false })
           inj := { P.inj with held := none, release := [] } }

/-- Connections of Quarter q that migrate (R428): OPEN, to a peer. -/
def State.movers (s : State) (q : Nat) : List Nat :=
  ((s.qtr q).xpt.conns.filter fun e => e.2.state == .opened && isPeer e.2.remoteNode).map fun e => q * 16384 + e.1

/-- Migration of a Quarter's connections (R428, steps 1 and 2): every ACK, then every outstanding packet. -/
def State.migrateAll (s : State) (q : Nat) : State :=
  let l := s.movers q
  let bytes := (l.map fun i => (s.conn i).outstanding).sum
  let s := s.postFault 0 q l.length bytes q
  let s := l.foldl (fun s i => s.sendAck i) s
  l.foldl (fun s i => ((s.conn i).flight.filter fun x => !x.sacked).foldl (fun s x => s.resendPkt i x.psn) s) s

/-- A port has no link any more (R283). -/
def State.dropLink (s : State) (p : Nat) : State :=
  (s.updPort p fun P => { P.flush with linkUp := false }).post 0 { type := 0x0A, quarter := p, p0 := p }

/-- LINK_DOWN (R283, R428). -/
def linkDown (s : State) (p : Nat) : State :=
  if (s.qtr p).port.linkUp then ((s.dropLink p).count bPORT p 13).migrateAll p else s

/-- LINK_DOWN. -/
def execLinkDown (port : Fin 4) (s : State) : Host.Outcome State Fault Refusal := .next (linkDown s port)

/-- A port can have a link: PORT_CTL.EN, its Quarter, and port training has started (Table 15-2). -/
def State.portMay (s : State) (p : Nat) : Bool :=
  let P := (s.qtr p).port
  s.pins.mainPg && bit (s.reg bPORT p 4) 12 && !P.failed && !s.qOff p && !(s.qtr p).failed && !s.boot.failStop && 8 ≤ s.boot.phase &&
    s.boot.phase ≤ 10

/-- LINK_UP (R283): a port that gains alignment lock has its reference clock (R450). -/
def linkUp (s : State) (p : Nat) : State :=
  if !(s.qtr p).port.linkUp && s.portMay p then
    (s.updPort p fun P => { P with linkUp := true, training := false, refClk := true }).post 0 { type := 0x0A, quarter := p, p0 := p + 4 }
  else s

/-- LINK_UP. -/
def execLinkUp (port : Fin 4) (s : State) : Host.Outcome State Fault Refusal := .next (linkUp s port)

end Sys2Proof.Machine
end

