-- ==== Sys2Proof/Machine/Attend.lean ====
section
/-!
DEFINITION. ATTEND and its coordination (ch. 04, 09, 16, 17): the descriptor checks, the express lane, forming jobs, children and
hedges, and what PARTIAL, NOTICE and the deadline do.
-/
namespace Sys2Proof.Machine

/-! ### The descriptor (Tables 4-3, 9-7, 3-1) -/

/-- Bytes of the pattern block of an ATTEND body. -/
def patLen (b : Bytes) : Nat := 8 + 4 * (byteAt b 57 % 128)

/-- The pattern block of a body (Table 3-1). -/
def patternOf (b : Bytes) : Pattern :=
  let p := b.drop 56
  { kind := byteAt p 0 % 4, sinks := fieldAt p 2 2, window := fieldAt p 4 4 % 2 ^ 17
    globals := (List.range (byteAt p 1 % 128)).map fun g => fieldAt p (8 + 4 * g) 4 % 2 ^ 26 }

/-- A pattern block uses a reserved encoding, or names parts that its KIND does not have (R72, R73). -/
def patternBad (b : Bytes) : Bool :=
  let p := b.drop 56
  let kind := byteAt p 0 % 4
  let n := byteAt p 1 % 128
  kind == 3 || byteAt p 0 / 4 != 0 || n > 64 || byteAt p 1 / 128 != 0 || fieldAt p 4 4 > 65536 ||
  (kind ≤ 1 && (n != 0 || fieldAt p 2 2 != 0 || fieldAt p 4 4 != 0)) ||
  (List.range n).any fun g => fieldAt p (8 + 4 * g) 4 ≥ 2 ^ 26

/-- The KV heads that a body names. -/
def headsOf (b : Bytes) : List Nat := (List.range 64).filter fun h => bit (fieldAt b 34 8) h

/-- An execution control word uses a reserved encoding (Table 4-3). -/
def execBad (b : Bytes) : Bool :=
  let e := fieldAt b 24 8
  e % 4 == 3 || bits e 3 2 == 3 || bits e 7 6 != 0 || bits e 11 8 > 8 || e ≥ 2 ^ 12

/-- Descriptor checks of an ATTEND (R69, R73, R102, R105, R269). -/
def attendBad (sh : Shape) (b : Bytes) : Bool :=
  let rows := fieldAt b 42 2
  let heads := headsOf b
  let off := 56 + patLen b
  let rowLen := 4 + 2 * sh.d
  b.length < 64 || execBad b || byteAt b 32 ≥ sh.layers || byteAt b 33 != 0 || heads.isEmpty || heads.any (· ≥ sh.kvh) ||
  rows == 0 || rows > 256 || fieldAt b 44 2 ≥ 2 ^ 15 || fieldAt b 46 2 ≥ 2 ^ 15 || fieldAt b 46 2 < fieldAt b 44 2 ||
  fieldAt b 48 4 ≥ 2 ^ 26 || byteAt b 52 / 16 != 0 || (bit (byteAt b 52) 0 && bit (byteAt b 52) 1) || !zeroRange b 53 56 ||
  patternBad b || (bits (fieldAt b 24 8) 5 4 == 1 && rows > 4) || b.length != off + heads.length * rows * rowLen ||
  (List.range (heads.length * rows)).any fun i =>
    fieldAt b (off + i * rowLen) 4 ≥ 2 ^ 26 || (u16s b (off + i * rowLen + 4) sh.d).any bf16Bad

/-- Row i of a body's ROWDATA. -/
def rowOf (sh : Shape) (b : Bytes) (i : Nat) : QRow :=
  let off := 56 + patLen b + i * (4 + 2 * sh.d)
  { pos := fieldAt b off 4, q := u16s b (off + 4) sh.d }

/-- The request of an ATTEND. -/
def Op.request (p : Op) (sh : Shape) (assist6 : Bool) : Request :=
  let b := p.body
  let rows := fieldAt b 42 2
  let heads := headsOf b
  { ticket := p.tk, origin := p.o, tag := p.tag, key := p.key, shapeId := p.shapeId, shape := sh, exec := fieldAt b 24 8
    layer := byteAt b 32, heads := heads, rows := rows, firstSeg := fieldAt b 44 2, lastSeg := fieldAt b 46 2
    viewEnd := fieldAt b 48 4, partialMode := bit (byteAt b 52) 0, bf16Out := bit (byteAt b 52) 1
    byDeadline := bit (byteAt b 52) 2, fanout := bit (byteAt b 52) 3, role := p.role, pattern := patternOf b, body := b
    data := ((List.range heads.length).zip heads).map fun e =>
      (e.2, (List.range rows).map fun r => rowOf sh b (e.1 * rows + r))
    assist6 := assist6 }

/-- The class of a request (R102, R105): `laneOut` when only the lane's availability keeps it from the express lane. Also whether
the class was demoted. -/
def classOf (r : Request) (laneOut : Bool) : JClass × Bool :=
  match bits r.exec 5 4 with
  | 1 => (.express, false)
  | 2 => if r.rows > 64 then (.prefill, true) else (.decode, false)
  | 3 => (.prefill, false)
  | _ => if laneOut then (.express, false) else if r.rows ≤ 64 then (.decode, false) else (.prefill, false)

/-! ### The segments that this node holds (R103, R270) -/

/-- A segment of a request that this node serves. -/
structure HeldSeg where
  seg : Nat
  q : Nat
  key : Nat
  entry : DirEntry
  desc : Seg
  deriving DecidableEq, Repr

/-- Segments of a list of ranges that hold a requested run. -/
def reqSegs (viewEnd : Nat) (ranges : List (Nat × Nat)) : List Nat :=
  ranges.flatMap fun e => ((List.range (e.2 + 1 - e.1)).map (e.1 + ·)).filter fun g => g * 2048 < viewEnd

/-- Look up the segments of a request (R49, R103, R392): those held in a serving state with the request's shape, or none when the
request waits for a directory. -/
def findSegs (p : Op) : List Nat → State → Option (List HeldSeg) × State
  | [], s => (some [], s)
  | g :: t, s =>
    let key := mkKey (keyTenant p.key) (keyConv p.key) g
    let q := homeQ key
    if s.qOff q then findSegs p t s
    else
      match s.lookup q key p.toInbound with
      | (.parked, s) => (none, s)
      | (.miss, s) => findSegs p t s
      | (.hit _ e, s) =>
        let r := findSegs p t s
        match s.segOf q key with
        | some (_, d) =>
          if e.state = .retired ∨ e.state = .incoming ∨ d.shapeId ≠ p.shapeId then r
          else (r.1.map fun l => { seg := g, q := q, key := key, entry := e, desc := d } :: l, r.2)
        | none => r

/-- R45 refuses a head of a segment: the block that the view end cuts has no retained input. -/
def outOfWindow (s : State) (r : Request) (head : Nat) (h : HeldSeg) : Bool :=
  let rel := r.viewEnd - h.seg * 2048
  let n := h.desc.next r.layer
  let b := rel / 32
  let inOpen := (s.openOf h.q h.key (r.layer * r.shape.kvh + head)).any fun e => e.page == rel / 64
  rel < 2048 && r.viewEnd % 32 != 0 && n > 32 * b && !inOpen &&
    !blockClosed h.desc r.layer n rel b (accepts h.entry h.desc)

/-! ### The express lane (R423) -/

/-- Pages of a held segment with stored tokens below the view end. -/
def HeldSeg.pages (h : HeldSeg) (r : Request) : List Nat :=
  (List.range 32).filter fun p => 64 * p < min (h.desc.next r.layer) (r.viewEnd - h.seg * 2048)

/-- Every condition of R423 but the availability of the lane. -/
def laneFits (s : State) (q : Nat) (r : Request) (l : List HeldSeg) : Bool :=
  let cls := bits r.exec 5 4
  let pages := l.flatMap fun h => (h.pages r).map fun p => (h, p)
  (cls == 0 || cls == 1) && !r.fanout && r.heads.length == 1 && r.rows ≤ 4 && r.shape.d ≤ 128 && r.shape.fmt == 0 &&
  !s.assisted 0 && !s.assisted 6 &&
  (match pages with
   | [(h, p)] =>
     let f := r.layer * r.shape.kvh + r.heads.headD 0
     h.q == q && (s.cacheOf q h.key f p fun _ => true).isSome &&
       !(match h.desc.frames[f]? with | some fr => bit fr.damaged p | none => true)
   | _ => false)

/-- The lane of a Quarter is available. -/
def State.laneOn (s : State) (q : Nat) : Bool := bit (s.reg bDIR q 0) 0 && !(s.qtr q).dir.xlDisabled

/-- A job that stands for the express scoring unit's fold of one segment. -/
def laneJob (r : Request) (h : HeldSeg) (fr : FrameRef) : Job :=
  { id := 0, ticket := r.ticket, collect := tkQ r.ticket, cls := .express, head := r.heads.headD 0, passNo := 0, rowLo := 0
    rowN := r.rows, firstRun := 4 * h.seg, runs := 4, order := 0
    frames := [{ seg := h.seg, key := h.key, gen := h.desc.gen, frame := r.layer * r.shape.kvh + r.heads.headD 0
                 stack := fr.stack, addr := fr.addr, spilled := fr.spilled }] }

/-- The leaf pieces of one held segment on the express lane: every requested run, folded. -/
def laneSeg (s : State) (r : Request) (h : HeldSeg) : List Piece :=
  match h.desc.frames[r.layer * r.shape.kvh + r.heads.headD 0]? with
  | none => []
  | some fr =>
    let j := laneJob r h fr
    ((List.range 4).map (4 * h.seg + ·)).filterMap fun run =>
      if 512 * run < r.viewEnd then
        let pages := (h.pages r).filter fun p => p / 8 == run % 4
        let bl := pages.flatMap fun p => match j.frames with
          | f :: _ => (match (s.viewPage h.q 0 .express r.shape f p r.viewEnd).1 with | .blocks l => l | _ => [])
          | [] => []
        some { head := j.head, level := 0, index := run, rows := foldPage r j bl }
      else none

/-- One attempt of the lane whose copies differ at commit `at_` (R423): the commits before it were clean; three mismatches with no
clean commit between them disable the lane, any other one is replayed. -/
def State.laneMismatch (s : State) (q at_ : Nat) : State :=
  let s := s.count bDIR q 6 (min at_ 3)
  let n := (if at_ = 0 then (s.qtr q).dir.xlMismatch else 0) + 1
  let s := s.updDir q fun d => { d with xlMismatch := n, xlTotal := d.xlTotal + 1 }
  if n ≥ 3 then
    ((s.updDir q fun d => { d with xlDisabled := true }).count bDIR q 8).postFault 1 q (s.qtr q).dir.xlTotal 0 q
  else s.count bDIR q 7

/-- The attempts of a request whose compares failed, until the lane is disabled. -/
def laneAttempts (q : Nat) : List Nat → State → State
  | [], s => s
  | a :: t, s => if (s.qtr q).dir.xlDisabled then s else laneAttempts q t (s.laneMismatch q a)

/-- The express lane answers a request (R423): its four commits are clean, and counted (DEDUCED, assumption 27). -/
def runLane (s : State) (q : Nat) (r : Request) (l : List HeldSeg) : State :=
  let s := s.updDir q fun d => { d with xlMismatch := 0 }
  let pieces := (l.flatMap (laneSeg s r)).foldl (fun ps p => (addPiece ps p).pieces) []
  let r := { r with pieces := pieces }
  let recs := r.heads.flatMap fun h => r.headRecords r.pieces h
  let s := (s.count bDIR q 6 4).count bPST q 4
  s.closeReq r.ticket r.status recs.length recs.flatten r.covered

/-! ### Forming jobs (R103) -/

/-- Groups of held segments that are consecutive and share their home Quarter. -/
def groupSegs : List HeldSeg → List (List HeldSeg)
  | [] => []
  | h :: t =>
    match groupSegs t with
    | (g :: gs) :: rest => if g.seg = h.seg + 1 ∧ g.q = h.q then (h :: g :: gs) :: rest else [h] :: (g :: gs) :: rest
    | other => [h] :: other

/-- Form the jobs of one part of a range for one head and row pass. -/
def formPart (s : State) (r : Request) (cls : JClass) (head pass : Nat) (g : List HeldSeg) : State :=
  match g, g.getLast? with
  | h :: _, some z =>
    let q := h.q
    let first := 4 * h.seg
    let n := min (4 * z.seg + 4) (ceilDiv r.viewEnd 512) - first
    let pr := passRows r.shape.dim
    let f := r.layer * r.shape.kvh + head
    let frames : List JobFrame := g.filterMap fun x => (x.desc.frames[f]?).map fun fr =>
      { seg := x.seg, key := x.key, gen := x.entry.gen, frame := f, stack := fr.stack, addr := fr.addr, spilled := fr.spilled }
    (s.slices q r.exec cls first n n).foldl (fun s e =>
      let i := s.fresh
      let j : Job := { id := i.1, ticket := r.ticket, collect := tkQ r.ticket, cls := cls, head := head, passNo := pass
                       rowLo := pass * pr, rowN := min pr (r.rows - pass * pr), firstRun := e.1, runs := e.2, order := i.1
                       frames := frames.filter fun x => e.1 / 4 ≤ x.seg && x.seg ≤ (e.1 + e.2 - 1) / 4 }
      let s := i.2
      s.addJob q (s.estimateJob q r { j with site := s.siteOf q j r })) s
  | _, _ => s

/-- Form the jobs of a request over the segments that this node holds (R103); heads that R45 refuses get none. -/
def formJobs (s : State) (r : Request) (laneOut : Bool) (l : List HeldSeg) : State :=
  let c := classOf r laneOut
  let s := if c.2 then s.countU bCORE (tkQ r.ticket) 8 7 else s
  let groups := groupSegs l
  (r.heads.filter fun h => !r.outWindow.contains h).foldl (fun s h =>
    (List.range r.passes).foldl (fun s k => groups.foldl (fun s g => formPart s r c.1 h k g) s) s) s

/-! ### Children and hedges (R273 to R276) -/

/-- The body of a child ATTEND (R273). -/
def childBody (r : Request) (tk idx us first last : Nat) : Bytes :=
  let b := r.body
  let key := mkKey (keyTenant r.key) (keyConv r.key) first
  leBytes 8 (tk + idx * 2 ^ 20) ++ leBytes 9 key ++ leBytes 1 (r.shapeId + 32) ++ leBytes 2 0 ++ leBytes 3 us ++ leBytes 1 0 ++
  (b.drop 24).take 20 ++ leBytes 2 first ++ leBytes 2 last ++ (b.drop 48).take 4 ++ leBytes 1 5 ++ b.drop 53

/-- The child's deadline in µs when it is sent now (R274); 0 when it is not sent. -/
def childUs (now due : Nat) : Nat :=
  let rem := (due - now) / 1000
  rem - max 8 (rem / 16)

/-- Send one child ATTEND to a node (R273, R274), on a connection of its own home Quarter (R219). -/
def State.sendChild (s : State) (tk group node first last : Nat) : State :=
  match s.ticket tk, s.request tk with
  | some t, some r =>
    let us := childUs s.time (t.arrival + t.deadline * 1000)
    if us < 1 then s
    else
      let idx := r.children.length
      let w := s.peerConn (homeQ (mkKey (keyTenant r.key) (keyConv r.key) first)) node t.tenant
      let c : Child := { idx := idx, group := group, node := node, conn := w.1.getD 65536, first := first, last := last, sentAt := s.time }
      let s := w.2.updReq tk fun r => { r with children := r.children ++ [c] }
      match w.1 with
      | none => { s with unitErrs := s.unitErrs ++ [(.child tk idx, sCONNERR)] }
      | some i => s.hand i { opcode := 0x15, body := childBody r tk idx us first last, owner := .child tk idx }
  | _, _ => s

/-- Change one child of a request. -/
def State.updChild (s : State) (tk idx : Nat) (f : Child → Child) : State :=
  s.updReq tk fun r => { r with children := r.children.map fun c => (if c.idx = idx then f c else c) }

/-- Hedge some segment ranges of a child's range (R275): the next untried candidate, or a question to the host in the host-assisted
form (Table 16-7). Whether a candidate was left. -/
def State.hedge (s : State) (tk : Nat) (c : Child) (cause : Nat) (ranges : List (Nat × Nat)) : Bool × State :=
  match s.request tk with
  | none => (true, s)
  | some r =>
    match r.groups.find? fun g => g.idx == c.group with
    | none => (false, s)
    | some g =>
      if g.hedges ≥ 2 then (false, s)
      else
        let take := fun (s : State) (rest : List Nat) =>
          let s := s.updReq tk fun r => { r with groups := r.groups.map fun x =>
            (if x.idx = g.idx then { x with hedges := x.hedges + 1, candidates := rest } else x) }
          s.updTicket tk fun t => { t with hedges := t.hedges + 1 }
        if s.assisted 7 then
          let s := take s g.candidates
          (true, ranges.foldl (fun s e =>
            (s.postAssist { tag := 0, kind := 7, sub := 0, q := tkQ tk, ticket := tk, key := r.key, words := [e.1, e.2, c.node, cause] }
              (some (.steer tk g.idx e.1 e.2)) []).2) s)
        else match g.candidates with
          | [] => (false, s)
          | n :: rest => (true, ranges.foldl (fun s e => s.sendChild tk g.idx n e.1 e.2) (take s rest))

/-- A child has failed with its connection (R275, R233). -/
def State.childFailed (s : State) (tk idx : Nat) : State :=
  match s.request tk with
  | none => s
  | some r =>
    match r.children.find? fun c => c.idx == idx with
    | none => s
    | some c =>
      if c.ended then s
      else
        let s := s.updChild tk idx fun c => { c with ended := true, failed := true }
        ((s.hedge tk c sCONNERR [(c.first, c.last)]).2).checkReq tk

/-- The host names the node of a hedge (Table 16-7, index 7): 0xFFFF for none. -/
def State.steerAnswer (s : State) (tk group first last node : Nat) : State :=
  let s := if node = 0xFFFF then s else s.sendChild tk group node first last
  s.checkReq tk

/-- Entries of a map that overlap a range, with the overlap. -/
def mapRanges (m : ConvMap) (first last : Nat) : List (MapEntry × Nat × Nat) :=
  (m.entries.filter fun e => e.first ≤ last && first ≤ e.last).map fun e => (e, max e.first first, min e.last last)

/-- This node serves a map entry. -/
def State.ownEntry (s : State) (e : MapEntry) : Bool :=
  match s.boot.nodeId with | some n => e.nodes.contains n | none => false

/-- Start the children of a coordinated request (R273). -/
def startChildren (s : State) (tk : Nat) (m : ConvMap) (r : Request) : State :=
  let far := (mapRanges m r.firstSeg r.lastSeg).filter fun e => !s.ownEntry e.1
  ((List.range far.length).zip far).foldl (fun s e =>
    let me := s.boot.nodeId
    match e.2.1.nodes.filter fun n => some n != me with
    | [] => s
    | n :: rest =>
      let s := s.updReq tk fun r => { r with groups := r.groups ++
        [{ idx := e.1, first := e.2.2.1, last := e.2.2.2, candidates := rest }] }
      s.sendChild tk e.1 n e.2.2.1 e.2.2.2) s

/-! ### ATTEND -/

/-- What the ticket records of an ATTEND (Tables 6-8, 9-9). -/
def Ticket.ofRequest (t : Ticket) (r : Request) (mapVer : Nat) : Ticket :=
  { t with kind := if r.fanout then 2 else 1, byDeadline := r.byDeadline, normalised := !r.partialMode, mapVer := mapVer
           layer := r.layer, firstSeg := r.firstSeg, lastSeg := r.lastSeg, viewEnd := r.viewEnd, doveHandle := t.id }

/-- Run an ATTEND whose descriptor is good (R273, R441). -/
def attendRun (s : State) (p : Op) (r : Request) (m : Option ConvMap) (laneErrs : List Nat) : State :=
  let ranges := match m with
    | none => [(r.firstSeg, r.lastSeg)]
    | some m => ((mapRanges m r.firstSeg r.lastSeg).filter fun e => s.ownEntry e.1).map (·.2)
  match findSegs p (reqSegs r.viewEnd ranges) s with
  | (none, s) => s
  | (some l, s) =>
    let fits := laneFits s p.q r l
    let r := { r with outWindow := r.heads.filter fun h => l.any fun x => outOfWindow s r h x }
    let s := if fits && s.laneOn p.q && r.outWindow.isEmpty then laneAttempts p.q laneErrs s else s
    if fits && s.laneOn p.q && r.outWindow.isEmpty then runLane s p.q r l
    else
      let s := s.updDove p.q fun D => { D with reqs := D.reqs.put p.tk r }
      let s := formJobs s r (fits && !s.laneOn p.q) l
      let s := match m with | some m => startChildren s p.tk m r | none => s
      ((s.updTicket p.tk fun t => { t with jobs := ((s.quarters.map fun e => (e.2.core.jobs.filter fun j => j.ticket == p.tk).length).sum
        + match s.request p.tk with | some r => r.children.length | none => 0) }).checkMiss p.tk).checkReq p.tk

/-- An ATTEND: header checks, descriptor checks, the map of a coordinator (R247, R269, R273). -/
def attendOp (s : State) (e : Inbound) (laneErrs : List Nat) : State :=
  match s.beginOp e with
  | .error s => s
  | .ok (p, s) =>
    let s := if e.ticket.isNone then s.meter (keyTenant p.key) 5 1 else s
    match s.shape (keyTenant p.key) p.shapeId with
    | none => s.finish p.tk sNOSHAPE
    | some sh =>
      if attendBad sh p.body then s.finish p.tk sBAD
      else
        let r := p.request sh (s.assisted 6)
        let kept := match s.ticket p.tk with | some t => if t.kind = 2 then s.mapVersion t.tenant t.conv t.mapVer else none | none => none
        let m := match kept with | some m => some m | none => s.mapOf (keyTenant p.key) (keyConv p.key)
        if !r.fanout then attendRun (s.updTicket p.tk fun t => t.ofRequest r 0) p r none laneErrs
        else match m with
          | none => s.finish p.tk sNOMAP
          | some m => attendRun (s.updTicket p.tk fun t => t.ofRequest r m.version) p r (some m) laneErrs

/-! ### Answers and notices of children (R275, R276) -/

/-- Runs that a child was asked for. -/
def childRuns (r : Request) (c : Child) : Nat × Nat := reqRuns c.first c.last r.viewEnd

/-- A record is malformed for this coordinator (R95, R276). -/
def childRecBad (r : Request) (c : Child) (x : Rec) : Bool :=
  let w := childRuns r c
  x.normal || recBad x || x.layer != r.layer || x.dim != r.shape.dim || x.rows != r.rows || !r.heads.contains x.kvh ||
  x.pieces.any fun p => p.lo < w.1 || w.2 < p.hi

/-- Maximal groups of consecutive numbers. -/
def runGroups : List Nat → List (Nat × Nat)
  | [] => []
  | g :: t => match runGroups t with
    | (a, b) :: rest => if a = g + 1 then (g, b) :: rest else (g, g) :: (a, b) :: rest
    | [] => [(g, g)]

/-- Segments of a child's range with a requested run that its good records leave uncovered (R275). -/
def openSegs (r : Request) (c : Child) (good : List Rec) : List Nat :=
  let ps := good.flatMap fun x => x.pieces
  ((List.range (c.last + 1 - c.first)).map (c.first + ·)).filter fun g =>
    (List.range 4).any fun i => 512 * (4 * g + i) < r.viewEnd && r.heads.any fun h => !runCovered ps h (4 * g + i)

/-- A PARTIAL answers a child (R275, R276, Table 9-10). -/
def partialMsg (s : State) (body : Bytes) : State :=
  let tag := fieldAt body 0 8
  let tk := tag % 2 ^ 20
  match s.ticket tk, s.request tk with
  | some t, some r =>
    match r.children.find? fun c => c.idx == tag / 2 ^ 20 with
    | none => s
    | some c =>
      if t.kind ≠ 2 ∨ c.ended then s
      else
        let st := if body.length < 32 ∨ !isStatus (byteAt body 8) then sABORTED else byteAt body 8
        let recs := readRecs (body.length + 1) (body.drop 32)
        let good := recs.filterMap fun x => match x with | some x => if childRecBad r c x then none else some x | none => none
        let nBad := recs.length - good.length
        let s := s.updChild tk c.idx fun c => { c with ended := true }
        let s := if nBad = 0 then s else
          (s.count bDOVE (tkQ tk) 4 nBad).postFor t.tenant 0
            { type := 0x07, code := sBAD, quarter := tkQ tk, p0 := connId c.conn (s.conn c.conn), p1 := c.node }
        let s := good.foldl (fun s x => x.pieces.foldl (fun s p => s.addPieceTo tk p) s) s
        let left := openSegs r c good
        let s :=
          if st ≠ sOK ∧ st ≠ sPARTIAL ∧ st ≠ sDEADLINE then (s.hedge tk c st [(c.first, c.last)]).2
          else if left = [] then s
          else (s.hedge tk c st (runGroups left)).2
        s.checkReq tk
  | _, _ => s

/-- A NOTICE (R249, R275, R276): WILL_MISS of a child hedges its range, or, with no candidate left, is passed on to the origin. A
POLICED notice tells of packets dropped and changes nothing here. -/
def noticeMsg (s : State) (body : Bytes) : State :=
  let tag := fieldAt body 0 8
  let tk := tag % 2 ^ 20
  if body.length ≠ 16 ∨ byteAt body 8 ≠ 0x21 then s
  else match s.ticket tk, s.request tk with
    | some t, some r =>
      match r.children.find? fun c => c.idx == tag / 2 ^ 20 with
      | none => s
      | some c =>
        if t.kind ≠ 2 ∨ c.ended ∨ c.willMiss.isSome then s
        else
          let v := fieldAt body 9 3
          let s := s.updChild tk c.idx fun c => { c with willMiss := some v }
          let w := s.hedge tk c 0x21 [(c.first, c.last)]
          if w.1 then w.2.checkReq tk
          else w.2.sendMiss tk (sat (v + ceilDiv (c.sentAt - t.arrival) 1000) 0xFFFFFF)
    | _, _ => s

/-! ### The deadline of a request (R128, R271, R272) -/

/-- An ATTEND that still waits for a directory has a ticket and no request: its accepted message. -/
def State.parkedOp (s : State) (tk : Nat) : Option Inbound :=
  match (s.quarters.flatMap fun e => e.2.dir.waiting).find? fun x => x.ticket == some tk with
  | some x => some x
  | none => s.host.assists.findSome? fun a => match a.purpose with
    | .dirLookup _ x => if x.ticket = some tk then some x else none
    | _ => none

/-- A waiting operation waits no more. -/
def State.unpark (s : State) (tk : Nat) : State :=
  let s := { s with quarters := s.quarters.map fun (e : Nat × Quarter) =>
    (e.1, { e.2 with dir := { e.2.dir with waiting := e.2.dir.waiting.filter fun x => x.ticket != some tk } }) }
  { s with host := { s.host with assists := s.host.assists.filter fun a =>
      match a.purpose with | .dirLookup _ x => x.ticket != some tk | _ => true } }

/-- REQUEST_DEADLINE (R128, R271): an ATTEND ends at arrival + DEADLINE_US. -/
def requestDeadline (s : State) (tk : Nat) : State :=
  match s.ticket tk with
  | none => s
  | some t =>
    if t.opcode ≠ 0x15 ∨ t.kind = 3 then s
    else
      let s := s.advance (t.arrival + t.deadline * 1000)
      match s.request tk with
      | some _ => s.deadlineReq tk
      | none =>
        match s.parkedOp tk with
        | none => s
        | some e =>
          let p := e.toOp tk
          match s.shape t.tenant p.shapeId with
          | none => s
          | some sh =>
            let r := p.request sh (s.assisted 6)
            let s := s.unpark tk
            (s.updDove (tkQ tk) fun D => { D with reqs := D.reqs.put tk r }).deadlineReq tk

end Sys2Proof.Machine
end

