-- ==== Sys2Proof/Machine/Dma.lean ====
section
/-!
DEFINITION. DMA descriptors (ch. 06): their checks, where their bytes come from and go to, the faults that stop them, and the
steps of a spill and a fill.
-/
namespace Sys2Proof.Machine

/-! ### Descriptors (R180, R181, Table 6-4) -/

/-- The descriptor that a body gives. -/
def dmaDesc (h : HostCmd) (b : Bytes) : Dma :=
  { user := .host h, op := byteAt b 0 % 16, event := bit (byteAt b 0) 4, autoResume := bit (byteAt b 0) 5
    tenant := byteAt b 1 % 64, place := byteAt b 1 / 64, tag := fieldAt b 2 2, length := fieldAt b 4 4
    srcKind := byteAt b 8 % 4, dstKind := bits (byteAt b 8) 3 2, srcFn := byteAt b 9 % 64, dstFn := byteAt b 10 % 64
    src := fieldAt b 16 8, dst := fieldAt b 24 8, remote := fieldAt b 32 8, key := fieldAt b 40 9, gen := fieldAt b 49 2
    frame := fieldAt b 51 2 % 4096, spillOff := fieldAt b 53 4 % 2 ^ 28 }

/-- Reserved bits of Table 6-4 that no OP uses. -/
def dmaReserved (b : Bytes) : Bool :=
  b.length != 64 || byteAt b 0 / 64 != 0 || byteAt b 8 / 16 != 0 || byteAt b 9 / 64 != 0 || byteAt b 10 / 64 != 0 ||
  !zeroRange b 11 16 || fieldAt b 51 2 ≥ 4096 || fieldAt b 53 4 ≥ 2 ^ 28 || !zeroRange b 57 64

/-- A COPY breaks its layout, or names a destination that software may not (R180, R181). -/
def copyBad (d : Dma) : Bool :=
  d.length == 0 || d.srcKind ≥ 2 || d.dstKind == 0 || d.dstKind == 2 || d.place != 0 || d.key != 0 || d.gen != 0 ||
  d.frame != 0 || d.spillOff != 0 || (d.srcKind == 0 && d.src ≥ 2 ^ 38) || (d.srcKind == 0 && d.srcFn != 0) ||
  (d.dstKind != 1 && d.dstFn != 0) || (d.dstKind == 3 && d.dst ≥ 2 ^ 24) || (d.dstKind != 3 && d.remote != 0)

/-- A FRAME_SPILL or FRAME_FILL has a field set that it does not use, a key that names no segment, a spill offset that is not
a multiple of 4 KiB (R174), or PLACE 3. -/
def moveBad (d : Dma) : Bool :=
  d.length != 0 || d.srcKind != 0 || d.dstKind != 0 || d.srcFn != 0 || d.dstFn != 0 || d.src != 0 || d.dst != 0 ||
  d.remote != 0 || keyType d.key != 0 || (d.op == 1 && (d.place != 0 || d.spillOff % 16 != 0)) ||
  (d.op == 2 && (d.spillOff != 0 || d.place == 3))

/-! ### Where a frame lies -/

/-- The frame table entry that a descriptor names, with its segment and shape. -/
def State.dmaFrame (s : State) (q : Nat) (d : Dma) : Option (DirEntry × Seg × FrameRef × Shape) :=
  match s.entryOf q d.key, s.segOf q d.key with
  | some (_, e), some (_, g) =>
    match g.frames[d.frame]?, s.shape g.tenant g.shapeId with
    | some fr, some sh => some (e, g, fr, sh)
    | _, _ => none
  | _, _ => none

/-- Step 1 of R176 and of its reverse: the status that refuses a spill (`spill`) or a fill, if any. -/
def State.moveCheck (s : State) (q : Nat) (d : Dma) (spill : Bool) : Option Nat :=
  match s.entryOf q d.key with
  | none => some sSTALE
  | some (_, e) =>
    if e.gen ≠ d.gen then some sSTALE
    else match s.dmaFrame q d with
      | none => some sCONFLICT
      | some (e, _, fr, sh) =>
        if !(e.state == .sealed || e.state == .coded) || fr.spilled == spill then some sCONFLICT
        else if spill && d.spillOff * 256 / 2 ^ 21 ≠ (d.spillOff * 256 + sh.frame - 1) / 2 ^ 21 then some sBAD
        else none

/-- The HBM place of a spill's source: its frame while the segment's table names it, else where it lay when the descriptor was
accepted (R166). -/
def State.spillPlace (s : State) (q : Nat) (d : Dma) : Nat × Nat :=
  match s.dmaFrame q d with
  | some (e, _, fr, _) => if !fr.spilled && e.gen == d.gen then (fr.stack, fr.addr) else (d.newStack, d.newAddr)
  | none => (d.newStack, d.newAddr)

/-- Bytes that a descriptor moves. -/
def Dma.bytes (d : Dma) : Nat := d.length

/-! ### Structures of the page store as bytes (Tables 6-1, 2-13, 2-14, 6-3) -/

/-- State code that PRIOR shows (Table 2-13). -/
def priorCode (st prior : SegState) : Nat := if st = .moving then prior.code else 0

/-- The bytes of a segment descriptor. -/
def Seg.bytes (g : Seg) (st : SegState) : Bytes :=
  leBytes 6 g.conv ++ leBytes 1 g.tenant ++ leBytes 1 (g.shapeId + 16 * priorCode st g.prior) ++ leBytes 2 g.seg ++
  leBytes 2 g.gen ++ leBytes 2 g.tokens ++ leBytes 2 g.frames.length ++ leBytes 48 0 ++
  (g.frames.flatMap fun f =>
    leBytes 8 (f.stack + f.addr / 256 * 4 + b2n f.spilled * 2 ^ 30 + f.damaged * 2 ^ 32))

/-- The bytes of a conversation map. -/
def ConvMap.bytes (m : ConvMap) : Bytes :=
  leBytes 4 m.version ++ leBytes 2 m.entries.length ++ leBytes 1 (b2n m.decode + 2 * b2n m.ackAtHome) ++ leBytes 25 0 ++
  (m.entries.flatMap fun e =>
    leBytes 2 e.first ++ leBytes 2 e.last ++ leBytes 2 e.home ++ leBytes 2 e.rep1 ++ leBytes 2 e.rep2 ++ leBytes 6 0)

/-- First byte of the structures of local stack 0 and 1 (Table 6-1). -/
def structBase (ls : Nat) : Nat := if ls = 0 then 960 * 67108864 else 1023 * 67108864

/-- First byte of the Host Spill Map's level-2 tables: after the ticket spill pool and the context backing (Table 6-1). -/
def hsmBase : Nat := structBase 1 + 36 * 2 ^ 20

/-- Lay bytes from address `p` into the part of [a, a + n) that they cover. -/
def laid (a n p : Nat) (b : Bytes) (m : Mem) : Mem :=
  overlay a n m { isWrite := true, addr := p, data := memOf b, len := b.length }

/-- The bytes in [a, a + n) of a stack that the page store's own structures occupy: descriptors, maps and spill map as the spec
lays them out, and open values (`u`) for the structures whose bytes the spec does not lay out. -/
def State.structImage (s : State) (q ls a n u : Nat) : Mem :=
  let Q := s.qtr q
  let base := memOf (leBytes n u)
  if ls = 0 then
    let heapEnd := (heapBase + heapUnits) * 64
    let m := if a < heapEnd then Mem.clear base 0 (min n (heapEnd - a)) else base
    let m := Q.store.segs.foldl (fun m e =>
      let st := match s.entryOf q (mkKey e.2.tenant e.2.conv e.2.seg) with | some (_, x) => x.state | none => .opened
      laid a n (e.1 * 64) (e.2.bytes st) m) m
    Q.maps.foldl (fun m e => laid a n (e.addr * 64) e.bytes m) m
  else
    let m := overlay a n base { isWrite := true, addr := hsmBase, data := [], len := 262144 }
    Q.store.hsm.foldl (fun m e => laid a n (hsmBase + 8 * e.1) (leBytes 8 e.2.toNat) m) m

/-- The bytes in [a, a + n) of a stack as a COPY reads them. -/
def State.copyImage (s : State) (q ls a n : Nat) : Mem × State :=
  if ls < 2 ∧ structBase ls < a + n then
    let k := structBase ls - a
    let r := s.drawFree
    (Mem.paste (s.stackBytes q ls a n) k (n - k) (s.structImage q ls (a + k) (n - k) r.1), r.2)
  else (s.stackBytes q ls a n, s)

/-- The stored form of bytes [off, off + n) of a frame that lies in HBM: pages that wait in write-back entries come from
them (R169, R176, R184). -/
def State.frameImage (s : State) (q key gen frame ls addr : Nat) (sh : Shape) (off n : Nat) : Mem :=
  let base := s.stackBytes q ls (addr + off) n
  ((s.qtr q).store.cache.filter fun e => e.kind == .writeback && e.key == key && e.frame == frame).foldl (fun m e =>
    laid off n (e.page * sh.slot)
      (s.storedSlot key gen frame e.page sh (PageHdr.ofBytes (Mem.read e.slot 0 64)) (Mem.read e.slot 64 sh.payload)) m) base

/-! ### Faults (R182, Table 6-5) -/

/-- The fault class that an access to one HBM address meets: 0 for none. -/
def State.hbmFault (s : State) (q ls a : Nat) (read : Bool) : Nat :=
  if s.notReady q ls a read then 3
  else if read && ((s.stack (4 * q + ls)).st == .failed || s.eccIn q ls (a / 256 * 256) 256) then 4
  else 0

/-- The transfer offsets at which the condition of an HBM range may change: its start, the first byte of each pseudo-channel, and
the first byte of each block that fails ECC. -/
def State.hbmMarks (s : State) (q ls a lo hi : Nat) : List Nat :=
  lo :: (((List.range 64).map fun k => k * pchBytes) ++ (s.stack (4 * q + ls)).uncorrectable.map fun x => x / 256 * 256).filterMap
    fun p => if a + lo ≤ p ∧ p < a + hi then some (p - a) else none

/-- The least of some marks at which a test finds a class. -/
def firstFault (marks : List Nat) (test : Nat → Nat) : Option (Nat × Nat) :=
  marks.foldl (fun (acc : Option (Nat × Nat)) m =>
    if test m = 0 then acc else match acc with
      | none => some (m, test m)
      | some b => if m < b.1 then some (m, test m) else acc) none

/-- Where a transfer stops: offset, class, whether it is the destination side, and the faulting address. -/
structure DmaStop where
  off : Nat
  cls : Nat
  dst : Bool
  addr : Nat
  deriving DecidableEq, Repr

/-- The fault that stops a HBM range of a transfer. -/
def State.rangeStop (s : State) (q ls a lo hi : Nat) (read : Bool) (skip : Nat → Bool) : Option DmaStop :=
  (firstFault (s.hbmMarks q ls a lo hi) fun m => if skip m then 0 else s.hbmFault q ls (a + m) read).map fun r =>
    { off := r.1, cls := r.2, dst := !read, addr := ls * 2 ^ 36 + a + r.1 }

/-- The earlier of two stops, the source's when they meet the same byte. -/
def earlier (a b : Option DmaStop) : Option DmaStop :=
  match a, b with
  | some x, some y => if y.off < x.off then some y else some x
  | some x, none => some x
  | none, y => y

/-- The connection that a PORT destination names, while it is that incarnation (Table 6-4). -/
def State.portConn (s : State) (d : Dma) : Option Nat :=
  let i := d.dst % 65536
  if (s.conn i).incarn % 256 = d.dst / 65536 ∧ (s.conn i).state ≠ .free then some i else none

/-- The first fault of a transfer from offset `lo` on (R182): the state decides it. -/
def State.dmaStop (s : State) (q : Nat) (d : Dma) (lo : Nat) : Option DmaStop :=
  let skip0 := fun (_ : Nat) => false
  let hi := d.bytes
  match d.op with
  | 0 =>
    let src := if d.srcKind = 0 then s.rangeStop q (d.src / 2 ^ 36 % 4) (d.src % 2 ^ 36) lo hi true skip0 else none
    let off := d.dstKind == 3 && s.qOff (d.dst % 65536 / 16384)
    earlier src (if off then some { off := lo, cls := 5, dst := true, addr := d.dst } else none)
  | 1 =>
    let p := s.spillPlace q d
    let skip := fun (m : Nat) => match s.dmaFrame q d with
      | some (e, _, _, sh) => e.gen == d.gen && s.inWriteback q d.key d.frame (m / sh.slot)
      | none => false
    let dst := match s.spillAt q (d.spillOff * 256) d.tenant true with
      | .error c => some ({ off := lo, cls := c, dst := true, addr := d.spillOff * 256 } : DmaStop)
      | .ok _ => none
    earlier (s.rangeStop q p.1 p.2 lo hi true skip) dst
  | _ =>
    let src := match s.spillAt q (d.spillOff * 256) d.tenant false with
      | .error c => some ({ off := lo, cls := c, dst := false, addr := d.spillOff * 256 } : DmaStop)
      | .ok _ => none
    earlier src (s.rangeStop q d.newStack d.newAddr lo hi false skip0)

/-- Whether the HBM range of a COPY runs past its stack (Table 1-4): 64 GiB in a plain stack, 48 GiB in a scoring stack. -/
def copyBeyond (d : Dma) : Bool :=
  let ls := d.src / 2 ^ 36 % 4
  d.op == 0 && d.srcKind == 0 && d.src % 2 ^ 36 + d.length > (if ls < 2 then 64 else 48) * 2 ^ 30

/-! ### Moving bytes -/

/-- Write sparse bytes into the address space of a function. -/
def State.hostPaste (s : State) (f a n : Nat) (c : Mem) : State :=
  { s with host := { s.host with mem := s.host.mem.amend f [] fun m => Mem.paste m a n c } }

/-- Bytes [lo, hi) of a transfer reach their destination (R182). A PORT destination takes them all at the end. -/
def State.dmaMove (s : State) (q : Nat) (d : Dma) (lo hi : Nat) : State :=
  if hi ≤ lo then s
  else
    let n := hi - lo
    match d.op with
    | 0 =>
      if d.dstKind ≠ 1 then s
      else if d.srcKind = 0 then
        let r := s.copyImage q (d.src / 2 ^ 36 % 4) (d.src % 2 ^ 36 + lo) n
        r.2.hostPaste d.dstFn (d.dst + lo) n r.1
      else s.hostPaste d.dstFn (d.dst + lo) n (Mem.slice (s.hostMem d.srcFn) (d.src + lo) n)
    | 1 =>
      let p := s.spillPlace q d
      let img := match s.dmaFrame q d with
        | some (e, _, _, sh) =>
          if e.gen = d.gen then s.frameImage q d.key d.gen d.frame p.1 p.2 sh lo n else s.stackBytes q p.1 (p.2 + lo) n
        | none => s.stackBytes q p.1 (p.2 + lo) n
      match s.spillAt q (d.spillOff * 256) d.tenant true with
      | .ok a => s.hostPaste 0 (a + lo) n img
      | .error _ => s
    | _ =>
      match s.spillAt q (d.spillOff * 256) d.tenant false with
      | .ok a => s.stackWrite q d.newStack (d.newAddr + lo) n (Mem.slice (s.hostMem 0) (a + lo) n)
      | .error _ => s

/-! ### The end of a spill and a fill (R176, R178) -/

/-- An HBM frame that nothing names any more waits for its references and its scrub (R166, R167). -/
def State.releaseFrame (s : State) (q ls addr size key gen : Nat) : State :=
  s.updStore q fun S => { S with
    releases := S.releases ++ [{ stack := ls, addr := addr, size := size, key := key, gen := gen, tenant := keyTenant key }] }

/-- Drop the cached pages of one frame (R172, R176). -/
def State.dropFrame (s : State) (q key frame : Nat) : State :=
  s.updStore q fun S => { S with cache := S.cache.filter fun e => e.kind == .held || !(e.key == key && e.frame == frame) }

/-- Change one frame of a segment's frame table. -/
def State.setFrame (s : State) (q key frame : Nat) (f : FrameRef → FrameRef) : State :=
  s.updSegOf q key fun g => { g with
    frames := ((List.range g.frames.length).zip g.frames).map fun e => (if e.1 = frame then f e.2 else e.2) }

/-- Step 3 of R176: the state and GEN are checked again and the frame table is set, or the status is STALE_GEN. -/
def State.spillCommit (s : State) (q : Nat) (d : Dma) : Nat × State :=
  match s.moveCheck q d true, s.dmaFrame q d with
  | none, some (_, _, fr, sh) =>
    let s := s.setFrame q d.key d.frame fun f => { f with addr := d.spillOff * 256, spilled := true }
    let s := ((s.dropFrame q d.key d.frame).releaseFrame q fr.stack fr.addr sh.frame d.key (nextGen d.gen)).recheckWaiting q
    (sOK, s.count bPST q 6)
  | _, _ => (sSTALE, s)

/-- The same for a fill: jobs formed on the spilled frame read the HBM frame from now on (R178). -/
def State.fillCommit (s : State) (q : Nat) (d : Dma) : Nat × State :=
  match s.moveCheck q d false with
  | none =>
    let s := s.setFrame q d.key d.frame fun f => { f with stack := d.newStack, addr := d.newAddr, spilled := false }
    let move := fun (x : JobFrame) =>
      if x.key = d.key ∧ x.gen = d.gen ∧ x.frame = d.frame ∧ x.spilled then
        { x with stack := d.newStack, addr := d.newAddr, spilled := false } else x
    let s := s.updCore q fun I => { I with jobs := I.jobs.map fun (j : Job) => { j with frames := j.frames.map move } }
    (sOK, (s.dropFrame q d.key d.frame).count bPST q 7)
  | some _ => (sSTALE, s)

/-- A fill that does not commit gives its new frame back. -/
def State.dropNewFrame (s : State) (q : Nat) (d : Dma) : State :=
  if d.op = 2 then s.releaseFrame q d.newStack d.newAddr d.bytes d.key d.gen else s

/-! ### Completion (R181, R183) -/

/-- A descriptor of software's completes: its counter, its event and its completion. -/
def State.dmaAnswer (s : State) (q : Nat) (d : Dma) (status : Nat) : State :=
  let s := s.count bPST q 8
  let want := match d.user with | .host h => s.heard h | .reseat _ => true
  let s := if d.event && want then s.post 0 { type := 0x02, quarter := q, p0 := d.tag * 65536 } else s
  match d.user with
  | .host h => s.complete h status
  | .reseat _ => s

/-- A descriptor of software's ends without its effect. -/
def State.dmaFail (s : State) (q : Nat) (d : Dma) (status : Nat) : State := (s.dropNewFrame q d).dmaAnswer q d status

/-- Change engine e of Quarter q. -/
def State.updEng (s : State) (q e : Nat) (f : Engine → Engine) : State :=
  s.updStore q fun S => { S with engines := S.engines.amend e {} f }

/-- Engine e of Quarter q. -/
def State.eng (s : State) (q e : Nat) : Engine := (s.qtr q).store.engines.fetch e {}

/-- The engine is free again; its fault record stays. -/
def State.freeEng (s : State) (q e : Nat) : State :=
  s.updEng q e fun E => { E with state := .idle, desc := none, done := 0 }

/-- Status on abort of a fault class (Table 6-5). -/
def clsStatus (c : Nat) : Nat :=
  match c with | 1 => sXLATE | 2 => sPERM | 3 => sNOTREADY | 4 => sECC | _ => sDOMOFF

/-- The stack that a NOT_READY stop names is in OFF (R185). -/
def State.stopOff (s : State) (q : Nat) (x : DmaStop) : Bool :=
  x.cls == 3 && (s.stack (4 * q + x.addr / 2 ^ 36 % 4)).st == .off

/-- A fault stops an engine (R182, R185): it is recorded; NOT_READY with AUTO_RESUME waits, and anything else is FAULTED with an
event. -/
def State.engStop (s : State) (q e : Nat) (d : Dma) (x : DmaStop) : State :=
  let wait := d.autoResume && x.cls == 3
  let s := (s.updEng q e fun E =>
    { E with state := if wait then .waitReady else .faulted, done := x.off, faultOffset := x.off, cls := x.cls
             dstSide := x.dst, tag := d.tag, addr := x.addr }).count bPST q 9
  if wait then s
  else s.post 0 { type := 0x01, quarter := q, p0 := e + x.cls * 4 + b2n x.dst * 64 + d.tag * 65536, p1 := x.off, p2 := x.addr }

/-- The bytes of a software COPY to the port leave in one WRITE (DESIGN CHOICE, assumption 28): the descriptor completes when its
connection takes the message. -/
def State.portCopy (s : State) (q : Nat) (d : Dma) : Nat × State :=
  match s.portConn d with
  | none => (sCONNERR, s)
  | some i =>
    if (s.conn i).state = .error ∨ (s.conn i).closeSent then (sCONNERR, s)
    else
      let r := if d.srcKind = 0 then s.copyImage q (d.src / 2 ^ 36 % 4) (d.src % 2 ^ 36) d.length
        else (Mem.slice (s.hostMem d.srcFn) d.src d.length, s)
      (sOK, r.2.hand i { opcode := 0x12, body := leBytes 8 d.remote ++ leBytes 16 0 ++ Mem.read r.1 0 d.length })

/-- The last byte of a software descriptor has moved: a spill or a fill takes effect or is refused, and the descriptor completes. -/
def State.dmaDone (s : State) (q : Nat) (d : Dma) : State :=
  match d.op with
  | 0 =>
    if d.dstKind = 3 then let r := s.portCopy q d; r.2.dmaAnswer q d r.1 else s.dmaAnswer q d sOK
  | 1 => let r := s.spillCommit q d; r.2.dmaAnswer q d r.1
  | _ =>
    let r := s.fillCommit q d
    if r.1 = sOK then r.2.dmaAnswer q d sOK else r.2.dmaFail q d r.1

/-! ### Submitting (R176, R178, R180) -/

/-- Put a descriptor at the end of a Quarter's DMA queue. -/
def State.queueDma (s : State) (q : Nat) (d : Dma) : State :=
  s.updStore q fun S => { S with dmaQueue := S.dmaQueue ++ [d] }

/-- A COPY is checked and queued (R180, R320): in confidential operation an HBM source outside frame space is refused. -/
def dmaCopy (s : State) (h : HostCmd) (q : Nat) (b : Bytes) : State :=
  let d := dmaDesc h b
  let ls := d.src / 2 ^ 36 % 4
  if dmaReserved b || copyBad d then s.complete h sBAD
  else if s.qOff q then s.complete h sDOMOFF
  else if s.sec.conf ∧ d.srcKind = 0 ∧ d.src % 2 ^ 36 + d.length > frameChunks ls * 67108864 then s.complete h sPERM
  else s.queueDma q d

/-- DMA_COPY. A descriptor with a reserved OP is refused here too; one of another OP is its own row's. -/
def execDmaCopy (h : HostCmd) (q : Fin 4) (body : Bytes) (s : State) : Host.Outcome State Fault Refusal :=
  let op := byteAt body 0 % 16
  if op = 1 ∨ op = 2 then .next s
  else
    let s := (s.take (.host h) 0x50 body).2
    match hostCheck s h 0x50 body with
    | some st => .next (s.complete h st)
    | none => .next (if op ≠ 0 then s.complete h sBAD else dmaCopy s h q body)

/-- A FRAME_SPILL is checked and queued (R176, step 1). -/
def frameSpill (s : State) (h : HostCmd) (q : Nat) (b : Bytes) : State :=
  let d := dmaDesc h b
  if dmaReserved b || moveBad d then s.complete h sBAD
  else if s.qOff q then s.complete h sDOMOFF
  else match s.moveCheck q d true, s.dmaFrame q d with
    | some st, _ => s.complete h st
    | none, some (_, _, fr, sh) => s.queueDma q { d with length := sh.frame, newStack := fr.stack, newAddr := fr.addr }
    | none, none => s.complete h sCONFLICT

/-- FRAME_SPILL: a DMA descriptor whose OP is FRAME_SPILL. -/
def execFrameSpill (h : HostCmd) (q : Fin 4) (body : Bytes) (s : State) : Host.Outcome State Fault Refusal :=
  if byteAt body 0 % 16 ≠ 1 then .next s
  else
    let s := (s.take (.host h) 0x50 body).2
    match hostCheck s h 0x50 body with
    | some st => .next (s.complete h st)
    | none => .next (frameSpill s h q body)

/-- A FRAME_FILL is checked, gets its HBM frame and is queued (R178). -/
def frameFill (s : State) (h : HostCmd) (q : Nat) (b : Bytes) : State :=
  let d := dmaDesc h b
  let s := s.applyAt bPST q 4
  if dmaReserved b || moveBad d then s.complete h sBAD
  else if s.qOff q then s.complete h sDOMOFF
  else match s.moveCheck q d false, s.dmaFrame q d with
    | some st, _ => s.complete h st
    | none, some (_, _, fr, sh) =>
      let order := (stackOrder d.place d.frame (bit (s.reg bPST q 4) 4)).filter (s.stackEligible q)
      match takeFrame (s.qtr q).store.allocs order sh.frame with
      | none => s.complete h sSTOREFULL
      | some (ls, a, A) =>
        (s.updStore q fun S => { S with allocs := A }).queueDma q
          { d with length := sh.frame, newStack := ls, newAddr := a, spillOff := fr.addr / 256 }
    | none, none => s.complete h sCONFLICT

/-- FRAME_FILL: a DMA descriptor whose OP is FRAME_FILL. -/
def execFrameFill (h : HostCmd) (q : Fin 4) (body : Bytes) (s : State) : Host.Outcome State Fault Refusal :=
  if byteAt body 0 % 16 ≠ 2 then .next s
  else
    let s := (s.take (.host h) 0x50 body).2
    match hostCheck s h 0x50 body with
    | some st => .next (s.complete h st)
    | none => .next (frameFill s h q body)

/-! ### Engines (R179, R183) -/

/-- A descriptor that the node issued itself. -/
def Dma.own (d : Dma) : Bool := match d.user with | .reseat _ => true | .host _ => false

/-- DMA_ENGINE_START (R179, R176): a free engine takes the oldest descriptor that it may take; a spill or fill whose check fails
now is refused. -/
def dmaEngineStart (s : State) (q e : Nat) : State :=
  if (s.eng q e).state ≠ .idle ∨ s.qOff q then s
  else
    match (s.qtr q).store.dmaQueue.find? fun d => e < 3 || d.own with
    | none => s
    | some d =>
      let s := s.updStore q fun S => { S with dmaQueue := dropFirst (fun x => x == d) S.dmaQueue }
      let refused := if d.op = 1 then s.moveCheck q d true else if d.op = 2 then s.moveCheck q d false else none
      match refused with
      | some st => s.dmaFail q d st
      | none => s.updEng q e fun E => { E with state := .running, desc := some d, done := 0 }

/-- DMA_ENGINE_START. -/
def execDmaEngineStart (q e : Fin 4) (s : State) : Host.Outcome State Fault Refusal := .next (dmaEngineStart s q e)

/-- The engine resumes its descriptor at FAULT_OFFSET (R183, R185). -/
def State.resumeEng (s : State) (q e : Nat) : State :=
  (s.updEng q e fun E => { E with state := .running }).count bPST q 10

/-- PARAM of DMA_RESUME and DMA_ABORT (Table 12-9). -/
def engParam (e tag : Nat) : Bytes := leBytes 1 e ++ leBytes 1 0 ++ leBytes 2 tag ++ leBytes 12 0

/-- DMA_RESUME (R183): CONFLICT when the engine is not FAULTED with that TAG. -/
def dmaResume (s : State) (h : HostCmd) (q e tag : Nat) : State :=
  let E := s.eng q e
  if s.qOff q then s.complete h sDOMOFF
  else if E.state ≠ .faulted ∨ E.tag ≠ tag then s.complete h sCONFLICT
  else (s.resumeEng q e).complete h sOK

/-- DMA_RESUME. -/
def execDmaResume (h : HostCmd) (q e : Fin 4) (tag : Nat) (s : State) : Host.Outcome State Fault Refusal :=
  let b := engParam e tag
  let s := (s.take (.host h) 0x48 b).2
  match hostCheck s h 0x48 b with
  | some st => .next (s.complete h st)
  | none => .next (dmaResume s h q e tag)

end Sys2Proof.Machine
end

