-- ==== Sys2Proof/Machine/Reseat.lean ====
section
/-!
DEFINITION. Reseat (ch. 09, R260 to R268): the source, the destination, WRITE and WRITE_IMM.
-/
namespace Sys2Proof.Machine

/-! ### Fields (Tables 9-5, 9-6) -/

/-- SUB of a RESEAT body. -/
def reseatSub (b : Bytes) : Nat := byteAt b 24 % 8

/-- Descriptor checks of a RESEAT: fields that its SUB does not take are 0, and PEER is a node ID. -/
def reseatBad (b : Bytes) (role : Nat) : Bool :=
  let sub := reseatSub b
  let names := fun (l : List Nat) => l.contains sub
  let need := if names [0, 3] then 28 else if sub = 4 then 34 else if sub = 2 ∧ role = 3 then 32 else 25
  b.length < need || byteAt b 24 / 8 != 0 || sub ≥ 5 || byteAt b 25 != 0 ||
  (if names [0, 3] then fieldAt b 26 2 > 16383 else fieldAt b 26 2 != 0) ||
  (if sub = 4 ∨ (sub = 2 ∧ role = 3) then fieldAt b 28 4 ≥ 2 ^ 20 else fieldAt b 28 4 != 0) ||
  (sub != 4 && fieldAt b 32 2 != 0) || !zeroRange b 34 b.length

/-- The body of a RESEAT message that a node sends (Tables 9-1, 9-6). -/
def reseatBody (tag key shapeId gen us sub peer peerTicket newGen : Nat) : Bytes :=
  leBytes 8 tag ++ leBytes 9 key ++ leBytes 1 (shapeId + 48) ++ leBytes 2 gen ++ leBytes 3 us ++ leBytes 1 0 ++
  leBytes 1 sub ++ leBytes 1 0 ++ leBytes 2 peer ++ leBytes 4 peerTicket ++ leBytes 2 newGen

/-- The model's TAG of a RESEAT message: its ticket, and which message it is (0 PREPARE, 1 COMMIT, 2 RELEASE). -/
def reseatTag (tk kind : Nat) : Nat := tk + kind * 2 ^ 20

/-- REMOTE of a reseat's WRITE (Table 9-5). -/
def remoteOf (ticket area frame off : Nat) : Nat := ticket + area * 2 ^ 20 + frame * 2 ^ 21 + off * 2 ^ 33

/-- Microseconds that a reseat has left, at least 1. -/
def Ticket.usLeft (t : Ticket) (now : Nat) : Nat := max 1 (t.deadline - (now - t.arrival) / 1000)

/-! ### The source -/

/-- Send a RESEAT message on the reseat's connection (R261). -/
def State.sendReseat (s : State) (t : Ticket) (kind sub peerTicket newGen : Nat) : State :=
  let q := tkQ t.id
  match s.segOf q t.key with
  | none => s
  | some (_, g) =>
    let body := reseatBody (reseatTag t.id kind) t.key g.shapeId g.gen (t.usLeft s.time) sub
      (if sub = 3 then s.boot.nodeId.getD 0 else 0) peerTicket newGen
    s.hand t.reseatConn { opcode := 0x18, body := body, owner := if kind = 2 then .none else .reseat t.id }

/-- Remove the DMA descriptors of a reseat, and free the engines that hold one. -/
def State.dropReseatDma (s : State) (q tk : Nat) : State :=
  let mine := fun (d : Dma) => d.user == .reseat tk
  s.updStore q fun S => { S with
    dmaQueue := S.dmaQueue.filter fun d => !mine d
    engines := S.engines.map fun (e : Nat × Engine) => (e.1,
      match e.2.desc with
      | some d => if mine d then { e.2 with state := .idle, desc := none, done := 0 } else e.2
      | none => e.2) }

/-- Answer the COPY of a reseat, whose ticket goes on (R266, step 4). -/
def State.answerCopy (s : State) (t : Ticket) (status detail : Nat) : State :=
  let q := tkQ t.id
  let s := s.updTicket t.id fun t => { t with copyDone := true }
  let a := s.withEntry q t.key { tag := t.cmd, status := status, opcode := 0x18, detail := detail }
  if s.reachable t.origin t.connIncarn then s.answer t.origin q a else s

/-- Answer what is still open of a reseat, and release its ticket. -/
def State.closeReseat (s : State) (t : Ticket) (status detail : Nat) : State :=
  let s := if t.copyDone then s else s.answerCopy t status detail
  let s := match t.cutTicket with | some c => s.finish c status detail | none => s
  s.freeTicket t.id

/-- The source gives a reseat up (R267): its entry returns to PRIOR, and the operations that waited for it are checked again. -/
def State.reseatEnd (s : State) (t : Ticket) (status : Nat) (release : Bool) : State :=
  let q := tkQ t.id
  let s := s.dropReseatDma q t.id
  let s := if release && t.prepared then s.sendReseat t 2 2 t.peerTicket 0 else s
  let prior := match s.segOf q t.key with | some (_, g) => g.prior | none => .opened
  let s := match s.entryOf q t.key with
    | some (_, e) =>
      if e.state = SegState.moving then
        let s := (s.setEntry q t.key fun e => { e with state := prior }).updSegOf q t.key fun g => { g with prior := .opened, changed := [] }
        if prior = SegState.sealed then s.enterCoding q t.key else s
      else s
    | none => s
  (s.closeReseat t status 0).recheck q t.key

/-- The source has cut over (R266, step 8), or must assume so (R268). -/
def State.reseatCut (s : State) (t : Ticket) (status detail : Nat) : State :=
  let q := tkQ t.id
  let s := (s.dropReseatDma q t.id).retireEntry q t.key t.newGen
  let s := if t.copyDone ∨ status ≠ sOK then s else s.answerCopy t sOK t.framesDone
  let t := if status = sOK then { t with copyDone := true } else t
  (s.closeReseat t status detail).recheck q t.key

/-- The connection of a reseat to the other node is lost (R268). -/
def State.reseatLost (s : State) (tk : Nat) : State :=
  match s.ticket tk with
  | none => s
  | some t =>
    if t.kind ≠ 3 ∨ t.side ≠ 0 then s
    else if t.phase = 2 then
      (s.reseatCut t sABORTED 1).postFor t.tenant 0 { segEv t.key 1 t.peer with quarter := tkQ tk }
    else s.reseatEnd t sCONNERR false

/-- A WRITE descriptor of a reseat (R179): bytes of one area of a frame. -/
def reseatDma (t : Ticket) (gen area frame off len : Nat) (fr : FrameRef) : Dma :=
  { user := .reseat t.id, op := 3, autoResume := true, tenant := t.tenant, length := len, srcKind := if area = 1 then 2 else 0
    dstKind := 3, src := off, dst := t.reseatConn, remote := remoteOf t.peerTicket area frame off, key := t.key, gen := gen
    frame := frame, newStack := if fr.spilled then 4 else fr.stack, newAddr := fr.addr }

/-- Bytes of the open-page entry of a frame (Table 9-5): slot and BF16 V. -/
def Shape.openBytes (sh : Shape) : Nat := sh.slot + 128 * sh.d

/-- Frames of a segment, numbered. -/
def Seg.numbered (g : Seg) : List (Nat × FrameRef) := (List.range g.frames.length).zip g.frames

/-- Queue the descriptors of a reseat. -/
def State.queueReseat (s : State) (tk : Nat) (l : List Dma) : State :=
  let s := l.foldl (fun s d => s.queueDma (tkQ tk) d) s
  s.updTicket tk fun t => { t with writesLeft := t.writesLeft + l.length }

/-- Every frame, and every open-page entry, is to be copied (R266, step 3). -/
def State.queueCopy (s : State) (t : Ticket) : State :=
  let q := tkQ t.id
  match s.segOf q t.key with
  | none => s
  | some (_, g) =>
    match s.shape g.tenant g.shapeId with
    | none => s
    | some sh =>
      let whole := g.numbered.map fun x => reseatDma t g.gen 0 x.1 0 sh.frame x.2
      let opens := (g.numbered.filter fun x => (s.openOf q t.key x.1).isSome).map fun x => reseatDma t g.gen 1 x.1 0 sh.openBytes x.2
      (s.updSegOf q t.key fun g => { g with changed := [] }).queueReseat t.id (whole ++ opens)

/-- Every page and open-page entry changed since its copy is to be written (R266, step 6). A frame whose changed pages have all been
written sends an empty open-page entry (DESIGN CHOICE, assumption 29). -/
def State.queueChanged (s : State) (t : Ticket) : State :=
  let q := tkQ t.id
  match s.segOf q t.key with
  | none => s
  | some (_, g) =>
    match s.shape g.tenant g.shapeId with
    | none => s
    | some sh =>
      let isOpen := fun (x : Nat × Nat) => match s.openOf q t.key x.1 with | some e => e.page == x.2 | none => false
      let pages := g.changed.filterMap fun x => if isOpen x then none else
        (g.frames[x.1]?).map fun fr => reseatDma t g.gen 0 x.1 (x.2 * sh.slot) sh.slot fr
      let opens := (g.numbered.filter fun x => g.changed.any fun y => y.1 == x.1).map fun x =>
        reseatDma t g.gen 1 x.1 0 sh.openBytes x.2
      (s.updSegOf q t.key fun g => { g with changed := [] }).queueReseat t.id (pages ++ opens)

/-- Send COMMIT once every WRITE has been answered (R266, step 6). -/
def State.tryCommit (s : State) (tk : Nat) : State :=
  match s.ticket tk with
  | none => s
  | some t =>
    if t.phase ≠ 1 ∨ !t.prepared ∨ t.writesLeft ≠ 0 then s
    else
      let c := s.conn t.reseatConn
      if !(c.state == .opening || c.state == .opened) then s.reseatLost tk
      else (s.updTicket tk fun t => { t with phase := 2 }).sendReseat { t with phase := 2 } 1 4 t.peerTicket t.newGen

/-- RESEAT COPY (R266, step 1). -/
def reseatCopy (s : State) (p : Op) : State :=
  match s.entryOf p.q p.key with
  | none => s.finish p.tk sSTALE
  | some (_, e) =>
    if p.gen ≠ e.gen ∨ e.state = .retired ∨ e.state = .incoming then s.finish p.tk sSTALE
    else if e.state = .moving then
      s.finish p.tk sDUPLICATE (match s.reseatOf p.q p.key 0 with | some t => t.id | none => 0)
    else
      let peer := fieldAt p.body 26 2
      let s := (s.setEntry p.q p.key fun e => { e with state := .moving }).updSegOf p.q p.key fun g =>
        { g with prior := e.state, changed := [] }
      let s := s.leaveCoding p.q p.key
      let c := s.peerConn p.q peer (keyTenant p.key)
      let s := c.2.updTicket p.tk fun t => { t with kind := 3, side := 0, phase := 0, peer := peer, reseatConn := c.1.getD 0 }
      match c.1, s.ticket p.tk with
      | some _, some t => s.sendReseat t 0 3 0 0
      | _, _ => s.reseatLost p.tk

/-- The destination answers PREPARE (R266, steps 2 and 3). -/
def reseatPrepared (s : State) (t : Ticket) (status newGen detail : Nat) : State :=
  if t.phase > 1 ∨ t.prepared then s
  else if status ≠ sOK then s.reseatEnd t status false
  else
    let t := { t with prepared := true, peerTicket := detail % 2 ^ 20, newGen := newGen }
    let s := (s.updTicket t.id fun u => { u with prepared := true, peerTicket := t.peerTicket, newGen := newGen }).queueCopy t
    s.tryCommit t.id

/-- The destination answers one WRITE. A refused WRITE ends the reseat with its status (DEDUCED, assumption 30). -/
def reseatWritten (s : State) (t : Ticket) (remote status : Nat) : State :=
  if !t.prepared ∨ t.phase > 1 ∨ t.writesLeft = 0 then s
  else if status ≠ sOK then s.reseatEnd t status true
  else
    let whole := !bit remote 20
    (s.updTicket t.id fun t => { t with
      writesLeft := t.writesLeft - 1
      framesDone := if whole && t.phase == 0 then t.framesDone + 1 else t.framesDone }).tryCommit t.id

/-- The destination answers COMMIT (R266, step 8). Another status than OK ends the reseat with it (DEDUCED, assumption 30). -/
def reseatCommitted (s : State) (t : Ticket) (status : Nat) : State :=
  if t.phase ≠ 2 then s
  else if status = sOK then s.reseatCut t sOK 0
  else s.reseatEnd t status true

/-- RESEAT_COPY_DONE (R266, step 4): every frame has been written, and the source answers COPY. -/
def execReseatCopyDone (ticket : Nat) (s : State) : Host.Outcome State Fault Refusal :=
  .next (match s.ticket ticket with
    | none => s
    | some t =>
      if t.kind = 3 ∧ t.side = 0 ∧ t.prepared ∧ t.writesLeft = 0 ∧ !t.copyDone then s.answerCopy t sOK t.framesDone else s)

/-- RESEAT CUTOVER (R266, steps 5 and 6). -/
def reseatCutover (s : State) (p : Op) : State :=
  match s.entryOf p.q p.key with
  | none => s.finish p.tk sSTALE
  | some (_, e) =>
    if p.gen ≠ e.gen ∨ e.state ≠ .moving then s.finish p.tk sSTALE
    else match s.reseatOf p.q p.key 0 with
      | none => s.finish p.tk sSTALE
      | some t =>
        if t.phase ≠ 0 then s.finish p.tk sCONFLICT
        else
          let s := s.updTicket t.id fun t => { t with phase := 1, cutTicket := some p.tk }
          let s := if t.prepared then s.queueChanged t else s
          s.tryCommit t.id

/-- RESEAT RELEASE from the driver (R267). -/
def reseatRelease (s : State) (p : Op) : State :=
  match s.entryOf p.q p.key with
  | none => s.finish p.tk sSTALE
  | some (_, e) =>
    if p.gen ≠ e.gen ∨ e.state ≠ .moving then s.finish p.tk sSTALE
    else
      let s := match s.reseatOf p.q p.key 0 with
        | some t => s.reseatEnd t sABORTED true
        | none =>
          let prior := match s.segOf p.q p.key with | some (_, g) => g.prior | none => .opened
          let s := s.setEntry p.q p.key fun e => { e with state := prior }
          (if prior = SegState.sealed then s.enterCoding p.q p.key else s).recheck p.q p.key
      s.finish p.tk sOK

/-! ### The destination -/

/-- RESEAT PREPARE (R266, step 2; R162; R55): `addrs` are the host's frames under host-assisted allocation. -/
def reseatPrepare (s : State) (p : Op) (addrs : Option (List (Nat × Nat))) : State :=
  let tomb := match s.entryOf p.q p.key with
    | some (_, e) => if e.state = SegState.retired then some e.gen else none
    | none => some 0
  match tomb, s.shape (keyTenant p.key) p.shapeId with
  | none, _ => s.finish p.tk sCONFLICT
  | _, none => s.finish p.tk sNOSHAPE
  | some g, some sh =>
    let newGen := nextGen (max p.gen g)
    match s.allocSeg p.q p.key p.shapeId 0 newGen sh .incoming p.toInbound addrs with
    | .refused st s => s.finish p.tk st
    | .parked s => s
    | .done s =>
      let conn := match p.o with | .wire i => i | .host _ => 0
      let s := (s.trimReads p.q).updTicket p.tk fun t =>
        { t with kind := 3, side := 1, newGen := newGen, peer := fieldAt p.body 26 2, reseatConn := conn, copyDone := true }
      match s.ticket p.tk with
      | none => s
      | some t =>
        let a := s.withEntry p.q p.key { tag := t.cmd, status := sOK, opcode := 0x18, detail := t.id }
        s.answer t.origin p.q a

/-- The destination gives an INCOMING entry up (Table 2-11): it goes, or its tombstone returns. -/
def State.dropIncoming (s : State) (t : Ticket) : State :=
  let q := tkQ t.id
  let s := match s.entryOf q t.key, s.segOf q t.key with
    | some (a, e), some (_, g) =>
      if e.state ≠ SegState.incoming then s
      else
        let s := s.setEntry q t.key fun e => { e with state := .retired, gen := g.oldGen }
        let s := s.releaseSeg q t.key
        if g.oldGen = 0 then s.dirDel q a else s
    | _, _ => s
  s.freeTicket t.id

/-- The destination's reseat that a message names: its ticket, on its connection. -/
def State.destTicket (s : State) (p : Op) (id : Nat) : Option Ticket :=
  match s.ticket id, p.o with
  | some t, .wire i => if t.kind = 3 ∧ t.side = 1 ∧ t.key = p.key ∧ t.reseatConn = i ∧ tkQ id = p.q then some t else none
  | _, _ => none

/-- RELEASE from the source's node (R267). -/
def reseatReleased (s : State) (p : Op) : State :=
  match s.destTicket p (fieldAt p.body 28 4) with
  | none => s.finish p.tk sSTALE
  | some t => (s.dropIncoming t).finish p.tk sOK

/-- Tokens of each page of a frame that has been written, from its headers. -/
def State.pageTokens (s : State) (q : Nat) (fr : FrameRef) (sh : Shape) : List Nat :=
  (List.range 32).map fun n =>
    (Mem.get 0 (s.stackBytes q fr.stack (fr.addr + n * sh.slot) 64)).toNat % 128

/-- Tokens of a frame: its full pages, and its open page. -/
def State.frameTokens (s : State) (q key f : Nat) (fr : FrameRef) (sh : Shape) : Nat :=
  (s.pageTokens q fr sh).sum + (match s.openOf q key f with | some e => e.tokens | none => 0)

/-- The open-page entry of a frame after COMMIT: it is the first page that is not full, and a block whose V scales are stored is
pre-quantised (DEDUCED, assumption 29). -/
def settleOpen (sh : Shape) (fr : FrameRef) (full : Nat) (e : CacheEntry) : CacheEntry :=
  let form := fun (b : Nat) =>
    if e.tokens ≤ 32 * b then 0
    else if (Mem.slice e.slot (64 + sh.kb + sh.vb + 64 * sh.sc + b * sh.d) sh.d) = [] then 1 else 2
  { e with page := full, stack := fr.stack, addr := fr.addr + full * sh.slot, vform := [form 0, form 1] }

/-- The states that an incoming segment's contents allow its source's PRIOR to have: a page left open, or no token at all, means
OPEN; 2,048 tokens, or a last page that is closed and not full, mean SEALED or CODED. -/
def priorChoices (anyOpen closedPart : Bool) (tokens : Nat) : List SegState :=
  if anyOpen ∨ tokens = 0 then [.opened]
  else if tokens = 2048 ∨ closedPart then [.sealed, .coded]
  else [.opened, .sealed, .coded]

/-- RESEAT COMMIT (R266, step 7). No field of COMMIT carries PRIOR: where the contents leave it open it is an open value
(assumption 29). -/
def reseatCommit (s : State) (p : Op) : State :=
  match s.destTicket p (fieldAt p.body 28 4) with
  | none => s.finish p.tk sSTALE
  | some t =>
    match s.entryOf p.q p.key, s.segOf p.q p.key with
    | some (_, e), some (_, g) =>
      if e.state ≠ .incoming ∨ fieldAt p.body 32 2 ≠ e.gen then s.finish p.tk sSTALE
      else match s.shape g.tenant g.shapeId with
        | none => s.finish p.tk sNOSHAPE
        | some sh =>
          let pages := fun (fr : FrameRef) => s.pageTokens p.q fr sh
          let isOpen := fun (f : Nat) => match s.openOf p.q p.key f with | some e => e.tokens != 0 | none => false
          let anyOpen := (List.range g.frames.length).any isOpen
          let closedPart := g.frames.any fun fr => (pages fr).any fun n => 0 < n && n < 64
          let toks := g.numbered.map fun x => (x.1, s.frameTokens p.q p.key x.1 x.2 sh)
          let counts := (List.range sh.layers).map fun l =>
            let mine := (toks.filter fun x => x.1 / sh.kvh == l).map fun x => x.2
            match mine with | [] => 0 | a :: t => t.foldl min a
          let total := match counts with | [] => 0 | a :: t => t.foldl min a
          let ch := priorChoices anyOpen closedPart total
          let d := s.drawFree
          let st := ch.getD (d.1 % ch.length) .opened
          let s := if ch.length > 1 then d.2 else s
          let full := fun (fr : FrameRef) => ((pages fr).filter fun n => n == 64).length
          let settle := fun (c : CacheEntry) =>
            if c.kind = .open_ ∧ c.key = p.key then
              (if c.tokens = 0 then none else (g.frames[c.frame]?).map fun fr => settleOpen sh fr (full fr) c)
            else some c
          let s := s.updStore p.q fun S => { S with cache := S.cache.filterMap settle }
          let s := (s.updSegOf p.q p.key fun g => { g with counts := counts }).setEntry p.q p.key fun e => { e with state := st }
          let s := if st = .sealed then s.enterCoding p.q p.key else s
          (s.freeTicket t.id).finish p.tk sOK
    | _, _ => s.finish p.tk sSTALE

/-! ### WRITE and WRITE_IMM (R260 to R262) -/

/-- Byte `i` of a BF16 value table in the order of Table 9-5. -/
def putVByte (v : Tab Nat) (i : Nat) (b : Byte) : Tab Nat :=
  v.amend (i / 2) 0 fun x => if i % 2 = 0 then x / 256 * 256 + b.toNat else x % 256 + b.toNat * 256

/-- Write bytes into an open-page entry: the slot, then the BF16 V values. -/
def CacheEntry.putArea (e : CacheEntry) (sh : Shape) (off : Nat) (data : Bytes) : CacheEntry :=
  let inSlot := data.take (sh.slot - off)
  let rest := data.drop (sh.slot - off)
  let base := off - sh.slot
  { e with
    slot := (if off < sh.slot then Mem.write e.slot off inSlot else e.slot),
    v := ((List.range rest.length).zip rest).foldl (fun v x => putVByte v (base + x.1) x.2) e.v }

/-- The bytes of an open-page entry. -/
def CacheEntry.areaBytes (e : CacheEntry) (sh : Shape) : Bytes :=
  Mem.read e.slot 0 sh.slot ++ ((List.range (64 * sh.d)).flatMap fun i => leBytes 2 (e.v.fetch i 0))

/-- Reserved fields of a WRITE or WRITE_IMM body (Table 9-5). -/
def writeBad (imm : Bool) (b : Bytes) : Bool :=
  b.length < 25 || fieldAt b 0 8 ≥ 2 ^ 54 || !zeroRange b 16 24 || (!imm && fieldAt b 8 8 != 0)

/-- Answer a WRITE. -/
def State.answerWrite (s : State) (conn op status : Nat) (b : Bytes) : State :=
  s.answer (.wire conn) (conn / 16384) { tag := fieldAt b 0 8, status := status, opcode := op }

/-- A WRITE or WRITE_IMM delivered on a connection (R262): it executes in the Quarter that owns the connection (R218). -/
def reseatWrite (s : State) (conn op : Nat) (b : Bytes) : State :=
  let q := conn / 16384
  let imm := op == 0x13
  let rem := fieldAt b 0 8
  let id := rem % 2 ^ 20
  let area := bits rem 20 20
  let f := bits rem 32 21
  let off := bits rem 53 33
  let data := b.drop 24
  if writeBad imm b then s.answerWrite conn op sBAD b
  else
    match s.ticket id with
    | none => s.answerWrite conn op sSTALE b
    | some t =>
      match s.entryOf q t.key, s.segOf q t.key with
      | some (_, e), some (_, g) =>
        if t.kind ≠ 3 ∨ t.side ≠ 1 ∨ tkQ id ≠ q ∨ t.reseatConn ≠ conn ∨ e.state ≠ .incoming then
          s.answerWrite conn op sSTALE b
        else
          match s.shape g.tenant g.shapeId, g.frames[f]? with
          | some sh, some fr =>
            if off + data.length > (if area = 0 then sh.frame else sh.openBytes) then s.answerWrite conn op sBAD b
            else
              let s := if area = 0 then s.stackWrite q fr.stack (fr.addr + off) data.length (memOf data)
                else
                  let cur := match s.openOf q t.key f with | some c => c | none => freshOpen t.key f 0 fr sh
                  let s := s.updStore q fun S => { S with cache := S.cache.filter fun c =>
                    !(c.kind == .open_ && c.key == t.key && c.frame == f) }
                  s.addCache q (cur.putArea sh off data)
              let s := if imm then s.post t.tenant { type := 0x04, quarter := q, p0 := 0x13, p1 := fieldAt b 8 8, p2 := id } else s
              s.answerWrite conn op sOK b
          | _, _ => s.answerWrite conn op sBAD b
      | _, _ => s.answerWrite conn op sSTALE b

/-! ### RESEAT_DEADLINE (R267) -/

/-- A reseat ticket's deadline passes: the source acts as for RELEASE and answers DEADLINE; the destination removes its entry. -/
def reseatDeadline (s : State) (tk : Nat) : State :=
  match s.ticket tk with
  | none => s
  | some t =>
    if t.kind ≠ 3 then s
    else
      let s := s.advance (t.arrival + t.deadline * 1000)
      if t.side = 0 then s.reseatEnd t sDEADLINE true else s.dropIncoming t

/-! ### The rows of RESEAT -/

/-- A RESEAT operation: header checks, descriptor checks, lookup, and the step that its SUB names. -/
def reseatOp (s : State) (e : Inbound) (addrs : Option (List (Nat × Nat))) : State :=
  match s.beginOp e with
  | .error s => s
  | .ok (p, s) =>
    if reseatBad p.body p.role then s.finish p.tk sBAD
    else match s.lookup p.q p.key p.toInbound with
      | (.parked, s) => s
      | (_, s) =>
        match reseatSub p.body with
        | 0 => reseatCopy s p
        | 1 => reseatCutover s p
        | 2 => if p.role = 3 then reseatReleased s p else reseatRelease s p
        | 3 => reseatPrepare s p addrs
        | _ => reseatCommit s p

end Sys2Proof.Machine
end

