-- ==== Sys2Proof/Machine/Rows.lean ====
section
/-!
DEFINITION. What each sending unit does when its message fails (R233), RESPONSE, and the rows of the conversation operations and of
the frames that may end a connection.
-/
namespace Sys2Proof.Machine

/-! ### Failed messages (R233, R259, R268, R275) -/

/-- The segment of a Quarter that waits for the answer to a forward. -/
def State.forwardSeg (s : State) (q fwd : Nat) : Option Nat :=
  ((s.qtr q).store.segs.find? fun e => e.2.chain.outstanding.any fun f => f.id == fwd).map fun e =>
    mkKey e.2.tenant e.2.conv e.2.seg

/-- A forward whose segment has gone is answered by the successor, or fails: the operation that waits gets its own outcome. -/
def State.lateAnswer (s : State) (q fwd copies : Nat) : State :=
  match (s.qtr q).store.late.find? fun e => e.2.id == fwd with
  | none => s
  | some e =>
    (s.updStore q fun S => { S with late := S.late.filter fun x => x.2.id != fwd }).ackWaiter e.2 copies

/-- A forward fails with its connection: the chain breaks (R259). -/
def State.forwardFailed (s : State) (q fwd : Nat) : State :=
  match s.forwardSeg q fwd with
  | some key => s.breakChain q key
  | none => s.lateAnswer q fwd 1

/-- Reseats of a Quarter whose connection this is (R268). -/
def State.reseatsOn (s : State) (i : Nat) : List Nat :=
  let T := (s.qtr (i / 16384)).tk
  ((T.onChip ++ T.spill).filter fun e => e.2.kind == 3 && e.2.side == 0 && !e.2.moved && e.2.reseatConn == i).map fun e => e.2.id

/-- Children that were sent on a connection and have not ended. -/
def State.childrenOn (s : State) (i : Nat) : List (Nat × Nat) :=
  s.quarters.flatMap fun e => e.2.dove.reqs.flatMap fun r =>
    (r.2.children.filter fun c => c.conn == i && !c.ended).map fun c => (r.1, c.idx)

/-- A connection that the node opened has failed: every chain to that successor breaks, the reseats on it end, and its children have
failed. -/
def State.connLost (s : State) (i node tenant : Nat) : State :=
  let q := i / 16384
  let opened := (s.conn i).state == .free || (s.conn i).opener
  let chains := if opened then
      ((s.qtr q).store.segs.filter fun e => e.2.chainOn && !e.2.chain.broken && e.2.chain.succ == node && e.2.tenant == tenant
        && e.2.chain.firstSent).map fun e => mkKey e.2.tenant e.2.conv e.2.seg else []
  let s := chains.foldl (fun s k => s.breakChain q k) s
  let s := (s.reseatsOn i).foldl (fun s tk => s.reseatLost tk) s
  (s.childrenOn i).foldl (fun s c => s.childFailed c.1 c.2) s

/-- One failed message. -/
def State.unitFailed (s : State) (o : MsgOwner) : State :=
  match o with
  | .conn i node tenant => s.connLost i node tenant
  | .none => s
  | .response => s
  | .forward key fwd => s.forwardFailed (homeQ key) fwd
  | .child tk idx => s.childFailed tk idx
  | .reseat tk => s.reseatLost tk

/-- Let every failed message reach its unit; a hedge that fails in turn is one more. -/
def settleFrom : Nat → State → State
  | 0, s => s
  | fuel + 1, s =>
    match s.unitErrs with
    | [] => s
    | e :: rest => settleFrom fuel (State.unitFailed { s with unitErrs := rest } e.1)

/-- Let every failed message of a command reach its unit. -/
def settle (s : State) : State := settleFrom 1048576 s

/-! ### RESPONSE (R248, R257, R266) -/

/-- A RESPONSE to a RESEAT message of this node. -/
def reseatAnswer (s : State) (i tag status gen detail : Nat) : State :=
  match s.ticket (tag % 2 ^ 20) with
  | none => s
  | some t =>
    if t.kind ≠ 3 ∨ t.side ≠ 0 ∨ t.reseatConn ≠ i then s
    else if tag / 2 ^ 20 = 0 then reseatPrepared s t status gen detail
    else if tag / 2 ^ 20 = 1 then reseatCommitted s t status
    else s

/-- A RESPONSE to a WRITE of a reseat of this node: its TAG is REMOTE. -/
def writeAnswer (s : State) (i tag status : Nat) : State :=
  match (s.reseatsOn i).filterMap fun id => s.ticket id with
  | [] => s
  | l => match l.find? fun t => t.peerTicket == tag % 2 ^ 20 && t.prepared with
    | none => s
    | some t => reseatWritten s t tag status

/-- A RESPONSE to a forwarded append or SEAL. -/
def forwardAnswer (s : State) (i fwd status gen copies : Nat) : State :=
  let q := i / 16384
  match s.forwardSeg q fwd with
  | some key => s.forwardAnswered q key fwd status gen copies
  | none => s.lateAnswer q fwd (if status = sOK ∨ status = sDUPLICATE then min 3 (1 + copies) else 1)

/-- A RESPONSE to a child ATTEND, which a PARTIAL answers otherwise: the child has failed (Table 9-10). -/
def childAnswer (s : State) (tag : Nat) : State := s.childFailed (tag % 2 ^ 20) (tag / 2 ^ 20)

/-- A received RESPONSE (R248): its OPCODE says which of the node's messages it answers. A reserved status counts as
ABORTED_RETRYABLE (Table 9-10). -/
def responseMsg (s : State) (i : Nat) (b : Bytes) : State :=
  let tag := fieldAt b 0 8
  let op := byteAt b 9
  let status := if isStatus (byteAt b 8) then byteAt b 8 else sABORTED
  let gen := fieldAt b 10 2
  let copies := byteAt b 13
  let detail := fieldAt b 16 4
  if b.length < 32 then s
  else if op = 0x10 ∨ op = 0x11 ∨ op = 0x17 then forwardAnswer s i tag status gen copies
  else if op = 0x18 then reseatAnswer s i tag status gen detail
  else if op = 0x12 ∨ op = 0x13 then writeAnswer s i tag status
  else if op = 0x15 then childAnswer s tag
  else s

/-! ### The rows of the conversation operations -/

/-- APPEND (R250 to R254). -/
def execAppend (o : Origin) (body : Bytes) (s : State) : Host.Outcome State Fault Refusal :=
  .next (settle (s.arrive o 0x10 body fun s e => segOp s e none))

/-- APPEND_IMM (R255). -/
def execAppendImm (o : Origin) (body : Bytes) (s : State) : Host.Outcome State Fault Refusal :=
  .next (settle (s.arrive o 0x11 body fun s e => segOp s e none))

/-- READ (R263). -/
def execRead (o : Origin) (body : Bytes) (s : State) : Host.Outcome State Fault Refusal :=
  .next (settle (s.arrive o 0x14 body fun s e => segOp s e none))

/-- SEAL (R264). -/
def execSeal (o : Origin) (body : Bytes) (s : State) : Host.Outcome State Fault Refusal :=
  .next (settle (s.arrive o 0x17 body fun s e => segOp s e none))

/-- RETIRE (R265). -/
def execRetire (o : Origin) (body : Bytes) (s : State) : Host.Outcome State Fault Refusal :=
  .next (settle (s.arrive o 0x19 body fun s e => segOp s e none))

/-- GAP_HOLD_EXPIRY (R253). -/
def execGapHoldExpiry (q : Fin 4) (holdId : Nat) (s : State) : Host.Outcome State Fault Refusal :=
  .next (settle (gapHoldExpiry s q holdId))

/-- A RESEAT message or submission, when its SUB is the row's. -/
def reseatRow (s : State) (o : Origin) (body : Bytes) (want : Nat → Bool) : State :=
  if want (reseatSub body) then settle (s.arrive o 0x18 body fun s e => reseatOp s e none) else s

/-- RESEAT_COPY (R266): SUB 0. A reserved SUB is refused here too. -/
def execReseatCopy (o : Origin) (body : Bytes) (s : State) : Host.Outcome State Fault Refusal :=
  .next (reseatRow s o body fun sub => sub == 0 || sub ≥ 5)

/-- RESEAT_PREPARE (R266): SUB 3. -/
def execReseatPrepare (o : Origin) (body : Bytes) (s : State) : Host.Outcome State Fault Refusal :=
  .next (reseatRow s o body fun sub => sub == 3)

/-- RESEAT_CUTOVER (R266): SUB 1. -/
def execReseatCutover (o : Origin) (body : Bytes) (s : State) : Host.Outcome State Fault Refusal :=
  .next (reseatRow s o body fun sub => sub == 1)

/-- RESEAT_COMMIT (R266): SUB 4. -/
def execReseatCommit (o : Origin) (body : Bytes) (s : State) : Host.Outcome State Fault Refusal :=
  .next (reseatRow s o body fun sub => sub == 4)

/-- RESEAT_RELEASE (R267): SUB 2, from the driver or from the source's node. -/
def execReseatRelease (o : Origin) (body : Bytes) (s : State) : Host.Outcome State Fault Refusal :=
  .next (reseatRow s o body fun sub => sub == 2)

/-- RESEAT_DEADLINE (R267). -/
def execReseatDeadline (ticket : Nat) (s : State) : Host.Outcome State Fault Refusal :=
  .next (settle (reseatDeadline s ticket))

/-- ATTEND (R269 to R277). -/
def execAttend (o : Origin) (body : Bytes) (laneErrs : List Nat) (s : State) : Host.Outcome State Fault Refusal :=
  .next (settle (s.arrive o 0x15 body fun s e => attendOp s e laneErrs))

/-- PARTIAL (R275, R276). -/
def execPartialRecv (conn : Nat) (body : Bytes) (s : State) : Host.Outcome State Fault Refusal :=
  .next (settle (partialMsg (s.take (.wire conn) 0x16 body).2 body))

/-- NOTICE (R249, R276). -/
def execNotice (conn : Nat) (body : Bytes) (s : State) : Host.Outcome State Fault Refusal :=
  .next (settle (noticeMsg (s.take (.wire conn) 0x1B body).2 body))

/-- RESPONSE (R248). -/
def execResponse (conn : Nat) (body : Bytes) (s : State) : Host.Outcome State Fault Refusal :=
  .next (settle (responseMsg (s.take (.wire conn) 0x1A body).2 conn body))

/-- WRITE (R260, R262). -/
def execWrite (conn : Nat) (body : Bytes) (s : State) : Host.Outcome State Fault Refusal :=
  .next (reseatWrite (s.take (.wire conn) 0x12 body).2 conn 0x12 body)

/-- WRITE_IMM (R260, R262). -/
def execWriteImm (conn : Nat) (body : Bytes) (s : State) : Host.Outcome State Fault Refusal :=
  .next (reseatWrite (s.take (.wire conn) 0x13 body).2 conn 0x13 body)

/-- REQUEST_DEADLINE (R128, R271). -/
def execRequestDeadline (ticket : Nat) (s : State) : Host.Outcome State Fault Refusal :=
  .next (settle (requestDeadline s ticket))

/-! ### Rows that may end a connection -/

/-- NAK (R230). -/
def execNak (conn : Nat) (at_ : Nat) (body : Bytes) (s : State) : Host.Outcome State Fault Refusal :=
  let s := s.advance at_
  .next (if (s.conn conn).carries && !s.qOff (conn / 16384) then settle (nakCore s conn body) else s)

/-- RTO_EXPIRY (R224, R225, R233). -/
def execRtoExpiry (conn : Nat) (s : State) : Host.Outcome State Fault Refusal :=
  .next (if s.qOff (conn / 16384) then s else settle (rtoExpiry s conn))

/-- FRAME_RECEIVE (R222, R285). -/
def execFrameReceive (port : Fin 4) (f : RxFrame) (s : State) : Host.Outcome State Fault Refusal :=
  .next (settle (frameReceive s port f))

/-- FRAME_TRANSMIT (R291): a frame that loops back may reach the connections. -/
def execFrameTransmit (port : Fin 4) (at_ : Nat) (s : State) : Host.Outcome State Fault Refusal :=
  .next (settle (frameTransmit s port at_))

/-- HELLO_OPEN (R224): a frame that carries a HELLO OPEN, through the receive checks. -/
def execHelloOpen (port : Fin 4) (f : RxFrame) (s : State) : Host.Outcome State Fault Refusal :=
  .next (if isHello f 0 then settle (frameReceive s port f) else s)

/-- HELLO_ACCEPT (R224). -/
def execHelloAccept (port : Fin 4) (f : RxFrame) (s : State) : Host.Outcome State Fault Refusal :=
  .next (if isHello f 1 then settle (frameReceive s port f) else s)

/-- HELLO_CLOSE (R225). -/
def execHelloClose (port : Fin 4) (f : RxFrame) (s : State) : Host.Outcome State Fault Refusal :=
  .next (if isHello f 2 then settle (frameReceive s port f) else s)

/-- HELLO_RESET (R224). -/
def execHelloReset (port : Fin 4) (f : RxFrame) (s : State) : Host.Outcome State Fault Refusal :=
  .next (if isHello f 3 then settle (frameReceive s port f) else s)

/-- CONTEXT_FETCH_DONE (R240). It acts while a context is being fetched or packets wait for one. -/
def execContextFetchDone (conn : Nat) (s : State) : Host.Outcome State Fault Refusal :=
  let X := (s.qtr (conn / 16384)).xpt
  let due := (X.miss.any fun m => m.conn == conn) || (match X.ctx.look (conn % 16384) with | some e => e.fetching | none => false)
  .next (if due && !s.qOff (conn / 16384) then settle (contextFetchDone s conn) else s)

end Sys2Proof.Machine
end

