-- ==== Sys2Proof/Machine/Engines.lean ====
section
/-!
DEFINITION. The DMA engines at work (ch. 06, R182 to R185): the end of a transfer, faults, aborts, the end of NOT_READY conditions, and
the Host Spill Map window.
-/
namespace Sys2Proof.Machine

/-! ### WRITEs of a reseat (R179, R266) -/

/-- The first fault that a reseat's descriptor meets from offset `lo`. -/
def State.reseatStop (s : State) (q : Nat) (d : Dma) (lo : Nat) : Option DmaStop :=
  if d.srcKind = 2 then none
  else match s.dmaFrame q d with
    | none => none
    | some (_, _, fr, sh) =>
      if fr.spilled then
        match s.spillAt q (fr.addr + d.src) d.tenant false with
        | .error c => some { off := lo, cls := c, dst := false, addr := fr.addr + d.src }
        | .ok _ => none
      else s.rangeStop q fr.stack (fr.addr + d.src) lo d.length true fun m =>
        s.inWriteback q d.key d.frame ((d.src + m) / sh.slot)

/-- The bytes that a reseat's descriptor carries. -/
def State.reseatData (s : State) (q : Nat) (d : Dma) : Bytes :=
  match s.dmaFrame q d with
  | none => []
  | some (_, _, fr, sh) =>
    if d.srcKind = 2 then
      let e := match s.openOf q d.key d.frame with | some e => e | none => freshOpen d.key d.frame 0 fr sh
      ((e.areaBytes sh).drop d.src).take d.length
    else if fr.spilled then
      match s.spillAt q (fr.addr + d.src) d.tenant false with
      | .error _ => []
      | .ok a => Mem.read (s.hostMem 0) a d.length
    else Mem.read (s.frameImage q d.key d.gen d.frame fr.stack fr.addr sh d.src d.length) 0 d.length

/-- A reseat's descriptor has carried its bytes: one WRITE leaves on the reseat's connection. -/
def State.reseatSend (s : State) (q tk : Nat) (d : Dma) : State :=
  let s := s.count bPST q 8
  match s.ticket tk with
  | none => s
  | some t =>
    let c := s.conn t.reseatConn
    if !(c.state == .opening || c.state == .opened) then s.reseatLost tk
    else s.hand t.reseatConn
      { opcode := 0x12, body := leBytes 8 d.remote ++ leBytes 16 0 ++ s.reseatData q d, owner := .reseat tk }

/-- A descriptor ends without its effect: a reseat of the node's ends with that status (DEDUCED, assumption 30). -/
def State.dmaEndWith (s : State) (q : Nat) (d : Dma) (status : Nat) : State :=
  match d.user with
  | .host _ => s.dmaFail q d status
  | .reseat tk =>
    let s := s.dmaAnswer q d status
    match s.ticket tk with
    | some t => s.reseatEnd t status true
    | none => s

/-! ### DMA_TRANSFER_END, DMA_FAULT, DMA_ABORT -/

/-- The first fault of a running descriptor. -/
def State.anyStop (s : State) (q : Nat) (d : Dma) (lo : Nat) : Option DmaStop :=
  match d.user with | .reseat _ => s.reseatStop q d lo | .host _ => s.dmaStop q d lo

/-- The bytes of a descriptor below an offset reach their destination (R182). -/
def State.anyMove (s : State) (q : Nat) (d : Dma) (lo hi : Nat) : State :=
  match d.user with | .reseat _ => s | .host _ => s.dmaMove q d lo hi

/-- An engine stops at a fault (R182). A descriptor that waits for a stack in OFF completes with NOT_READY (R185). -/
def State.stopAt (s : State) (q e : Nat) (d : Dma) (lo : Nat) (x : DmaStop) : State :=
  let s := (s.anyMove q d lo x.off).engStop q e d x
  if d.autoResume && s.stopOff q x then (s.freeEng q e).dmaEndWith q d sNOTREADY else s

/-- DMA_TRANSFER_END: the transfer of a running engine goes as far as it can: to its end, or to the first fault that the state
holds. -/
def dmaTransferEnd (s : State) (q e : Nat) : State :=
  let E := s.eng q e
  match E.state, E.desc with
  | .running, some d =>
    match s.anyStop q d E.done with
    | some x => s.stopAt q e d E.done x
    | none =>
      let s := (s.anyMove q d E.done d.bytes).freeEng q e
      match d.user with
      | .host _ => s.dmaDone q d
      | .reseat tk => s.reseatSend q tk d
  | _, _ => s

/-- DMA_TRANSFER_END (R176, R178, R180). A COPY whose HBM source runs past its stack names bytes that do not exist. -/
def execDmaTransferEnd (q e : Fin 4) (s : State) : Host.Outcome State Fault Refusal :=
  match (s.eng q e).state, (s.eng q e).desc with
  | .running, some d =>
    if copyBeyond d && d.own == false then .fault (.noSuchHbm (d.src / 2 ^ 36 % 4 + 4 * q) (d.src % 2 ^ 36 + d.length))
    else .next (settle (dmaTransferEnd s q e))
  | _, _ => .next s

/-- DMA_FAULT (R182): a fault that comes from outside the state (a host page that fails translation or access, a block that fails ECC)
stops a running engine, unless the state holds an earlier one. -/
def dmaFault (s : State) (q e cls off : Nat) (dst : Bool) (addr : Nat) : State :=
  let E := s.eng q e
  match E.state, E.desc with
  | .running, some d =>
    if cls = 0 ∨ cls ≥ 6 ∨ off < E.done ∨ d.bytes ≤ off then s
    else
      let x : DmaStop := { off := off, cls := cls, dst := dst, addr := addr }
      match earlier (s.anyStop q d E.done) (some x) with
      | some y => s.stopAt q e d E.done y
      | none => s
  | _, _ => s

/-- DMA_FAULT. -/
def execDmaFault (q e : Fin 4) (cls offset : Nat) (dst : Bool) (addr : Nat) (s : State) : Host.Outcome State Fault Refusal :=
  .next (settle (dmaFault s q e cls offset dst addr))

/-- DMA_ABORT (R183): the descriptor completes with the status of its fault class; CONFLICT when the engine is not FAULTED with that
TAG. -/
def dmaAbort (s : State) (h : HostCmd) (q e tag : Nat) : State :=
  let E := s.eng q e
  if s.qOff q then s.complete h sDOMOFF
  else if E.state ≠ .faulted ∨ E.tag ≠ tag then s.complete h sCONFLICT
  else
    let s := match E.desc with
      | some d => (s.freeEng q e).dmaEndWith q d (clsStatus E.cls)
      | none => s.freeEng q e
    s.complete h sOK

/-- DMA_ABORT. -/
def execDmaAbort (h : HostCmd) (q e : Fin 4) (tag : Nat) (s : State) : Host.Outcome State Fault Refusal :=
  let b := engParam e tag
  let s := (s.take (.host h) 0x49 b).2
  match hostCheck s h 0x49 b with
  | some st => .next (s.complete h st)
  | none => .next (settle (dmaAbort s h q e tag))

/-! ### NOT_READY_END (R184, R185, R202, R132) -/

/-- A write-back entry whose slot may be written now is written and freed (R184). -/
def State.drainEntry (s : State) (q : Nat) (e : CacheEntry) : State :=
  match s.entryOf q e.key, s.segOf q e.key with
  | some (_, d), some (_, g) =>
    match g.frames[e.frame]?, s.shape g.tenant g.shapeId with
    | some fr, some sh =>
      if s.writeBlocked q e.page fr sh then s
      else
        let s := s.updStore q fun S => { S with cache := S.cache.filter fun x => !(x == e) }
        s.writeSlot q e.key d.gen e.frame e.page fr sh e.slot
    | _, _ => s
  | _, _ => s

/-- Every write-back entry of a Quarter whose slot may be written. -/
def State.drainWriteback (s : State) (q : Nat) : State :=
  ((s.qtr q).store.cache.filter fun e => e.kind == .writeback).foldl (fun s e => s.drainEntry q e) s

/-- An engine in WAIT_READY whose condition has ended resumes; one whose stack has gone to OFF completes with NOT_READY (R185). -/
def State.wakeEngine (s : State) (q e : Nat) : State :=
  let E := s.eng q e
  match E.state, E.desc with
  | .waitReady, some d =>
    match s.anyStop q d E.done with
    | some x =>
      if x.cls = 3 ∧ x.off = E.done then
        (if s.stopOff q x then (s.freeEng q e).dmaEndWith q d sNOTREADY else s)
      else s.resumeEng q e
    | none => s.resumeEng q e
  | _, _ => s

/-- NOT_READY_END: a condition of Table 6-6 has ended in a Quarter. Waiting pages are written, engines resume, and jobs, coders and
operations that waited for a stack go on. -/
def notReadyEnd (s : State) (q : Nat) : State :=
  let s := s.drainWriteback q
  let s := (List.range 4).foldl (fun s e => s.wakeEngine q e) s
  let s := s.wakeJobs q
  let s := s.updPcd q fun P => { P with queue := P.queue.map fun e =>
    match e.waitAt with
    | some w => if s.notReady q w.1 w.2 true then e else { e with waitAt := none }
    | none => e }
  s.recheckWaiting q

/-- NOT_READY_END. -/
def execNotReadyEnd (q : Fin 4) (s : State) : Host.Outcome State Fault Refusal := .next (settle (notReadyEnd s q))

/-! ### The Host Spill Map window (Tables 6-15, 6-16) -/

/-- PST_HSM_CMD.WRITE: DATA_HI:DATA_LO go to entry ENTRY; accesses that start later use it (R175). -/
def hsmPut (s : State) (q : Nat) : State :=
  let v := BitVec.ofNat 64 (s.reg bPST q 0x204 + s.reg bPST q 0x208 * 2 ^ 32)
  s.updStore q fun S => { S with hsm := S.hsm.put (s.reg bPST q 0x200 % 32768) v }

/-- PST_HSM_CMD.READ: entry ENTRY is loaded into DATA_HI:DATA_LO. -/
def hsmGet (s : State) (q : Nat) : State :=
  let v := ((s.qtr q).store.hsm.fetch (s.reg bPST q 0x200 % 32768) 0).toNat
  (s.setReg bPST q 0x204 (v % 2 ^ 32)).setReg bPST q 0x208 (v / 2 ^ 32)

/-- HSM_WRITE. -/
def execHsmWrite (q : Fin 4) (s : State) : Host.Outcome State Fault Refusal :=
  .next (if s.qOff q then s.offWrite bPST q 0x20C else hsmPut s q)

/-- HSM_READ. -/
def execHsmRead (q : Fin 4) (s : State) : Host.Outcome State Fault Refusal :=
  .next (if s.qOff q then s.offWrite bPST q 0x20C else hsmGet s q)

end Sys2Proof.Machine
end

