-- ==== Sys2Proof/Machine/Tenants.lean ====
section
/-!
DEFINITION. Tenants, shapes, conversation maps, keys and attestation (ch. 02, 11): installing shapes and maps, creating and draining a
tenant, key rotation and its sweep, and the attestation report.
-/
namespace Sys2Proof.Machine

/-! ### Views of a tenant (Tables 11-17, 11-18) -/

/-- STATE of a tenant. -/
def TState.code : TState → Nat
  | .absent => 0 | .active => 1 | .draining => 2 | .scrubbing => 3

/-- Word +0x0 of SEC_TENANTt. -/
def State.tenantWord (s : State) (t : Nat) : Nat :=
  let T := s.tenant t
  T.state.code + 4 * b2n T.encrypt + 8 * b2n T.wireProt + 16 * b2n (T.prevGen != 0) + 256 * T.curGen + 65536 * T.prevGen

/-- HBM frames held for a tenant, in MiB rounded up. -/
def State.poolUsedMib (s : State) (t : Nat) : Nat := ceilDiv (s.poolUsed t) (2 ^ 20)

/-- The tenant's function is told of a change of SEC_TENANTt (Table 12-12). -/
def State.tenantState (s : State) (t : Nat) : State :=
  s.updFn t fun F => { F with outWait := F.outWait ++ [{ agent := 0, words := [0x84, s.tenantWord t, 0, 0, 0, 0, 0, 0] }] }

/-- A change of a tenant's STATE, which HQ_FN_STATUS of its function shows too (R352). -/
def State.tenantMoved (s : State) (t : Nat) : State := (s.updFn t fun F => F.ringOut 3).tenantState t

/-- The bus address that the Host Spill Map gives for a spill offset, whatever its permissions (R173). -/
def State.spillRaw (s : State) (q off : Nat) : Nat :=
  let l1 := s.reg bPST q (0x100 + 4 * (off / 2 ^ 30 % 64))
  let e := ((s.qtr q).store.hsm.fetch (bits l1 6 1 * 512 + off / 2 ^ 21 % 512) 0).toNat
  bits e 63 21 * 2 ^ 21 + off % 2 ^ 21

/-- The stored header of a page slot, in HBM or in the spill tier. -/
def State.rawHdr (s : State) (q : Nat) (fr : FrameRef) (page : Nat) (sh : Shape) : PageHdr :=
  let a := fr.addr + page * sh.slot
  PageHdr.ofBytes (if fr.spilled then Mem.read (s.hostMem 0) (s.spillRaw q a) 64 else Mem.read (s.stackBytes q fr.stack a 64) 0 64)

/-- OLD_PAGES (R311): pages in the tenant's frames that are encrypted under the previous generation. -/
def State.oldPages (s : State) (t : Nat) : Nat :=
  let T := s.tenant t
  if T.prevGen = 0 then 0
  else (s.quarters.map fun e => ((e.2.store.segs.filter fun g => g.2.tenant == t).map fun g =>
    match s.shape t g.2.shapeId with
    | none => 0
    | some sh => (g.2.frames.map fun fr => ((List.range 32).filter fun n =>
        let h := s.rawHdr e.1 fr n sh
        h.enc && h.keyGen == T.prevGen).length).sum).sum).sum

/-- Live tickets of a tenant in a pool. -/
def TkPool.ofTenant (T : TkPool) (t : Nat) : List Ticket :=
  ((T.onChip ++ T.spill).filter fun e => T.inUse.contains e.1 && e.2.tenant == t && !e.2.moved).map fun e => e.2

/-- Sequences of a tenant that have not retired. -/
def Bsc.ofTenant (B : Bsc) (t : Nat) : Nat :=
  (B.stk.map fun e => ((e.2.seqs.flatMap fun x => x.2) ++ e.2.backlog ++ e.2.fenced).countP fun x => keyTenant x.frame.key == t).sum

/-- Coders at work for a tenant, and its segments in the coding queue. -/
def Pcd.ofTenant (P : Pcd) (t : Nat) : Nat :=
  P.coders.countP (fun c => match c.2.key with | some k => keyTenant k == t | none => false) +
    P.queue.countP (fun e => keyTenant e.key == t)

/-- DMA descriptors of a tenant, queued or on an engine. -/
def Store.dmaOf (S : Store) (t : Nat) : Nat :=
  S.dmaQueue.countP (fun d => d.tenant == t) +
    S.engines.countP (fun e => match e.2.desc with | some d => d.tenant == t | none => false)

/-- DRAIN_ITEMS (R319): every item of Table 11-9 that has not ended. -/
def State.drainItems (s : State) (t : Nat) : Nat :=
  (s.quarters.map fun e => (e.2.tk.ofTenant t).length + e.2.store.holds.countP (fun h => keyTenant h.key == t) + e.2.bsc.ofTenant t +
    e.2.store.dmaOf t + e.2.pcd.ofTenant t).sum + s.connsOf t

/-! ### SHAPE_DEFINE (R28 to R30) -/

/-- The shape of a descriptor (Table 2-1). -/
def shapeOf (b : Bytes) : Shape :=
  { layers := byteAt b 1 + 1, kvh := byteAt b 2 % 64 + 1, dim := byteAt b 3 % 8, fmt := bits (byteAt b 3) 4 3
    g := byteAt b 4 % 16 + 1, bscThresh := byteAt b 5, scale := w32 (fieldAt b 8 4) }

/-- A positive, normal and finite FP32 pattern (R29). -/
def positiveNormal (w : Nat) : Bool := !bit w 31 && bits w 30 23 != 0 && bits w 30 23 != 255

/-- A shape descriptor that is refused with BAD_DESCRIPTOR (R4, R29). -/
def shapeBad (b : Bytes) : Bool :=
  let sh := shapeOf b
  b.length != 32 || byteAt b 0 ≥ 16 || byteAt b 2 ≥ 64 || sh.dim ≥ 5 || sh.fmt == 3 || byteAt b 3 ≥ 32 || byteAt b 4 ≥ 16 ||
  sh.bscThresh > 64 || !zeroRange b 6 8 || !zeroRange b 12 32 || sh.nframes > 4096 || !positiveNormal sh.scale.toNat

/-- Some segment of the tenant that is not RETIRED names the shape (R30). -/
def State.shapeInUse (s : State) (t id : Nat) : Bool :=
  s.quarters.any fun e => e.2.dir.slots.any fun x => keyTenant x.2.key == t && x.2.state.live &&
    (match s.segOf e.1 x.2.key with | some (_, g) => g.shapeId == id | none => false)

/-- SHAPE_DEFINE: its status, and the node after it. -/
def shapeDefine (s : State) (t : Nat) (b : Bytes) : Nat × State :=
  let id := byteAt b 0 % 16
  if shapeBad b then (sBAD, s)
  else if s.shapeInUse t id then (sCONFLICT, s)
  else (sOK, { s with sec := { s.sec with shapes := s.sec.shapes.put (t * 16 + id) (shapeOf b) } })

/-- SHAPE_DEFINE. -/
def execShapeDefine (h : HostCmd) (body : Bytes) (s : State) : Host.Outcome State Fault Refusal :=
  let s := (s.take (.host h) 0x42 body).2
  match hostCheck s h 0x42 body with
  | some st => .next (s.complete h st)
  | none => let r := shapeDefine s h.tenant body; .next (r.2.complete h r.1)

/-! ### MAP_SET (R61 to R64) -/

/-- Entry k of a map body (Table 2-14). -/
def mapEntry (b : Bytes) (k : Nat) : MapEntry :=
  let o := 32 + 16 * k
  { first := fieldAt b o 2, last := fieldAt b (o + 2) 2, home := fieldAt b (o + 4) 2, rep1 := fieldAt b (o + 6) 2
    rep2 := fieldAt b (o + 8) 2 }

/-- Entries of a map body. -/
def mapEntries (b : Bytes) : List MapEntry := (List.range (fieldAt b 4 2)).map (mapEntry b)

/-- A node ID that a map may not hold (R62). -/
def nodeBad (n : Nat) : Bool := 16384 ≤ n && n ≤ 65534

/-- One entry breaks R62 or holds a reserved bit. -/
def entryWrong (e : MapEntry) : Bool :=
  e.first ≥ 32768 || e.last ≥ 32768 || e.first > e.last || e.home == 0xFFFF || nodeBad e.home || nodeBad e.rep1 || nodeBad e.rep2 ||
  (e.rep2 != 0xFFFF && e.rep1 == 0xFFFF) || e.home == e.rep1 || e.home == e.rep2 || (e.rep1 == e.rep2 && e.rep1 != 0xFFFF)

/-- Entries do not ascend (R62). -/
def entriesCross : List MapEntry → Bool
  | a :: b :: t => b.first ≤ a.last || entriesCross (b :: t)
  | _ => false

/-- A map that is refused with BAD_DESCRIPTOR (R4, R62). -/
def mapBad (b : Bytes) : Bool :=
  let n := fieldAt b 4 2
  n == 0 || n > 4096 || b.length != 32 + 16 * n || fieldAt b 0 4 == 0 || byteAt b 6 ≥ 4 || !zeroRange b 7 32 ||
  (mapEntries b).any entryWrong || entriesCross (mapEntries b) ||
  (List.range n).any fun k => !zeroRange b (32 + 16 * k + 10) (32 + 16 * k + 16)

/-- MAP_SET: the map goes to the home Quarter of its key; the version that it replaces stays for the tickets that use it (R64). A map
for which the descriptor heap has no room is refused with STORE_FULL (DEDUCED from R164). -/
def mapSet (s : State) (t conv : Nat) (b : Bytes) : Nat × State :=
  let key := mapKey t conv
  let q := homeQ key
  let v := fieldAt b 0 4
  if mapBad b || conv ≥ 2 ^ 48 then (sBAD, s)
  else if (match s.mapOf t conv with | some m => decide (v ≤ m.version) | none => false) then (sSTALE, s)
  else match (s.qtr q).heapPlace (ceilDiv b.length 64) with
    | none => (sSTOREFULL, s.count bPST q 1)
    | some a =>
      let m : ConvMap := { key := key, version := v, decode := bit (byteAt b 6) 0, ackAtHome := bit (byteAt b 6) 1
                           entries := mapEntries b, addr := a }
      let s := s.updQ q fun Q => { Q with maps := (Q.maps.map fun (x : ConvMap) => if x.key = key then { x with current := false } else x) ++ [m] }
      (sOK, s.dropMaps)

/-- MAP_SET. -/
def execMapSet (h : HostCmd) (conv : Nat) (body : Bytes) (s : State) : Host.Outcome State Fault Refusal :=
  let s := (s.take (.host h) 0x43 body).2
  match hostCheck s h 0x43 body with
  | some st => .next (s.complete h st)
  | none => let r := mapSet s h.tenant conv body; .next (r.2.complete h r.1)

/-! ### Page keys (R307 to R309) -/

/-- A page-key block with a reserved field in use (Table 11-4). -/
def keyBlockBad (k : Bytes) : Bool := byteAt k 0 == 0 || !zeroRange k 1 3

/-- The generation that follows another (R308). -/
def nextKeyGen (g : Nat) : Nat := if g ≥ 255 then 1 else g + 1

/-- Check a page-key block of a command for a tenant with current generation `cur` (R308): the status of the first check that fails,
or the keys. -/
def unwrapKey (t cur : Nat) (k : Bytes) : Except Nat Nat :=
  match Config.sm2Unwrap ((k.drop 3).take 133) with
  | none => .error sAUTH
  | some (pt, gen, key) =>
    if pt ≠ t ∨ gen ≠ byteAt k 0 then .error sAUTH
    else if cur ≠ 0 ∧ byteAt k 0 ≠ nextKeyGen cur then .error sSTALE
    else .ok key

/-! ### TENANT_CREATE (R300, R301) -/

/-- A tenant descriptor that is refused with BAD_DESCRIPTOR (Table 11-1). -/
def tenantBad (b : Bytes) : Bool :=
  let enc := bit (byteAt b 1) 0
  byteAt b 0 == 0 || byteAt b 0 ≥ 64 || byteAt b 1 ≥ 4 || !zeroRange b 2 4 || fieldAt b 8 4 > 262144 || !zeroRange b 14 16 ||
  !zeroRange b 80 88 || b.length != (if enc then 224 else 88) || (enc && keyBlockBad (b.drop 88))

/-- The limits of a tenant descriptor. -/
def tenantOf (b : Bytes) : Tenant :=
  { state := .active, encrypt := bit (byteAt b 1) 0, wireProt := bit (byteAt b 1) 1, poolMib := fieldAt b 4 4, dirMax := fieldAt b 8 4
    connMax := fieldAt b 12 2, anchor := (b.drop 16).take 64 }

/-- TENANT_CREATE (R301). -/
def tenantCreate (s : State) (b : Bytes) : Nat × State :=
  let t := byteAt b 0 % 64
  let put := fun (T : Tenant) => (s.updTenant t fun _ => T).tenantMoved t
  if tenantBad b then (sBAD, s)
  else match (s.tenant t).state with
    | .active => (sCONFLICT, s)
    | .draining => (sGONE, s)
    | .scrubbing => (sGONE, s)
    | .absent =>
      if !bit (byteAt b 1) 0 then (if s.sec.conf then (sAUTH, s) else (sOK, put (tenantOf b)))
      else match unwrapKey t 0 (b.drop 88) with
        | .error st => (st, s.count bSEC 0 1)
        | .ok key => (sOK, (put { tenantOf b with curGen := byteAt b 88, curKey := key }).count bSEC 0 0)

/-- TENANT_CREATE. -/
def execTenantCreate (h : HostCmd) (body : Bytes) (s : State) : Host.Outcome State Fault Refusal :=
  let s := (s.take (.host h) 0x40 body).2
  match hostCheck s h 0x40 body with
  | some st => .next (s.complete h st)
  | none => let r := tenantCreate s body; .next (r.2.complete h r.1)

/-! ### KEY_ROTATE (R309, R316) -/

/-- KEY_ROTATE PAGE_KEY, and every reserved OP. -/
def rotatePageKey (s : State) (b : Bytes) : Nat × State :=
  let t := byteAt b 0 % 64
  let T := s.tenant t
  if b.length != 140 || byteAt b 0 ≥ 64 || byteAt b 1 != 0 || !zeroRange b 2 4 || keyBlockBad (b.drop 4) then (sBAD, s)
  else if T.state ≠ .active then (sGONE, s)
  else if T.prevGen ≠ 0 then (sCONFLICT, s)
  else match unwrapKey t T.curGen (b.drop 4) with
    | .error st => (st, s.count bSEC 0 1)
    | .ok key =>
      let s := s.updTenant t fun T => { T with prevGen := T.curGen, prevKey := T.curKey, curGen := byteAt b 4, curKey := key }
      (sOK, (s.count bSEC 0 0).tenantState t)

/-- KEY_ROTATE_PAGE_KEY. -/
def execKeyRotatePageKey (h : HostCmd) (body : Bytes) (s : State) : Host.Outcome State Fault Refusal :=
  if byteAt body 1 = 1 then .next s
  else
    let s := (s.take (.host h) 0x45 body).2
    match hostCheck s h 0x45 body with
    | some st => .next (s.complete h st)
    | none => let r := rotatePageKey s body; .next (r.2.complete h r.1)

/-- Every protected connection of a tenant advances its send epoch at its next packet (R316). -/
def Xpt.rotate (t : Nat) (X : Xpt) : Xpt :=
  { X with conns := X.conns.map fun (e : Nat × Conn) =>
      (e.1, if e.2.state ≠ .free ∧ e.2.prot = true ∧ e.2.tenant = t then { e.2 with keys := { e.2.keys with rotate := true } } else e.2) }

/-- KEY_ROTATE WIRE_EPOCH. -/
def rotateWire (s : State) (b : Bytes) : Nat × State :=
  let t := byteAt b 0 % 64
  if b.length < 2 || byteAt b 0 ≥ 64 || !zeroRange b 2 b.length then (sBAD, s)
  else if (s.tenant t).state ≠ .active then (sGONE, s)
  else (sOK, [0, 1, 2, 3].foldl (fun s q => s.updXpt q (Xpt.rotate t)) s)

/-- KEY_ROTATE_WIRE_EPOCH. -/
def execKeyRotateWireEpoch (h : HostCmd) (body : Bytes) (s : State) : Host.Outcome State Fault Refusal :=
  if byteAt body 1 ≠ 1 then .next s
  else
    let s := (s.take (.host h) 0x45 body).2
    match hostCheck s h 0x45 body with
    | some st => .next (s.complete h st)
    | none => let r := rotateWire s body; .next (r.2.complete h r.1)

/-! ### The key sweep (R310, R311) -/

/-- A page that the sweep cannot rewrite stays for the next tick; the first skip of it is reported (Table 12-11, cause 2). -/
def State.sweepSkip (s : State) (t : Nat) (x : Nat × Nat × Nat × Nat) (again : Bool) : State :=
  let s := s.updTenant t fun T => { T with skipped := T.skipped ++ [x] }
  if again then s else s.postTenant t { type := 0x08, p0 := t + 2 * 256, p1 := (s.tenant t).prevGen }

/-- The stored bytes of a page re-encrypted from the previous generation to the current one: payload and header. -/
def reKey (T : Tenant) (key gen frame page : Nat) (sh : Shape) (b : Bytes) : Bytes :=
  let h := PageHdr.ofBytes b
  let plain := decryptPay T.prevKey (pageTweak h.tweak page frame key) ((b.drop 64).take sh.payload)
  ({ h with keyGen := T.curGen, tweak := gen } : PageHdr).bytes ++ encryptPay T.curKey (pageTweak gen page frame key) plain ++
    b.drop (64 + sh.payload)

/-- KEY_SWEEP_PAGE: one page of a frame of the tenant, in HBM or in the spill tier. -/
def keySweepPage (s : State) (t q key frame page : Nat) : State :=
  let T := s.tenant t
  let x := (q, key, frame, page)
  let again := T.skipped.contains x
  let s := s.updTenant t fun T => { T with skipped := T.skipped.filter fun y => !(y == x) }
  match s.entryOf q key, s.segOf q key with
  | some (_, e), some (_, g) =>
    match g.frames[frame]?, s.shape t g.shapeId with
    | some fr, some sh =>
      if T.state ≠ .active ∨ T.prevGen = 0 ∨ g.tenant ≠ t ∨ page ≥ 32 ∨ e.state = SegState.retired then s
      else
        let h := s.rawHdr q fr page sh
        if !h.enc || h.keyGen ≠ T.prevGen then s
        else if e.state = SegState.incoming ∨ s.qOff q then s.sweepSkip t x again
        else
          let a := fr.addr + page * sh.slot
          if fr.spilled then
            match s.spillAt q a t false, s.spillAt q a t true with
            | .ok x, .ok _ => (s.hostWrite 0 x (reKey T key e.gen frame page sh (Mem.read (s.hostMem 0) x sh.slot))).count bSEC 0 5
            | _, _ => s.sweepSkip t x again
          else
            match s.slotStored q key fr page sh with
            | .error _ => s.sweepSkip t x again
            | .ok b =>
              if s.eccIn q fr.stack a sh.slot then s.sweepSkip t x again
              else (s.stackWrite q fr.stack a sh.slot (memOf (reKey T key e.gen frame page sh b))).count bSEC 0 5
    | _, _ => s
  | _, _ => s

/-- KEY_SWEEP_PAGE. -/
def execKeySweepPage (tenant : Fin 64) (q : Fin 4) (key frame page : Nat) (s : State) : Host.Outcome State Fault Refusal :=
  .next (keySweepPage s tenant q key frame page)

/-- KEY_GEN_RETIRE (R311): OLD_PAGES and OLD_READS are 0. No read is under way between commands, so OLD_READS is 0. -/
def keyGenRetire (s : State) (t : Nat) : State :=
  let gen := (s.tenant t).prevGen
  if gen = 0 ∨ s.oldPages t ≠ 0 then s
  else
    let s := s.updTenant t fun T => { T with prevGen := 0, prevKey := 0, skipped := [] }
    (s.postTenant t { type := 0x08, p0 := t + 256, p1 := gen }).tenantState t

/-- KEY_GEN_RETIRE. -/
def execKeyGenRetire (tenant : Fin 64) (s : State) : Host.Outcome State Fault Refusal := .next (keyGenRetire s tenant)

/-! ### TENANT_DRAIN (R318, R319) -/

/-- Work of a tenant that waits on an assist entry waits no more. -/
def State.dropTenantAssists (s : State) (t : Nat) : State :=
  let ofCoder := fun (q c : Nat) => match (s.coder q c).key with | some k => keyTenant k == t | none => false
  { s with host := { s.host with assists := s.host.assists.filter fun a =>
      match a.purpose with
      | .alloc x => keyTenant (bodyKey x.body) != t
      | .dirLookup k _ => keyTenant k != t
      | .decode (.coder q c) _ _ _ _ _ => !ofCoder q c
      | .encode _ _ key _ _ => keyTenant key != t
      | _ => true } }

/-- The ticket of an operation waits for the chain's tail no more. -/
def Chain.unwait (tk : Nat) (c : Chain) : Chain :=
  let f := fun (x : Forward) => if x.waiter = some tk then { x with waiter := none } else x
  { c with queue := c.queue.map f, outstanding := c.outstanding.map f }

/-- No forward of a Quarter answers a ticket. -/
def Store.unwait (tk : Nat) (S : Store) : Store :=
  { S with segs := S.segs.map fun (e : Nat × Seg) => (e.1, { e.2 with chain := e.2.chain.unwait tk })
           late := S.late.map fun (e : Nat × Forward) => (e.1, if e.2.waiter = some tk then { e.2 with waiter := none } else e.2)
           holds := S.holds.filter fun h => h.ticket != tk }

/-- End one ticket of a request with TENANT_GONE (Table 11-9). -/
def State.endTicket (s : State) (tk status : Nat) : State :=
  match s.ticket tk with
  | none => s
  | some _ =>
    if (s.request tk).isSome then s.closeReq tk status 0 [] 0
    else ((s.unpark tk).updStore (tkQ tk) (Store.unwait tk)).finish tk status

/-- End one reseat of a draining tenant, on either side (Table 11-9). -/
def State.endReseat (s : State) (id status : Nat) : State :=
  match s.ticket id with
  | none => s
  | some t => if t.side = 0 then s.reseatEnd t status true else s.dropIncoming t

/-- Tickets of a tenant, of one kind or the other. -/
def State.ticketsOf (s : State) (t : Nat) (reseat : Bool) : List Nat :=
  s.quarters.flatMap fun e => ((e.2.tk.ofTenant t).filter fun x => (x.kind == 3) == reseat).map fun x => x.id

/-- A descriptor of the tenant on an engine ends; a running one stops at a 128-byte boundary that its progress gives, which is
open. -/
def State.endEngine (s : State) (q t e : Nat) : State :=
  let E := s.eng q e
  match E.desc with
  | none => s
  | some d =>
    if d.tenant ≠ t then s
    else if E.state = .running then
      let top := match s.anyStop q d E.done with | some x => x.off | none => d.bytes
      let r := s.drawFree
      let s := r.2.anyMove q d E.done (E.done + 128 * (r.1 % ((top - E.done) / 128 + 1)))
      (s.freeEng q e).dmaEndWith q d sGONE
    else (s.freeEng q e).dmaEndWith q d sGONE

/-- Every DMA descriptor of the tenant in a Quarter ends. -/
def State.endDma (s : State) (q t : Nat) : State :=
  let mine := (s.qtr q).store.dmaQueue.filter fun d => d.tenant == t
  let s := s.updStore q fun S => { S with dmaQueue := S.dmaQueue.filter fun d => d.tenant != t }
  let s := mine.foldl (fun s d => s.dmaEndWith q d sGONE) s
  (List.range 4).foldl (fun s e => s.endEngine q t e) s

/-- Segments of a tenant in a Quarter. -/
def State.keysOf (s : State) (q t : Nat) : List Nat :=
  ((s.qtr q).store.segs.filter fun e => e.2.tenant == t).map fun e => mkKey e.2.tenant e.2.conv e.2.seg

/-- Passes and sweeps leave the tenant's segments, and its cached pages go. -/
def State.endPages (s : State) (q t : Nat) : State :=
  let s := s.updPcd q fun P => { (s.keysOf q t).foldl (fun P k => P.leave k) P with
    sweepKeys := P.sweepKeys.filter fun k => keyTenant k != t }
  s.updStore q fun S => { S with cache := S.cache.filter fun e => keyTenant e.key != t }

/-- Frames of a tenant queued at a port are discarded. -/
def Port.dropTenant (t : Nat) (P : Port) : Port :=
  { P with classes := P.classes.map fun (e : Nat × TxClass) =>
      (e.1, { e.2 with round := e.2.round.filter (fun q => q.tenant != t)
                       visiting := e.2.visiting && (match e.2.round with | [] => false | q :: _ => q.tenant != t) }) }

/-- Connections of a tenant that are not FREE. -/
def State.connsNotFree (s : State) (t : Nat) : List Nat :=
  s.quarters.flatMap fun e => (e.2.xpt.conns.filter fun c => c.2.state != .free && c.2.tenant == t).map fun c => e.1 * 16384 + c.1

/-- A connection of a draining tenant sends RESET with TENANT_GONE and goes to ERROR. -/
def State.endConn (s : State) (i : Nat) : State :=
  if (s.conn i).state = .error then s else (s.sendHello i 3 sGONE).connError i sGONE

/-- Stage 1: the keys of protected connections are zeroised, and no packet carries their receive epochs. -/
def Xpt.zeroise (t : Nat) (X : Xpt) : Xpt :=
  { X with conns := X.conns.map fun (e : Nat × Conn) =>
      (e.1, if e.2.prot = true ∧ e.2.tenant = t then { e.2 with keys := { e.2.keys with secret := 0, zeroised := true } } else e.2) }

/-- Stages 1 and 2 of a drain (Tables 11-8, 11-9). The answers of the ended work are handed over before the connections end. -/
def drainStart (s : State) (t : Nat) : State :=
  let s := (s.updTenant t fun T => { T with state := .draining }).tenantMoved t
  let s := s.dropTenantAssists t
  let s := (s.ticketsOf t true).foldl (fun s id => s.endReseat id sGONE) s
  let s := (s.ticketsOf t false).foldl (fun s id => s.endTicket id sGONE) s
  let s := [0, 1, 2, 3].foldl (fun s q => (s.endDma q t).endPages q t) s
  let s := [0, 1, 2, 3].foldl (fun s q => (s.updXpt q (Xpt.zeroise t)).updPort q (Port.dropTenant t)) s
  (s.connsNotFree t).foldl (fun s i => s.endConn i) s

/-- TENANT_DRAIN (R302, R318). -/
def tenantDrain (s : State) (h : HostCmd) (b : Bytes) : State :=
  let t := byteAt b 0
  if b.length ≠ 1 ∨ t = 0 ∨ t ≥ 64 then s.complete h sBAD
  else match (s.tenant t).state with
    | .absent => s.complete h sGONE
    | .active => settle (drainStart (s.updTenant t fun T => { T with drainers := [(h, true)] }) t)
    | _ => s.updTenant t fun T => { T with drainers := T.drainers ++ [(h, false)] }

/-- TENANT_DRAIN. -/
def execTenantDrain (h : HostCmd) (body : Bytes) (s : State) : Host.Outcome State Fault Refusal :=
  let s := (s.take (.host h) 0x41 body).2
  match hostCheck s h 0x41 body with
  | some st => .next (s.complete h st)
  | none => .next (tenantDrain s h body)

/-- Stage 4 in one Quarter: every frame of the tenant is released, and its directory entries, tombstones and maps go. -/
def State.scrubQuarter (s : State) (q t : Nat) : State :=
  let s := (s.keysOf q t).foldl (fun s k => s.releaseSeg q k) s
  let gone := ((s.qtr q).dir.slots.filter fun e => keyTenant e.2.key == t).map fun e => e.1
  let s := gone.foldl (fun s a => s.dirDel q a) s
  s.updQ q fun Q => { Q with maps := Q.maps.filter fun m => keyTenant m.key != t }

/-- DRAIN_WORK_ENDED (R318): stages 3 and 4 begin when DRAIN_ITEMS is 0. -/
def drainWorkEnded (s : State) (t : Nat) : State :=
  if (s.tenant t).state ≠ .draining ∨ s.drainItems t ≠ 0 then s
  else
    let s := s.updTenant t fun T => { T with state := .scrubbing, curGen := 0, curKey := 0, prevGen := 0, prevKey := 0, skipped := [] }
    let s := [0, 1, 2, 3].foldl (fun s q => s.scrubQuarter q t) s
    let s := { s with sec := { s.sec with shapes := s.sec.shapes.filter fun e => e.1 / 16 != t } }
    s.tenantMoved t

/-- DRAIN_WORK_ENDED. -/
def execDrainWorkEnded (tenant : Fin 64) (s : State) : Host.Outcome State Fault Refusal := .next (drainWorkEnded s tenant)

/-- DRAIN_SCRUB_DONE (R318): no frame of the tenant is left to scrub; it is ABSENT, and the drains complete. -/
def drainScrubDone (s : State) (t : Nat) : State :=
  let T := s.tenant t
  if T.state ≠ .scrubbing ∨ (s.quarters.any fun e => e.2.store.releases.any fun r => r.tenant == t) then s
  else
    let s := ((s.updTenant t fun _ => {}).postTenant t { type := 0x08, p0 := t, p1 := 5 }).count bSEC 0 9
    let s := s.tenantMoved t
    T.drainers.foldl (fun s d => s.complete d.1 (if d.2 then sOK else sDUPLICATE)) s

/-- DRAIN_SCRUB_DONE. -/
def execDrainScrubDone (tenant : Fin 64) (s : State) : Host.Outcome State Fault Refusal := .next (drainScrubDone s tenant)

/-! ### Attestation (R323) -/

/-- A partition entry of a report (Table 11-12). -/
def State.partition (s : State) (t : Nat) : Bytes :=
  let T := s.tenant t
  leBytes 1 t ++ leBytes 1 (T.state.code + 4 * b2n T.encrypt + 8 * b2n T.wireProt) ++ leBytes 1 T.curGen ++ leBytes 1 T.prevGen ++
  leBytes 4 T.poolMib ++ leBytes 4 (s.poolUsedMib t) ++ leBytes 4 T.dirMax ++ leBytes 2 T.connMax ++ leBytes 6 0 ++
  leBytes 8 (Config.sm3 T.anchor)

/-- A field of the image in use. -/
def State.image (s : State) : Image := s.boot.image.getD {}

/-- A digest as 32 bytes; zero where there is none. -/
def digest32 (b : Bytes) : Bytes := (b ++ List.replicate 32 0).take 32

/-- FUSES of a report: bits [7:0] of SEC_FUSE (Table 11-15). -/
def State.fuses (s : State) : Nat := b2n s.sec.fuseConfLock + 2 * b2n s.sec.fuseJtagKill + 4 * b2n s.sec.fuseIdentProg

/-- A report over the given tenants, before its signature: `scope` is none for a full report (Table 11-11). -/
def State.reportBody (s : State) (scope : Option Nat) (nonce : Bytes) (ts : List Nat) : Bytes :=
  let fixed :=
    leBytes 2 1 ++ leBytes 1 (b2n scope.isSome) ++ leBytes 1 (scope.getD 0) ++ nonce ++
    leBytes 2 (s.boot.nodeId.getD 0 + 16384 * b2n s.boot.nodeId.isSome) ++ leBytes 2 0 ++ leBytes 32 Config.romDigest ++
    digest32 s.image.fwDigest ++ digest32 s.image.digest ++ leBytes 1 s.boot.slot ++ leBytes 1 s.fuses ++
    leBytes 1 (b2n s.sec.jtagEn + 2 * b2n s.sec.traceEn) ++
    leBytes 1 (b2n s.sec.conf + 2 * b2n s.sec.testConfig + 4 * b2n (s.finjPermit != 0) + 8 * b2n (s.finjStatus % 16 != 0)) ++
    leBytes 4 s.finjPermit ++ leBytes 4 s.finjStatus ++ leBytes 4 s.image.nodes ++ leBytes 8 s.time ++ leBytes 2 ts.length ++
    leBytes 94 0
  fixed ++ (ts.flatMap fun t => s.partition t) ++ leBytes 480 Config.certs

/-- A signed report. -/
def State.report (s : State) (scope : Option Nat) (nonce : Bytes) (ts : List Nat) : Bytes :=
  let b := s.reportBody scope nonce ts
  b ++ leBytes 64 (Config.sm2Sign b)

/-- Tenants that are not ABSENT, ascending. -/
def State.present (s : State) : List Nat := (List.range 64).filter fun t => (s.tenant t).state != .absent

/-- ATTEST (R323): the report of a function is scoped to its tenant; its entry is there whatever the tenant's state. -/
def attest (s : State) (h : HostCmd) (nonce : Bytes) : State :=
  if nonce.length ≠ 32 then s.complete h sBAD
  else (s.count bSEC 0 8).complete h sOK 0 (s.report (some h.fn) nonce [h.fn])

/-- ATTEST. -/
def execAttest (h : HostCmd) (nonce : Bytes) (s : State) : Host.Outcome State Fault Refusal :=
  let s := (s.take (.host h) 0x4B nonce).2
  match hostCheck s h 0x4B nonce with
  | some st => .next (s.complete h st)
  | none => .next (attest s h nonce)

end Sys2Proof.Machine
end

