-- ==== Sys2Proof/Machine/Assist.lean ====
section
/-!
DEFINITION. The answers of the host (R344, R432, R433): ASSIST_REPLY, ASSIST_TIMEOUT, and what each host-assisted function does with
an answer or without one.
-/
namespace Sys2Proof.Machine

/-- What the host has answered: its STATUS and the bytes that follow it; none when it has not answered in time. -/
abbrev HostAns := Option (Nat × Bytes)

/-- The bytes of an answer with STATUS OK. -/
def okAns (a : HostAns) : Option Bytes :=
  match a with | some (st, b) => if st = sOK then some b else none | none => none

/-- An operation that waited for the host or for the directory goes on, unless its ticket has gone meanwhile. -/
def State.resumeOp (s : State) (e : Inbound) (addrs : Option (List (Nat × Nat))) : State :=
  if (match e.ticket with | some t => (s.ticket t).isNone | none => false) then s
  else if e.opcode = 0x15 then attendOp s e []
  else if e.opcode = 0x18 then reseatOp s e addrs
  else segOp s e addrs

/-! ### Index 2: frames (R165) -/

/-- The addresses that an answer lists, 8 bytes each: local stack and stack address. An answer that is not OK, or that is cut short,
lists none, and then allocation ends with STORE_FULL. -/
def ansAddrs (a : HostAns) : List (Nat × Nat) :=
  match okAns a with
  | none => []
  | some b =>
    if b.length % 8 ≠ 0 then []
    else (List.range (b.length / 8)).map fun i => let v := fieldAt b (8 * i) 8; (v / 2 ^ 36, v % 2 ^ 36)

/-! ### Index 0: the directory -/

/-- The segment state of a code (Table 2-10). -/
def segState (c : Nat) : Option SegState :=
  match c with
  | 0 => some .opened | 1 => some .sealed | 2 => some .coded | 3 => some .moving | 4 => some .retired | 5 => some .incoming
  | _ => none

/-- The entry that 64 bits of associated data give for a key (Table 2-9). -/
def dataEntry (key v : Nat) : Option DirEntry :=
  if bits v 63 51 ≠ 0 ∨ bits v 1 0 ≠ 0 then none
  else (segState (bits v 50 48)).map fun st => { key := key, stack := 0, descAddr := bits v 31 2, gen := bits v 47 32, state := st }

/-- The descriptor that an entry names is one of the heap, and is the key's (Table 16-7). -/
def State.descMatches (s : State) (q : Nat) (e : DirEntry) : Bool :=
  match (s.qtr q).store.segs.look e.descAddr with
  | some g => mkKey g.tenant g.conv g.seg == e.key && g.gen == e.gen
  | none => false

/-- The host answers a lookup: the entry is inserted when its descriptor matches; otherwise the key is absent. -/
def State.dirAnswer (s : State) (q key : Nat) (a : HostAns) : State :=
  match okAns a with
  | none => s
  | some b =>
    if b.length ≠ 8 ∨ (s.entryOf q key).isSome then s
    else match dataEntry key (fieldAt b 0 8) with
      | none => s
      | some e =>
        if !s.descMatches q e then s
        else match s.freeEntry q with
          | none => s
          | some at_ => (if (Tab.look at_ (s.qtr q).dir.slots).isSome then s.dirDel q at_ else s).dirPut q at_ e

/-! ### Index 4: decoding (R208) -/

/-- Bytes that the answer to a K or a V unit has. -/
def unitLen (sh : Shape) (isV : Bool) : Nat := if isV then sh.vb else sh.kb

/-- The core that waits with a job at this page, with its request. -/
def State.waitingJob (s : State) (q id key frame page : Nat) : Option (Job × Request × JobFrame) :=
  match s.job q id with
  | none => none
  | some j =>
    match s.request j.ticket, j.frameOf (j.firstRun + j.nextRun) with
    | some r, some f =>
      if (s.core q j.core).job = some id ∧ f.key = key ∧ f.frame = frame ∧
         (j.firstRun + j.nextRun) % 4 * 8 + j.nextBlock / 2 = page then some (j, r, f) else none
    | _, _ => none

/-- A whole page that the host has expanded for a job is folded, and may fill the page cache. -/
def State.foldExpanded (s : State) (q : Nat) (j : Job) (r : Request) (f : JobFrame) (page : Nat) (h : PageHdr) (pay : Bytes) :
    State :=
  let bl := [0, 1].map fun b => vBlock r.shape pay h.tokens (f.seg * 2048) page b r.viewEnd none false
  let s := if s.fillsFor q j.cls && h.tokens != 0 then s.fillRead q f.key f.frame page f.stack (s.frameRef q f).addr r.shape h pay else s
  let w := s.foldBlocks q j.core r j bl
  w.2.afterFold q j.core j w.1

/-- The host has answered a unit of a page that a job reads: the V unit follows the K unit, and then the page is folded. Without a
valid answer the run is not covered, and the page is not marked. -/
def State.jobUnit (s : State) (q id key frame page : Nat) (isV : Bool) (kPart : Bytes) (a : HostAns) : State :=
  match s.waitingJob q id key frame page with
  | none => s
  | some (j, r, f) =>
    let skip := fun (s : State) => s.afterFold q j.core j j.skip
    match okAns a with
    | none => skip s
    | some b =>
      if b.length ≠ unitLen r.shape isV then skip s
      else match s.plainStored q key (s.frameRef q f) frame page r.shape with
        | .err (.needHost h pay) =>
          if isV then s.foldExpanded q j r f page h (kPart ++ b ++ pay.drop (r.shape.kb + r.shape.vb))
          else match s.postUnit q (.job q id) f page r.shape h pay b with
            | some s => s
            | none => skip s
        | .ok h pay => s.foldExpanded q j r f page h pay
        | .err e => skip (s.pageFailed q key (s.frameRef q f) frame page r.shape e)

/-- The host has answered a unit of a page that a sweep re-codes. -/
def State.coderUnit (s : State) (q c key frame page : Nat) (isV : Bool) (kPart : Bytes) (a : HostAns) : State :=
  let C := s.coder q c
  if C.key ≠ some key ∨ C.frame ≠ frame ∨ C.page ≠ page ∨ !C.asked then s
  else match s.codeSeg q key C.sweep with
    | none => coderPlain s q c none
    | some (_, g, sh) =>
      match okAns a, g.frames[frame]? with
      | some b, some fr =>
        if b.length ≠ unitLen sh isV then coderPlain s q c none
        else if isV then coderPlain s q c (some (kPart ++ b))
        else match s.plainStored q key fr frame page sh with
          | .err (.needHost h pay) =>
            let f : JobFrame := { seg := keySeg key, key := key, gen := 0, frame := frame, stack := fr.stack, addr := fr.addr }
            match s.postUnit q (.coder q c) f page sh h pay b with
            | some s => s
            | none => coderPlain s q c none
          | _ => coderPlain s q c none
      | _, _ => coderPlain s q c none

/-- The host has answered a page that a coder posted (index 3). -/
def State.encodeAnswer (s : State) (q c key frame page : Nat) (a : HostAns) : State :=
  let C := s.coder q c
  if C.key = some key ∧ C.frame = frame ∧ C.page = page then coderUnits s q c (okAns a) else s

/-! ### Index 10: orphans (R190, R431) -/

/-- The record that an orphan's answer goes by: the newest that is readable. -/
def TkPool.orphanRec (T : TkPool) (slot : Nat) : Option Ticket :=
  match T.onChip.look slot, T.spill.look slot with
  | some a, some b => if 1 ≤ serialDiff 65536 b.epoch a.epoch ∧ serialDiff 65536 b.epoch a.epoch ≤ 32767 then some b else some a
  | some a, none => some a
  | none, some b => some b
  | none, none => none

/-- Everything of a ticket's work that is left in the node goes. -/
def State.clearWork (s : State) (tk : Nat) : State :=
  let s := ((s.dropAllJobs tk).updDove (tkQ tk) fun D => { D with reqs := D.reqs.del tk }).dropAssists tk
  ((s.unpark tk).updStore (tkQ tk) (Store.unwait tk)).dropReseatDma (tkQ tk) tk

/-- Answer to where a ticket's record says (REPLY of Table 6-8). -/
def State.replyTo (s : State) (t : Ticket) (status : Nat) : State :=
  let a := s.withEntry (tkQ t.id) t.key { tag := t.cmd, status := status, opcode := t.opcode }
  if s.reachable t.origin t.connIncarn then s.answerOp t.origin (tkQ t.id) a (if t.child then 0x16 else 0x1A) else s

/-- An orphan ends (R190): with a status to its newest readable record's REPLY, or silently. -/
def State.endOrphan (s : State) (id status : Nat) (silent : Bool) : State :=
  let q := tkQ id
  let T := (s.qtr q).tk
  if !T.orphans.contains (tkSlot id) then s
  else
    let r := T.orphanRec (tkSlot id)
    let s := (s.clearWork id).freeTicket id
    let s := match r with
      | some t =>
        if silent then s.count bTKT q 7
        else (s.replyTo { t with id := id } status).count bTKT q (if status = sABORTED then 5 else 6)
      | none => s.count bTKT q 7
    [0, 1, 2, 3].foldl (fun s k => s.sweepHeld k) s

/-- The host answers an orphan's entry: ORPHANED, ABORTED_RETRYABLE or 0xFF for silent; anything else, or no answer, as R431. -/
def State.orphanAnswer (s : State) (id : Nat) (a : HostAns) : State :=
  match a with
  | some (st, _) => if st = sABORTED then s.endOrphan id sABORTED false else s.endOrphan id sORPHANED (st == 0xFF)
  | none => s.endOrphan id sORPHANED false

/-! ### Answers reach what waits for them -/

/-- An entry ends with an answer or without one (Table 16-7). -/
def State.assistDone (s : State) (p : AssistFor) (a : HostAns) : State :=
  match p with
  | .alloc op => s.resumeOp op (some (ansAddrs a))
  | .dirLookup key op => (s.dirAnswer (homeQ key) key a).resumeOp { op with asked := key :: op.asked } none
  | .decode (.job q id) key frame page isV kPart => s.jobUnit q id key frame page isV kPart a
  | .decode (.coder q c) key frame page isV kPart => s.coderUnit q c key frame page isV kPart a
  | .encode q c key frame page => s.encodeAnswer q c key frame page a
  | .merge tk => s.mergeAnswer tk a
  | .piece _ => s
  | .steer tk group first last =>
    s.steerAnswer tk group first last (match okAns a with | some b => if b.length = 2 then fieldAt b 0 2 else 0xFFFF | none => 0xFFFF)
  | .orphan id => s.orphanAnswer id a

/-- The waiting entry of a tag. -/
def State.assistOf (s : State) (tag : Nat) : Option Assist := s.host.assists.find? fun a => a.tag == tag

/-- An entry waits no more. -/
def State.endAssist (s : State) (tag : Nat) : State :=
  { s with host := { s.host with assists := s.host.assists.filter fun a => a.tag != tag } }

/-- ASSIST_REPLY (R344, R432): PULL writes the entry's data to the result buffer and the entry goes on waiting; ANSWER ends it. -/
def assistReply (s : State) (h : HostCmd) (b : Bytes) : State :=
  if b.length < 8 ∨ byteAt b 5 ≥ 2 ∨ !zeroRange b 6 8 then s.complete h sBAD
  else
    let tag := fieldAt b 0 4
    match s.assistOf tag with
    | none => s.complete h sSTALE
    | some e =>
      if byteAt b 5 = 1 then s.complete h sOK 0 e.data
      else ((s.endAssist tag).assistDone e.purpose (some (byteAt b 4, b.drop 8))).complete h sOK

/-- ASSIST_REPLY. -/
def execAssistReply (h : HostCmd) (body : Bytes) (s : State) : Host.Outcome State Fault Refusal :=
  let s := (s.take (.host h) 0x47 body).2
  match hostCheck s h 0x47 body with
  | some st => .next (s.complete h st)
  | none => .next (settle (assistReply s h body))

/-- An entry is timed out (R344). -/
def State.assistOut (s : State) (e : Assist) : State :=
  ((s.endAssist e.tag).count bHQ 0 5).assistDone e.purpose none

/-- Assist timeout in ns: values below 100 µs are treated as 100 (HQ_ASSIST_CTL). -/
def State.assistNs (s : State) : Nat := max 100 (s.reg bHQ 0 4 % 65536) * 1000

/-- ASSIST_TIMEOUT (R344). -/
def execAssistTimeout (tag : Nat) (s : State) : Host.Outcome State Fault Refusal :=
  .next (match s.assistOf tag with
    | none => s
    | some e => settle ((s.advance (e.posted + s.assistNs)).assistOut e))

end Sys2Proof.Machine
end

