-- ==== Sys2Proof/Machine/Faults.lean ====
section
/-!
DEFINITION. Faults and tests (ch. 16): cores, the directory's rebuild and express lane, ticket pools, HBM errors, stacks, Quarters and
the Square.
-/
namespace Sys2Proof.Machine

/-! ### Cores (R428, R434) -/

/-- CORE_FAULT (R428): the core leaves dispatch at once and stays offline; the run it was folding and the jobs whose contexts it held are
cut again. -/
def coreFault (s : State) (q k : Nat) : State :=
  let c := s.core q k
  if c.faulted || s.qOff q then s
  else
    let ids := c.saved ++ c.saving.toList ++ c.job.toList
    let lost := c.saved.length + b2n c.saving.isSome
    let s := s.updOne q k fun _ => { online := false, faulted := true }
    let s := ids.foldl (fun s id => match s.job q id with | some j => s.recut q j | none => s) s
    ((s.coreBit q k).postFault 4 (8 * q + k) k lost q).checkMisses

/-- CORE_FAULT. -/
def execCoreFault (core : Fin 32) (s : State) : Host.Outcome State Fault Refusal := .next (coreFault s (core / 8) (core % 8))

/-- CORE_TEST_START (R434): a write of DIR_TEST_CTL that changes TEST_SEQ starts the test of a core, or ends it REFUSED while the core is in
dispatch or holds saved contexts, or while a test runs (DEDUCED, assumption 31). -/
def coreTestStart (s : State) (q v : Nat) : State :=
  let old := s.reg bDIR q 0x10
  let s := s.setReg bDIR q 0x10 (w32 v &&& 0xFFFF0007).toNat
  let no := bits v 31 16
  let k := v % 8
  let I := (s.qtr q).core
  if bits old 31 16 = no then s
  else if s.inDispatch q k || (s.core q k).saved != [] || (s.core q k).saving.isSome || I.testRunning.isSome then
    s.updCore q fun I => { I with testSeq := no, testResult := 3 }
  else (s.updCore q fun I => { I with testRunning := some (k, no) }).updOne q k fun c => { c with testing := true }

/-- CORE_TEST_START. -/
def execCoreTestStart (q : Fin 4) (value : Word) (s : State) : Host.Outcome State Fault Refusal :=
  .next (if s.qOff q then s.offWrite bDIR q 0x10 else coreTestStart s q value.toNat)

/-- CORE_TEST_DONE (R434): a core that fails stays offline until reset. -/
def coreTestDone (s : State) (q : Nat) (pass : Bool) : State :=
  match (s.qtr q).core.testRunning with
  | none => s
  | some (k, no) =>
    let s := s.updCore q fun I => { I with testRunning := none, testSeq := no, testResult := if pass then 1 else 2 }
    s.updOne q k fun c => { c with testing := false, online := c.online && pass, faulted := c.faulted || !pass }

/-- CORE_TEST_DONE. -/
def execCoreTestDone (q : Fin 4) (pass : Bool) (s : State) : Host.Outcome State Fault Refusal := .next (coreTestDone s q pass)

/-! ### The directory (R423, R425) -/

/-- DIR_XL_RESTORE (Table 16-12): the express lane may take requests again. -/
def execDirXlRestore (q : Fin 4) (s : State) : Host.Outcome State Fault Refusal :=
  .next (if s.qOff q then s.offWrite bDIR q 8 else s.updDir q fun d => { d with xlDisabled := false, xlMismatch := 0 })

/-- DIR_XL_REBUILD (Table 16-12): a rebuild starts; ignored and counted while one runs. -/
def execDirXlRebuild (q : Fin 4) (s : State) : Host.Outcome State Fault Refusal :=
  .next (if s.qOff q then s.offWrite bDIR q 8
    else if (s.qtr q).dir.rebuilding then s.count bDIR q 10 else s.startRebuild q)

/-- A reseat whose segment is lost ends: the source gives it up, the destination removes its entry (DEDUCED, assumption 32). -/
def State.loseReseat (s : State) (q key : Nat) : State :=
  let s := match s.reseatOf q key 0 with | some t => s.reseatEnd t sABORTED true | none => s
  match s.reseatOf q key 1 with | some t => s.dropIncoming t | none => s

/-- A segment is lost (R425, Table 16-3): its holds are answered GAP when `gap`, its frames and descriptor are released, and its key has
no entry. -/
def State.loseSeg (s : State) (q key : Nat) (gap : Bool) : State :=
  let s := s.loseReseat q key
  let hs := if gap then (s.qtr q).store.holds.filter fun h => h.key == key else []
  let s := hs.foldl (fun s h => (s.unhold q h.id).finish h.ticket sGAP (s.holdDetail h.op)) s
  let s := ((s.dropChain q key).leaveCoding q key).releaseSeg q key
  let s := match s.entryOf q key with | some (a, _) => s.dirDel q a | none => s
  s.recheck q key

/-- Entries of a slice after a rebuild (R425): those whose shadow can be read, the lower-addressed of two with one key. -/
def Dir.rebuilt (d : Dir) : Tab DirEntry :=
  let l := d.slots.filter fun e => !d.shadowBad.contains e.1
  (l.filter fun e => !(l.any fun x => x.2.key == e.2.key && x.1 < e.1)).map fun e => (e.1, { e.2 with bad := false })

/-- DIR_REBUILD_DONE (R425): the slice stands as the shadow gives it, lost entries release what they held, and the operations that waited
go on. -/
def dirRebuildDone (s : State) (q : Nat) : State :=
  let d := (s.qtr q).dir
  if !d.rebuilding then s
  else
    let l := d.rebuilt
    let lost := (d.slots.filter fun e => d.shadowBad.contains e.1).map fun e => e.2.key
    let gone := lost.filter fun k => !l.any fun e => e.2.key == k
    let s := s.updDir q fun d => { d with slots := l, shadow := l, shadowBad := [], rebuilding := false, waiting := [] }
    let s := s.count bDIR q 5 lost.length
    let s := gone.foldl (fun s k => s.loseSeg q k false) s
    d.waiting.foldl (fun s e => s.resumeOp e none) s

/-- DIR_REBUILD_DONE. -/
def execDirRebuildDone (q : Fin 4) (s : State) : Host.Outcome State Fault Refusal := .next (settle (dirRebuildDone s q))

/-! ### Ticket pools (R189, R190) -/

/-- A record stands in its own pool, ACTIVE. -/
def Ticket.owns (t : Ticket) (spill : Bool) : Bool := !t.moved && t.ownerSpill == spill

/-- Resolve a slot from its readable records (R189). -/
def resolve (chip spill : Option Ticket) : Option Ticket :=
  let own := fun (t : Ticket) (sp : Bool) => if t.owns sp then some t else none
  match chip, spill with
  | none, none => none
  | some a, none => own a false
  | none, some b => own b true
  | some a, some b =>
    let d := serialDiff 65536 b.epoch a.epoch
    if d = 0 then (if a.ownerSpill then (if b.ownerSpill then own b true else none) else own a false)
    else if d ≤ 32767 then own b true else own a false

/-- One ID of a failed pool (R189, R190): it goes on, its request ends with ABORTED_RETRYABLE when its work was lost in the same fault, or it
is an orphan, of which the newest readable record is kept. -/
def State.resolveId (s : State) (q slot : Nat) (chipBad spillBad workLost : Bool) : State :=
  let T := (s.qtr q).tk
  let id := q * 2 ^ 18 + slot
  let chip := if chipBad then none else T.onChip.look slot
  let spill := if spillBad then none else T.spill.look slot
  let keep := fun (s : State) (c p : Option Ticket) => s.updTk q fun T => { T with
    onChip := match c with | some t => T.onChip.put slot t | none => T.onChip.del slot
    spill := match p with | some t => T.spill.put slot t | none => T.spill.del slot }
  match resolve chip spill with
  | some t =>
    let s := (keep s chip spill).count bTKT q 4
    if !workLost then s
    else if t.kind = 3 then s.endReseat id sABORTED
    else (s.endTicket id sABORTED).count bTKT q 5
  | none =>
    let gone := fun (t : Option Ticket) => t.map fun t => { t with moved := true }
    (keep s (gone chip) (gone spill)).updTk q fun T => { T with orphans := insertUp slot T.orphans }

/-- POOL_FAILURE (R189): `ids` are the slots whose records in the failed pool are lost, `silent` those whose other record cannot be read
either, `lostWork` those whose jobs and pieces the same fault took. -/
def poolFailure (s : State) (q : Nat) (onChip : Bool) (ids lostWork silent : List Nat) : State :=
  let s := (ids.filter (s.qtr q).tk.inUse.contains).foldl (fun s k =>
    s.resolveId q k (onChip || silent.contains k) (!onChip || silent.contains k) (lostWork.contains k)) s
  [0, 1, 2, 3].foldl (fun s k => s.sweepHeld k) s

/-- POOL_FAILURE. -/
def execPoolFailure (q : Fin 4) (onChip : Bool) (ids : List Nat) (lostWork : List Nat) (silent : List Nat) (s : State) :
    Host.Outcome State Fault Refusal :=
  .next (if s.qOff q then s else settle (poolFailure s q onChip ids lostWork silent))

/-! ### Quarters (R429) -/

/-- Requests of other Quarters that have jobs here. -/
def State.guests (s : State) (q : Nat) : List Nat :=
  (((s.qtr q).core.jobs.map fun j => j.ticket).filter fun t => tkQ t != q).eraseDups

/-- Every descriptor of software's in a failed Quarter ends with DOMAIN_OFF (R19). -/
def State.endAllDma (s : State) (q : Nat) : State :=
  let S := (s.qtr q).store
  let l := S.dmaQueue ++ S.engines.filterMap fun e => e.2.desc
  let s := s.updStore q fun S => { S with dmaQueue := [], engines := [] }
  l.foldl (fun s d => match d.user with | .host _ => s.dmaAnswer q d sDOMOFF | .reseat _ => s) s

/-- Assist entries of a failed Quarter's work wait no more. -/
def State.dropQuarterAssists (s : State) (q : Nat) : State :=
  { s with host := { s.host with assists := s.host.assists.filter fun a =>
      match a.purpose with
      | .alloc x => homeQ (bodyKey x.body) != q
      | .dirLookup k _ => homeQ k != q
      | .decode (.job q' _) _ _ _ _ _ => q' != q
      | .decode (.coder q' _) _ _ _ _ _ => q' != q
      | .encode q' _ _ _ _ => q' != q
      | _ => true } }

/-- A Quarter fails (R429): its port goes down, its tickets resolve, its segments are lost on this node, and it is held in Q-OFF until
reset. `chipBad` and `spillBad` say which of its ticket pools can no longer be read. -/
def State.failQuarter (s : State) (q : Nat) (chipBad spillBad : Bool) : State :=
  if (s.qtr q).failed then s
  else
    let guests := s.guests q
    let s := if (s.qtr q).port.linkUp then s.dropLink q else s
    let s := (s.updCore q fun I => { I with jobs := [], cores := [], testRunning := none }).updBsc q fun _ => {}
    let s := (s.endAllDma q).dropQuarterAssists q
    let ids := (s.qtr q).tk.inUse
    let s := ids.foldl (fun s k => s.resolveId q k chipBad spillBad true) s
    let lost := (s.qtr q).tk.orphans.length
    let s := s.updQ q fun Q =>
      { power := .off, failed := true, xpt := Q.xpt, tk := Q.tk, port := { Q.port with failed := true, linkUp := false, training := false } }
    let s := [0, 1, 2, 3].foldl (fun s n => s.updStack (4 * q + n) fun S => { S with selfRefresh := true, bistBank := none }) s
    let s := s.postFault 8 q lost 0 q
    let s := [0, 1, 2, 3].foldl (fun s k => s.sweepHeld k) s
    guests.foldl (fun s tk => s.checkReq tk) s

/-- QUARTER_FAULT (R429): the base die or the compute die of a Quarter, or their crossings. The on-chip ticket pool fails with it (R189). -/
def execQuarterFault (q : Fin 4) (s : State) : Host.Outcome State Fault Refusal := .next (settle (s.failQuarter q true false))

/-! ### Stacks (R429) -/

/-- Frames that lie in a stack. -/
def State.framesOn (s : State) (q ls : Nat) : List (Nat × Nat × FrameRef × Shape) :=
  (s.qtr q).store.segs.flatMap fun e =>
    match s.shape e.2.tenant e.2.shapeId with
    | none => []
    | some sh => (e.2.numbered.filter fun x => !x.2.spilled && x.2.stack == ls).map fun x =>
        (mkKey e.2.tenant e.2.conv e.2.seg, x.1, x.2, sh)

/-- STACK_FAULT (R429): the stack is FAILED and every page of its frames counts as damaged; local stack 0 or 1 takes its Quarter with
it. -/
def stackFault (s : State) (q ls : Nat) : State :=
  if (s.stack (4 * q + ls)).st = .failed || (s.qtr q).failed then s
  else
    let s := if ls ≥ 2 then s.endSeqs q ls (List.range 64) else s
    let s := s.updBank q ls fun B => { B with accesses := [], held := [] }
    let s := s.updStack (4 * q + ls) fun S => { S with st := .failed, bistBank := none }
    let s := s.postFault 7 (4 * q + ls) ls (s.framesOn q ls).length q
    if ls < 2 then s.failQuarter q false (ls == 1) else notReadyEnd s q

/-- STACK_FAULT. -/
def execStackFault (n : Fin 16) (s : State) : Host.Outcome State Fault Refusal := .next (settle (stackFault s (n / 4) (n % 4)))

/-- One frame of a draining stack moves to another stack of the Quarter, by R163 and R164, or is lost. -/
def State.moveFrame (s : State) (q : Nat) (x : Nat × Nat × FrameRef × Shape) : State :=
  let (key, f, fr, sh) := x
  match takeFrame (s.qtr q).store.allocs ((stackOrder 0 f true).filter (s.stackEligible q)) sh.frame with
  | none => s.setFrame q key f fun r => { r with damaged := 2 ^ 32 - 1 }
  | some (ls, a, A) =>
    let c := Mem.slice s.hbm (hbmAddr q fr.stack fr.addr) sh.frame
    let s := s.updStore q fun S => { S with allocs := A }
    let s := s.stackWrite q ls a sh.frame c
    let s := s.setFrame q key f fun r => { r with stack := ls, addr := a }
    let gen := match s.entryOf q key with | some (_, e) => e.gen | none => 0
    (s.dropFrame q key f).releaseFrame q fr.stack fr.addr sh.frame key (nextGen gen)

/-- STACK_DRAIN_DONE (R429): every frame of a DRAINING stack has been copied; the stack returns to READY and supplies no frames. -/
def stackDrainDone (s : State) (q ls : Nat) : State :=
  if (s.stack (4 * q + ls)).st ≠ .draining then s
  else
    let s := (s.framesOn q ls).foldl (fun s x => s.moveFrame q x) s
    let s := s.updStack (4 * q + ls) fun S => { S with st := .ready }
    notReadyEnd (s.setReg bPST q 4 (setBit (s.reg bPST q 4) ls false)) q

/-- STACK_DRAIN_DONE. -/
def execStackDrainDone (n : Fin 16) (s : State) : Host.Outcome State Fault Refusal :=
  .next (settle (stackDrainDone s (n / 4) (n % 4)))

/-! ### Uncorrectable HBM errors (R429, Table 16-3) -/

/-- The frame that holds a stack address. -/
def State.frameHolding (s : State) (q ls a : Nat) : Option (Nat × Nat × FrameRef × Shape) :=
  (s.framesOn q ls).find? fun x => x.2.2.1.addr ≤ a && a < x.2.2.1.addr + x.2.2.2.frame

/-- Row 1: a page is damaged, or a frame that is not in use holds bytes that cannot be read. -/
def State.pageError (s : State) (q ls a : Nat) : State :=
  let s := s.updStack (4 * q + ls) fun S => { S with uncorrectable := if S.uncorrectable.contains a then S.uncorrectable else S.uncorrectable ++ [a] }
  match s.frameHolding q ls a with
  | none => s
  | some (key, f, fr, sh) => if sh.slot * 32 ≤ a - fr.addr then s else s.damagePage q key fr f ((a - fr.addr) / sh.slot) sECC sh

/-- Rows 2 and 3: a descriptor or a map in the heap, by its 64-byte unit. -/
def State.heapError (s : State) (q u : Nat) : Nat × State :=
  let Q := s.qtr q
  match Q.store.segs.find? fun e => e.1 ≤ u && u < e.1 + ceilDiv (64 + 8 * e.2.frames.length) 64 with
  | some (_, g) => (2, s.loseSeg q (mkKey g.tenant g.conv g.seg) true)
  | none =>
    match Q.maps.find? fun m => m.addr ≤ u && u < m.addr + ceilDiv (32 + 16 * m.entries.length) 64 with
    | some m => (3, s.updQ q fun Q => { Q with maps := Q.maps.filter fun x => !(x == m) })
    | none => (2, s)

/-- Row 5: the request whose spilled piece lies there. The spec gives no layout of the region, so which request it is, if any, is open
(assumption 33). -/
def State.spillError (s : State) (q : Nat) : State :=
  let l := ((s.qtr q).dove.reqs.filter fun e => e.2.pieces.any fun p => p.spilled).map fun e => e.1
  let r := s.drawFree
  match l[r.1 % (l.length + 1)]? with
  | some tk => r.2.closeReq tk sABORTED 0 [] 0
  | none => r.2

/-- Row 6: the connection whose backing lies there, unless the contexts lie in host memory (R241). -/
def State.backingError (s : State) (q n : Nat) : State :=
  let i := q * 16384 + n
  if (s.qtr q).xpt.ctxInHost || (s.conn i).state == .free || (s.conn i).state == .error then s else s.connError i sCONNERR

/-- The region of Table 16-3 that a stack address strikes, with what follows. -/
def State.hbmRegion (s : State) (q ls a : Nat) : Nat × State :=
  let off := a - structBase ls
  let mib := 2 ^ 20
  if ls ≥ 2 ∨ a < structBase ls then (1, s.pageError q ls a)
  else if ls = 0 then
    if off < 3832 * mib then s.heapError q (a / 64)
    else if off < 4088 * mib then (5, s.spillError q)
    else (7, s.updDir q fun d => { d with shadowBad := insertUp ((off - 4088 * mib) / 128) d.shadowBad })
  else if off < 32 * mib then (4, poolFailure s q false [off / 128] [] [])
  else if off < 36 * mib then (6, s.backingError q ((off - 32 * mib) / 256))
  else if off < 36 * mib + 262144 then
    let e := (off - 36 * mib) / 8
    (8, s.updStore q fun S => { S with hsm := S.hsm.put e (S.hsm.fetch e 0 &&& ~~~ 1) })
  else (0, s)

/-- Bytes of a stack (Table 1-4). -/
def stackSize (ls : Nat) : Nat := (if ls < 2 then 64 else 48) * 2 ^ 30

/-- HBM_UNCORRECTABLE (R429): the error is handled by its region, and reported. Addresses that no stack has, or that are never
addressed, hold nothing. -/
def hbmUncorrectable (s : State) (q ls a : Nat) : State :=
  if s.qOff q || (s.stack (4 * q + ls)).st == .failed || stackSize ls ≤ a then s
  else
    let r := s.hbmRegion q ls a
    if r.1 = 0 then s else r.2.postFault 6 (4 * q + ls) (hbmAddr q ls a) r.1 q

/-- HBM_UNCORRECTABLE. -/
def execHbmUncorrectable (stack : Fin 16) (addr : Nat) (s : State) : Host.Outcome State Fault Refusal :=
  .next (settle (hbmUncorrectable s (stack / 4) (stack % 4) addr))

/-! ### The Square (R430) -/

/-- The node is fail-stopped: every port and the PCIe link are held down, and BOOT_STATUS shows FAILED. -/
def State.failStopped (s : State) : State :=
  let s := [0, 1, 2, 3].foldl (fun s p => s.updPort p fun P => { P.flush with linkUp := false, training := false }) s
  { s with host := { s.host with linkUp := false, configOk := false }
           boot := { s.boot with failStop := true, phase := 15 } }

/-- SQUARE_HEARTBEAT_LOSS (R430). Standby power without main power has no heartbeat to lose. -/
def execSquareHeartbeatLoss (s : State) : Host.Outcome State Fault Refusal :=
  .next (if s.boot.failStop || !s.pins.mainPg then s else s.failStopped)

end Sys2Proof.Machine
end

