-- ==== Sys2Proof/Machine/Flags.lean ====
section
/-!
DEFINITION. The status registers: what each read-only register and field shows of the units of the node, and the value that a
read of any register returns (R11, ch. 13 and the register section of each chapter).
-/
namespace Sys2Proof.Machine

/-! ### The Square's blocks -/

/-- GLB_STATUS (Table 13-16). -/
def State.glbStatus (s : State) : Nat :=
  b2n s.ready + 2 * b2n s.sec.conf + 4 * b2n s.sec.testConfig + 8 * b2n s.boot.nodeId.isSome +
  ((List.range 4).map fun q => 16 * 2 ^ q * b2n (s.qOff q) + 256 * 2 ^ q * b2n ((s.qtr q).power == .idle)).sum +
  4096 * s.pwr.pstate

/-- STATE of a Quarter in PWR_QSTATUS (Table 14-16). -/
def State.qStateCode (s : State) (q : Nat) : Nat :=
  match (s.qtr q).power with
  | .on => 0 | .idle => if s.gated q then 2 else 1 | .entering => 3 | .off => 4 | .leaving => 5

/-- STATE of a stack in PWR_SSTATUS (Table 14-18). A stack that has failed shows the state that it had in Table 14-5, ACTIVE
(DEDUCED, assumption 35). -/
def Stack.powerCode (S : Stack) : Nat :=
  if S.off then 2 else if S.selfRefresh then 1 else if S.st = .training then 3 else 0

/-- PWR_THERM.SENSOR_FAULT (Table 14-19). -/
def State.sensorFault (s : State) : Bool := s.pwr.sensors.any fun e => e.2.fault

/-- PWR_THERM (Table 14-19). -/
def State.pwrTherm (s : State) : Nat :=
  ((List.range 4).map fun q => 4 ^ q * s.pwr.dirStep.fetch q 0).sum + 256 * (s.pwr.hotScoring % 256) +
  65536 * b2n s.sensorFault + 2 ^ 24 * (s.pwr.tripSensor % 64) + 2 ^ 30 * b2n s.pwr.tripped

/-- PWR_TEMPi (Table 14-20). -/
def State.pwrTemp (s : State) (i : Nat) : Nat :=
  let e := s.pwr.sensors.fetch i {}
  if e.valid then sat e.degX8 2047 + 2 ^ 31 else 0

/-- PHASE as BOOT_STATUS shows it: after a PERST# at Ready the phase "PCIe up" runs again (R398). -/
def State.shownPhase (s : State) : Nat := if s.boot.phase = 10 ∧ !s.boot.pcieDone then 5 else s.boot.phase

/-- BOOT_STATUS (Table 15-12). -/
def State.bootStatus (s : State) : Nat :=
  s.shownPhase % 16 + 16 * (s.boot.slot % 2) + 32 * (s.boot.aResult % 4) + 128 * (s.boot.bResult % 4) + 512 * (s.boot.cause % 8) +
  4096 * b2n s.boot.scrubbed

/-- The OPEN mask in effect (R414): without an Alley settings section it opens GET_TELEMETRY and SET_NODE_ID. -/
def State.openMask (s : State) : Nat :=
  match s.boot.image with | some i => i.openMask % 4096 | none => 2 ^ 3 + 2 ^ 11

/-- Bits c - 1 of the commands that are always open (Table 15-8): ENUM, SESSION_OPEN, GET_STATUS, UPDATE_IMAGE and RESET. -/
def alwaysOpen : Nat := 1 + 2 + 4 + 2 ^ 9 + 2 ^ 10

/-- BOOT_ALLEY (Table 15-14). OPEN shows every command that is accepted without a session, the always open ones included. -/
def State.bootAlley (s : State) : Nat :=
  s.boot.addr % 64 + 64 * (s.boot.aport % 2) + 128 * (s.boot.adir % 2) +
  256 * ((w32 s.openMask ||| w32 alwaysOpen).toNat % 8192)

/-- SEC_STATUS (Table 11-14). -/
def State.secStatus (s : State) : Nat :=
  b2n s.sec.conf + 2 * b2n s.sec.jtagEn + 4 * b2n s.sec.traceEn + 8 * b2n s.sec.identOk + 16 * b2n s.sec.testConfig +
  256 * sat s.sec.sessions.length 7

/-- SEC_FUSE (Table 11-15): 0 until the boot ROM has checked the fuses. -/
def State.secFuse (s : State) : Nat := if s.boot.phase < 4 then 0 else s.fuses

/-- Connections of a tenant that are not FREE are CONN_USED; words of SEC_TLIMITt (Table 11-18). -/
def State.tlimitWord (s : State) (t w : Nat) : Nat :=
  let T := s.tenant t
  match w with
  | 0 => T.poolMib
  | 1 => s.poolUsedMib t
  | 2 => T.dirMax % 2 ^ 19
  | _ => T.connMax % 65536 + 65536 * sat (s.connsOf t) 65535

/-- Words of SEC_TENANTt (Table 11-17). -/
def State.secTenantWord (s : State) (t w : Nat) : Nat :=
  match w with
  | 0 => s.tenantWord t
  | 1 => sat (s.oldPages t) (2 ^ 32 - 1)
  | 2 => 0
  | _ => if (s.tenant t).state = .draining then sat (s.drainItems t) (2 ^ 32 - 1) else 0

/-- cap_eff in mW (R383): 0.7 of the cap in conservative mode. -/
def State.capEffMw (s : State) : Nat := if s.pwr.conservative then s.pwr.capW * 700 else s.pwr.capW * 1000

/-- Demand of a Quarter in femtojoules (R382). -/
def State.demandFj (s : State) (q : Nat) : Nat :=
  (((s.qtr q).core.jobs.filter fun j => j.state == .ready || j.state == .saved).map Job.estFj).sum

/-- Words of NRG_Qq (Table 14-12). -/
def State.nrgWord (s : State) (q w : Nat) : Nat :=
  match w with
  | 0 => sat (s.qe q).rateMw (2 ^ 32 - 1)
  | 1 => (s.level q / 1000000000 % 2 ^ 32).toNat
  | 2 => (s.kNow q * 4096).floor.toNat % 65536
  | _ => sat (s.demandFj q / 1000000000) (2 ^ 32 - 1)

/-- Words of FINJ_INJq (Table 10-15). -/
def State.finjWord (s : State) (q w : Nat) : Nat :=
  let j := (s.qtr q).port.inj
  if w < 4 then (j.words.getD w 0).toNat
  else j.nth % 65536 + 65536 * (if j.armed then sat (ceilDiv (j.endAt - s.time) 1000000) 65535 else 0)

/-! ### The Quarter's blocks -/

/-- PORT_STATUS (Table 10-6). -/
def State.portStatus (s : State) (p : Nat) : Nat :=
  b2n (s.qtr p).port.linkUp + 2 * b2n (s.qtr p).port.training + 4 * bits s.image.pmds (2 * p + 1) (2 * p)

/-- PORT_GCL_CTL (Table 10-10): SWAP returns 0. -/
def State.gclCtlWord (s : State) (p : Nat) : Nat :=
  let P := (s.qtr p).port
  let v := s.reg bPORT p 0x200
  v % 2 + 4 * b2n P.activeBank + 8 * b2n P.swapPend + 16 * bits v 10 4

/-- XPT_STATUS (Table 8-22). -/
def State.xptStatus (s : State) (q : Nat) : Nat :=
  let X := (s.qtr q).xpt
  sat X.ctx.length 8192 + 2 ^ 14 * sat (X.ctx.countP fun e => s.ctxPinned q e.1 e.2) 8192 +
  2 ^ 28 * b2n (decide (X.missBytes ≥ 262144)) + 2 ^ 29 * b2n (decide (s.rtxBytes q ≥ 8388608))

/-- XPT_BUFS (Table 8-23): levels in KiB, rounded up. -/
def State.xptBufs (s : State) (q : Nat) : Nat :=
  sat (ceilDiv (s.qtr q).xpt.missBytes 1024) 511 + 65536 * sat (ceilDiv (s.rtxBytes q) 1024) 16383

/-- XPT_CONNS (Table 8-24). -/
def State.xptConns (s : State) (q : Nat) : Nat :=
  let C := (s.qtr q).xpt.conns
  C.countP (fun e => e.2.state != .free) + 65536 * C.countP fun e => e.2.state == .error

/-- XPT_NODE (Table 8-25). -/
def State.xptNode (s : State) : Nat := match s.boot.nodeId with | some n => n % 16384 + 16384 | none => 0

/-- DIR_STATUS (Table 16-11). -/
def State.dirStatus (s : State) (q : Nat) : Nat :=
  let d := (s.qtr q).dir
  b2n d.xlDisabled + 2 * b2n d.multi + 4 * b2n d.parity + 8 * b2n d.rebuilding + 16 * (d.xlMismatch % 4) + 64 * d.slots.length

/-- DIR_TEST_STATUS (Table 16-15). -/
def State.dirTest (s : State) (q : Nat) : Nat :=
  let I := (s.qtr q).core
  I.testSeq % 65536 + 65536 * (I.testResult % 4) + 2 ^ 18 * b2n I.testRunning.isSome

/-- STATE of a stack in PST_STACK_STATE (Table 6-9). -/
def StkState.code : StkState → Nat
  | .training => 0 | .ready => 1 | .draining => 2 | .off => 3 | .failed => 4

/-- PST_STACK_STATE (Table 6-9). -/
def State.pstStacks (s : State) (q : Nat) : Nat :=
  ((List.range 4).map fun ls => 16 ^ ls * (if (s.stack (4 * q + ls)).off then 3 else (s.stack (4 * q + ls)).st.code)).sum

/-- Bytes of free frame space of a local stack (Table 6-11). -/
def State.freeBytes (s : State) (q ls : Nat) : Nat :=
  let A := (s.qtr q).store.allocs.fetch ls {}
  (frameChunks ls - A.chunks.length) * chunkBytes +
  (A.chunks.map fun e => if e.2 = 0 then 0 else
    (chunkBytes / e.2 - A.used.countP fun u => u.1 / chunkBytes == e.1) * e.2).sum

/-- Bytes of frames of a local stack that await scrub (Table 6-11). -/
def State.scrubBytes (s : State) (q ls : Nat) : Nat :=
  (((s.qtr q).store.releases.filter fun r => r.stack == ls).map fun r => r.size).sum

/-- PST_FREEs (Table 6-11). -/
def State.pstFree (s : State) (q ls : Nat) : Nat :=
  sat (s.freeBytes q ls / 2 ^ 20) 65535 + 65536 * sat (ceilDiv (s.scrubBytes q ls) (2 ^ 20)) 65535

/-- Segments of a Quarter that hold a pin reservation (Table 6-13). -/
def State.openSegs (s : State) (q : Nat) : Nat :=
  (s.qtr q).dir.slots.countP fun e => match s.segOf q e.2.key with | some (_, g) => holdsPin e.2.state g.prior | none => false

/-- PST_CACHE_STATUS (Table 6-13). -/
def State.pstCache (s : State) (q : Nat) : Nat := sat (s.pinLines q) 65535 + 65536 * sat (s.openSegs q) 65535

/-- STATE of an engine in PST_DMA_STATUS (Table 6-17). -/
def EngState.code : EngState → Nat
  | .idle => 0 | .running => 1 | .faulted => 2 | .waitReady => 3

/-- PST_DMA_STATUS (Table 6-17). -/
def State.pstDma (s : State) (q : Nat) : Nat :=
  ((List.range 4).map fun e => 16 ^ e * (s.eng q e).state.code).sum + 65536 * sat (s.qtr q).store.dmaQueue.length 255

/-- Words of PST_DMA_FAULTe (Table 6-18). -/
def Engine.faultWord (E : Engine) (w : Nat) : Nat :=
  match w with
  | 0 => E.faultOffset % 2 ^ 32
  | 1 => E.cls % 16 + 16 * b2n E.dstSide + 65536 * (E.tag % 65536)
  | 2 => E.addr % 2 ^ 32
  | _ => E.addr / 2 ^ 32 % 2 ^ 32

/-- PCD_STATUS (Table 7-7). -/
def State.pcdStatus (s : State) (q : Nat) : Nat :=
  sat (s.qtr q).pcd.queue.length 131071 + 2 ^ 17 * sat ((s.qtr q).pcd.coders.countP fun e => e.2.key.isSome) 3

/-- PCD_CURRENT (Table 7-8). -/
def State.pcdCurrent (s : State) (q : Nat) : Nat :=
  ((List.range 4).map fun r => 256 ^ r * (match s.currentTable q r with | some t => t.id % 256 | none => 0)).sum

/-- PCD_RECODE_STATUS (Table 7-10). -/
def State.pcdRecode (s : State) (q : Nat) : Nat :=
  let P := (s.qtr q).pcd
  P.sweepDone % 65536 + 65536 * b2n P.sweepRun.isSome + 2 ^ 17 * sat P.skipped 0x7FFF

/-- STATE of a table slot (Table 7-11). -/
def SlotState.code : SlotState → Nat
  | .free => 0 | .loading => 1 | .loaded => 2 | .releasing => 3

/-- Words of PCD_SLOTs (Table 7-11). -/
def State.pcdSlot (s : State) (q i w : Nat) : Nat :=
  let T := (s.qtr q).pcd.slots.fetch i {}
  if w = 0 then T.id % 256 + 256 * (T.tag % 256) + 65536 * T.state.code + 2 ^ 18 * (T.role % 4) + 2 ^ 20 * b2n T.current
  else if T.state = .free then 0 else (s.qtr q).pcd.using T.id

/-- STATE of a core in CORE_STATUS (Table 4-8): draining while it has work to end before it leaves dispatch or saves. -/
def State.coreCode (s : State) (q k : Nat) : Nat :=
  let c := s.core q k
  let leaving := match s.pendingAt bCORE q 0 with | some v => !bit v k | none => false
  if c.job.isSome then (if leaving || c.mark.isSome then 3 else 2)
  else if c.saving.isSome then 3
  else if s.inDispatch q k then 1 else 0

/-- CORE_DISP_STATUS (Table 4-13). -/
def State.dispStatus (s : State) (q : Nat) : Nat :=
  let n := (s.qtr q).core.jobs.countP fun j => j.state == .ready || j.state == .saved
  let w := match s.firstJob q with | some j => !j.admitted && (s.pwr.clamp || !s.fits q j) | none => false
  sat n 65535 + 65536 * b2n w

/-- DOVE_STATUS (Table 4-16). -/
def State.doveStatus (s : State) (q : Nat) : Nat :=
  let D := (s.qtr q).dove
  sat (ceilDiv D.used 1024) 4096 + 8192 * b2n (decide (D.spillUsed > 0)) + 16384 * b2n (decide (D.spillUsed ≥ 2 ^ 28))

/-- HELD_KIB of BSC_STATUS (Table 5-12): writes held in the append buffer, rounded up. -/
def Bsc.heldKib (B : Bsc) : Nat :=
  ceilDiv ((B.stk.map fun e => (e.2.held.map fun h => (h.2.map fun a => a.len).sum).sum).sum) 1024

/-- BSC_STATUS (Table 5-12). -/
def State.bscStatus (s : State) (q : Nat) : Nat :=
  let B := (s.qtr q).bsc
  b2n B.badMode + 2 * b2n B.bistRunning.isSome + 4 * sat B.heldKib 4095

/-- Requested modes of half a stack's channels (Table 5-13). -/
def BscStack.modeWord (B : BscStack) (hi : Bool) : Nat :=
  ((List.range 16).map fun k => 4 ^ k * (B.want.fetch (k + (if hi then 16 else 0)) 0 % 4)).sum

/-- A word with the bits of a list of channels set. -/
def chanBits (p : Nat → Bool) : Nat := ((List.range 32).map fun c => 2 ^ c * b2n (p c)).sum

/-- Channel c has an ordinary access that waits for a crossing (Table 5-15). -/
def BscStack.busy (B : BscStack) (c : Nat) : Bool :=
  (pchsOf c).any fun k => !(B.accesses.fetch k []).isEmpty || !(B.held.fetch k []).isEmpty

/-- BSC_BIST_STATUS (Table 5-18). -/
def State.bistStatus (s : State) (q : Nat) : Nat :=
  let B := (s.qtr q).bsc
  B.bistSeq % 65536 + 65536 * (B.bistResult % 4) + 2 ^ 18 * b2n B.bistRunning.isSome + 2 ^ 19 * (B.bistUnit % 64)

/-! ### A read of any register -/

/-- Status words of the Square's blocks; none where the word is an ordinary register. -/
def State.squareView (s : State) (code off : Nat) : Option Nat :=
  match code with
  | 0x01 => if off = 4 then some s.glbStatus else if off = 8 then some (s.time % 2 ^ 32) else if off = 0xC then some (s.time / 2 ^ 32 % 2 ^ 32)
      else if off = 0x20 then some s.regs.accErr.toNat else if off = 0x24 then some s.regs.accAddr.toNat else none
  | 0x02 => if off = 8 then some ((List.range 4).map fun q => 16 ^ q * s.qStateCode q).sum
      else if off = 0x10 then some ((List.range 16).map fun n => 4 ^ n * (s.stack n).powerCode).sum
      else if off = 0x20 then some s.pwrTherm else if 0x100 ≤ off ∧ off < 0x184 then some (s.pwrTemp ((off - 0x100) / 4)) else none
  | 0x03 => if off = 0 then some s.bootStatus else if off = 4 then some s.boot.seqA else if off = 8 then some s.boot.seqB
      else if off = 0xC then some s.bootAlley else if off = 0x10 then some (s.boot.readyTime % 2 ^ 32)
      else if off = 0x14 then some (s.boot.readyTime / 2 ^ 32 % 2 ^ 32) else none
  | 0x04 => if off = 0 then some s.secStatus else if off = 4 then some s.secFuse
      else if 0x100 ≤ off ∧ off < 0x500 then some (s.secTenantWord ((off - 0x100) / 16) (off / 4 % 4))
      else if 0x800 ≤ off ∧ off < 0xC00 then some (s.tlimitWord ((off - 0x800) / 16) (off / 4 % 4)) else none
  | 0x05 => if off = 4 then some (b2n s.pwr.conservative + 2 * b2n s.pwr.clamp + 256 * s.pwr.duty + 65536 * sat s.pwr.history 64)
      else if off = 8 then some (s.pwr.capW % 2048 + 65536 * (s.capEffMw / 1000))
      else if off = 0xC then some (sat (s.pwr.pkgMw / 1000) 2047 + 65536 * sat (s.pwr.ungatedMw / 1000) 2047)
      else if 0x200 ≤ off ∧ off < 0x240 then some (s.nrgWord ((off - 0x200) / 16) (off / 4 % 4)) else none
  | 0x06 => if off = 0 then some (sat (s.fn 0).lost 65535 + 65536 * b2n (s.fn 0).eq.isSome) else none
  | 0x07 => if off = 0 then some s.hqStatus else none
  | 0x08 => if off = 4 then some s.fmodeDenied else if off = 8 then some (s.image.fmRequested % 2048) else none
  | 0x09 => if off = 0 then some s.finjPermit else if off = 4 then some s.finjStatus
      else if 0x100 ≤ off ∧ off < 0x180 ∧ off % 32 < 20 then some (s.finjWord ((off - 0x100) / 32) (off % 32 / 4)) else none
  | 0x0A => if off = 4 then some (s.regs.snap.doneSeq % 65536 + 65536 * b2n s.regs.snap.busy + 131072 * b2n s.regs.snap.refused)
      else if off = 8 then some s.regs.snap.number else if off = 0x10 then some (s.regs.snap.lastTime % 2 ^ 32)
      else if off = 0x14 then some (s.regs.snap.lastTime / 2 ^ 32 % 2 ^ 32) else none
  | _ => none

/-- Status words of a Quarter's blocks; none where the word is an ordinary register. -/
def State.quarterView (s : State) (code q off : Nat) : Option Nat :=
  let Q := s.qtr q
  match code with
  | 0x10 => if off = 0 then some (s.portStatus q) else if off = 0x200 then some (s.gclCtlWord q)
      else if off = 0x204 then some (Q.port.active.size + 256 * (Q.port.gclEntry % 64)) else none
  | 0x11 => if off = 0x20 then some (s.xptStatus q) else if off = 0x24 then some (s.xptBufs q)
      else if off = 0x28 then some (s.xptConns q) else if off = 0x2C then some s.xptNode else if off = 0x44 then some 0
      else if 0x48 ≤ off ∧ off < 0x68 ∧ off ≠ 0x5C then some (Q.xpt.data.fetch ((off - 0x48) / 4) 0).toNat
      else if off = 0x74 then some (Q.xpt.routes.fetch (s.reg bXPT q 0x70 % 16384) 0 % 16) else none
  | 0x12 => if off = 4 then some (s.dirStatus q) else if off = 8 then some 0 else if off = 0x14 then some (s.dirTest q) else none
  | 0x13 => if off = 0 then some (Q.tk.onChip.length + 32768 * b2n Q.tk.recovering)
      else if off = 4 then some Q.tk.inUse.length else none
  | 0x14 => if off = 0 then some (s.pstStacks q) else if 0x10 ≤ off ∧ off < 0x20 then some (s.pstFree q ((off - 0x10) / 4))
      else if off = 0x24 then some (s.pstCache q) else if off = 0x20C then some 0 else if off = 0x300 then some (s.pstDma q)
      else if 0x310 ≤ off ∧ off < 0x350 then some ((s.eng q ((off - 0x310) / 16)).faultWord (off / 4 % 4)) else none
  | 0x15 => if off = 4 then some (s.pcdStatus q) else if off = 8 then some (s.pcdCurrent q) else if off = 0x14 then some (s.pcdRecode q)
      else if 0x100 ≤ off ∧ off < 0x180 then some (s.pcdSlot q ((off - 0x100) / 8) (off / 4 % 2)) else none
  | 0x16 => if off = 4 then some ((List.range 8).map fun k => 4 ^ k * s.coreCode q k).sum
      else if off = 8 then some ((List.range 8).map fun k => 16 ^ k * sat (s.core q k).saved.length 8).sum
      else if off = 0x24 then some (s.dispStatus q) else none
  | 0x17 => if off = 0 then some (s.doveStatus q) else if off = 4 then some (sat (ceilDiv Q.dove.spillUsed 1024) 262143) else none
  | 0x18 => if off = 4 ∨ off = 8 then some (s.reg bBSC q off % 65536 + 65536 * ((s.bank q (1 + off / 4)).doneSeq % 65536))
      else if off = 0xC then some (s.bscStatus q)
      else if 0x10 ≤ off ∧ off < 0x20 then some ((s.bank q (2 + (off - 0x10) / 8)).modeWord (off / 4 % 2 == 1))
      else if off = 0x20 ∨ off = 0x24 then some (chanBits fun c => ((s.bank q (2 + (off - 0x20) / 4)).pendFrom.look c).isSome)
      else if off = 0x28 ∨ off = 0x2C then some (chanBits (s.bank q (2 + (off - 0x28) / 4)).busy)
      else if off = 0x30 ∨ off = 0x34 then some (chanBits fun c => (s.bank q (2 + (off - 0x30) / 4)).chFail.contains c)
      else if off = 0x44 then some (s.bistStatus q) else none
  | _ => none

/-- Words with pending writes in a block, by boundary (R364). -/
def State.pendingWords (s : State) (code q : Nat) : List (Boundary × Nat) :=
  s.regs.staged.filterMap fun e =>
    match boundaryOf e.1 with
    | some (b, c, q', off) => if c = code ∧ q' = q then some (b, off) else none
    | none => none

/-- STAGE_STATUS (Table 13-12). -/
def State.stageStatus (s : State) (code q : Nat) : Nat :=
  let l := s.pendingWords code q
  let has := fun b => b2n (l.any fun e => e.1 == b)
  let w := s.reg code q 0xFF4
  has .packet + 2 * has .job + 4 * has .segment + 8 * has .tick + 4096 * b2n (l.any fun e => e.2 == w) + 65536 * sat l.length 1016

/-- What a read of a base or common register returns (R11, R362). -/
def State.view (s : State) (code q off : Nat) : Nat :=
  let plain := fun (o : Nat) =>
    match (if code < 0x10 then s.squareView code o else s.quarterView code q o) with
    | some v => v
    | none => match regAt code o with
      | some r => (w32 (s.reg code q o) &&& ~~~ (w32 r.zero)).toNat
      | none => 0
  match off with
  | 0xFE4 => s.regs.snapNo.fetch (blockBase code q) 0
  | 0xFF0 => s.stageStatus code q
  | 0xFF8 =>
    let o := s.reg code q 0xFF4
    match s.pendingAt code q o with | some v => v | none => if o < 0xFE0 then plain o else 0
  | _ => plain off

end Sys2Proof.Machine
end

