-- ==== Sys2Proof/Machine/Operands.lean ====
section
/-!
DEFINITION. What a BAR0 address names (ch. 13, R331, Tables 13-1, 13-5, 13-6), and the fields of an Alley frame and of a session
frame (Table 15-6, R413).
-/
namespace Sys2Proof.Machine

/-- What one BAR0 address names: an offset of a function page, a queue doorbell of a function, one of the read-only tenant words of a
VF, a base or common register, its alias (1 SET, 2 CLR, 3 TGL), a word of a counter or accumulator, a word of a holding copy, or
nothing; the last with the block it lies in, if any. -/
inductive RegPlace where
  | page (f off : Nat)
  | doorbell (f qid : Nat) (head : Bool)
  | tenantWord (off : Nat)
  | base (code q off : Nat)
  | aliasOf (op code q off : Nat)
  | count (code q off : Nat)
  | holding (code q off : Nat)
  | nothing (q : Option Nat)
  deriving DecidableEq, Repr

/-- The doorbell at an offset of the doorbell page (Table 12-3). -/
def doorbellAt (f off : Nat) : RegPlace := .doorbell f (off / 8) (off / 4 % 2 == 1)

/-- What an offset of a block names (Table 13-1). -/
def blockPlace (code q off : Nat) : RegPlace :=
  let gone := RegPlace.nothing (if code < 0x10 then none else some q)
  if off < 0x1000 then (if (regAt code off).isSome then .base code q off else gone)
  else if off < 0x4000 then
    if (regAt code (off % 0x1000)).isSome then .aliasOf (off / 0x1000) code q (off % 0x1000) else gone
  else if off < 0x8000 then (if isCounterOff code off || isMeterOff code off then .count code q off else gone)
  else if off < 0xC000 then gone
  else if isCounterOff code (off - 0x8000) || isMeterOff code (off - 0x8000) then .holding code q off
  else gone

/-- What an address of a function's BAR0 names (R331, R370, R373). -/
def placeOf (f a : Nat) : RegPlace :=
  if f = 0 then
    if 0x1000000 ≤ a ∧ a < 0x1040000 then .page ((a - 0x1000000) / 0x1000) (a % 0x1000)
    else if 0x2000000 ≤ a ∧ a < 0x2001000 then doorbellAt 0 (a % 0x1000)
    else match blockOf a with
      | some (c, q, off) => blockPlace c q off
      | none => .nothing none
  else if a < 0x1000 then .page f a
  else if a < 0x2000 then doorbellAt f (a % 0x1000)
  else if a < 0x2020 then .tenantWord (a % 0x20)
  else .nothing none

/-- F0 may use the page of Fn (R332). -/
def State.pageOpen (s : State) (f n : Nat) : Bool :=
  f != 0 || n == 0 || (!s.sec.conf && (s.fn n).tdi == 0 && (s.fn n).enabled)

/-! ### Alley frames (Table 15-6, R413) -/

/-- The fields of an Alley frame. -/
structure AlleyHdr where
  dst : Nat
  src : Nat
  cmd : Nat
  rsp : Bool
  more : Bool
  session : Bool
  seq : Nat
  len : Nat
  deriving DecidableEq, Repr

/-- The header of an Alley frame. -/
def alleyHdr (b : Bytes) : AlleyHdr :=
  { dst := byteAt b 0 % 64, src := byteAt b 1 % 64, cmd := byteAt b 2 % 128, rsp := bit (byteAt b 2) 7, more := bit (byteAt b 3) 0
    session := bit (byteAt b 3) 1, seq := fieldAt b 4 2, len := fieldAt b 6 2 % 2048 }

/-- The payload of an Alley frame. -/
def alleyPayload (b : Bytes) : Bytes := (b.drop 8).take (alleyHdr b).len

/-- The session wrapping at the start and end of a payload, and the command body between them (R413); none when the payload is
too short for one. -/
def sessionOf (p : Bytes) : Option (Session × Bytes) :=
  if p.length < 44 then none
  else some ({ sid := byteAt p 0 % 4, counter := fieldAt p 4 8, tag := leNat (p.drop (p.length - 32)) }, (p.drop 12).take (p.length - 44))

end Sys2Proof.Machine
end

