-- ==== Sys2Proof/Machine/RegWrite.lean ====
section
/-!
DEFINITION. Register accesses through BAR0 (ch. 13, ch. 12): a write of any register, alias, doorbell or function page, with
what the write does, and a read.
-/
namespace Sys2Proof.Machine

/-! ### Writes to base registers -/

/-- A staged value takes effect at once where its boundary says so (Table 13-3): a JOB field while no core it governs runs a job, a
SEGMENT register while no segment operation of its unit is under way. -/
def State.atOnce (s : State) (code q off : Nat) : State :=
  if code = bCORE ∧ off = 0 then
    (List.range 8).foldl (fun s k => if (s.core q k).job.isNone then s.coreBit q k else s) s
  else if code = bCORE ∧ off = 0x10 then
    if (List.range 8).all fun k => (s.core q k).job.isNone then s.applyAt code q off else s
  else if code = bPST ∧ off = 4 then
    let busy := s.host.assists.any fun a => a.quarter == q && (match a.purpose with | .alloc _ => true | _ => false)
    if busy then s else s.applyAt code q off
  else if code = bPCD ∧ off = 0 then
    if (s.qtr q).pcd.coders.any fun c => c.2.key.isSome then s else s.applyAt code q off
  else s

/-- A write of a register that no other rule singles out: RW fields change at once, W1C bits written as 1 go, WS fields are
staged (R11, R362). -/
def State.plainWrite (s : State) (code q off : Nat) (r : RegSpec) (v : Nat) : State :=
  let rw := r.rw - (w32 r.rw &&& w32 r.zero).toNat
  let s := if rw = 0 then s
    else s.setReg code q off ((w32 v &&& w32 rw) ||| (w32 (s.reg code q off) &&& ~~~ (w32 rw))).toNat
  if r.ws = 0 then s else (s.stage code q off (w32 v &&& w32 r.ws).toNat).atOnce code q off

/-- XPT_CONN_CMD (Table 8-27): SET_CWND uses the word that software wrote, so it acts before LOAD (DEDUCED, assumption 36). -/
def connCmd (s : State) (q v : Nat) : State :=
  let s := if bit v 1 then setCwnd s q else s
  if bit v 0 then connLoad s q else s

/-- PST_HSM_CMD (Table 6-16): no command is ever left running, so BUSY reads 0. -/
def hsmCmd (s : State) (q v : Nat) : State :=
  let s := if bit v 0 then hsmPut s q else s
  if bit v 1 then hsmGet s q else s

/-- DIR_XL_CMD (Table 16-12). -/
def xlCmd (s : State) (q v : Nat) : State :=
  let s := if bit v 0 then s.updDir q fun d => { d with xlDisabled := false, xlMismatch := 0 } else s
  if bit v 1 then (if (s.qtr q).dir.rebuilding then s.count bDIR q 10 else s.startRebuild q) else s

/-- XPT_HOSTCTX (Table 8-26): a write while function mode 1 is host-assisted is ignored and counted. -/
def hostCtx (s : State) (q off : Nat) (r : RegSpec) (v : Nat) : State :=
  if s.assisted 1 then s.count bXPT q 16 else s.plainWrite bXPT q off r v

/-- A write of value v to a base or common register, whole (R11): the registers whose write does more than change a field act as
their own tables state. -/
def State.baseWrite (s : State) (code q off : Nat) (r : RegSpec) (v : Nat) : State :=
  if code = bPORT ∧ off = 0x200 then gclCtl s q v
  else if code = bPORT ∧ 0x400 ≤ off ∧ off < 0x500 then gclWrite s q ((off - 0x400) / 4) v
  else if code = bXPT ∧ (off = 0x30 ∨ off = 0x34) then hostCtx s q off r v
  else if code = bXPT ∧ off = 0x44 then connCmd s q v
  else if code = bDIR ∧ off = 4 then
    s.updDir q fun d => { d with multi := d.multi && !bit v 1, parity := d.parity && !bit v 2 }
  else if code = bDIR ∧ off = 8 then xlCmd s q v
  else if code = bDIR ∧ off = 0x10 then coreTestStart s q v
  else if code = bPST ∧ off = 0x20C then hsmCmd s q v
  else if code = bPCD ∧ off = 0x10 then recodeStart s q v
  else if code = bBSC ∧ (off = 4 ∨ off = 8) then bscFence s q (1 + off / 4) v
  else if code = bBSC ∧ off = 0xC then s.updBsc q fun b => { b with badMode := b.badMode && !bit v 0 }
  else if code = bBSC ∧ 0x10 ≤ off ∧ off < 0x20 then bscChmode s q (2 + (off - 0x10) / 8) (off / 4 % 2 == 1) v
  else if code = bBSC ∧ off = 0x40 then bscBistStart s q v
  else if code = bPWR ∧ off = 0x20 then { s with pwr := { s.pwr with tripped := s.pwr.tripped && !bit v 30 } }
  else if code = bFMODE ∧ off = 0 then fmodeModeWrite s v
  else if code = bFMODE ∧ off = 4 then { s with fmodeDenied := (w32 s.fmodeDenied &&& ~~~ (w32 v)).toNat }
  else if code = bSNAP ∧ off = 0 then snapshotRegStart s v
  else s.plainWrite code q off r v

/-- A register-list entry of the configuration image (R374, R407): the write takes effect at once, whatever the boundary. -/
def State.writeNow (s : State) (code q off v : Nat) : State :=
  match regAt code off with
  | none => s
  | some r =>
    let s := s.baseWrite code q off r v
    if code = bCORE ∧ off = 0 then (List.range 8).foldl (fun s k => s.coreBit q k) s else s.applyAt code q off

/-! ### Aliases (R360, R361) -/

/-- The value that an alias computes from: staged fields from the staged value when a write is pending; a field that returns 0 when
read counts as 0. -/
def State.aliasFrom (s : State) (code q off : Nat) (r : RegSpec) : Word :=
  let ws := w32 ((s.pendingAt code q off).getD (s.reg code q off)) &&& w32 r.ws
  ws ||| (w32 (s.view code q off) &&& (w32 r.rw &&& ~~~ (w32 r.zero)))

/-- SET, CLR and TGL on the RW and WS fields; every other field is taken as written with 0. -/
def aliasValue (op : Nat) (c d : Word) (r : RegSpec) : Word :=
  (if op = 1 then c ||| d else if op = 2 then c &&& ~~~ d else c ^^^ d) &&& (w32 r.rw ||| w32 r.ws)

/-- A write to an alias. -/
def State.aliasWrite (s : State) (f addr op code q off : Nat) (v : Word) : State :=
  match regAt code off with
  | none => s
  | some r =>
    if r.rw = 0 ∧ r.ws = 0 then (s.count bGLB 0 4).accError 5 f addr
    else s.baseWrite code q off r (aliasValue op (s.aliasFrom code q off r) v r).toNat

/-! ### Function pages (Table 12-3) -/

/-- A write of MBX_IN_CTL (R347, R351). -/
def mbxInCtl (s : State) (n : Nat) (v : Word) : State :=
  let F := s.fn n
  let agent := bits v.toNat 7 5
  if F.go then s.count bHQ 0 8
  else if bit v.toNat 8 then
    if 1 ≤ agent ∧ agent ≤ 4 ∧ s.qOff (agent - 1) then s.post n { type := 0x0E, code := sDOMOFF, p0 := agent }
    else s.updFn n fun F => { F with mbxInCtl := v &&& 0x1FF, mbxInAt := some s.time, mbxInAck := F.mbxInAck &&& 0xFF }
  else s.updFn n fun F => { F with mbxInCtl := v &&& 0x1FF }

/-- A write of DB_IN (R352): one that rings a masked or reserved bit is counted (DEDUCED, assumption 37). -/
def dbIn (s : State) (n : Nat) (v : Word) : State :=
  let s := if bit v.toNat 0 then s.updFn n fun F => F.takeOut sOK else s
  let s := if bit v.toNat 1 then s.updFn n fun F => { F with dbOut := F.dbOut &&& 0xFFFFFFFB } else s
  if v.toNat / 4 ≠ 0 then s.count bHQ 0 9 else s

/-- A write to an offset of the page of function n. -/
def pageWrite (s : State) (n off : Nat) (v : Word) : State :=
  if off < 0x40 then (if (s.fn n).go then s else s.updFn n fun F => { F with mbxIn := F.mbxIn.put (off / 4) v })
  else if off = 0x40 then mbxInCtl s n v
  else if off = 0xC4 then
    s.updFn n fun F => if bit v.toNat 8 then F.takeOut (v.toNat % 256) else { F with mbxOutAck := v &&& 0xFF }
  else if off = 0x100 then dbIn s n v
  else if off = 0x108 then s.updFn n fun F => { F with dbOut := F.dbOut &&& ~~~ v }
  else if off = 0x10C then s.updFn n fun F => { F with dbOutMask := v }
  else if 0x200 ≤ off ∧ off < 0x210 then s.updFn n fun F => { F with admRegs := F.admRegs.put off v }
  else if off = 0x210 then admQueueCtl s n v
  else s

/-- HQ_FN_STATUS (Table 12-19). -/
def State.fnStatus (s : State) (n : Nat) : Nat :=
  b2n s.ready + 2 * (s.tenant n).state.code + 8 * b2n s.sec.conf + 16 * (if n = 0 then 0 else (s.fn n).tdi % 4)

/-- What a read of an offset of the page of function n returns. -/
def State.pageView (s : State) (n off : Nat) : Word :=
  let F := s.fn n
  if off < 0x40 then F.mbxIn.fetch (off / 4) 0
  else if off = 0x40 then F.mbxInCtl
  else if off = 0x44 then F.mbxInAck
  else if 0x80 ≤ off ∧ off < 0xC0 then F.mbxOut.fetch ((off - 0x80) / 4) 0
  else if off = 0xC0 then F.mbxOutCtl
  else if off = 0xC4 then F.mbxOutAck
  else if off = 0x104 then 0xFFFFFFFC
  else if off = 0x108 then F.dbOut
  else if off = 0x10C then F.dbOutMask
  else if 0x200 ≤ off ∧ off < 0x210 then F.admRegs.fetch off 0
  else if off = 0x210 then F.admRegs.fetch off 0x440
  else if off = 0x214 then w32 (b2n F.admRdy)
  else if off = 0x300 then w32 (s.fnStatus n)
  else if 0x800 ≤ off ∧ off < 0xC00 ∧ off % 256 = 0 then w32 (s.agentStatus ((off - 0x800) / 256))
  else 0

/-! ### REGISTER_WRITE (R355 to R362, R372) -/

/-- OVF written as 1 (R366): the flag and the count go in one step; while OVF is 0 nothing changes. -/
def State.clearOvf (s : State) (code q off : Nat) : State :=
  let a := blockBase code q + off / 8 * 8
  if isCounterOff code off && off % 8 == 4 && (s.counter a).ovf then s.setCounter a {} else s

/-- The Quarter whose window an access lies in, when it lies in a block of one. -/
def RegPlace.quarter (p : RegPlace) : Option Nat :=
  match p with
  | .base c q _ => if c < 0x10 then none else some q
  | .aliasOf _ c q _ => if c < 0x10 then none else some q
  | .count c q _ => if c < 0x10 then none else some q
  | .holding c q _ => if c < 0x10 then none else some q
  | .nothing q => q
  | .page _ _ => none
  | .doorbell _ _ _ => none
  | .tenantWord _ => none

/-- An access to an address that no table assigns (R356). -/
def State.reservedAccess (s : State) (f addr : Nat) : State := (s.count bGLB 0 1).accError 2 f addr

/-- The place is in a Quarter that is in Q-OFF. -/
def State.placeOff (s : State) (p : RegPlace) : Bool := match p.quarter with | some q => s.qOff q | none => false

/-- A write of one DWORD with every byte enabled. -/
def State.wordWrite (s : State) (f addr : Nat) (v : Word) : State :=
  let p := placeOf f addr
  if s.placeOff p then (s.count bGLB 0 2).accError 3 f addr
  else match p with
    | .page n off => if s.pageOpen f n then pageWrite s n off v else s.count bHQ 0 6
    | .doorbell n qid head => if head then cqHead s n qid v.toNat else sqTail s n qid v.toNat
    | .tenantWord _ => s
    | .base code q off => match regAt code off with | some r => s.baseWrite code q off r v.toNat | none => s
    | .aliasOf op code q off => s.aliasWrite f addr op code q off v
    | .count code q off => if bit v.toNat 31 then s.clearOvf code q off else s
    | .holding _ _ _ => s
    | .nothing _ => s.reservedAccess f addr

/-- REGISTER_WRITE: a request of more than two DWORDs, or with a byte enable clear, is ignored and counted (R355). One of two DWORDs
is two of these commands. -/
def registerWrite (s : State) (f addr : Nat) (v : Word) (be dwords : Nat) : State :=
  let a := addr / 4 * 4
  if dwords > 2 then (s.count bGLB 0 3).accError 6 f a
  else if be ≠ 15 then (s.count bGLB 0 0).accError 1 f a
  else s.wordWrite f a v

/-- REGISTER_WRITE. -/
def execRegisterWrite (fn : Fin 64) (addr : Nat) (value : Word) (be : BitVec 4) (dwords : Nat) (s : State) :
    Host.Outcome State Fault Refusal :=
  .next (settle (registerWrite s fn addr value be.toNat dwords))

/-! ### COUNTER_READ and COUNTER_OVF_CLEAR (R365, R366) -/

/-- What the read of this command returned. -/
def State.returns (s : State) (v : Word) : State := { s with regs := { s.regs with readData := v } }

/-- A read of one word of a 64-bit pair: word +0 latches word +4 for its requester, which the next read of that word +4
returns. -/
def State.pairRead (s : State) (f addr v : Nat) : State :=
  if addr % 8 = 0 then
    ({ s with regs := { s.regs with latch := s.regs.latch.put f { addr := addr, hi := w32 (v / 2 ^ 32) } } }).returns (w32 v)
  else s.returns (match s.regs.latch.look f with
    | some l => if l.addr + 4 = addr then l.hi else w32 (v / 2 ^ 32)
    | none => w32 (v / 2 ^ 32))

/-- COUNTER_READ: a read of one DWORD at an address of a function's BAR0. A read in 0x0000 to 0x3FFF of a block of a Quarter in Q-OFF
aborts (R372), as does one of its HQ_AGENT_STATUS (R351). -/
def counterRead (s : State) (f addr : Nat) : State :=
  let p := placeOf f addr
  let abort := ((s.count bGLB 0 3).accError 4 f addr)
  let pair := fun (c q off : Nat) => match s.pairAt c q (off / 8 * 8) with | some v => some v | none => none
  if s.placeOff p && addr % 0x10000 < 0x4000 then abort
  else match p with
    | .page n off =>
      if !s.pageOpen f n then s.returns 0
      else if 0x800 ≤ off ∧ off < 0xC00 ∧ off % 256 = 0 ∧ s.qOff ((off - 0x800) / 256) then abort
      else s.returns (s.pageView n off)
    | .doorbell _ _ _ => let d := s.drawFree; d.2.returns (w32 d.1)
    | .tenantWord off => s.returns (w32 (if off < 16 then s.secTenantWord f (off / 4) else s.tlimitWord f (off / 4 - 4)))
    | .base c q off => match pair c q off with | some v => s.pairRead f addr v | none => s.returns (w32 (s.view c q off))
    | .aliasOf _ c q off => s.returns (w32 (s.view c q off))
    | .count c q off => s.pairRead f addr ((pair c q off).getD 0)
    | .holding c q off => s.pairRead f addr ((pair c q off).getD 0)
    | .nothing _ => (s.reservedAccess f addr).returns 0

/-- COUNTER_READ. -/
def execCounterRead (fn : Fin 64) (addr : Nat) (s : State) : Host.Outcome State Fault Refusal :=
  .next (counterRead s fn addr)

/-- COUNTER_OVF_CLEAR: a write of 1 to OVF, in word +4 of a counter; at an address that holds no counter it is a write like any other. -/
def execCounterOvfClear (fn : Fin 64) (addr : Nat) (s : State) : Host.Outcome State Fault Refusal :=
  .next (settle (s.wordWrite fn addr 0x80000000))

end Sys2Proof.Machine
end

