-- ==== Sys2Proof/Machine/NvmImage.lean ====
section
/-!
DEFINITION. The configuration NVM and its images (R402 to R408): the header, the section directory, the sections, the checks of
verification, and the choice of the image to use.
-/
namespace Sys2Proof.Machine

/-- First NVM byte of a slot: 0 = A, 1 = B (R402). -/
def slotBase (slot : Nat) : Nat := slot * 0x2000000

/-- Bytes of a slot (R402). -/
def slotBytes : Nat := 0x2000000

/-- The 256-byte header of a slot (Table 15-3). -/
def headerOf (nvm : Mem) (slot : Nat) : Bytes := Mem.read nvm (slotBase slot) 256

/-- MAGIC and FORMAT are right: the slot is readable. -/
def headerReads (h : Bytes) : Bool := fieldAt h 0 4 == 0x4C4D4943 && fieldAt h 4 2 == 1

/-- SEQ of a slot's header, 0 when it is unreadable (Table 15-13). -/
def slotSeq (nvm : Mem) (slot : Nat) : Nat := if headerReads (headerOf nvm slot) then fieldAt (headerOf nvm slot) 8 4 else 0

/-- LENGTH of an image (Table 15-3). -/
def imageLen (h : Bytes) : Nat := fieldAt h 12 4

/-- Check 1 of R404: MAGIC, FORMAT, SEQ and LENGTH, and that the image fits its slot. -/
def headerOk (h : Bytes) : Bool :=
  headerReads h && fieldAt h 8 4 != 0 && imageLen h % 4096 == 0 && decide (8192 ≤ imageLen h) && decide (imageLen h ≤ slotBytes)

/-- Check 2 of R404: the Jennor signature (the node's own key stands as no key) and the operator's, with OPER_ID as its user ID. -/
def signaturesOk (h : Bytes) : Bool :=
  Config.sm2Verify [] (h.take 128 ++ (h.drop 128).take 64) &&
  Config.sm2Verify ((h.drop 48).take 64) ((h.drop 112).take 8 ++ h.take 192 ++ (h.drop 192).take 64)

/-- Check 3 of R404: the digest of everything after the header. -/
def digestOk (nvm : Mem) (slot : Nat) (h : Bytes) : Bool :=
  leBytes 32 (Config.sm3 (Mem.read nvm (slotBase slot + 256) (imageLen h - 256))) == (h.drop 16).take 32

/-! ### The section directory (R403) -/

/-- One section: its type, its offset from the start of the image and its length; and whether the rest of its directory entry is
zero. -/
structure SectionRef where
  type : Nat
  off : Nat
  len : Nat
  clean : Bool
  deriving DecidableEq, Repr

/-- COUNT of a slot's directory. -/
def dirCount (nvm : Mem) (slot : Nat) : Nat := leNat (Mem.read nvm (slotBase slot + 256) 4)

/-- The directory entries of a slot; only the first 16 can be in use. -/
def sections (nvm : Mem) (slot : Nat) : List SectionRef :=
  (List.range (min (dirCount nvm slot) 16)).map fun i =>
    let e := Mem.read nvm (slotBase slot + 260 + 16 * i) 16
    { type := fieldAt e 0 2, off := fieldAt e 4 4, len := fieldAt e 8 4, clean := zeroRange e 2 4 && zeroRange e 12 16 }

/-- Two sections share a byte. -/
def SectionRef.meets (a b : SectionRef) : Bool := decide (a.off < b.off + b.len) && decide (b.off < a.off + a.len)

/-- No element of a list stands in a relation to a later one. -/
def noPair {α : Type} (r : α → α → Bool) : List α → Bool
  | [] => true
  | a :: t => t.all (fun b => !r a b) && noPair r t

/-- Check 4 of R404: the directory is well formed, names no type twice or reserved, and holds the required types. -/
def directoryOk (nvm : Mem) (slot : Nat) (len : Nat) : Bool :=
  let l := sections nvm slot
  decide (1 ≤ dirCount nvm slot) && decide (dirCount nvm slot ≤ 16) &&
  l.all (fun s => s.off % 16 == 0 && decide (s.off + s.len ≤ len) && decide (1 ≤ s.type) && decide (s.type ≤ 10)) &&
  noPair (fun a b => a.type == b.type || a.meets b) l && [1, 2, 3, 4].all fun t => l.any fun s => s.type == t

/-- The bytes of the section of a type, if the image has one. -/
def sectionOf (nvm : Mem) (slot : Nat) (t : Nat) : Option Bytes :=
  ((sections nvm slot).find? fun s => s.type == t).map fun s => Mem.read nvm (slotBase slot + s.off) s.len

/-! ### The sections' own rules (R406 to R408, R7, R320) -/

/-- Entries of a register list: offset and value (R407). -/
def regList (b : Bytes) : List (Nat × Nat) :=
  (List.range (b.length / 8)).map fun i => (fieldAt b (8 * i) 4, fieldAt b (8 * i + 4) 4)

/-- The register that an entry names is one its section may write (R407). -/
def listMayWrite (sec : Nat) (a : Nat) : Bool :=
  match blockOf a with
  | none => false
  | some (c, _, off) =>
    decide (off < 0xFE0) && (match regAt c off with | some r => r.rw != 0 || r.ws != 0 | none => false) &&
    (match sec with
     | 4 => c == bPORT || c == bXPT
     | 5 => c == bXPT && [4, 8, 0x10, 0x14, 0x18].contains off
     | _ => [bCORE, bDOVE, bBSC, bPST, bPCD, bTKT, bXPT, bPORT].contains c || (c == bNRG && off == 0) ||
        (c == bHQ && off == 4) || (c == bSEC && off == 0x10))

/-- A register list that keeps R407. -/
def regListOk (sec : Nat) (b : Bytes) : Bool := b.length % 8 == 0 && (regList b).all fun e => decide (e.1 < 2 ^ 26) && listMayWrite sec e.1

/-- The ranges of a Fabric Size Table (R408). -/
def fabricRanges (b : Bytes) : List (Nat × Nat) :=
  (List.range (fieldAt b 4 2)).map fun i => (fieldAt b (8 + 4 * i) 2, fieldAt b (10 + 4 * i) 2)

/-- Ranges ascend without overlap, and each FIRST ≤ LAST ≤ 16,383. -/
def rangesOk : List (Nat × Nat) → Bool
  | [] => true
  | (a, b) :: t => decide (a ≤ b) && decide (b ≤ 16383) && (match t with | (c, _) :: _ => decide (b < c) | [] => true) && rangesOk t

/-- The Fabric Size Table keeps R7 and R408. -/
def fabricOk (b : Bytes) : Bool :=
  let l := fabricRanges b
  decide (1 ≤ fieldAt b 0 4) && decide (fieldAt b 0 4 ≤ 16384) && decide (1 ≤ fieldAt b 4 2) && decide (fieldAt b 4 2 ≤ 1024) &&
  decide (8 + 4 * fieldAt b 4 2 ≤ b.length) && rangesOk l && (l.map fun r => r.2 + 1 - r.1).sum == fieldAt b 0 4

/-- The tenant 0 descriptor in a partition layout section: bytes 0 to 87 of Table 11-1. -/
def tenant0Of (b : Bytes) : Bytes := (b.drop 8).take 88

/-- The partition layout keeps R406, R320 and the limits of Table 11-1; its TENANT reads as 0 (R302). -/
def partitionOk (confLock : Bool) (b : Bytes) : Bool :=
  decide (96 ≤ b.length) && (!confLock || bit (byteAt b 0) 0) && decide (fieldAt (tenant0Of b) 8 4 ≤ 262144)

/-- The port configuration keeps R406. -/
def portSectionOk (b : Bytes) : Bool :=
  decide (32 ≤ b.length) && !bit (byteAt b 0) 0 && decide (byteAt b 5 ≤ 0xFC) &&
  ([0, 1, 2, 3].all fun q => bits (byteAt b 16) (2 * q + 1) (2 * q) != 3) && regListOk 4 (b.drop 32)

/-- Check 5 of R404 on one section. -/
def sectionOk (confLock : Bool) (t : Nat) (b : Bytes) : Bool :=
  match t with
  | 2 => fabricOk b
  | 3 => partitionOk confLock b
  | 4 => portSectionOk b
  | 5 => regListOk 5 b
  | 6 => decide (16 ≤ b.length) && decide (600 ≤ fieldAt b 0 2) && decide (fieldAt b 0 2 ≤ 1600) && regListOk 6 (b.drop 16)
  | 7 => b.length == 28
  | 8 => decide (2 ≤ b.length)
  | 9 => decide (2 ≤ b.length)
  | 10 => decide (2 ≤ b.length) && decide (byteAt b 1 < 16)
  | _ => true

/-- Reserved fields of one section are zero (check 6 of R404). -/
def sectionClean (t : Nat) (b : Bytes) : Bool :=
  match t with
  | 2 => zeroRange b 6 8
  | 3 => byteAt b 0 < 2 && zeroRange b 1 8 && byteAt (tenant0Of b) 0 < 64 && byteAt (tenant0Of b) 1 < 4 &&
      zeroRange (tenant0Of b) 2 4 && zeroRange (tenant0Of b) 14 16 && zeroRange (tenant0Of b) 80 88
  | 4 => zeroRange b 6 8 && zeroRange b 17 32
  | 6 => zeroRange b 2 16
  | 8 => byteAt b 1 < 8
  | 9 => byteAt b 0 < 16 && byteAt b 1 < 32
  | _ => true

/-- Check 6 of R404: no reserved field of the header, the directory or a section is set. -/
def imageClean (nvm : Mem) (slot : Nat) (h : Bytes) : Bool :=
  zeroRange h 6 8 && zeroRange h 120 128 && (sections nvm slot).all (fun s => s.clean) &&
  (sections nvm slot).all fun s => sectionClean s.type (Mem.read nvm (slotBase slot + s.off) s.len)

/-- IMAGE_VERIFY (R404): the number of the first check that fails, or none when the image in a slot verifies. -/
def imageFault (nvm : Mem) (slot : Nat) (confLock : Bool) : Option Nat :=
  let h := headerOf nvm slot
  if !headerOk h then some 1
  else if !signaturesOk h then some 2
  else if !digestOk nvm slot h then some 3
  else if !directoryOk nvm slot (imageLen h) then some 4
  else if !((sections nvm slot).all fun s => sectionOk confLock s.type (Mem.read nvm (slotBase slot + s.off) s.len)) then some 5
  else if !imageClean nvm slot h then some 6
  else none

/-! ### The image in use (R406, R409) -/

/-- The value of the bytes of a MAC address, first octet highest (R406, DEDUCED, assumption 38). -/
def macNat (b : Bytes) : Nat := b.foldl (fun a x => a * 256 + x.toNat) 0

/-- What the node takes from a verified image. -/
def imageOf (nvm : Mem) (slot : Nat) (confLock : Bool) : Image :=
  let h := headerOf nvm slot
  let sec := fun (t : Nat) => (sectionOf nvm slot t).getD []
  let port := sec 4
  let caps := sec 6
  let lists := regList (port.drop 32) ++ regList (sec 5) ++ regList (caps.drop 16)
  let isMode := fun (e : Nat × Nat) => match blockOf e.1 with | some (c, _, off) => c == bBSC && decide (0x10 ≤ off) && decide (off < 0x20) | none => false
  let energy := if (sec 7).length = 28 then (List.range 7).map fun i => (blockBase bNRG 0 + 0x100 + 4 * i, fieldAt (sec 7) (4 * i) 4) else []
  { slot := slot, oper := (h.drop 48).take 64, operId := (h.drop 112).take 8
    fabric := fabricRanges (sec 2), nodes := fieldAt (sec 2) 0 4
    baseMac := macNat (port.take 6), fabricPfx := fieldAt port 8 8, pmds := byteAt port 16
    finjPorts := byteAt (sec 9) 0 % 16, finjModes := byteAt (sec 9) 1 % 32
    openMask := (match sectionOf nvm slot 10 with | some b => fieldAt b 0 2 % 4096 | none => 2 ^ 3 + 2 ^ 11)
    chModes := lists.filter isMode, fmRequested := fieldAt (sec 8) 0 2 % 2048
    digest := (h.drop 16).take 32, fwDigest := leBytes 32 (Config.sm3 (sec 1))
    conf := confLock || bit (byteAt (sec 3) 0) 0, tenant0 := tenant0Of (sec 3)
    writes := lists.filter (fun e => !isMode e) ++ energy
    capW := if (sectionOf nvm slot 6).isSome then fieldAt caps 0 2 else 1400 }

/-! ### The choice of an image (R401, R405) -/

/-- A slot is marked failed in the standby record (R401). -/
def Standby.marked (r : Standby) (slot : Nat) : Bool := if slot = 0 then r.failedA else r.failedB

/-- Slot x is tried before slot y: one not marked failed, then a readable one, then the higher SEQ; slot A first on equal SEQ. -/
def slotBefore (nvm : Mem) (r : Standby) (x y : Nat) : Bool :=
  if r.marked x != r.marked y then r.marked y
  else if headerReads (headerOf nvm x) != headerReads (headerOf nvm y) then headerReads (headerOf nvm x)
  else decide (slotSeq nvm x > slotSeq nvm y) || (slotSeq nvm x == slotSeq nvm y && decide (x < y))

/-- IMAGE_SELECT: the slot whose image is used, if one verifies, and the results of slots A and B: 0 not tried, 1 verified, 2 failed, 3
marked failed and not tried. -/
def selectImage (nvm : Mem) (r : Standby) (confLock : Bool) : Option Nat × Nat × Nat :=
  let a := if slotBefore nvm r 0 1 then 0 else 1
  let b := 1 - a
  let rest := if r.marked b then 3 else 0
  let out := fun (ra rb : Nat) => if a = 0 then (ra, rb) else (rb, ra)
  if (imageFault nvm a confLock).isNone then (some a, out 1 rest)
  else if (imageFault nvm b confLock).isNone then (some b, out 2 1)
  else (none, out 2 2)

end Sys2Proof.Machine
end

