-- ==== Sys2Proof/Machine/Start.lean ====
section
/-!
DEFINITION. Resets and start-up (ch. 15, R353, R398): the function-level resets, PERST#, node resets and the loss of main power, the
start-up phases, stack training and the boot watchdog.
-/
namespace Sys2Proof.Machine

/-! ### Function-level resets (R353, R354, R398) -/

/-- A function whose queues, mailboxes and doorbells are gone, with its TDI in CONFIG_UNLOCKED (R353). -/
def Fn.cleared (F : Fn) : Fn := { enabled := F.enabled, epoch := F.epoch + F.admEpoch + 1, irqs := F.irqs }

/-- Every entry that the Assist Queue posted is timed out (R353, R344). -/
def State.endAssists (s : State) : State :=
  s.host.assists.foldl (fun s e => if (s.assistOf e.tag).isSome then s.assistOut e else s) s

/-- A function-level reset (R353): commands already fetched run on, and their completions find no queue. One of F0 also ends every
assist entry and puts every function in hardware form at the next TICK. -/
def State.resetFn (s : State) (f : Nat) : State :=
  let s := (s.updFn f Fn.cleared).count bHQ 0 7
  if f = 0 then s.endAssists.stage bFMODE 0 0 0 else s

/-- FLR. -/
def execFlr (fn : Fin 64) (s : State) : Host.Outcome State Fault Refusal := .next (settle (s.resetFn fn))

/-- TDI_LEAVE_RUN (R354): a TDI that leaves RUN is handled as an FLR of its function; F0 has no TDI. -/
def execTdiLeaveRun (fn : Fin 64) (s : State) : Host.Outcome State Fault Refusal :=
  .next (if fn.val ≠ 0 ∧ (s.fn fn).tdi = 2 then settle (s.resetFn fn) else s)

/-- PERST# (R398): an FLR of every function; the phase "PCIe up" runs again. -/
def perst (s : State) : State :=
  let s := (List.range 64).foldl (fun s f => s.resetFn f) s
  { s with host := { s.host with linkUp := false, configOk := false }, boot := { s.boot with pcieDone := false } }

/-- PERST. It has no effect while the conversion stages are off (R456). -/
def execPerst (s : State) : Host.Outcome State Fault Refusal := .next (if s.pins.mainPg then settle (perst s) else s)

/-! ### Node resets (R397, R374, R21) -/

/-- A sensor as the standby domain keeps it through a reset; the local time counter starts again. -/
def Sensor.kept (e : Sensor) : Sensor := { e with lastValid := 0, lost := false }

/-- The node with every register, queue and unit of the main domain at its reset value. What lies in the standby domain stays: the pins,
the fuses, the sensors and the thermal latch, the Alley address and its frames, the standby record, the NVM and an update of it. -/
def State.blank (s : State) : State :=
  { free := s.free, pending := s.pending, nextId := s.nextId
    host := { fns := (List.range 64).map fun f => (f, (s.fn f).cleared), mem := s.host.mem }
    sec := { fuseConfLock := s.sec.fuseConfLock, fuseJtagKill := s.sec.fuseJtagKill, fuseIdentProg := s.sec.fuseIdentProg }
    pwr := { sensors := s.pwr.sensors.map (fun e => (e.1, e.2.kept)), tripSensor := s.pwr.tripSensor, tripped := s.pwr.tripped
             lockout := s.pwr.lockout, cycled := s.pwr.cycled, alert := s.pwr.alert }
    boot := { started := s.boot.started, cause := s.boot.cause, standby := s.boot.standby, nvm := s.boot.nvm, update := s.boot.update
              addr := s.boot.addr, aport := s.boot.aport, adir := s.boot.adir, out := s.boot.out, inbox := s.boot.inbox }
    pins := s.pins }

/-- A node reset (Table 15-1): start-up begins again. The first one after a thermal shutdown is a thermal restart; HBM keeps its bytes
only while main power holds. -/
def State.restart (s : State) (cause : Nat) : State :=
  let b := s.blank
  let thermal := s.pwr.lockout && (cause == 1 || cause == 2)
  { b with hbm := if s.pins.mainPg then s.hbm else []
           boot := { b.boot with started := true, cause := if thermal then 3 else cause }
           pwr := { b.pwr with tripped := s.pwr.lockout, lockout := false, cycled := false } }

/-- The conversion stages stop: the main domain loses its state (R448), and the standby record keeps BOOT_STATUS (R415). -/
def State.loseMain (s : State) : State :=
  let b := s.blank
  { b with boot := { b.boot with started := false
                                 standby := { b.boot.standby with lastStatus := if s.pins.mainPg then s.bootStatus else s.boot.standby.lastStatus } }
           pins := { b.pins with mainPg := false } }

/-- POWER_ON_RESET (R397, R449): the standby record, the Alley address, the thermal latch and an update are lost, and the alerts are
released (R452). -/
def State.powerOn (s : State) : State :=
  let b := s.blank
  { b with pwr := {}
           boot := { nvm := s.boot.nvm, out := s.boot.out }
           pins := { b.pins with mainPg := false, vsb12 := true, nvmBusTray := b.pins.progEn && !b.pins.mainEn } }

/-- POWER_ON_RESET. -/
def execPowerOnReset (s : State) : Host.Outcome State Fault Refusal := .next s.powerOn

/-- Every sensor with a valid reading reads below 95 °C (R390). -/
def State.coolEnough (s : State) : Bool := s.pwr.sensors.all fun e => !e.2.valid || decide (e.2.degX8 < 760)

/-- The conversion stages may run (R448, R453, R390): a lockout lets them run once the 52 V input has been cycled and every sensor is
cool enough; an Alley RESET has ended it before. -/
def State.stagesMay (s : State) : Bool :=
  s.pins.mainEn && s.pins.vin52Ok && s.pins.vsb12 && s.pins.sysclk && !s.pins.nvmBusTray &&
    (!s.pwr.lockout || (s.pwr.cycled && s.coolEnough))

/-- MAIN_POWER_GOOD: 52 V power-good rises. A start-up that waits for it in phase 2 goes on; otherwise it is a reset of its own
(Table 15-1). Phase 1 comes first (R448). -/
def mainPowerGood (s : State) : State :=
  if s.pins.mainPg || !s.stagesMay then s
  else if s.boot.started then
    if s.boot.phase = 2 then
      { s with time := 0, ticks := 0, pins := { s.pins with mainPg := true }
               pwr := { s.pwr with sensors := s.pwr.sensors.map fun e => (e.1, e.2.kept) } }
    else s
  else
    let b := s.restart 1
    { b with pins := { b.pins with mainPg := true } }

/-- MAIN_POWER_GOOD. -/
def execMainPowerGood (s : State) : Host.Outcome State Fault Refusal := .next (mainPowerGood s)

/-- A slot's image is marked failed in the standby record (R401). -/
def Standby.mark (r : Standby) (slot : Nat) : Standby := if slot = 0 then { r with failedA := true } else { r with failedB := true }

/-- BOOT_WATCHDOG (R401): Ready has not been reached 8 s after power-good. -/
def bootWatchdog (s : State) : State :=
  if !s.pins.mainPg || s.boot.readyOnce || s.boot.failStop then s
  else
    let s := match s.boot.image with
      | some i => { s with boot := { s.boot with standby := s.boot.standby.mark i.slot } }
      | none => s
    s.restart 4

/-- BOOT_WATCHDOG. -/
def execBootWatchdog (s : State) : Host.Outcome State Fault Refusal := .next (bootWatchdog s)

/-! ### The start-up phases (R399, Table 15-2) -/

/-- The start-up stands at a phase. -/
def State.toPhase (s : State) (p : Nat) : State := { s with boot := { s.boot with phase := p } }

/-- Phase 4 ends (R405, R409): the image in use is fixed, or the node enters the boot-failure state. Without a scrub to come the standby
record notes confidential operation now (R321). JTAG and trace are open outside confidential operation (R320, R435; DEDUCED). -/
def startImage (s : State) : State :=
  let r := selectImage s.boot.nvm s.boot.standby s.sec.fuseConfLock
  let b := { s.boot with aResult := r.2.1, bResult := r.2.2, seqA := slotSeq s.boot.nvm 0, seqB := slotSeq s.boot.nvm 1 }
  match r.1 with
  | none => { s with boot := { b with phase := 15 } }
  | some slot =>
    let i := imageOf s.boot.nvm slot s.sec.fuseConfLock
    let scrub := !b.standby.held || b.standby.conf
    let noted := if scrub then b.standby else { b.standby with held := true, conf := i.conf }
    { s with boot := { b with slot := slot, image := some i, scrubNeed := scrub, standby := noted, phase := if scrub then 6 else 5 }
             sec := { s.sec with conf := i.conf, testConfig := decide (i.nodes < 64), jtagEn := !i.conf && !s.sec.fuseJtagKill
                                 traceEn := !i.conf } }

/-- Tenant 0 of the image (R302): active from start-up, without a page key, and encrypted in confidential operation. -/
def Image.tenantZero (i : Image) : Tenant := let T := tenantOf i.tenant0; { T with encrypt := T.encrypt || i.conf }

/-- The modes that the image requests, which in confidential operation leave out 1 and 6 (R320, R376). The event's type is not
stated. -/
def State.imageModes (s : State) (i : Image) : State :=
  let s := s.writeNow bFMODE 0 0 i.fmRequested
  let s := if bit (s.reg bFMODE 0 0) 1 then [0, 1, 2, 3].foldl (fun s q => s.updXpt q fun X => { X with ctxInHost := true }) s else s
  if i.conf ∧ (bit i.fmRequested 1 ∨ bit i.fmRequested 6) then
    let r := s.drawFree
    r.2.post 0 { type := 1 + r.1 % 16 }
  else s

/-- Phase 6 (R407, R380, R383, R302): the register lists and the other sections of the image take effect. -/
def State.applyImage (s : State) (i : Image) : State :=
  let s := i.writes.foldl (fun s e => match blockOf e.1 with | some (c, q, off) => s.writeNow c q off e.2 | none => s) s
  let s := s.imageModes i
  { s with pwr := { s.pwr with capW := i.capW }, finjPermit := i.finjPorts + 16 * i.finjModes
           sec := { s.sec with tenants := s.sec.tenants.put 0 i.tenantZero } }

/-- The scrub of R321: every byte of HBM is zero, and the record notes this start-up. -/
def State.bootScrub (s : State) : State :=
  { s with hbm := []
           boot := { s.boot with scrubbed := true, scrubNeed := false
                                 standby := { s.boot.standby with held := true, conf := s.sec.conf } } }

/-- Every stack has settled (Table 15-2). -/
def State.trained (s : State) : Bool := (List.range 16).all fun n => (s.stack n).st != .training

/-- Training of a port starts (Table 15-2, phase 8). -/
def State.trainPort (s : State) (p : Nat) : State :=
  if bit (s.reg bPORT p 4) 12 && !(s.qtr p).port.failed && !s.qOff p && !(s.qtr p).port.linkUp then
    s.updPort p fun P => { P with training := true }
  else s

/-- A port trains when PORT_CTL.EN is 1 and port training has begun (Table 15-2). -/
def State.trainIf (s : State) (p : Nat) : State := if 8 ≤ s.boot.phase ∧ s.boot.phase ≤ 10 then s.trainPort p else s

/-- HQ_STATUS.READY has changed, which every function's HQ_FN_STATUS shows (R352). -/
def State.ringReady (s : State) : State :=
  { s with host := { s.host with fns := (List.range 64).map fun f => (f, (s.fn f).ringOut 3) } }

/-- Phase 10 (R149, R410): the channel modes of the image, and Ready. -/
def State.toReady (s : State) : State :=
  let s := (s.image.chModes).foldl (fun s e => match blockOf e.1 with | some (c, q, off) => s.writeNow c q off e.2 | none => s) s
  { s with boot := { s.boot with phase := 10, readyTime := s.time, readyOnce := true } }.ringReady

/-- The phase after "PCIe up", which runs late when a scrub came first or PERST# was asserted (R398, Table 15-2). -/
def State.afterPcie (s : State) : State :=
  let s := { s with host := { s.host with configOk := true }, boot := { s.boot with pcieDone := true } }
  if s.boot.phase = 10 then s.ringReady else s.toPhase (if s.boot.trainDone then 8 else 6)

/-- STARTUP_PHASE_DONE: the phase under way ends, if what Table 15-2 says ends it has come, and the next begins. -/
def startupPhaseDone (s : State) : State :=
  if !s.boot.started || !s.pins.vsb12 || !s.pins.sysclk || s.boot.failStop then s
  else match s.boot.phase with
    | 1 => { s with pwr := { s.pwr with alert := false } }.toPhase 2
    | 2 => if s.pins.mainPg then s.toPhase 3 else s
    | 3 => { s with sec := { s.sec with identOk := s.sec.fuseIdentProg } }.toPhase 4
    | 4 => startImage s
    | 5 => if s.host.linkUp then s.afterPcie else s
    | 6 => match s.boot.image with | some i => (s.applyImage i).toPhase 7 | none => s
    | 7 =>
      if !s.trained then s
      else
        let s := if s.boot.scrubNeed then s.bootScrub else s
        { s with boot := { s.boot with trainDone := true, phase := if s.boot.pcieDone then 8 else 5 } }
    | 8 => ([0, 1, 2, 3].foldl (fun s p => s.trainPort p) s).toPhase 9
    | 9 => if s.boot.pcieDone then s.toReady else s.toPhase 5
    | 10 => if !s.boot.pcieDone && s.host.linkUp then s.afterPcie else s
    | _ => s

/-- STARTUP_PHASE_DONE. -/
def execStartupPhaseDone (s : State) : Host.Outcome State Fault Refusal := .next (settle (startupPhaseDone s))

/-! ### STACK_TRAINING_DONE (R400, R395) -/

/-- A Quarter whose local stack 0 or 1 has failed training is held in Q-OFF (R400). -/
def State.holdOff (s : State) (q : Nat) : State :=
  let s := s.updQ q fun Q => { Q with power := .off, failed := true, port := { Q.port with failed := true, linkUp := false, training := false } }
  [0, 1, 2, 3].foldl (fun s n => s.updStack (4 * q + n) fun S => { S with selfRefresh := true }) s

/-- A stack in TRAINING has trained, or is FAILED. -/
def stackTrainingDone (s : State) (n : Nat) (ok : Bool) : State :=
  let S := s.stack n
  if S.st ≠ .training ∨ S.off ∨ !s.pins.mainPg ∨ s.boot.phase < 7 ∨ 10 < s.boot.phase then s
  else if ok then
    let s := s.updStack n fun S => { S with st := .ready }
    if s.boot.trainDone then notReadyEnd (s.postPower 5 n 0 3) (n / 4) else s
  else
    let s := (s.updStack n fun S => { S with st := .failed }).postFault 7 n (n % 4) 0 (n / 4)
    if n % 4 < 2 ∧ !(s.qtr (n / 4)).failed then s.holdOff (n / 4) else notReadyEnd s (n / 4)

/-- STACK_TRAINING_DONE. -/
def execStackTrainingDone (n : Fin 16) (ok : Bool) (s : State) : Host.Outcome State Fault Refusal :=
  .next (settle (stackTrainingDone s n ok))

end Sys2Proof.Machine
end

