-- ==== Sys2Proof/Machine/Energy.lean ====
section
/-!
DEFINITION. Power and temperature (ch. 14): the allocator's rebalance and power clamp, the sensors with their steps and the thermal
shutdown, conservative mode, and the end of a Quarter's Q-OFF exit.
-/
namespace Sys2Proof.Machine

/-- The Square runs its management plane: main power is good, the boot ROM has started, and the node has neither failed nor
fail-stopped. -/
def State.squareRuns (s : State) : Bool := s.pins.mainPg && !s.boot.failStop && 3 ≤ s.boot.phase && s.boot.phase ≤ 10

/-! ### REBALANCE (R382, R387) -/

/-- Power of a running core job in mW: its estimate over its estimated run time (R382, R126); 1 fJ in 1 ns is 1 µW. -/
def State.jobMw (s : State) (q : Nat) (j : Job) : Rat :=
  match s.jobShape j with
  | none => 0
  | some sh =>
    let ns := (j.runs : Rat) * s.runCycles q j.rowN (s.coresIn q).length sh * s.coreNs q
    if ns ≤ 0 then 0 else (j.raw : Rat) * j.factor / ns / 1000

/-- Power of the sequence at the front of a scorer in mW (R382, R143). -/
def State.seqMw (s : State) (q : Nat) (x : Sequence) : Rat :=
  match s.job q x.job with
  | none => 0
  | some j =>
    match s.request j.ticket with
    | none => 0
    | some r =>
      (s.energyOf x.rowN x.runs 1 true (r.role == 2) r.shape : Nat) * j.factor / (seqCycles x.rowN x.runs r.shape : Nat) / 1000

/-- P_jobs of R382 in mW. -/
def State.jobsMw (s : State) : Rat :=
  ((List.range 4).map fun q =>
    (((s.qtr q).core.jobs.filter fun j => j.state == .running).map (s.jobMw q)).sum +
    (((s.qtr q).bsc.stk.flatMap fun e => e.2.seqs.filterMap fun x => x.2.head?).map (s.seqMw q)).sum).sum

/-- Rate of a Quarter in mW, rounded down: its floor and its part of the rest by demand (R382, step 5). -/
def State.rateFor (s : State) (free : Rat) (q : Nat) : Nat :=
  let live := (List.range 4).filter fun k => !s.qOff k
  let floor : Rat := free * (sat (bits (s.reg bNRG 0 0) 12 8) 16 : Nat) / 64
  let rest := free - floor * (live.length : Nat)
  let total := (live.map s.demandFj).sum
  if s.qOff q then 0
  else (floor + (if total = 0 then rest / (live.length : Nat) else rest * (s.demandFj q : Nat) / (total : Nat))).floor.toNat

/-- The power clamp of R387 for the period that begins: P_pkg above cap_eff engages it. The event's values are the duties (DEDUCED). -/
def State.clampFor (s : State) (pPkg : Nat) : State :=
  let cap := s.capEffMw
  if pPkg ≤ cap then { s with pwr := { s.pwr with clamp := false, duty := 64 } }
  else
    let duty := max 1 (64 * cap / pPkg)
    let s := if s.pwr.clamp then s else s.postPower 8 0 duty s.pwr.duty
    ({ s with pwr := { s.pwr with clamp := true, duty := duty } }).count bNRG 0 3

/-- REBALANCE: `pPkg` is the package power in mW, averaged over the period. -/
def rebalance (s : State) (pPkg : Nat) : State :=
  if !s.squareRuns then s
  else
    let s := s.advance (s.pwr.rebalAt + 10000)
    let ung := max 0 ((pPkg : Rat) - s.jobsMw)
    let free := max 0 ((s.capEffMw : Rat) - ung)
    let s := [0, 1, 2, 3].foldl (fun s q => s.settleBucket q) s
    let rates := (List.range 4).map (s.rateFor free)
    let s := [0, 1, 2, 3].foldl (fun s q => s.updQe q fun e => { e with rateMw := rates.getD q 0 }) s
    let s := { s with pwr := { s.pwr with pkgMw := pPkg, ungatedMw := ung.floor.toNat, rebalAt := s.time } }
    ((s.clampFor pPkg).count bNRG 0 2).checkMisses

/-- REBALANCE. -/
def execRebalance (pPkg : Nat) (s : State) : Host.Outcome State Fault Refusal := .next (settle (rebalance s pPkg))

/-! ### SENSOR_READING (R389, R390) -/

/-- Directory step after a reading of 1/8 °C (Table 14-3): 0 full rate, 1 half, 2 a quarter. -/
def dirStepAt (cur deg : Nat) : Nat :=
  if 840 ≤ deg then 2
  else if cur = 2 ∧ 800 ≤ deg then 2
  else if 760 ≤ deg then 1
  else if cur ≠ 0 ∧ 720 ≤ deg then 1
  else 0

/-- A scoring stack's base die is at its step after a reading (Table 14-3). -/
def hotAt (cur : Bool) (deg : Nat) : Bool := 760 ≤ deg || (cur && 720 ≤ deg)

/-- The step actions of a sensor (Table 14-3). -/
def State.stepFor (s : State) (i deg : Nat) : State :=
  if 5 ≤ i ∧ i ≤ 8 then
    let q := i - 5
    let old := s.pwr.dirStep.fetch q 0
    let step := dirStepAt old deg
    if step = old then s
    else
      let s := { s with pwr := { s.pwr with dirStep := s.pwr.dirStep.put q step } }.postPower 3 i step old
      if old < step then s.count bPWR 0 3 else s
  else if 25 ≤ i then
    let was := bit s.pwr.hotScoring (i - 25)
    let hot := hotAt was deg
    if hot = was then s
    else { s with pwr := { s.pwr with hotScoring := setBit s.pwr.hotScoring (i - 25) hot } }.postPower 3 i (b2n hot) (b2n was)
  else s

/-- A valid reading that starts a thermal shutdown (Table 14-3): 115 °C on the hub, compute and base dies, 105 °C on the stacks. -/
def tripsAt (i deg : Nat) : Bool := (i ≤ 8 && 920 ≤ deg) || (9 ≤ i && i ≤ 24 && 840 ≤ deg)

/-- Thermal shutdown (R390): the cause is latched, the alert asserted, the event attempted, and the stages go off in lockout. -/
def State.shutDown (s : State) (i : Nat) : State :=
  let s := { s with pwr := { s.pwr with tripSensor := i, alert := true } }
  let s := if s.pins.mainPg then s.postPower 9 i 1 0 else s
  let s := s.loseMain
  { s with pwr := { s.pwr with lockout := true, tripped := true, cycled := false } }

/-- SENSOR_READING: a reading in 1/8 °C, or none. A sensor with no valid reading counts as 105 °C for its step, and never starts a
shutdown. -/
def sensorReading (s : State) (i at_ : Nat) (deg : Option Nat) : State :=
  let s := s.advance at_
  let old := s.pwr.sensors.fetch i {}
  let e : Sensor := match deg with
    | some d => { degX8 := sat d 2047, valid := true, lastValid := s.time }
    | none => { old with valid := false, fault := true }
  let s := { s with pwr := { s.pwr with sensors := s.pwr.sensors.put i e, tickBad := s.pwr.tickBad || deg.isNone } }
  let s := if s.pins.mainPg then s.stepFor i (deg.getD 840) else s
  match deg with
  | some d => if tripsAt i d && !s.pwr.lockout then s.shutDown i else s
  | none => s

/-- SENSOR_READING. The sensors lie in the standby domain. -/
def execSensorReading (i : Fin 33) (at_ : Nat) (deg : Option Nat) (s : State) : Host.Outcome State Fault Refusal :=
  .next (if s.pins.vsb12 then sensorReading s i at_ deg else s)

/-! ### SENSOR_INVALID_TIMEOUT (R384, R385) -/

/-- Conservative mode is entered, or its count begins again (Table 14-6). -/
def State.goConservative (s : State) : State :=
  let p := { s.pwr with conservative := true, history := 0 }
  if s.pwr.conservative then { s with pwr := p }
  else
    let s := { s with pwr := p }
    let s := [0, 1, 2, 3].foldl (fun s q => s.updQe q fun e => { e with calib := 1 }) s
    (s.postPower 1 0 1 0).count bNRG 0 4

/-- SENSOR_INVALID_TIMEOUT: 10 ms without a valid reading. -/
def sensorInvalid (s : State) (i : Nat) : State :=
  let e := s.pwr.sensors.fetch i {}
  if e.valid || e.lost then s
  else
    let s := s.advance (e.lastValid + 10000000)
    let s := { s with pwr := { s.pwr with sensors := s.pwr.sensors.put i { e with fault := true, lost := true } } }
    if s.squareRuns then s.goConservative else s

/-- SENSOR_INVALID_TIMEOUT. -/
def execSensorInvalidTimeout (i : Fin 33) (s : State) : Host.Outcome State Fault Refusal :=
  .next (if s.pins.vsb12 then sensorInvalid s i else s)

/-! ### Q_OFF_EXIT_DONE (R394, R372) -/

/-- Every staged value of a Quarter's blocks takes effect. -/
def State.applyStaged (s : State) (q : Nat) : State :=
  s.regs.staged.foldl (fun s e =>
    match blockOf e.1 with
    | some (c, k, off) =>
      if c < 0x10 ∨ k ≠ q then s
      else if c = bCORE ∧ off = 0 then (List.range 8).foldl (fun s k => s.coreBit q k) s
      else if c = bPORT ∧ 0x600 ≤ off ∧ off < 0x800 then applyPacket s q 0x600 ((off - 0x600) / 8)
      else if c = bPORT ∧ 0x800 ≤ off ∧ off < 0xA00 then applyPacket s q 0x800 ((off - 0x800) / 8)
      else s.applyAt c q off
    | none => s) s

/-- Target of a Quarter: 0 ON, 1 IDLE, 2 OFF; 3 is ON (Table 14-15). -/
def State.qTarget (s : State) (q : Nat) : Nat := let v := bits (s.reg bPWR 0 4) (2 * q + 1) (2 * q); if v = 3 then 0 else v

/-- Q_OFF_EXIT_DONE: the stacks are back, the directory stands as its shadow gives it, and the Quarter starts work. -/
def qOffExitDone (s : State) (q : Nat) : State :=
  if (s.qtr q).power ≠ .leaving then s
  else
    let s := [0, 1, 2, 3].foldl (fun s n => s.updStack (4 * q + n) fun S => { S with selfRefresh := false }) s
    let s := dirRebuildDone (s.startRebuild q) q
    let idle := s.qTarget q == 1
    let s := s.updQ q fun Q => { Q with power := if idle then .idle else .on }
    let s := s.updQe q fun e => { e with at_ := s.time }
    let s := (s.applyStaged q).postPower 4 q (s.qStateCode q) 5
    notReadyEnd (s.trainIf q) q

/-- Q_OFF_EXIT_DONE. -/
def execQOffExitDone (q : Fin 4) (s : State) : Host.Outcome State Fault Refusal := .next (settle (qOffExitDone s q))

end Sys2Proof.Machine
end

