-- ==== Sys2Proof/Machine/Alley.lean ====
section
/-!
DEFINITION. The Alley and its management commands (ch. 15, R296, R324): frames in and out, enumeration, sessions, access to commands,
and each command of Table 15-9.
-/
namespace Sys2Proof.Machine

/-! ### Frames (R411, Table 15-6) -/

/-- The bytes of an Alley frame. -/
def alleyFrameOf (dst src cmd : Nat) (rsp more ses : Bool) (seqNo : Nat) (pay : Bytes) : Bytes :=
  let b := leBytes 1 dst ++ leBytes 1 src ++ leBytes 1 (cmd + 128 * b2n rsp) ++ leBytes 1 (b2n more + 2 * b2n ses) ++
    leBytes 2 seqNo ++ leBytes 2 pay.length ++ pay
  b ++ leBytes 4 (crc32c b)

/-- The node sends a frame out of an Alley port. -/
def State.alleySend (s : State) (port : Nat) (b : Bytes) : State :=
  { s with boot := { s.boot with out := s.boot.out ++ [{ port := port, bytes := b }] } }

/-- Parts of at most n bytes, at least one, each with whether another follows. -/
def alleyParts (n : Nat) : Nat → Bytes → List (Bool × Bytes)
  | 0, b => [(false, b.take n)]
  | fuel + 1, b => if b.length ≤ n then [(false, b)] else (true, b.take n) :: alleyParts n fuel (b.drop n)

/-- What the tag of a session frame covers: everything before it (R413). -/
def sessionMsg (x : Session) (body : Bytes) : Bytes := leBytes 1 x.sid ++ leBytes 3 0 ++ leBytes 8 x.counter ++ body

/-- The payload of a response: wrapped with the command's COUNTER and the node's own tag when it came in a session (R413). -/
def State.wrapped (s : State) (m : Mgmt) (body : Bytes) : Bytes :=
  match m.ses with
  | none => body
  | some x =>
    match s.sec.sessions.look x.sid with
    | none => body
    | some k => let b := sessionMsg x body; b ++ leBytes 32 (Config.hmac k.key b)

/-- Answer a management command out of the port on which it came (R411): a status, and what follows it, over as many frames as it takes
(DESIGN CHOICE: each as full as it can be, each with the status). -/
def State.respond (s : State) (cmd : Nat) (m : Mgmt) (status : Nat) (data : Bytes) : State :=
  let room := if m.ses.isSome then 979 else 1023
  (alleyParts room data.length data).foldl (fun s p =>
    s.alleySend m.port (alleyFrameOf 0 s.boot.addr cmd true p.1 m.ses.isSome m.seq (s.wrapped m (leBytes 1 status ++ p.2)))) s

/-- Count on a BOOT counter, which lies in the main domain. -/
def State.countBoot (s : State) (n : Nat) : State := if s.pins.mainPg then s.count bBOOT 0 n else s

/-- A command is refused with AUTH (R414, Tables 15-16, 11-19). -/
def State.refuseAuth (s : State) (cmd : Nat) (m : Mgmt) : State :=
  let s := s.countBoot 2
  let s := if s.pins.mainPg then s.count bSEC 0 7 else s
  s.respond cmd { m with ses := none } sAUTH []

/-- The standby domain runs, so that its Alley agent does (R445, R450). -/
def State.agentUp (s : State) : Bool := s.pins.vsb12 && s.pins.sysclk

/-- A command frame addressed to this node: refused at once when it is malformed (R4, R414), otherwise taken to run. -/
def alleyTake (s : State) (port : Nat) (b : Bytes) : State :=
  let h := alleyHdr b
  let m : Mgmt := { port := Fin.ofNat 2 port, seq := h.seq, dst := h.dst }
  let pay := alleyPayload b
  let keep := fun (m : Mgmt) (body : Bytes) =>
    { s with boot := { s.boot with inbox := s.boot.inbox ++ [{ cmd := h.cmd, m := m, body := body }] } }
  if h.cmd = 0 ∨ 0x0D ≤ h.cmd ∨ byteAt b 0 ≥ 64 ∨ byteAt b 1 ≥ 64 ∨ byteAt b 3 ≥ 4 ∨ h.more ∨ byteAt b 7 ≥ 8 ∨ h.len > 1024 then
    s.respond h.cmd m sBAD []
  else if h.session then
    match sessionOf pay with
    | none => s.refuseAuth h.cmd m
    | some (x, body) =>
      if byteAt pay 0 ≥ 4 ∨ !zeroRange pay 1 4 then s.respond h.cmd m sBAD []
      else keep { m with ses := some x } body
  else keep m pay

/-- ALLEY_FRAME (R411): a frame whose CRC fails, or whose length does not hold one, is dropped; one for another station leaves by the
other port; a command for this node waits to run. -/
def alleyFrame (s : State) (port : Nat) (b : Bytes) : State :=
  let s := s.countBoot 0
  let h := alleyHdr b
  let n := 8 + h.len
  if b.length ≠ n + 4 ∨ fieldAt b n 4 ≠ crc32c (b.take n) then s.countBoot 1
  else if h.dst = 63 ∧ h.cmd = 1 ∧ !h.rsp then alleyTake s port b
  else if h.dst = s.boot.addr ∧ h.dst ≠ 0 then (if h.rsp then s else alleyTake s port b)
  else s.alleySend (1 - port) b

/-- ALLEY_FRAME. -/
def execAlleyFrame (port : Fin 2) (bytes : Bytes) (s : State) : Host.Outcome State Fault Refusal :=
  .next (if s.agentUp then alleyFrame s port bytes else s)

/-! ### Access (R413 to R415, Table 15-8) -/

/-- Remove the accepted frame of a command that runs now. -/
def State.takeCmd (s : State) (cmd : Nat) (m : Mgmt) (body : Bytes) : State :=
  { s with boot := { s.boot with inbox := dropFirst (fun e => e == ({ cmd := cmd, m := m, body := body } : AlleyCmd)) s.boot.inbox } }

/-- Commands for which standby power suffices (Table 15-8). -/
def onStandby (cmd : Nat) : Bool := cmd == 1 || cmd == 3 || cmd == 4 || cmd == 10 || cmd == 11

/-- A command is accepted without a session (R414). -/
def State.cmdOpen (s : State) (cmd : Nat) : Bool := bit (s.openMask ||| alwaysOpen) (cmd - 1)

/-- A command's session is open, its counter is new and its tag verifies (R324). -/
def State.sessionOk (s : State) (x : Session) (body : Bytes) : Bool :=
  match s.sec.sessions.look x.sid with
  | none => false
  | some k => (match k.last with | none => true | some n => decide (n < x.counter)) && Config.hmac k.key (sessionMsg x body) == x.tag

/-- A session has carried a command. -/
def State.useSession (s : State) (x : Session) : State :=
  { s with sec := { s.sec with sessions := s.sec.sessions.map fun e =>
      if e.1 = x.sid then (e.1, { e.2 with last := some x.counter, idle := 0 }) else e } }

/-- The management plane cannot serve commands that need main power: boot failure, a fail-stop, or no image yet (R405, R430; the status
is DEDUCED from R3). -/
def State.noPlane (s : State) : Bool := s.boot.phase == 15 || s.boot.failStop || s.boot.image.isNone

/-- A management command that has arrived runs, or is refused (R414): `run` gives its status, what follows it, and the state. -/
def mgmtRun (s : State) (cmd : Nat) (m : Mgmt) (body : Bytes) (run : State → Nat × Bytes × State) : State :=
  if !s.agentUp then s
  else
    let s := s.takeCmd cmd m body
    if !onStandby cmd && !s.pins.mainPg then s.respond cmd { m with ses := none } sDOMOFF []
    else
      let used := match m.ses with
        | none => if s.cmdOpen cmd then some s else none
        | some x => if s.sessionOk x body then some (s.useSession x) else none
      match used with
      | none => s.refuseAuth cmd m
      | some s =>
        if !onStandby cmd && s.noPlane then s.respond cmd m sNOTREADY []
        else let r := run s; r.2.2.respond cmd m r.1 r.2.1

/-! ### ENUM and SET_NODE_ID (R412) -/

/-- ENUM: the node takes the address, and forwards the next one unless it would be 63 or 0. A malformed one has no effect. -/
def enumerate (s : State) (m : Mgmt) (b : Bytes) : State :=
  let s := s.takeCmd 1 m b
  let a := byteAt b 0
  let dir := byteAt b 1
  if m.dst ≠ 63 ∨ b.length ≠ 2 ∨ a = 0 ∨ 63 ≤ a ∨ 2 ≤ dir then s
  else
    let s := { s with boot := { s.boot with addr := a, aport := m.port, adir := dir } }
    let next := if dir = 0 then a + 1 else a - 1
    if next = 63 ∨ next = 0 then s
    else s.alleySend (1 - m.port) (alleyFrameOf 63 0 1 false false false m.seq (leBytes 1 next ++ leBytes 1 dir))

/-- ENUM. -/
def execEnum (m : Mgmt) (body : Bytes) (s : State) : Host.Outcome State Fault Refusal :=
  .next (if s.agentUp then enumerate s m body else s)

/-- SET_NODE_ID: accepted from phase 7 (Table 15-10); before, the node is not ready for it (DEDUCED). -/
def setNodeId (b : Bytes) (s : State) : Nat × Bytes × State :=
  let n := fieldAt b 0 2
  if b.length ≠ 2 ∨ 16384 ≤ n then (sBAD, [], s)
  else if s.boot.phase < 7 then (sNOTREADY, [], s)
  else if !(s.image.fabric.any fun r => r.1 ≤ n && n ≤ r.2) then (sBAD, [], s)
  else match s.boot.nodeId with
    | some k => (if k = n then sDUPLICATE else sCONFLICT, [], s)
    | none => (sOK, [], { s with boot := { s.boot with nodeId := some n } })

/-- SET_NODE_ID. -/
def execSetNodeId (m : Mgmt) (body : Bytes) (s : State) : Host.Outcome State Fault Refusal :=
  .next (mgmtRun s 12 m body (setNodeId body))

/-! ### Sessions (R324, R413) -/

/-- The lowest session ID that is not open. -/
def State.freeSid (s : State) : Option Nat := s.sec.sessions.freeFrom 4 0

/-- SESSION_OPEN: the key exchange under the operator's key and ID. -/
def sessionOpen (b : Bytes) (s : State) : Nat × Bytes × State :=
  if b.length ≠ 64 then (sBAD, [], s)
  else match s.freeSid with
    | none => (sQUOTA, [], s)
    | some sid =>
      match Config.sm2Agree s.image.oper (s.image.operId ++ b) with
      | none => (sAUTH, [], ((s.count bSEC 0 3).count bSEC 0 7).count bBOOT 0 2)
      | some key =>
        let r := s.drawTrng
        let s := { r.2 with sec := { r.2.sec with sessions := r.2.sec.sessions.put sid { key := key } } }
        (sOK, leBytes 96 (Config.sm2Fields r.1) ++ (leBytes 480 Config.certs).take 160, (s.count bSEC 0 2).count bBOOT 0 4)

/-- SESSION_OPEN. -/
def execSessionOpen (m : Mgmt) (body : Bytes) (s : State) : Host.Outcome State Fault Refusal :=
  .next (mgmtRun s 2 m body (sessionOpen body))

/-- SESSION_EXPIRY (R324): 60,000 ticks without a command. -/
def sessionExpiry (s : State) (sid : Nat) : State :=
  match s.sec.sessions.look sid with
  | some k => if 60000 ≤ k.idle then { s with sec := { s.sec with sessions := s.sec.sessions.del sid } } else s
  | none => s

/-- SESSION_EXPIRY. -/
def execSessionExpiry (sid : Nat) (s : State) : Host.Outcome State Fault Refusal := .next (sessionExpiry s sid)

/-! ### Status and telemetry (R415) -/

/-- BOOT_STATUS as GET_STATUS returns it: without 52 V, PHASE 1 and what the standby record last held. -/
def State.statusWord (s : State) : Nat :=
  if s.pins.mainPg then s.bootStatus
  else 1 + (if s.boot.standby.held then s.boot.standby.lastStatus / 16 * 16 else 0)

/-- GET_STATUS (Table 15-9). -/
def getStatus (b : Bytes) (s : State) : Nat × Bytes × State :=
  if b ≠ [] then (sBAD, [], s)
  else
    let glb := if s.pins.mainPg && s.boot.phase != 15 then s.glbStatus else 0
    (sOK, leBytes 4 s.statusWord ++ leBytes 4 s.bootAlley ++ leBytes 4 s.xptNode ++ leBytes 4 s.pwrTherm ++ leBytes 4 glb, s)

/-- GET_STATUS. -/
def execGetStatus (m : Mgmt) (body : Bytes) (s : State) : Host.Outcome State Fault Refusal :=
  .next (mgmtRun s 3 m body (getStatus body))

/-- GET_TELEMETRY (Table 15-9). The input current is measured at each answer and is 0 without 52 V. -/
def getTelemetry (b : Bytes) (s : State) : Nat × Bytes × State :=
  if b ≠ [] then (sBAD, [], s)
  else
    let r := if s.pins.mainPg then s.drawFree else (0, s)
    (sOK, ((List.range 33).flatMap fun i => leBytes 4 (s.pwrTemp i)) ++ leBytes 4 (s.view bNRG 0 0xC) ++ leBytes 4 s.pins.vin52Mv ++
      leBytes 4 r.1, r.2)

/-- GET_TELEMETRY. -/
def execGetTelemetry (m : Mgmt) (body : Bytes) (s : State) : Host.Outcome State Fault Refusal :=
  .next (mgmtRun s 4 m body (getTelemetry body))

/-! ### SET_POWER_CAP, ROUTE_SET, GET_ATTESTATION, METER_READ (R383, R243, R323, R418) -/

/-- SET_POWER_CAP: it takes effect at the next tick. -/
def setPowerCap (b : Bytes) (s : State) : Nat × Bytes × State :=
  let w := fieldAt b 0 2
  if b.length ≠ 2 ∨ w < 600 ∨ 1600 < w then (sBAD, [], s) else (sOK, [], { s with pwr := { s.pwr with capNext := some w } })

/-- SET_POWER_CAP. -/
def execSetPowerCap (m : Mgmt) (body : Bytes) (s : State) : Host.Outcome State Fault Refusal :=
  .next (mgmtRun s 5 m body (setPowerCap body))

/-- A routing table with entries written from node `first` on. -/
def putRoutes (first : Nat) (b : Bytes) (t : Tab Nat) : Tab Nat :=
  (List.range b.length).foldl (fun t i => t.put (first + i) (byteAt b i)) t

/-- ROUTE_SET: every Quarter's copy changes at its next PACKET boundary. -/
def routeSet (b : Bytes) (s : State) : Nat × Bytes × State :=
  let first := fieldAt b 0 2
  let n := fieldAt b 2 2
  let e := b.drop 4
  if n = 0 ∨ 976 < n ∨ e.length ≠ n ∨ 16384 < first + n ∨ e.any (fun x => decide (16 ≤ x.toNat)) then (sBAD, [], s)
  else (sOK, [], [0, 1, 2, 3].foldl (fun s q => s.updXpt q fun X =>
    { X with routesNew := some (putRoutes first e (X.routesNew.getD X.routes)) }) s)

/-- ROUTE_SET. -/
def execRouteSet (m : Mgmt) (body : Bytes) (s : State) : Host.Outcome State Fault Refusal :=
  .next (mgmtRun s 6 m body (routeSet body))

/-- GET_ATTESTATION: a full report. -/
def getAttestation (b : Bytes) (s : State) : Nat × Bytes × State :=
  if b.length ≠ 32 then (sBAD, [], s) else (sOK, s.report none b s.present, s.count bSEC 0 8)

/-- GET_ATTESTATION. -/
def execGetAttestation (m : Mgmt) (body : Bytes) (s : State) : Host.Outcome State Fault Refusal :=
  .next (mgmtRun s 7 m body (getAttestation body))

/-- METER_READ: the time of the last tick, and the accumulators of a range of tenants. -/
def meterRead (b : Bytes) (s : State) : Nat × Bytes × State :=
  let first := byteAt b 0
  let n := byteAt b 1
  if b.length ≠ 2 ∨ 64 < first + n then (sBAD, [], s)
  else
    let word := fun (t k : Nat) => leBytes 8 (s.regs.meter.fetch (blockBase bBOOT 0 + 0x5000 + t * 0x40 + k * 8) 0)
    (sOK, leBytes 8 (s.ticks * 1000000) ++ (List.range n).flatMap fun i => (List.range 8).flatMap fun k => word (first + i) k, s)

/-- METER_READ. -/
def execMeterRead (m : Mgmt) (body : Bytes) (s : State) : Host.Outcome State Fault Refusal :=
  .next (mgmtRun s 9 m body (meterRead body))

/-! ### ARM_FAULT_INJECT (R296) -/

/-- The injector words of a command body. -/
def armWords (b : Bytes) : List Word := (List.range 4).map fun i => w32 (fieldAt b (1 + 4 * i) 4)

/-- Check 1 of R296: MODE OFF uses only its port and MODE. -/
def armBad (b : Bytes) : Bool :=
  let w := fun (i : Nat) => fieldAt b (1 + 4 * i) 4
  let mode := w 0 % 8
  let sel := bits (w 0) 4 3
  b.length != 21 || decide (6 ≤ mode) ||
  (mode != 0 && (decide (4 ≤ byteAt b 0) || bits (w 0) 31 17 != 0 || bits (w 1) 31 25 != 0 || bit (w 2) 7 || bits (w 2) 23 17 != 0 ||
    sel == 3 || (sel == 1 && !(decide (1 ≤ bits (w 0) 9 5) && decide (bits (w 0) 9 5 ≤ 16))) || (sel == 2 && fieldAt b 17 2 == 0) ||
    (mode == 4 && bits (w 0) 13 10 == 0) || fieldAt b 19 2 == 0))

/-- ARM_FAULT_INJECT: arm, change or disarm the injector of a port. -/
def armFaultInject (b : Bytes) (s : State) : Nat × Bytes × State :=
  let p := byteAt b 0 % 4
  let mode := fieldAt b 1 4 % 8
  if armBad b then (sBAD, [], s)
  else if mode = 0 then (sOK, [], s.updPort p fun P => { P with inj := P.inj.disarm })
  else if !bit s.finjPermit p || !bit s.finjPermit (3 + mode) then (sPERM, [], s)
  else
    let next := (armWords b, fieldAt b 17 2, s.time + fieldAt b 19 2 * 1000000)
    let s := s.updPort p fun P =>
      let j := { P.inj.free with next := some next }
      { P with inj := if P.inj.armed then j else j.arm }
    (sOK, [], s.countU bFINJ 0 p 3)

/-- ARM_FAULT_INJECT. -/
def execArmFaultInject (m : Mgmt) (body : Bytes) (s : State) : Host.Outcome State Fault Refusal :=
  .next (mgmtRun s 8 m body (armFaultInject body))

/-! ### UPDATE_IMAGE (R416) -/

/-- An image is in use: start-up has fixed one, and 52 V is present. -/
def State.imageInUse (s : State) : Bool := s.pins.mainPg && s.boot.image.isSome && s.boot.phase != 15

/-- A slot is not marked failed. -/
def Standby.unmark (r : Standby) (slot : Nat) : Standby := if slot = 0 then { r with failedA := false } else { r with failedB := false }

/-- Erase a slot's header: its bytes read 0 (DESIGN CHOICE), so that no magic is there. -/
def State.eraseHeader (s : State) (slot : Nat) : State := { s with boot := { s.boot with nvm := Mem.clear s.boot.nvm (slotBase slot) 256 } }

/-- START: erases the slot's header and clears its failed mark. A length beyond the slot is refused (DEDUCED from R402). -/
def updateStart (b : Bytes) (s : State) : Nat × Bytes × State :=
  let slot := if s.imageInUse then 1 - s.boot.slot else byteAt b 1
  let len := fieldAt b 4 4
  if s.pins.progEn then (sNOTREADY, [], s)
  else if b.length ≠ 8 ∨ 2 ≤ slot ∨ slotBytes < len then (sBAD, [], s)
  else
    let s := s.eraseHeader slot
    (sOK, [], { s with boot := { s.boot with update := some (slot, len), standby := s.boot.standby.unmark slot } })

/-- UPDATE_IMAGE_START. A body with another OP is another row's. -/
def execUpdateImageStart (m : Mgmt) (body : Bytes) (s : State) : Host.Outcome State Fault Refusal :=
  .next (if byteAt body 0 = 0 then mgmtRun s 10 m body (updateStart body) else s)

/-- DATA: bytes that lie within LENGTH. -/
def updateData (b : Bytes) (s : State) : Nat × Bytes × State :=
  let off := fieldAt b 4 4
  let d := b.drop 8
  if s.pins.progEn then (sNOTREADY, [], s)
  else match s.boot.update with
    | none => (sCONFLICT, [], s)
    | some (slot, len) =>
      if b.length < 8 ∨ 1016 < d.length ∨ len < off + d.length then (sBAD, [], s)
      else (sOK, [], { s with boot := { s.boot with nvm := Mem.write s.boot.nvm (slotBase slot + off) d } })

/-- UPDATE_IMAGE_DATA. -/
def execUpdateImageData (m : Mgmt) (body : Bytes) (s : State) : Host.Outcome State Fault Refusal :=
  .next (if byteAt body 0 = 1 then mgmtRun s 10 m body (updateData body) else s)

/-- FINISH: with 52 V the slot is verified (R404); the status of a failing check is not stated, and its header is erased again. From
standby power alone the answer says that it is not verified. OP 3 and above are reserved. -/
def updateFinish (b : Bytes) (s : State) : Nat × Bytes × State :=
  if s.pins.progEn then (sNOTREADY, [], s)
  else if byteAt b 0 ≠ 2 then (sBAD, [], s)
  else match s.boot.update with
    | none => (sCONFLICT, [], s)
    | some (slot, _) =>
      let s := s.countBoot 3
      let s := { s with boot := { s.boot with update := none, standby := s.boot.standby.unmark slot } }
      if !s.pins.mainPg then (sOK, [0], s)
      else if (imageFault s.boot.nvm slot s.sec.fuseConfLock).isNone then (sOK, [], s)
      else
        let r := s.drawFree
        (1 + r.1 % 255, [], r.2.eraseHeader slot)

/-- UPDATE_IMAGE_FINISH. -/
def execUpdateImageFinish (m : Mgmt) (body : Bytes) (s : State) : Host.Outcome State Fault Refusal :=
  .next (if 2 ≤ byteAt body 0 then mgmtRun s 10 m body (updateFinish body) else s)

/-! ### RESET (R397, R390) -/

/-- The status of a RESET. -/
def resetStatus (s : State) (b : Bytes) : Nat :=
  if b.length ≠ 1 ∨ byteAt b 0 ≠ 0 then sBAD else if s.pwr.lockout && !s.coolEnough then sNOTREADY else sOK

/-- RESET: the response leaves before the node reset, which ends an update (Table 15-10). -/
def alleyReset (s : State) (m : Mgmt) (b : Bytes) : State :=
  let s' := mgmtRun s 11 m b fun s => (resetStatus s b, [], s)
  let ok := s.agentUp && (match m.ses with | none => true | some x => s.sessionOk x b) && resetStatus s b == sOK
  if ok then { s' with boot := { s'.boot with update := none } }.restart 2 else s'

/-- RESET. -/
def execReset (m : Mgmt) (body : Bytes) (s : State) : Host.Outcome State Fault Refusal := .next (alleyReset s m body)

end Sys2Proof.Machine
end

