-- ==== Sys2Proof/Machine/Tick.lean ====
section
/-!
DEFINITION. The management tick (R24): every staged value of boundary TICK, and everything else that waits for a tick.
-/
namespace Sys2Proof.Machine

/-! ### Ports at the tick (R288) -/

/-- The queued frames of a class that has just been disabled are discarded and counted (R288). -/
def State.discardClass (s : State) (p c : Nat) : State :=
  let n := (((s.qtr p).port.classes.fetch c {}).round.map fun q => q.frames.length).sum
  (s.updPort p fun P => { P with classes := P.classes.amend c {} fun k => { k with round := [], visiting := false } }).count bPORT p 15 n

/-- What a new PORT_CTL.EN does: the link goes down, or training starts. -/
def State.portEnable (s : State) (p : Nat) (was : Bool) : State :=
  let now := bit (s.reg bPORT p 4) 12
  if was && !now then (linkDown s p).updPort p fun P => { P with training := false }
  else if !was && now then s.trainIf p else s

/-- Every staged value of boundary TICK takes effect (R363), with what follows in the ports; those of a Quarter in Q-OFF wait (R372). -/
def State.tickApply (s : State) : State :=
  let r := s.applyBoundary .tick fun c q => c < 0x10 || !s.qOff q
  [0, 1, 2, 3].foldl (fun (a : State) p =>
    let a := (List.range 8).foldl (fun (a : State) c => if s.classEn p c && !r.classEn p c then a.discardClass p c else a) a
    a.portEnable p (bit (s.reg bPORT p 4) 12)) r

/-! ### Function modes, power state and cap (R375, R241, R391, R383) -/

/-- The function modes have taken effect: a change of index 1 starts the copy of the contexts, and every waiting FUNC_MODE completes. -/
def State.tickModes (s : State) (old : Nat) : State :=
  let s := if bit old 1 = s.assisted 1 then s
    else [0, 1, 2, 3].foldl (fun (s : State) q => s.updXpt q fun X => { X with copyHost := some (s.assisted 1) }) s
  let l := s.host.funcModeWait
  l.foldl (fun (s : State) h => s.complete h sOK) { s with host := { s.host with funcModeWait := [] } }

/-- PWR_CTL.PSTATE (R391): every island is to switch its clock; 3 leaves the value in effect. An island without power has no clock to
hold. -/
def State.tickPstate (s : State) : State :=
  let v := s.reg bPWR 0 0 % 4
  if v = 3 then s.setReg bPWR 0 0 s.pwr.pstate
  else if v = s.pwr.pstate then s
  else
    let s := (({ s with pwr := { s.pwr with pstate := v } }).postPower 6 0 v s.pwr.pstate).count bPWR 0 0
    [0, 1, 2, 3].foldl (fun (s : State) q =>
      if s.qOff q then s.updCore q fun I => { I with clock := v, clockPend := none } else s.pendClock q v) s

/-- A cap that SET_POWER_CAP has set (R383). -/
def State.tickCap (s : State) : State :=
  match s.pwr.capNext with
  | none => s
  | some w =>
    let old := s.pwr.capW
    let s := { s with pwr := { s.pwr with capW := w, capNext := none } }
    if w = old then s else s.postPower 0 0 w old

/-- NRG_CTL.BANK_EN gates the bank-scorer islands (R388). -/
def State.tickBankPower (s : State) : State :=
  [0, 1, 2, 3].foldl (fun (s : State) q => [2, 3].foldl (fun (s : State) ls => s.setBankPower q ls (bit (s.reg bNRG 0 0) 0)) s) s

/-! ### Stacks and Quarters (R393 to R395) -/

/-- A scoring stack and its PWR_SCTL target (R395). -/
def State.tickStack (s : State) (q ls : Nat) : State :=
  let n := 4 * q + ls
  let want := bit (s.reg bPWR 0 0xC) (2 * q + (ls - 2))
  let S := s.stack n
  if s.qOff q then s
  else if want && !S.off && S.st != .failed && !bit (s.reg bPST q 4) ls && ((s.qtr q).store.allocs.fetch ls {}).used.isEmpty &&
      s.scrubBytes q ls == 0 then
    let s := (s.quietStack q ls).updStack n fun S => { S with off := true, st := .off, bistBank := none }
    notReadyEnd (s.postPower 5 n 2 S.powerCode) q
  else if !want && S.off then (s.updStack n fun S => { S with off := false, st := .training }).postPower 5 n 3 2
  else s

/-- Every condition of R393 holds, and no job waits or runs (Table 14-6). -/
def State.mayGoOff (s : State) (q : Nat) : Bool :=
  let Q := s.qtr q
  !bit (s.reg bPORT q 4) 12 && s.openSegs q == 0 && Q.tk.inUse.isEmpty && Q.store.dmaQueue.isEmpty &&
    (Q.store.engines.all fun e => e.2.state == .idle) && Q.bsc.bistRunning.isNone &&
    (Q.bsc.stk.all fun e => e.2.seqs.isEmpty && e.2.backlog.isEmpty && e.2.notices.isEmpty && e.2.fenced.isEmpty) && Q.core.jobs.isEmpty

/-- A coder stops where it stands, as it does at NOT_READY (R393, R202); a sweep waits there. -/
def State.stopCoder (s : State) (q c : Nat) : State :=
  let C := s.coder q c
  match C.key with
  | none => s
  | some key =>
    if C.sweep then s
    else match s.codeSeg q key false with
      | some (_, g, sh) => match g.frames[C.frame]? with
        | some fr => s.stopPass q c key fr.stack (fr.addr + C.page * sh.slot)
        | none => s.stopPass q c key 0 0
      | none => s.stopPass q c key 0 0

/-- A waiting message for the agent of a Quarter is acknowledged DOMAIN_OFF (R351). -/
def State.agentGone (s : State) (q : Nat) : State :=
  (List.range 64).foldl (fun (s : State) f => if (s.fn f).go && (s.fn f).agent == q + 1 then agentAnswer s f else s) s

/-- The Quarter enters Q-OFF (R393): contexts are written back, crossings drain, the stacks refresh themselves, and its energy bucket stands
still. The page cache keeps only what a stack that is not ready has not yet taken. -/
def State.enterOff (s : State) (q : Nat) : State :=
  let old := s.qStateCode q
  let s := (s.stopCoder q 0).stopCoder q 1
  let s := ((s.flushStack q 2).flushStack q 3).drainWriteback q
  let s := s.updStore q fun S => { S with cache := S.cache.filter fun e => e.kind.kept }
  let s := s.updXpt q fun X => { X with ctx := [], miss := [] }
  let s := (s.settleBucket q).updQe q fun e => { e with rateMw := 0 }
  let s := [0, 1, 2, 3].foldl (fun (s : State) n => s.updStack (4 * q + n) fun S => { S with selfRefresh := true }) s
  let s := s.updQ q fun Q => { Q with power := .off, qoffAt := none, qoffNoted := false, wakeAt := none }
  ((s.postPower 4 q 4 old).count bPWR 0 1).agentGone q

/-- A Quarter whose target is OFF enters Q-OFF, or waits for its conditions; after 100 ms the delay is reported once (R393). -/
def State.tryOff (s : State) (q : Nat) : State :=
  if s.mayGoOff q then s.enterOff q
  else
    let t0 := (s.qtr q).qoffAt.getD s.time
    let late := decide (t0 + 100000000 ≤ s.time) && !(s.qtr q).qoffNoted
    let s := s.updQ q fun Q => { Q with qoffAt := some t0, qoffNoted := Q.qoffNoted || late }
    if late then (s.postPower 7 q (s.qStateCode q) (s.qStateCode q)).count bPWR 0 4 else s

/-- A Quarter and its PWR_QCTL target (R392 to R394). The target of a failed Quarter is ignored (R400). -/
def State.tickQuarter (s : State) (q : Nat) : State :=
  let Q := s.qtr q
  let target := s.qTarget q
  if Q.failed then s
  else match Q.power with
    | .off => if target = 2 then s else (s.updQ q fun Q => { Q with power := .leaving }).postPower 4 q 5 4
    | .leaving => s
    | _ =>
      if target = 2 then s.tryOff q
      else
        let old := s.qStateCode q
        let s := s.updQ q fun Q => { Q with power := (if target = 1 then .idle else .on), qoffAt := none, qoffNoted := false }
        if s.qStateCode q = old then s else s.postPower 4 q (s.qStateCode q) old

/-- The power targets of every stack and Quarter. -/
def State.tickPower (s : State) : State :=
  [0, 1, 2, 3].foldl (fun (s : State) q => ((s.tickStack q 2).tickStack q 3).tickQuarter q) s

/-! ### Conservative mode and calibration (R384, R385) -/

/-- Every sensor of Table 14-3 has given valid readings in the tick that ends (R384). -/
def State.sensorsGood (s : State) : Bool :=
  !s.pwr.tickBad && (List.range 33).all fun i => (s.pwr.sensors.fetch i {}).valid

/-- The count of valid ticks from Ready on (R384): conservative mode ends after 64 of them. -/
def State.tickHistory (s : State) : State :=
  let good := s.sensorsGood
  let s := { s with pwr := { s.pwr with tickBad := false } }
  if s.boot.phase ≠ 10 then s
  else
    let n := if good then sat (s.pwr.history + 1) 64 else 0
    let s := { s with pwr := { s.pwr with history := n } }
    if s.pwr.conservative ∧ n = 64 then ({ s with pwr := { s.pwr with conservative := false } }).postPower 2 0 0 1 else s

/-- k_q of R385: `m` is the measured energy in µJ and `f` the estimates completed, in fJ. -/
def newCalib (k : Rat) (m f : Nat) : Rat :=
  if f < 1000000000000 then k else min 2 (max (1 / 2) (k + ((m * 1000000000 : Nat) / (f : Rat) - k) / 8))

/-- The calibration of every Quarter. In the host-assisted form of index 8 the factor is 1. -/
def State.tickCalib (s : State) (m : TickMeasure) : State :=
  [0, 1, 2, 3].foldl (fun (s : State) q => s.updQe q fun e =>
    { e with calib := (if s.assisted 8 then 1 else newCalib e.calib (m.energyQ.getD q 0) e.doneFj), doneFj := 0 }) s

/-! ### Congestion entries, the scrub and the orphan scan (R237, R427, R431) -/

/-- One Assist Queue entry for each OPEN connection that saw congestion in the tick (R237); the marks begin anew. -/
def State.tickCongestion (s : State) (q : Nat) : State :=
  let l := (s.qtr q).xpt.conns.filter fun e => e.2.assistMark && e.2.state == .opened
  let s := if s.assisted 5 then
    l.foldl (fun (s : State) e =>
      (s.postAssist { tag := 0, kind := 5, q := q, words := [connId (q * 16384 + e.1) e.2, e.2.ccCe, e.2.ccRtt] } none []).2) s
    else s
  s.updXpt q fun X => { X with conns := X.conns.map fun (e : Nat × Conn) => (e.1, { e.2 with assistMark := false, ccCe := 0, ccRtt := 0 }) }

/-- Entries whose stored parity has gone bad (R425). -/
def State.markBad (s : State) (l : List (Nat × Nat)) : State :=
  l.foldl (fun (s : State) x => s.updDir x.1 fun d =>
    match d.slots.look x.2 with | some e => { d with slots := d.slots.put x.2 { e with bad := true } } | none => d) s

/-- The scrub of a slice (R427) reads the next entries until it finds bad parity, which starts a rebuild; it rests while one runs. -/
def State.tickScrub (s : State) (q : Nat) : State :=
  let d := (s.qtr q).dir
  let n := s.reg bDIR q 0xC % 65536
  if s.qOff q || d.rebuilding || n == 0 then s
  else
    let dist := fun (a : Nat) => (a + 65536 - d.scrubAt) % 65536
    match (((d.slots.filter fun e => e.2.bad).map fun e => dist e.1).filter fun x => x < n).min? with
    | none => s.updDir q fun d => { d with scrubAt := (d.scrubAt + n) % 65536 }
    | some x =>
      let a := (d.scrubAt + x) % 65536
      (s.updDir q fun d => { d with scrubAt := (a + 1) % 65536 }).dirParity q a

/-- The fields of a ticket record that an orphan's entry carries (Table 16-7). -/
def Ticket.argWords (t : Ticket) : List Nat :=
  [t.id, b2n t.moved, b2n t.ownerSpill, t.kind, t.epoch, t.arrival, t.deadline, t.tenant, t.cmd, t.conv, t.opcode]

/-- A ticket has a job, a child or a hold pending. -/
def State.workPending (s : State) (id : Nat) : Bool :=
  ((List.range 4).any fun q => (s.qtr q).core.jobs.any fun j => j.ticket == id) ||
    (match s.request id with | some r => r.children.any fun c => !c.ended | none => false) ||
    (s.qtr (tkQ id)).store.holds.any fun h => h.ticket == id

/-- An ACTIVE ticket of KIND 1 or 2 whose deadline passed more than two ticks ago with nothing pending (R431). -/
def State.expired (s : State) (id : Nat) : Bool :=
  match s.ticket id with
  | some t => t.kind != 3 && decide (t.arrival + t.deadline * 1000 + 2000000 < s.time) && !s.workPending id
  | none => false

/-- An ID that the scan finds goes to the host in the host-assisted form of index 10, when it can be posted and has not been. -/
def State.askOrphan (s : State) (q slot id : Nat) : Bool × State :=
  if !s.assisted 10 then (false, s)
  else
    let T := (s.qtr q).tk
    let ws := ((T.onChip.look slot).map Ticket.argWords).getD [] ++ ((T.spill.look slot).map Ticket.argWords).getD []
    s.postAssist { tag := 0, kind := 10, q := q, ticket := id, words := ws } (some (.orphan id)) []

/-- One ID of the scan (R431): an orphan, or an expired ticket, completes with ORPHANED. -/
def State.scanId (s : State) (q slot : Nat) : State :=
  let id := q * 2 ^ 18 + slot
  let orphan := (s.qtr q).tk.orphans.contains slot
  let asked := s.host.assists.any fun a => a.purpose == .orphan id
  if asked || !(orphan || s.expired id) then s
  else
    let s := s.updTk q fun T => { T with orphans := insertUp slot T.orphans }
    let r := s.askOrphan q slot id
    if r.1 then r.2 else r.2.endOrphan id sORPHANED false

/-- The orphan scan of a Quarter (R431). -/
def State.tickOrphans (s : State) (q : Nat) : State :=
  if s.qOff q && !(s.qtr q).failed then s else (s.qtr q).tk.inUse.foldl (fun (s : State) slot => s.scanId q slot) s

/-! ### The key sweep and metering (R310, R418) -/

/-- The sweep retries the pages that it could not rewrite (R310). -/
def State.tickSweep (s : State) : State :=
  (List.range 64).foldl (fun (s : State) t =>
    (s.tenant t).skipped.foldl (fun (s : State) x => keySweepPage s t x.1 x.2.1 x.2.2.1 x.2.2.2) s) s

/-- The tick's quantities go to the accumulators of each tenant (R418). -/
def State.tickMetering (s : State) (m : TickMeasure) : State :=
  let used := s.tickMeter
  let s := { s with tickMeter := [] }
  (List.range 64).foldl (fun (s : State) t =>
    let add := fun (s : State) (k n : Nat) => if n = 0 then s else s.addMeter t k n
    let s := add s 0 (s.poolUsed t)
    let s := add s 1 (used.fetch (8 * t + 1) 0)
    let s := add s 2 (m.bankCycles.getD t 0)
    let s := add s 3 (used.fetch (8 * t + 3) 0)
    let s := add s 4 (used.fetch (8 * t + 4) 0)
    add s 5 (used.fetch (8 * t + 5) 0)) s

/-- Dispatcher cycles with ENERGY_WAIT set (Table 4-15), and the idle time of management sessions (R324). -/
def State.tickCounts (s : State) (m : TickMeasure) : State :=
  let s := [0, 1, 2, 3].foldl (fun (s : State) q => s.countU bCORE q 8 4 (m.energyWait.getD q 0)) s
  { s with sec := { s.sec with sessions := s.sec.sessions.map fun (e : Nat × MgmtSession) => (e.1, { e.2 with idle := e.2.idle + 1 }) } }

/-! ### MANAGEMENT_TICK -/

/-- The tick, 1 ms after the one before it. -/
def managementTick (s : State) (m : TickMeasure) : State :=
  if !s.squareRuns then s
  else
    let modes := s.reg bFMODE 0 0
    let s := s.advance ((s.ticks + 1) * 1000000)
    let s := ({ s with ticks := s.ticks + 1 }).tickApply
    let s := ((((s.tickModes modes).tickPstate).tickCap).tickBankPower).tickPower
    let s := (s.tickHistory.tickCalib m).markBad m.badEntries
    let s := [0, 1, 2, 3].foldl (fun (s : State) q => ((s.tickCongestion q).tickScrub q).tickOrphans q) s
    ((s.tickSweep.tickMetering m).tickCounts m).checkMisses

/-- MANAGEMENT_TICK. -/
def execManagementTick (m : TickMeasure) (s : State) : Host.Outcome State Fault Refusal := .next (settle (managementTick s m))

end Sys2Proof.Machine
end

