-- ==== Sys2Proof/Machine/Electric.lean ====
section
/-!
DEFINITION. The module connector (ch. 18): the supplies, the clocks, MAIN_EN and PROG_EN#.
-/
namespace Sys2Proof.Machine

/-- A condition of R448 ends: the stages stop, if they run. In thermal lockout a drop of the 52 V input or of MAIN_EN is the first half
of a cycle (R390, R448). -/
def State.stopStages (s : State) : State :=
  let s := if s.pins.mainPg then s.loseMain else s
  { s with pwr := { s.pwr with cycled := s.pwr.cycled || s.pwr.lockout } }

/-- Who owns the NVM bus (R453): the tray programmer while PROG_EN# and MAIN_EN are low and VSB12 is present; the node takes it back only
when PROG_EN# rises. -/
def Pins.bus (p : Pins) : Pins := { p with nvmBusTray := p.progEn && p.vsb12 && (p.nvmBusTray || !p.mainEn) }

/-- MAIN_EN_CHANGE (R448). The stages that a rise may start come up with MAIN_POWER_GOOD. -/
def mainEnChange (s : State) (level : Bool) : State :=
  if level = s.pins.mainEn then s
  else
    let s := { s with pins := { s.pins with mainEn := level }.bus }
    if level then s else s.stopStages

/-- MAIN_EN_CHANGE. -/
def execMainEnChange (level : Bool) (s : State) : Host.Outcome State Fault Refusal := .next (mainEnChange s level)

/-- VIN52_CHANGE (R447): the input stands at so many millivolts. A command below 44 V says that it has been there for more than 1 ms, or
below 40 V. -/
def vin52Change (s : State) (mv : Nat) : State :=
  let ok := if s.pins.vin52Ok then decide (44000 ≤ mv) else decide (45500 ≤ mv)
  let was := s.pins.vin52Ok
  let s := { s with pins := { s.pins with vin52Mv := mv, vin52Ok := ok } }
  if was && !ok then s.stopStages else s

/-- VIN52_CHANGE. -/
def execVin52Change (mv : Nat) (s : State) : Host.Outcome State Fault Refusal := .next (vin52Change s mv)

/-- VSB12_LOSS (R449): the standby domain stops, and what it alone holds is lost; a slot whose header an update has erased stays so
(R456). -/
def vsb12Loss (s : State) : State :=
  let s := s.powerOn
  { s with pins := { s.pins with vsb12 := false }.bus }

/-- VSB12_LOSS. -/
def execVsb12Loss (s : State) : Host.Outcome State Fault Refusal := .next (vsb12Loss s)

/-- SYSCLK_LOSS (R450, R456): the node is held in reset, and phase 1 is to run again, so the stages stop. -/
def sysclkLoss (s : State) : State :=
  let s := s.loseMain
  { s with pins := { s.pins with sysclk := false } }

/-- SYSCLK_LOSS. -/
def execSysclkLoss (s : State) : Host.Outcome State Fault Refusal := .next (sysclkLoss s)

/-- SYSCLK_RETURN (R450): the node restarts with cause 0, which is a power-on (DEDUCED from Table 15-1). -/
def sysclkReturn (s : State) : State :=
  if s.pins.sysclk then s else { s with pins := { s.pins with sysclk := true } }.powerOn

/-- SYSCLK_RETURN. Without standby power nothing starts. -/
def execSysclkReturn (s : State) : Host.Outcome State Fault Refusal :=
  .next (if s.pins.vsb12 then sysclkReturn s else { s with pins := { s.pins with sysclk := true } })

/-- ETH_REFCLK_LOSS (R450): the port is held down until its clock returns, which LINK_UP shows. -/
def ethRefclkLoss (s : State) (p : Nat) : State :=
  (linkDown s p).updPort p fun P => { P with refClk := false, training := false }

/-- ETH_REFCLK_LOSS. -/
def execEthRefclkLoss (port : Fin 4) (s : State) : Host.Outcome State Fault Refusal := .next (ethRefclkLoss s port)

/-- PROG_EN_CHANGE (R453): `asserted` says that PROG_EN# is low. -/
def progEnChange (s : State) (asserted : Bool) : State :=
  { s with pins := { s.pins with progEn := asserted }.bus }

/-- PROG_EN_CHANGE. -/
def execProgEnChange (asserted : Bool) (s : State) : Host.Outcome State Fault Refusal := .next (progEnChange s asserted)

/-- FAULT_ALERT# is driven low (R452): the node is fail-stopped or in the boot-failure state. -/
def State.faultAlert (s : State) : Bool := s.boot.failStop || s.boot.phase == 15

end Sys2Proof.Machine
end

