-- ==== Sys2Proof/Machine/Dispatch.lean ====
section
/-!
DEFINITION. The meaning of each command: one arm per constructor of `Instr`, each one direct call.
-/
namespace Sys2Proof.Machine

def exec (i : Instr) (s : State) : Host.Outcome State Fault Refusal :=
  match i with
  | .managementTick m => Sys2Proof.Machine.execManagementTick m s
  | .shapeDefine h body => Sys2Proof.Machine.execShapeDefine h body s
  | .mapSet h conv body => Sys2Proof.Machine.execMapSet h conv body s
  | .append o body => Sys2Proof.Machine.execAppend o body s
  | .appendImm o body => Sys2Proof.Machine.execAppendImm o body s
  | .read o body => Sys2Proof.Machine.execRead o body s
  | .seal o body => Sys2Proof.Machine.execSeal o body s
  | .retire o body => Sys2Proof.Machine.execRetire o body s
  | .reseatCopy o body => Sys2Proof.Machine.execReseatCopy o body s
  | .reseatPrepare o body => Sys2Proof.Machine.execReseatPrepare o body s
  | .reseatCopyDone ticket => Sys2Proof.Machine.execReseatCopyDone ticket s
  | .reseatCutover o body => Sys2Proof.Machine.execReseatCutover o body s
  | .reseatCommit o body => Sys2Proof.Machine.execReseatCommit o body s
  | .reseatRelease o body => Sys2Proof.Machine.execReseatRelease o body s
  | .reseatDeadline ticket => Sys2Proof.Machine.execReseatDeadline ticket s
  | .attend o body laneErrs => Sys2Proof.Machine.execAttend o body laneErrs s
  | .partialRecv conn body => Sys2Proof.Machine.execPartialRecv conn body s
  | .notice conn body => Sys2Proof.Machine.execNotice conn body s
  | .response conn body => Sys2Proof.Machine.execResponse conn body s
  | .write conn body => Sys2Proof.Machine.execWrite conn body s
  | .writeImm conn body => Sys2Proof.Machine.execWriteImm conn body s
  | .gapHoldExpiry q holdId => Sys2Proof.Machine.execGapHoldExpiry q holdId s
  | .requestDeadline ticket => Sys2Proof.Machine.execRequestDeadline ticket s
  | .jobAdmit q => Sys2Proof.Machine.execJobAdmit q s
  | .coreClampPoint core => Sys2Proof.Machine.execCoreClampPoint core s
  | .contextSaveDone core => Sys2Proof.Machine.execContextSaveDone core s
  | .jobResume core job => Sys2Proof.Machine.execJobResume core job s
  | .clockSwitch q => Sys2Proof.Machine.execClockSwitch q s
  | .scorerRunDone stack scorer fault => Sys2Proof.Machine.execScorerRunDone stack scorer fault s
  | .sequenceRetire stack scorer => Sys2Proof.Machine.execSequenceRetire stack scorer s
  | .bscFence stack seqNo => Sys2Proof.Machine.execBscFence stack seqNo s
  | .fenceComplete stack => Sys2Proof.Machine.execFenceComplete stack s
  | .crossingEnter stack pch => Sys2Proof.Machine.execCrossingEnter stack pch s
  | .crossingWindowEnd stack pch => Sys2Proof.Machine.execCrossingWindowEnd stack pch s
  | .refreshAbort stack pch => Sys2Proof.Machine.execRefreshAbort stack pch s
  | .bscChmode stack hi value => Sys2Proof.Machine.execBscChmode stack hi value s
  | .modeChangeComplete stack chan => Sys2Proof.Machine.execModeChangeComplete stack chan s
  | .bscBistStart q value => Sys2Proof.Machine.execBscBistStart q value s
  | .bistComplete q pass unit => Sys2Proof.Machine.execBistComplete q pass unit s
  | .dmaCopy h q body => Sys2Proof.Machine.execDmaCopy h q body s
  | .frameSpill h q body => Sys2Proof.Machine.execFrameSpill h q body s
  | .frameFill h q body => Sys2Proof.Machine.execFrameFill h q body s
  | .dmaEngineStart q e => Sys2Proof.Machine.execDmaEngineStart q e s
  | .dmaTransferEnd q e => Sys2Proof.Machine.execDmaTransferEnd q e s
  | .dmaFault q e cls offset dst addr => Sys2Proof.Machine.execDmaFault q e cls offset dst addr s
  | .dmaResume h q e tag => Sys2Proof.Machine.execDmaResume h q e tag s
  | .dmaAbort h q e tag => Sys2Proof.Machine.execDmaAbort h q e tag s
  | .notReadyEnd q => Sys2Proof.Machine.execNotReadyEnd q s
  | .frameScrubDone stack addr => Sys2Proof.Machine.execFrameScrubDone stack addr s
  | .hsmWrite q => Sys2Proof.Machine.execHsmWrite q s
  | .hsmRead q => Sys2Proof.Machine.execHsmRead q s
  | .ticketHandoff q id toSpill => Sys2Proof.Machine.execTicketHandoff q id toSpill s
  | .poolFailure q onChip ids lostWork silent => Sys2Proof.Machine.execPoolFailure q onChip ids lostWork silent s
  | .tableLoad h body => Sys2Proof.Machine.execTableLoad h body s
  | .tableLoadComplete loadId => Sys2Proof.Machine.execTableLoadComplete loadId s
  | .tableRelease h body => Sys2Proof.Machine.execTableRelease h body s
  | .coderStart q coder => Sys2Proof.Machine.execCoderStart q coder s
  | .coderPageCommit q coder mismatch => Sys2Proof.Machine.execCoderPageCommit q coder mismatch s
  | .recodeSweepStart q value => Sys2Proof.Machine.execRecodeSweepStart q value s
  | .recodeSweepEnd q => Sys2Proof.Machine.execRecodeSweepEnd q s
  | .frameReceive port f => Sys2Proof.Machine.execFrameReceive port f s
  | .helloOpen port f => Sys2Proof.Machine.execHelloOpen port f s
  | .helloAccept port f => Sys2Proof.Machine.execHelloAccept port f s
  | .helloClose port f => Sys2Proof.Machine.execHelloClose port f s
  | .helloReset port f => Sys2Proof.Machine.execHelloReset port f s
  | .ack conn at_ ackPsn ece sack => Sys2Proof.Machine.execAck conn at_ ackPsn ece sack s
  | .nak conn at_ body => Sys2Proof.Machine.execNak conn at_ body s
  | .packetSend conn at_ => Sys2Proof.Machine.execPacketSend conn at_ s
  | .rtoExpiry conn => Sys2Proof.Machine.execRtoExpiry conn s
  | .ackDelayExpiry conn => Sys2Proof.Machine.execAckDelayExpiry conn s
  | .errHoldExpiry conn => Sys2Proof.Machine.execErrHoldExpiry conn s
  | .idleClose conn => Sys2Proof.Machine.execIdleClose conn s
  | .ctxBusyRetry conn psn => Sys2Proof.Machine.execCtxBusyRetry conn psn s
  | .contextFetchDone conn => Sys2Proof.Machine.execContextFetchDone conn s
  | .connLoad q => Sys2Proof.Machine.execConnLoad q s
  | .setCwnd q => Sys2Proof.Machine.execSetCwnd q s
  | .contextRegionCopyDone q => Sys2Proof.Machine.execContextRegionCopyDone q s
  | .pfcReceive port at_ enable times => Sys2Proof.Machine.execPfcReceive port at_ enable times s
  | .pfcPauseExpiry port cls => Sys2Proof.Machine.execPfcPauseExpiry port cls s
  | .pfcRefresh port => Sys2Proof.Machine.execPfcRefresh port s
  | .frameTransmit port at_ => Sys2Proof.Machine.execFrameTransmit port at_ s
  | .linkDown port => Sys2Proof.Machine.execLinkDown port s
  | .linkUp port => Sys2Proof.Machine.execLinkUp port s
  | .gateEntryExpiry port => Sys2Proof.Machine.execGateEntryExpiry port s
  | .gclEnable port => Sys2Proof.Machine.execGclEnable port s
  | .gclSwap port => Sys2Proof.Machine.execGclSwap port s
  | .injectorExpiry port => Sys2Proof.Machine.execInjectorExpiry port s
  | .reorderTimeout port => Sys2Proof.Machine.execReorderTimeout port s
  | .tenantCreate h body => Sys2Proof.Machine.execTenantCreate h body s
  | .tenantDrain h body => Sys2Proof.Machine.execTenantDrain h body s
  | .drainWorkEnded tenant => Sys2Proof.Machine.execDrainWorkEnded tenant s
  | .drainScrubDone tenant => Sys2Proof.Machine.execDrainScrubDone tenant s
  | .keyRotatePageKey h body => Sys2Proof.Machine.execKeyRotatePageKey h body s
  | .keyRotateWireEpoch h body => Sys2Proof.Machine.execKeyRotateWireEpoch h body s
  | .keySweepPage tenant q key frame page => Sys2Proof.Machine.execKeySweepPage tenant q key frame page s
  | .keyGenRetire tenant => Sys2Proof.Machine.execKeyGenRetire tenant s
  | .sessionExpiry sid => Sys2Proof.Machine.execSessionExpiry sid s
  | .sqTailDoorbell fn qid value => Sys2Proof.Machine.execSqTailDoorbell fn qid value s
  | .cqHeadDoorbell fn qid value => Sys2Proof.Machine.execCqHeadDoorbell fn qid value s
  | .submissionFetch fn qid at_ entry body => Sys2Proof.Machine.execSubmissionFetch fn qid at_ entry body s
  | .completionPost fn cq => Sys2Proof.Machine.execCompletionPost fn cq s
  | .coalTimerExpiry fn qid => Sys2Proof.Machine.execCoalTimerExpiry fn qid s
  | .queueCreate h body => Sys2Proof.Machine.execQueueCreate h body s
  | .queueDelete h body => Sys2Proof.Machine.execQueueDelete h body s
  | .funcMode h param => Sys2Proof.Machine.execFuncMode h param s
  | .assistReply h body => Sys2Proof.Machine.execAssistReply h body s
  | .assistTimeout tag => Sys2Proof.Machine.execAssistTimeout tag s
  | .snapshot h param => Sys2Proof.Machine.execSnapshot h param s
  | .attest h nonce => Sys2Proof.Machine.execAttest h nonce s
  | .ping fn => Sys2Proof.Machine.execPing fn s
  | .fnInfo fn => Sys2Proof.Machine.execFnInfo fn s
  | .agentStatus fn => Sys2Proof.Machine.execAgentStatus fn s
  | .mbxAgentAnswer fn => Sys2Proof.Machine.execMbxAgentAnswer fn s
  | .mbxInTimeout fn => Sys2Proof.Machine.execMbxInTimeout fn s
  | .mbxOutPost fn => Sys2Proof.Machine.execMbxOutPost fn s
  | .mbxOutAck fn code => Sys2Proof.Machine.execMbxOutAck fn code s
  | .outboundTaken fn => Sys2Proof.Machine.execOutboundTaken fn s
  | .eqDrained fn => Sys2Proof.Machine.execEqDrained fn s
  | .mbxOutTimeout fn => Sys2Proof.Machine.execMbxOutTimeout fn s
  | .flr fn => Sys2Proof.Machine.execFlr fn s
  | .admQueueCtl fn value => Sys2Proof.Machine.execAdmQueueCtl fn value s
  | .tdiLeaveRun fn => Sys2Proof.Machine.execTdiLeaveRun fn s
  | .pcieLinkTrained rate width => Sys2Proof.Machine.execPcieLinkTrained rate width s
  | .perst => Sys2Proof.Machine.execPerst s
  | .registerWrite fn addr value be dwords => Sys2Proof.Machine.execRegisterWrite fn addr value be dwords s
  | .counterRead fn addr => Sys2Proof.Machine.execCounterRead fn addr s
  | .counterOvfClear fn addr => Sys2Proof.Machine.execCounterOvfClear fn addr s
  | .snapshotRegStart value => Sys2Proof.Machine.execSnapshotRegStart value s
  | .snapshotDone => Sys2Proof.Machine.execSnapshotDone s
  | .fmodeModeWrite value => Sys2Proof.Machine.execFmodeModeWrite value s
  | .rebalance pPkg => Sys2Proof.Machine.execRebalance pPkg s
  | .setPowerCap m body => Sys2Proof.Machine.execSetPowerCap m body s
  | .sensorReading c at_ deg => Sys2Proof.Machine.execSensorReading c at_ deg s
  | .sensorInvalidTimeout c => Sys2Proof.Machine.execSensorInvalidTimeout c s
  | .qOffExitDone q => Sys2Proof.Machine.execQOffExitDone q s
  | .stackTrainingDone n ok => Sys2Proof.Machine.execStackTrainingDone n ok s
  | .powerOnReset => Sys2Proof.Machine.execPowerOnReset s
  | .mainPowerGood => Sys2Proof.Machine.execMainPowerGood s
  | .bootWatchdog => Sys2Proof.Machine.execBootWatchdog s
  | .startupPhaseDone => Sys2Proof.Machine.execStartupPhaseDone s
  | .alleyFrame port bytes => Sys2Proof.Machine.execAlleyFrame port bytes s
  | .enum m body => Sys2Proof.Machine.execEnum m body s
  | .sessionOpen m body => Sys2Proof.Machine.execSessionOpen m body s
  | .getStatus m body => Sys2Proof.Machine.execGetStatus m body s
  | .getTelemetry m body => Sys2Proof.Machine.execGetTelemetry m body s
  | .routeSet m body => Sys2Proof.Machine.execRouteSet m body s
  | .getAttestation m body => Sys2Proof.Machine.execGetAttestation m body s
  | .armFaultInject m body => Sys2Proof.Machine.execArmFaultInject m body s
  | .meterRead m body => Sys2Proof.Machine.execMeterRead m body s
  | .updateImageStart m body => Sys2Proof.Machine.execUpdateImageStart m body s
  | .updateImageData m body => Sys2Proof.Machine.execUpdateImageData m body s
  | .updateImageFinish m body => Sys2Proof.Machine.execUpdateImageFinish m body s
  | .reset m body => Sys2Proof.Machine.execReset m body s
  | .setNodeId m body => Sys2Proof.Machine.execSetNodeId m body s
  | .dirRebuildDone q => Sys2Proof.Machine.execDirRebuildDone q s
  | .dirXlRestore q => Sys2Proof.Machine.execDirXlRestore q s
  | .dirXlRebuild q => Sys2Proof.Machine.execDirXlRebuild q s
  | .coreTestStart q value => Sys2Proof.Machine.execCoreTestStart q value s
  | .coreTestDone q pass => Sys2Proof.Machine.execCoreTestDone q pass s
  | .coreFault core => Sys2Proof.Machine.execCoreFault core s
  | .hbmUncorrectable stack addr => Sys2Proof.Machine.execHbmUncorrectable stack addr s
  | .stackFault n => Sys2Proof.Machine.execStackFault n s
  | .quarterFault q => Sys2Proof.Machine.execQuarterFault q s
  | .stackDrainDone n => Sys2Proof.Machine.execStackDrainDone n s
  | .squareHeartbeatLoss => Sys2Proof.Machine.execSquareHeartbeatLoss s
  | .mainEnChange level => Sys2Proof.Machine.execMainEnChange level s
  | .vin52Change mv => Sys2Proof.Machine.execVin52Change mv s
  | .vsb12Loss => Sys2Proof.Machine.execVsb12Loss s
  | .sysclkLoss => Sys2Proof.Machine.execSysclkLoss s
  | .sysclkReturn => Sys2Proof.Machine.execSysclkReturn s
  | .ethRefclkLoss port => Sys2Proof.Machine.execEthRefclkLoss port s
  | .progEnChange asserted => Sys2Proof.Machine.execProgEnChange asserted s
  | .policedNoticeGapEnd conn => Sys2Proof.Machine.execPolicedNoticeGapEnd conn s
  | .pcieRefclkLoss => Sys2Proof.Machine.execPcieRefclkLoss s
  | .tdispRequest fn toRun => Sys2Proof.Machine.execTdispRequest fn toRun s

end Sys2Proof.Machine
end

