-- ==== Sys2Proof/Machine/Step.lean ====
section
/-!
DEFINITION. One step of the node: the command at the front of the queue, or one nanosecond of idling; and how a table
word is placed in the queue.
-/
namespace Sys2Proof.Machine

/-- One idle step: the local time counter counts one nanosecond (R21) and nothing else changes (DESIGN CHOICE,
assumption 1). -/
def idleStep (s : State) : State := { s with time := s.time + 1 }

/-- Take the command at the front of the queue and run it with the queue's rest; on an empty queue, idle. -/
def step (s : State) : Host.Outcome State Fault Refusal :=
  match s.pending with
  | [] => .next (idleStep s)
  | c :: rest => exec c { s with pending := rest }

/-- Put the command that a table word spells at the front of the queue. No row of the opcode table gives bits, so no
word spells a command and the state is unchanged. -/
def State.withFetchWord (s : State) (nbits w : Nat) : State :=
  match Sys2Proof.decodeTableWord nbits w with
  | none => s
  | some c => { s with pending := c :: s.pending }

end Sys2Proof.Machine
end

