-- ==== Sys2Proof/Safety.lean ====
section
/-!
DEFINITION. What the claims call a run, a completing command, a sound state, and a state that differs from another only in what it
reports.
-/
namespace Sys2Proof

open Sys2Proof.Machine

/-- A command completes in a state: `exec` answers a next state. -/
def Completes (i : Instr) (s : State) : Prop := ∃ t, exec i s = .next t

/-- A run: some steps that each answer a next state. -/
inductive Runs : State → State → Prop where
  | refl (s : State) : Runs s s
  | step (s t u : State) (first : Sys2Proof.Machine.step s = .next t) (rest : Runs t u) : Runs s u

/-- Every memory of a state has the canonical form: HBM, the NVM and the address space of each host function. -/
def MemoriesSound (s : State) : Prop :=
  Mem.wf s.hbm = true ∧ Mem.wf s.boot.nvm = true ∧ ∀ e ∈ s.host.mem, Mem.wf e.2 = true

/-- What creating a ring fixed, and the index that software moves: all of a ring but the entries that the node writes. -/
def Machine.Ring.fixed (r : Ring) : Nat × Nat × Nat × Nat × Nat × Nat × Nat :=
  (r.kind, r.size, r.base, r.vector, r.coalN, r.coalUs, r.head)

/-- A function that differs from another only in the entries of its queues, its interrupts, DB_OUT, its count of lost events and the
state of its administrative pair. -/
def FnReports (F G : Fn) : Prop :=
  G = { F with sqs := G.sqs, rings := G.rings, irqs := G.irqs, dbOut := G.dbOut, lost := G.lost, admRdy := G.admRdy, admStop := G.admStop } ∧
  ∀ qid, (G.rings.look qid).map Ring.fixed = (F.rings.look qid).map Ring.fixed

/-- A function that differs from another only in what events write: its event queue, its interrupts, DB_OUT and its count of lost events. -/
def FnPosts (F G : Fn) : Prop :=
  G = { F with rings := G.rings, irqs := G.irqs, dbOut := G.dbOut, lost := G.lost } ∧
  (∀ qid, (G.rings.look qid).map Ring.fixed = (F.rings.look qid).map Ring.fixed) ∧
  ∀ qid r, F.rings.look qid = some r → r.kind ≠ 2 → G.rings.look qid = some r

/-- A state that differs from another only in the statistics counters and in the events that have been posted. -/
def Posts (s t : State) : Prop :=
  t = { s with regs := { s.regs with cnt := t.regs.cnt }, host := { s.host with fns := t.host.fns } } ∧ ∀ f, FnPosts (s.fn f) (t.fn f)

/-- A state that differs from another only in the statistics counters, host memory and what the functions report: completions, events
and interrupts. -/
def Reports (s t : State) : Prop :=
  t = { s with regs := { s.regs with cnt := t.regs.cnt }, host := { s.host with fns := t.host.fns, mem := t.host.mem } } ∧
  ∀ f, FnReports (s.fn f) (t.fn f)

/-- An operation may act: the command passed its submission rules and the checks of R247, `p` is the operation with its ticket in `u`,
and its directory lookup has ended, which leaves `v`. -/
def Admitted (s : State) (o : Origin) (op : Nat) (body : Bytes) (p : Op) (u v : State) : Prop :=
  let r := s.take o op body
  (∀ h, o = .host h → hostCheck r.2 h op body = none) ∧
  r.2.beginOp { origin := o, opcode := op, body := body, arrival := r.1 } = .ok (p, u) ∧
  ∃ f, f ≠ .parked ∧ u.lookup p.q p.key p.toInbound = (f, v)

/-- The completion that was written last for a submission queue: the last one that waits, else the last entry of its CQ. -/
def newestCpl (s : State) (f sq : Nat) : Option Cpl :=
  match (s.fn f).sqs.look sq with
  | none => none
  | some S =>
    match (s.fn f).rings.look S.cq with
    | none => none
    | some r =>
      match r.waiting.getLast? with
      | some c => some c
      | none => match r.items.getLast? with | some (.cpl _ c) => some c | _ => none

/-- A command's completion has a place to go to: its queues have not been reset since the fetch, its SQ is not being deleted, and
its CQ exists. -/
def Answerable (s : State) (h : HostCmd) : Prop :=
  s.wanted h = true ∧ (∀ e ∈ (s.fn h.fn).sqs, e.2.deleting = []) ∧
  ∃ S r, (s.fn h.fn).sqs.look h.sq = some S ∧ (s.fn h.fn).rings.look S.cq = some r ∧ r.kind = 1

/-- `t` is `s` after a command has been completed with a status and a DETAIL: nothing else changed, and its completion is in its CQ. -/
def Answered (s : State) (h : HostCmd) (status detail : Nat) (t : State) : Prop :=
  Reports s t ∧
  (Answerable s h → ∃ c, newestCpl t h.fn h.sq = some c ∧ c.cid = h.cid ∧ c.status = status ∧ c.detail = detail)

/-- An Epcen frame passes every check of its port (R285) and checks 2 to 6 of Table 8-7; `u` is the state that takes up its packet. -/
def Arrives (s : State) (p : Nat) (f : RxFrame) (u : State) : Prop :=
  let v := (s.advance f.at_).count bPORT p 0
  let t := (Hdr.ofBytes f.header).tenant
  let r := police (applyPacket v p 0x600 t) p t f.len
  ((s.qtr p).port.linkUp || bit (s.reg bPORT p 4) 13) = true ∧ s.qOff p = false ∧ f.etherOuter ≠ 0x8808 ∧ v.portDrop p f = none ∧
  v.epcenDrop p f = none ∧ r.1 = true ∧ u = r.2.meter t 3 f.len

/-- A packet names connection i, whose context is at hand, with its tenant and its class (checks 7 and 8 of Table 8-7). -/
def Names (s : State) (h : Hdr) (i : Nat) : Prop :=
  i = h.dstConn % 65536 ∧ s.qOff (i / 16384) = false ∧ (s.conn i).incarn % 256 = h.dstConn / 65536 ∧
  ((s.qtr (i / 16384)).xpt.ctx.look (i % 16384)).map (·.fetching) = some false ∧
  ((s.qtr (i / 16384)).xpt.miss.any fun m => m.conn == i) = false ∧ h.tenant = (s.conn i).tenant ∧ h.tc = (s.conn i).tc

/-- A management command has access (R414, R324): `u` is the state in which it runs. -/
def Allowed (s : State) (cmd : Nat) (m : Mgmt) (body : Bytes) (u : State) : Prop :=
  s.agentUp = true ∧ (onStandby cmd = true ∨ (s.pins.mainPg = true ∧ s.noPlane = false)) ∧
  ((m.ses = none ∧ s.cmdOpen cmd = true ∧ u = s.takeCmd cmd m body) ∨
    ∃ x, m.ses = some x ∧ s.sessionOk x body = true ∧ u = (s.takeCmd cmd m body).useSession x)

end Sys2Proof
end

