-- ==== Sys2Proof/Certificates/Slice0/Obligations.lean ====
section
/-!
DEFINITION. The claims about the node, from the numbered rules of the spec. Each names the rules it formalises.
-/
open Sys2Proof Sys2Proof.Machine

/-! ### Doorbells, rings and queues (ch. 12) -/

/-- R334: the tail doorbell of an SQ moves its tail and restarts a fetch that failed, and nothing else changes; a doorbell for an SQ that
does not exist, for an index outside it, or for one that is being deleted is ignored, counted and reported.
R334, R336: the head doorbell of a CQ, EQ or AQ frees the entries below its index, the fixed part of every ring stays but for that
head, and the SQs stay; of a ring that is no EQ, exactly the entries from that index on are left, in their order.
That a head doorbell equal to the head frees every entry of a full ring is the model's reading
(assumption 34). -/
def Obligations.DoorbellsMoveTheRings : Prop :=
  (∀ (s : State) (fn : Fin 64) (qid value : Nat),
     (∀ S, (s.fn fn).sqs.look qid = some S → value < S.size → S.deleting = [] →
       exec (.sqTailDoorbell fn qid value) s =
         .next (s.updFn fn fun F => { F with sqs := F.sqs.put qid { S with tail := value, stopped := false } })) ∧
     ((∀ S, (s.fn fn).sqs.look qid = some S → S.size ≤ value ∨ S.deleting ≠ []) →
       ∃ t, exec (.sqTailDoorbell fn qid value) s = .next t ∧ Posts s t ∧ ∀ n, (t.fn n).sqs = (s.fn n).sqs)) ∧
  (∀ (s : State) (fn : Fin 64) (qid value : Nat) (r : Ring), (s.fn fn).rings.look qid = some r → value < r.size →
     ¬ ((value + r.size - r.head) % r.size = 0 ∧ r.items.length = r.size) →
     ∃ t r', exec (.cqHeadDoorbell fn qid value) s = .next t ∧ (t.fn fn).rings.look qid = some r' ∧ r'.head = value ∧
       r'.size = r.size ∧ r'.waiting = r.waiting ∧ (∀ n, (t.fn n).sqs = (s.fn n).sqs) ∧
       t.quarters = s.quarters ∧ t.hbm = s.hbm ∧ t.host.mem = s.host.mem ∧
       (r.kind ≠ 2 → r'.items = r.items.drop ((value + r.size - r.head) % r.size)))

/-- R335, R339, R340: fetching an entry that passes its checks moves the SQ's head past it, counts it as live, and accepts its command,
which arrives at the time of the fetch; nothing else of the SQ changes.
That the fetch and the run of a submission are two rows is the model's choice (assumption 9). -/
def Obligations.FetchAcceptsACommand : Prop :=
  ∀ (s : State) (f : Fin 64) (qid now : Nat) (e body : Bytes) (S : Sq), (s.fn f).sqs.look qid = some S →
    fetchable (s.fn f) qid S = true → entryBad e = false → mayName (issuerOf (byteAt e 0)) f (byteAt e 5 % 64) = true →
    (issuerOf (byteAt e 0) = .f0 → f.val = 0) →
    (let h := entryCmd (s.fn f) f qid ((S.head + 1) % S.size) e
     let b := if byParam (byteAt e 0) then (e.drop 40).take 16 else body.take (fieldAt e 16 4)
     hostCheck s h (byteAt e 0) b = none →
     ∃ t, exec (.submissionFetch f qid now (some e) (some body)) s = .next t ∧
       t.time = max s.time now ∧
       (t.fn f).sqs.look qid = some { S with head := (S.head + 1) % S.size, live := S.live + 1 } ∧
       t.inbox = s.inbox ++ [{ origin := .host h, opcode := byteAt e 0, body := b, arrival := max s.time now }] ∧
       t.quarters = s.quarters ∧ t.hbm = s.hbm ∧ t.sec = s.sec)

/-- R336: the oldest completion that waits is written into its CQ when the CQ has a free place, with the phase bit of this pass, and the
tail moves on.
R337: COAL_US after the first unread entry, with COAL_N not 0, the ring's vector sends one interrupt. -/
def Obligations.RingsPostAndInterrupt : Prop :=
  (∀ (s : State) (f : Fin 64) (cq : Nat) (r : Ring) (c : Cpl) (rest : List Cpl), (s.fn f).rings.look cq = some r → r.kind = 1 →
     r.waiting = c :: rest → r.items.length < r.size → (∀ e ∈ (s.fn f).sqs, e.2.deleting = []) →
     ∃ t r', exec (.completionPost f cq) s = .next t ∧ (t.fn f).rings.look cq = some r' ∧ r'.waiting = rest ∧
       r'.items = r.items ++ [.cpl r.phase c] ∧ r'.tail = (r.tail + 1) % r.size ∧
       r'.phase = (if r.tail + 1 = r.size then !r.phase else r.phase) ∧ Reports s t) ∧
  (∀ (s : State) (f : Fin 64) (qid : Nat) (r : Ring) (t0 : Nat), (s.fn f).rings.look qid = some r → r.firstAt = some t0 → r.coalN ≠ 0 →
     r.items ≠ [] →
     ∃ t, exec (.coalTimerExpiry f qid) s = .next t ∧ t.time = max s.time (t0 + r.coalUs * 1000) ∧
       (t.fn f).irqs.fetch r.vector 0 = (s.fn f).irqs.fetch r.vector 0 + 1 ∧
       (t.fn f).rings.look qid = some { r with firstAt := none } ∧
       (∀ g, g ≠ f.val → t.fn g = s.fn g) ∧ t.quarters = s.quarters ∧ t.hbm = s.hbm ∧ t.regs = s.regs)

/-- R338: QUEUE_CREATE with a good body creates the queue that Table 12-5 describes and answers OK; QUEUE_DELETE of a ring that no SQ
uses, and of an SQ with nothing left to complete, removes it and answers OK.
R338: an SQ whose entries have all completed is deleted with its deleting command, and no completion finds it any more.
That every deleting command of one SQ completes OK is the model's choice (assumption 39). -/
def Obligations.QueuesAreCreatedAndDeleted : Prop :=
  ((∀ (s : State) (h : HostCmd) (b : Bytes), hostCheck s h 0x60 b = none → queueBad h.fn b = false →
     queueClash (s.fn h.fn) b = false → s.sqsUsed < 4096 → s.cqsUsed < 4096 →
     (byteAt b 0 % 8 = 0 →
       ∃ t, exec (.queueCreate h b) s = .next t ∧
         let S : Sq := { size := 2 ^ fieldAt b 4 2, base := fieldAt b 8 8, cq := fieldAt b 6 2 }
         Answered ((s.take (.host h) 0x60 b).2.updFn h.fn fun F => { F with sqs := F.sqs.put (fieldAt b 2 2) S }) h 0 0 t) ∧
     (byteAt b 0 % 8 = 1 →
       ∃ t, exec (.queueCreate h b) s = .next t ∧
         let r : Ring := { kind := 1, size := 2 ^ fieldAt b 4 2, base := fieldAt b 8 8, vector := fieldAt b 16 2, coalN := byteAt b 18, coalUs := byteAt b 19 }
         Answered ((s.take (.host h) 0x60 b).2.updFn h.fn fun F => { F with rings := F.rings.put (fieldAt b 2 2) r }) h 0 0 t)) ∧
   (∀ (s : State) (h : HostCmd) (b : Bytes), hostCheck s h 0x61 b = none → b.length = 4 → byteAt b 0 < 4 → byteAt b 1 = 0 →
     0 < fieldAt b 2 2 → fieldAt b 2 2 < 512 →
     (∀ r, byteAt b 0 ≠ 0 → (s.fn h.fn).rings.look (fieldAt b 2 2) = some r → r.kind = byteAt b 0 →
       (∀ e ∈ (s.fn h.fn).sqs, e.2.cq ≠ fieldAt b 2 2) →
       ∃ t, exec (.queueDelete h b) s = .next t ∧
         Answered ((s.take (.host h) 0x61 b).2.updFn h.fn fun F => { F with rings := F.rings.del (fieldAt b 2 2) }) h 0 0 t) ∧
     (byteAt b 0 = 0 → (s.fn h.fn).sqs.look (fieldAt b 2 2) = none →
       ∃ t, exec (.queueDelete h b) s = .next t ∧ Answered (s.take (.host h) 0x61 b).2 h 0x10 0 t))) ∧
  (∀ (s : State) (h : HostCmd) (b : Bytes) (S : Sq), hostCheck s h 0x61 b = none → b.length = 4 → byteAt b 0 = 0 → byteAt b 1 = 0 →
     0 < fieldAt b 2 2 → fieldAt b 2 2 < 512 → (s.fn h.fn).sqs.look (fieldAt b 2 2) = some S → S.live = 0 → h.sq ≠ fieldAt b 2 2 →
     (∀ e ∈ (s.fn h.fn).sqs, e.2.deleting = []) →
     ∃ t, exec (.queueDelete h b) s = .next t ∧ (t.fn h.fn).sqs.look (fieldAt b 2 2) = none ∧
       Reports (s.take (.host h) 0x61 b).2 t)

/-- R353, Table 12-18: writing HQ_ADM_CTL with EN rising creates the administrative pair from the registers, and with EN falling resets
it: its queues go, and RDY falls once no fetched command is left. -/
def Obligations.AdministrativePair : Prop :=
  ∀ (s : State) (f : Fin 64) (v : Word),
    (bit (((s.fn f).admRegs.fetch 0x210 0x440).toNat) 0 = false → bit v.toNat 0 = true →
      ∃ t S r, exec (.admQueueCtl f v) s = .next t ∧ (t.fn f).admRdy = true ∧ (t.fn f).sqs.look 0 = some S ∧
        (t.fn f).rings.look 0 = some r ∧ S.cq = 0 ∧ S.head = 0 ∧ S.tail = 0 ∧ S.live = 0 ∧
        S.size = 2 ^ admLog2 (bits v.toNat 7 4) ∧ r.kind = 1 ∧ r.size = 2 ^ admLog2 (bits v.toNat 11 8) ∧
        r.vector = bits v.toNat 19 12 ∧ r.items = [] ∧ (∀ g, g ≠ f.val → t.fn g = s.fn g)) ∧
    (bit (((s.fn f).admRegs.fetch 0x210 0x440).toNat) 0 = true → bit v.toNat 0 = false →
      ∃ t, exec (.admQueueCtl f v) s = .next t ∧ (t.fn f).sqs.look 0 = none ∧ (t.fn f).rings.look 0 = none ∧
        (t.fn f).admEpoch = (s.fn f).admEpoch + 1 ∧
        (∀ S, (s.fn f).sqs.look 0 = some S → S.live = 0 → (t.fn f).admRdy = false) ∧ (∀ g, g ≠ f.val → t.fn g = s.fn g))

/-! ### Mailboxes (ch. 12) -/

/-- R347, R349, Table 12-12: a PING of 8 to 16 words to a reachable agent is acknowledged OK, FN_INFO to agent 0 is acknowledged OK with
FN_INFO_REPLY behind what already waits, and AGENT_STATUS to agent 1 + q is answered by AGENT_REPLY with HQ_AGENT_STATUSq; any other type
is acknowledged BAD_DESCRIPTOR. Each acknowledgement sets VALID, clears GO and sets DB_OUT bit 0, whatever the outbound mailbox holds.
R348, R352: the first waiting outbound message is posted while FULL is 0, with FULL and DB_OUT bit 1 set; software's
acknowledgement with a code, or its DB_IN bit 0 with code OK, clears FULL; DB_IN bit 1 clears DB_OUT bit 2 and nothing else. -/
def Obligations.MailboxMessages : Prop :=
  (∀ (s : State) (f : Fin 64), (s.fn f).go = true →
     let F := s.fn f
     let acked := fun (code : Nat) (out : List OutMail) => s.updFn f fun F =>
       { ({ F with mbxInAck := w32 (code + 256), mbxInCtl := F.mbxInCtl &&& 0xFFFFFEFF, mbxInAt := none } : Fn).ringOut 0 with
         outWait := F.outWait ++ out }
     let len := F.mbxInCtl.toNat % 32
     8 ≤ len → len ≤ 16 → F.agent ≤ 4 → (F.agent ≠ 0 → s.qOff (F.agent - 1) = false) →
     (F.msgType = 1 → exec (.ping f) s = .next (acked 0 []) ∧ exec (.mbxAgentAnswer f) s = .next (acked 0 [])) ∧
     (F.msgType = 2 → F.agent = 0 → exec (.fnInfo f) s = .next (acked 0 [s.fnInfoReply f])) ∧
     (F.msgType = 3 → F.agent ≠ 0 →
       exec (.agentStatus f) s = .next (acked 0 [{ agent := F.agent, words := [0x83, s.agentStatus (F.agent - 1), 0, 0, 0, 0, 0, 0] }])) ∧
     (F.msgType = 0 ∨ 3 < F.msgType → exec (.mbxAgentAnswer f) s = .next (acked 0xF0 []))) ∧
  (∀ (s : State) (f : Fin 64),
     (∀ m rest, (s.fn f).outWait = m :: rest → (s.fn f).full = false →
       ∃ t, exec (.mbxOutPost f) s = .next t ∧ (t.fn f).outWait = rest ∧ (t.fn f).mbxOutAt = some s.time ∧
         (t.fn f).mbxOut = (List.range m.words.length).zip (m.words.map w32) ∧
         (t.fn f).mbxOutCtl = w32 (m.words.length + m.agent * 32 + 256) ∧ bit (t.fn f).dbOut.toNat 1 = true ∧
         (t.fn f).rings = (s.fn f).rings ∧ (t.fn f).mbxInCtl = (s.fn f).mbxInCtl ∧ (∀ g, g ≠ f.val → t.fn g = s.fn g) ∧
         t.quarters = s.quarters ∧ t.regs = s.regs) ∧
     (∀ code : BitVec 8, ∃ t, exec (.mbxOutAck f code) s = .next t ∧ (t.fn f).full = false ∧ (t.fn f).mbxOutAck = w32 code.toNat ∧
       (t.fn f).mbxOutAt = none ∧ (t.fn f).outWait = (s.fn f).outWait ∧ (t.fn f).dbOut = (s.fn f).dbOut ∧
       (∀ g, g ≠ f.val → t.fn g = s.fn g) ∧ t.quarters = s.quarters ∧ t.regs = s.regs) ∧
     exec (.outboundTaken f) s = exec (.mbxOutAck f 0) s ∧
     (∃ t, exec (.eqDrained f) s = .next t ∧ bit (t.fn f).dbOut.toNat 2 = false ∧
       (∀ b, b ≠ 2 → bit (t.fn f).dbOut.toNat b = bit (s.fn f).dbOut.toNat b) ∧
       t = s.updFn f fun F => { F with dbOut := (t.fn f).dbOut }))

/-- R350: 10 ms after an inbound message without an answer, its code becomes MBX_TIMEOUT and GO falls; 10 ms after an outbound message
without an acknowledgement, it is withdrawn: FULL falls, its code becomes MBX_TIMEOUT and a MAILBOX event is posted. In either case the
node goes on to the next message: GO may be set again, and the next outbound message may be posted. -/
def Obligations.MailboxTimeouts : Prop :=
  ∀ (s : State) (f : Fin 64) (t0 : Nat),
    ((s.fn f).go = true → (s.fn f).mbxInAt = some t0 →
      ∃ t, exec (.mbxInTimeout f) s = .next t ∧ t.time = max s.time (t0 + 10000000) ∧ (t.fn f).mbxInAck.toNat % 256 = 0x54 ∧
        (t.fn f).go = false ∧ (t.fn f).mbxInAt = none ∧ (t.fn f).outWait = (s.fn f).outWait ∧ (t.fn f).mbxOutCtl = (s.fn f).mbxOutCtl ∧
        (∀ g, g ≠ f.val → t.fn g = s.fn g) ∧ t.quarters = s.quarters ∧ t.regs = s.regs) ∧
    ((s.fn f).full = true → (s.fn f).mbxOutAt = some t0 →
      ∃ t, exec (.mbxOutTimeout f) s = .next t ∧ t.time = max s.time (t0 + 10000000) ∧ (t.fn f).full = false ∧
        (t.fn f).mbxOutAck = 0x54 ∧ (t.fn f).mbxOutAt = none ∧ (t.fn f).outWait = (s.fn f).outWait ∧
        t = ((s.advance (t0 + 10000000)).updFn f fun F =>
          { F with mbxOutCtl := F.mbxOutCtl &&& 0xFFFFFEFF, mbxOutAck := 0x54, mbxOutAt := none }).post f
            { type := 0x0E, code := 0x54, p0 := bits (s.fn f).mbxOutCtl.toNat 7 5 + 8 })

/-! ### Resets and link of the functions (ch. 12) -/

/-- R353, R354, R398: an FLR of Fn, n ≥ 1, deletes its queues, clears its mailboxes and doorbells, returns its TDI to CONFIG_UNLOCKED and
makes every completion still to come unwanted, and touches no other function, no Quarter and no tenant. A TDI that leaves RUN is handled so.
PERST# does so for every function but for what the assist entries of F0 still do: the link falls and the phase "PCIe up" is to run again.
What survives a reset of the node besides is the model's reading (assumption 15). -/
def Obligations.FunctionResets : Prop :=
  ∀ (s : State) (f : Fin 64), s.unitErrs = [] →
    (f.val ≠ 0 → ∃ t, exec (.flr f) s = .next t ∧ (t.fn f).sqs = [] ∧ (t.fn f).outWait = [] ∧ (t.fn f).tdi = 0 ∧
      (t.fn f).go = false ∧ (t.fn f).full = false ∧ (s.fn f).epoch + (s.fn f).admEpoch < (t.fn f).epoch ∧ (t.fn f).admEpoch = 0 ∧
      (∀ qid, (t.fn f).rings.look qid = none) ∧ Posts (s.updFn f fun _ => t.fn f) t) ∧
    (f.val ≠ 0 → (s.fn f).tdi = 2 → exec (.tdiLeaveRun f) s = exec (.flr f) s) ∧
    (s.pins.mainPg = true → s.host.assists = [] →
      ∃ t, exec .perst s = .next t ∧ t.host.linkUp = false ∧ t.host.configOk = false ∧ t.boot.pcieDone = false ∧ t.ready = false ∧
        (∀ n, n < 64 → (t.fn n).sqs = [] ∧ (t.fn n).tdi = 0 ∧ (t.fn n).outWait = []) ∧
        t.pendingAt bFMODE 0 0 = some 0 ∧ t.quarters = s.quarters ∧ t.sec = s.sec ∧ t.hbm = s.hbm ∧ t.time = s.time)

/-- R329, R450, R332: a link that trains is up at the rate and width it trained at, DEGRADED when slower than 128 GT/s or narrower than 16
lanes, with a LINK event then; losing its clock takes it down; a TDISP request moves the TDI of a function other than F0 one state
forward, which sets DB_OUT bit 3. -/
def Obligations.HostLinkAndTdi : Prop :=
  ∀ (s : State) (f : Fin 64) (rate width : Nat),
    (s.pcieMay = true →
      let up : State := { s with pins := { s.pins with pcieClk := true }, host := { s.host with linkUp := true, linkRate := rate, linkWidth := width, degraded := decide (rate < 128 ∨ width < 16) } }
      exec (.pcieLinkTrained rate width) s =
        .next (if rate < 128 ∨ width < 16 then up.post 0 { type := 0x0A, p0 := 8 } else up)) ∧
    (∃ t, exec .pcieRefclkLoss s = .next t ∧ t.host.linkUp = false ∧ t.pins.pcieClk = false ∧ t.quarters = s.quarters ∧
      t.boot = s.boot ∧ t.sec = s.sec ∧ t.host.fns = s.host.fns ∧ t.regs = s.regs) ∧
    (∀ toRun : Bool, f.val ≠ 0 → (s.fn f).tdi = (if toRun then 1 else 0) →
      ∃ t, exec (.tdispRequest f toRun) s = .next t ∧ (t.fn f).tdi = (if toRun then 2 else 1) ∧ bit (t.fn f).dbOut.toNat 3 = true ∧
        (t.fn f).sqs = (s.fn f).sqs ∧ (t.fn f).rings = (s.fn f).rings ∧ (∀ g, g ≠ f.val → t.fn g = s.fn g) ∧ t.sec = s.sec ∧ t.regs = s.regs)

/-! ### Registers (ch. 13) -/

/-- R355, R11, R360, R362, R372: a write with a byte enable clear is ignored, counted and logged; a write of the scratch register, which is
RW, changes it at once; a write of a WS register of the blocks PWR, SEC, NRG and HQ replaces its whole staged value and leaves the value in
effect, and one to its SET alias adds bits to what is staged, or else to what is in effect; a write into the window of a Quarter in Q-OFF is
discarded, counted and logged.
The answers at reserved places are the model's choice (assumption 18). -/
def Obligations.RegisterWrites : Prop :=
  ∀ (s : State) (f : Fin 64) (v : Word), s.unitErrs = [] →
    (∀ (be : BitVec 4) (addr dwords : Nat), be ≠ 15 → dwords ≤ 2 →
      ∃ t, exec (.registerWrite f addr v be dwords) s = .next t ∧ t.regs.val = s.regs.val ∧ t.regs.staged = s.regs.staged ∧
        t.regs.accErr = w32 (1 + f.val * 256) ∧ t.regs.accAddr = w32 (addr / 4 * 4 % 2 ^ 26) ∧
        Posts { s with regs := { s.regs with accErr := t.regs.accErr, accAddr := t.regs.accAddr } } t) ∧
    exec (.registerWrite 0 0x10 v 15 1) s = .next (s.setReg bGLB 0 0x10 v.toNat) ∧
    (∀ (code off : Nat) (r : RegSpec), (code = bPWR ∨ code = bSEC ∨ code = bNRG ∨ code = bHQ) → off < 0xFE0 → off % 4 = 0 →
      regAt code off = some r → r.ws ≠ 0 →
      let a := blockBase code 0 + off
      let staged := fun (x : Word) => { s with regs := { s.regs with staged := s.regs.staged.put a (x &&& w32 r.ws), stagedDone := s.regs.stagedDone.del a } }
      exec (.registerWrite 0 a v 15 1) s = .next (staged v) ∧
      exec (.registerWrite 0 (a + 0x1000) v 15 1) s =
        .next (staged (w32 ((s.pendingAt code 0 off).getD (s.reg code 0 off)) ||| v))) ∧
    (∀ (q : Fin 4) (off : Nat), s.qOff q = true → off < 0x90000 → off % 4 = 0 →
      ∃ t, exec (.registerWrite 0 (0x100000 + q.val * 0x100000 + off) v 15 1) s = .next t ∧ t.quarters = s.quarters ∧
        t.regs.val = s.regs.val ∧ t.regs.staged = s.regs.staged ∧ t.regs.accErr = w32 3 ∧
        Posts { s with regs := { s.regs with accErr := t.regs.accErr, accAddr := t.regs.accAddr } } t)

/-- R365, R366: a read of word +0 of a counter returns its low word and latches the high one, so that the next read of word +4 by F0
returns the high word of the same instant, whatever has been counted between; a write of 1 to OVF clears flag and count in one step, and
changes nothing while OVF is 0.
R366: a statistics counter adds what it counts while the sum stays below 2^48 − 1; the increment that reaches 2^48 − 1 leaves it
there with OVF set, and it counts no further. -/
def Obligations.CountersCount : Prop :=
  (∀ (s : State) (code q off : Nat), let a := blockBase code q + off
     off % 8 = 0 → isCounterOff code off = true → placeOf 0 a = .count code q off → placeOf 0 (a + 4) = .count code q (off + 4) →
     (isTenantCounter code off && s.sec.conf) = false →
     (∃ t, exec (.counterRead 0 a) s = .next t ∧ t.regs.readData = w32 (s.counter a).raw ∧
       t = { s with regs := { s.regs with readData := t.regs.readData, latch := t.regs.latch } } ∧
       ∀ u : State, u.regs.latch.look 0 = t.regs.latch.look 0 →
         exec (.counterRead 0 (a + 4)) u =
           .next { u with regs := { u.regs with readData := w32 ((s.counter a).raw / 2 ^ 32) } }) ∧
     (s.unitErrs = [] → (RegPlace.count code q (off + 4)).quarter.any s.qOff = false →
       exec (.counterOvfClear 0 (a + 4)) s = .next (if (s.counter a).ovf then s.setCounter a {} else s))) ∧
  (∀ (c : Counter) (k : Nat), c.n < 2 ^ 48 →
     (c.n + k < 2 ^ 48 - 1 → c.add k = ({ c with n := c.n + k }, false)) ∧
     (c.n < 2 ^ 48 - 1 → 2 ^ 48 - 1 ≤ c.n + k → c.add k = ({ n := 2 ^ 48 - 1, ovf := true }, true)) ∧
     (c.n = 2 ^ 48 - 1 → c.add k = (c, false)) ∧ (c.add k).1.n < 2 ^ 48)

/-- R367, R368: a write that changes SNAP_SEQ while no snapshot runs starts one of its scope with the time of now, and while one runs it
is refused and counted; SNAPSHOT starts one that completes it, or waits behind the running one; when a capture ends, the holding copies of
its blocks are replaced by the captured values, the others stay, and a command completes with DETAIL = NUMBER. -/
def Obligations.Snapshots : Prop :=
  (∀ (s : State) (v : Word), bits v.toNat 31 16 ≠ bits (s.reg bSNAP 0 0) 31 16 →
    (∀ bl, s.regs.snap.busy = false → snapScope v.toNat = some bl →
      ∃ t, exec (.snapshotRegStart v) s = .next t ∧ t.regs.snap.busy = true ∧ t.regs.snap.time = s.time ∧ t.regs.snap.blocks = bl ∧
        t.regs.snap.seqRunning = bits v.toNat 31 16 ∧ t.regs.snap.refused = false ∧ t.regs.snap.captured = s.capture bl ∧
        t.regs.snap.byCmd = none ∧ t.regs.cnt = s.regs.cnt ∧ t.regs.hold = s.regs.hold ∧ t.quarters = s.quarters ∧ t.host = s.host) ∧
    (s.regs.snap.busy = true →
      ∃ t, exec (.snapshotRegStart v) s = .next t ∧ t.regs.snap.busy = true ∧ t.regs.snap.refused = true ∧
        t.regs.snap.captured = s.regs.snap.captured ∧ t.regs.hold = s.regs.hold ∧ t.quarters = s.quarters)) ∧
  (∀ (s : State) (h : HostCmd) (p : Bytes) (bl : List Nat), hostCheck s h 0x4A p = none → snapScope (fieldAt p 0 2) = some bl →
    bits (fieldAt p 0 2) 7 4 = 0 →
    ∃ t, exec (.snapshot h p) s = .next t ∧ t.regs.snap.busy = true ∧ t.regs.cnt = s.regs.cnt ∧ t.regs.hold = s.regs.hold ∧
      t.host = s.host ∧ t.quarters = s.quarters ∧
      (s.regs.snap.busy = false → t.regs.snap.byCmd = some h ∧ t.regs.snap.blocks = bl ∧ t.regs.snap.time = s.time) ∧
      (s.regs.snap.busy = true → t.regs.snap = { s.regs.snap with waiting := s.regs.snap.waiting ++ [(h, fieldAt p 0 2)] })) ∧
  (∀ s : State, s.regs.snap.busy = true → s.regs.snap.waiting = [] →
    ∃ t u, exec .snapshotDone s = .next t ∧ t.regs.snap.busy = false ∧ t.regs.snap.number = nextSnapNo s.regs.snap.number ∧
      t.regs.snap.lastTime = s.regs.snap.time ∧
      (∀ a, s.regs.snap.blocks.contains (baseOf a) = false → s.regs.snap.captured.look a = none →
        t.regs.hold.look a = s.regs.hold.look a) ∧
      (s.regs.snap.byCmd = none → t.regs.snap.doneSeq = s.regs.snap.seqRunning) ∧
      (∀ h, s.regs.snap.byCmd = some h → Answered u h 0 t.regs.snap.number t ∧
        Posts { s with regs := { t.regs with cnt := s.regs.cnt } } u) ∧
      t.quarters = s.quarters ∧ t.sec = s.sec ∧ t.time = s.time)

/-- R375, R376: a write to FMODE_MODE stages its bits, and in confidential operation stages bits 1 and 6 as 0 and sets their bits of
FMODE_DENIED; FUNC_MODE stages the indices that its mask names, and in confidential operation one that would set index 1 or 6 is refused
whole with ASSIST_DENIED and stages nothing. The value in effect does not change before the TICK. -/
def Obligations.FunctionModesAreStaged : Prop :=
  (∀ (s : State) (v : Word), ∃ t, exec (.fmodeModeWrite v) s = .next t ∧ t.regs.val = s.regs.val ∧ t.host = s.host ∧
    t.quarters = s.quarters ∧
    (s.sec.conf = false → t.pendingAt bFMODE 0 0 = some (v &&& 0x7FF).toNat ∧ t.fmodeDenied = (w32 s.fmodeDenied).toNat) ∧
    (s.sec.conf = true → t.pendingAt bFMODE 0 0 = some (v &&& 0x7BD).toNat ∧
      t.fmodeDenied = (w32 s.fmodeDenied ||| (v &&& 0x42)).toNat)) ∧
  (∀ (s : State) (h : HostCmd) (p : Bytes), hostCheck s h 0x46 p = none → fieldAt p 0 2 < 2048 → fieldAt p 2 2 < 2048 →
    zeroRange p 4 16 = true →
    let m := w32 (fieldAt p 0 2)
    let v := w32 (fieldAt p 2 2)
    (s.sec.conf = true → m &&& v &&& 0x42 ≠ 0 →
      ∃ t, exec (.funcMode h p) s = .next t ∧ Answered (s.take (.host h) 0x46 p).2 h 0x50 0 t) ∧
    ((s.sec.conf = false ∨ m &&& v &&& 0x42 = 0) →
      let cur := w32 ((s.pendingAt bFMODE 0 0).getD (s.reg bFMODE 0 0))
      ∃ t, exec (.funcMode h p) s = .next t ∧ t.pendingAt bFMODE 0 0 = some ((cur &&& ~~~ m) ||| (v &&& m)).toNat ∧
        t.host.funcModeWait = s.host.funcModeWait ++ [h] ∧ t.regs.val = s.regs.val ∧ t.host.fns = s.host.fns ∧
        t.fmodeDenied = s.fmodeDenied ∧ t.quarters = s.quarters))

/-! ### Answers of the host (R344, R432) -/

/-- R344, R432: an ASSIST_REPLY whose tag names no waiting entry completes with STALE_GEN; PULL completes OK with the entry's data and
leaves every entry waiting; ANSWER takes the entry from those that wait, gives its purpose the answer and completes OK; and at its timeout,
never below 100 µs after its posting, an entry goes, is counted, and its purpose gets no answer. -/
def Obligations.AssistAnswers : Prop :=
  (∀ (s : State) (h : HostCmd) (b : Bytes), s.unitErrs = [] → hostCheck s h 0x47 b = none → 8 ≤ b.length → byteAt b 5 < 2 →
    zeroRange b 6 8 = true →
    let u := (s.take (.host h) 0x47 b).2
    (s.assistOf (fieldAt b 0 4) = none → ∃ t, exec (.assistReply h b) s = .next t ∧ Answered u h 0x10 0 t) ∧
    (∀ e, s.assistOf (fieldAt b 0 4) = some e → byteAt b 5 = 1 →
      ∃ t, exec (.assistReply h b) s = .next t ∧ Answered u h 0 0 t ∧ t.host.assists = s.host.assists ∧
        (Answerable u h → h.resultFault = none → e.data.length ≤ h.resultLen →
          t.hostMem h.fn = Mem.write (s.hostMem h.fn) h.resultAddr e.data)) ∧
    (∀ e, s.assistOf (fieldAt b 0 4) = some e → byteAt b 5 = 0 →
      let v := { u with host := { u.host with assists := u.host.assists.filter fun a => a.tag != fieldAt b 0 4 } }
      exec (.assistReply h b) s = .next (settle ((v.assistDone e.purpose (some (byteAt b 4, b.drop 8))).complete h 0)))) ∧
  (∀ (s : State) (tag : Nat) (e : Assist), s.assistOf tag = some e →
    ∃ v, exec (.assistTimeout tag) s = .next (settle (v.assistDone e.purpose none)) ∧ v.assistOf tag = none ∧
      v.time = max s.time (e.posted + max 100 (s.reg bHQ 0 4 % 65536) * 1000) ∧
      Posts { s with time := v.time, host := { s.host with assists := v.host.assists } } v)

/-! ### Shapes, maps, tenants and keys (ch. 02, 11) -/

/-- R28 to R30: a good shape descriptor whose ID no live segment of the tenant names defines that shape, and only that one; a bad one is
refused with BAD_DESCRIPTOR and one in use with CONFLICT.
R61 to R64: a good map newer than the installed one becomes the conversation's map, and every other map that some ticket uses or that
is current stays; a map that is not newer is refused with STALE_GEN, and a bad one with BAD_DESCRIPTOR. -/
def Obligations.ShapesAndMaps : Prop :=
  (∀ (s : State) (h : HostCmd) (b : Bytes), hostCheck s h 0x42 b = none →
     let u := (s.take (.host h) 0x42 b).2
     (shapeBad b = true → ∃ t, exec (.shapeDefine h b) s = .next t ∧ Answered u h 0xF0 0 t) ∧
     (shapeBad b = false → s.shapeInUse h.tenant (byteAt b 0 % 16) = true →
       ∃ t, exec (.shapeDefine h b) s = .next t ∧ Answered u h 0x12 0 t) ∧
     (shapeBad b = false → s.shapeInUse h.tenant (byteAt b 0 % 16) = false →
       ∃ t, exec (.shapeDefine h b) s = .next t ∧ t.shape h.tenant (byteAt b 0 % 16) = some (shapeOf b) ∧
         (∀ n id, id < 16 → ¬ (n = h.tenant ∧ id = byteAt b 0 % 16) → t.shape n id = s.shape n id) ∧
         Answered { u with sec := { u.sec with shapes := t.sec.shapes } } h 0 0 t)) ∧
  (∀ (s : State) (h : HostCmd) (conv : Nat) (b : Bytes), hostCheck s h 0x43 b = none → conv < 2 ^ 48 →
     let u := (s.take (.host h) 0x43 b).2
     (mapBad b = true → ∃ t, exec (.mapSet h conv b) s = .next t ∧ Answered u h 0xF0 0 t) ∧
     (mapBad b = false → ∀ m, s.mapOf h.tenant conv = some m → fieldAt b 0 4 ≤ m.version →
       ∃ t, exec (.mapSet h conv b) s = .next t ∧ Answered u h 0x10 0 t) ∧
     (mapBad b = false → (∀ m, s.mapOf h.tenant conv = some m → m.version < fieldAt b 0 4) →
       ∀ a, (s.qtr (homeQ (mapKey h.tenant conv))).heapPlace (ceilDiv b.length 64) = some a →
       ∃ t m, exec (.mapSet h conv b) s = .next t ∧ t.mapOf h.tenant conv = some m ∧ m.version = fieldAt b 0 4 ∧
         m.entries = mapEntries b ∧ m.decode = bit (byteAt b 6) 0 ∧ m.ackAtHome = bit (byteAt b 6) 1 ∧ m.addr = a ∧
         (∀ n c, mapKey n c ≠ mapKey h.tenant conv → t.mapOf n c = s.mapOf n c) ∧ t.sec = s.sec ∧ t.hbm = s.hbm ∧
         ∃ v, v.host = u.host ∧ Answered v h 0 0 t))

/-- R300, R301: a good descriptor of a tenant that is ABSENT makes it ACTIVE with the descriptor's limits: without encryption outside
confidential operation, with its page key when the key block unwraps, and else answered with the check that fails; its function is told with TENANT_STATE. A tenant that is ACTIVE is
refused with CONFLICT, one that drains with TENANT_GONE.
R302, R318, R319: a TENANT_DRAIN of an ABSENT tenant is answered TENANT_GONE; of an ACTIVE tenant of a node that holds nothing
it begins the drain, and of one that drains already it waits for that drain; with no item left, every key, generation and shape of the tenant goes and it scrubs;
with no frame left to scrub it is ABSENT with nothing of its descriptor left.
The order of the checks and the pieces of the drain are the model's reading (assumption 43). -/
def Obligations.TenantsComeAndGo : Prop :=
  (∀ (s : State) (h : HostCmd) (b : Bytes), hostCheck s h 0x40 b = none → tenantBad b = false →
     let u := (s.take (.host h) 0x40 b).2
     let n := byteAt b 0
     let made := fun (T : Tenant) => ∃ t v, exec (.tenantCreate h b) s = .next t ∧ t.tenant n = T ∧
       (∀ m, m ≠ n → t.tenant m = s.tenant m) ∧ v.sec = t.sec ∧ v.quarters = s.quarters ∧
       (∃ m, (v.fn n).outWait = (s.fn n).outWait ++ [m] ∧ m.words.head? = some 0x84) ∧ Answered v h 0 0 t
     ((s.tenant n).state = .absent → bit (byteAt b 1) 0 = false → s.sec.conf = false → made (tenantOf b)) ∧
     ((s.tenant n).state = .absent → bit (byteAt b 1) 0 = true →
       match unwrapKey n 0 (b.drop 88) with
       | .ok key => made { tenantOf b with curGen := byteAt b 88, curKey := key }
       | .error st => ∃ t, exec (.tenantCreate h b) s = .next t ∧ Answered (u.count bSEC 0 1) h st 0 t) ∧
     ((s.tenant n).state = .absent → bit (byteAt b 1) 0 = false → s.sec.conf = true →
       ∃ t, exec (.tenantCreate h b) s = .next t ∧ Answered u h 0x32 0 t) ∧
     ((s.tenant n).state = .active → ∃ t, exec (.tenantCreate h b) s = .next t ∧ Answered u h 0x12 0 t) ∧
     ((s.tenant n).state = .draining ∨ (s.tenant n).state = .scrubbing →
       ∃ t, exec (.tenantCreate h b) s = .next t ∧ Answered u h 0x30 0 t)) ∧
  ((∀ (s : State) (h : HostCmd) (b : Bytes), hostCheck s h 0x41 b = none → b.length = 1 → 0 < byteAt b 0 → byteAt b 0 < 64 →
     let n := byteAt b 0
     ((s.tenant n).state = .absent →
       ∃ t, exec (.tenantDrain h b) s = .next t ∧ Answered (s.take (.host h) 0x41 b).2 h 0x30 0 t) ∧
     ((s.tenant n).state = .active → s.unitErrs = [] → s.host.assists = [] → s.quarters = [] →
       ∃ t, exec (.tenantDrain h b) s = .next t ∧ (t.tenant n).state = .draining ∧ (t.tenant n).drainers = [(h, true)] ∧
         (t.tenant n).curKey = (s.tenant n).curKey ∧ (∀ m, m ≠ n → t.tenant m = s.tenant m) ∧ t.hbm = s.hbm ∧ t.regs = s.regs) ∧
     ((s.tenant n).state = .draining →
       exec (.tenantDrain h b) s = .next ((s.take (.host h) 0x41 b).2.updTenant n fun T => { T with drainers := T.drainers ++ [(h, false)] }))) ∧
   (∀ (s : State) (n : Fin 64), (s.tenant n).state = .draining → s.drainItems n = 0 →
     ∃ t, exec (.drainWorkEnded n) s = .next t ∧ (t.tenant n).state = .scrubbing ∧ (t.tenant n).curGen = 0 ∧ (t.tenant n).curKey = 0 ∧
       (t.tenant n).prevGen = 0 ∧ (t.tenant n).prevKey = 0 ∧ (∀ id, id < 16 → t.shape n id = none) ∧
       (∀ m id, m ≠ n.val → id < 16 → t.shape m id = s.shape m id) ∧ (∀ m, m ≠ n.val → t.tenant m = s.tenant m)) ∧
   (∀ (s : State) (n : Fin 64), (s.tenant n).state = .scrubbing →
     (∀ e ∈ s.quarters, ∀ r ∈ e.2.store.releases, r.tenant ≠ n.val) →
     ∃ t, exec (.drainScrubDone n) s = .next t ∧ t.tenant n = {} ∧ (∀ m, m ≠ n.val → t.tenant m = s.tenant m) ∧
       t.quarters = s.quarters ∧ t.hbm = s.hbm ∧
       (∀ h, (s.tenant n).drainers = [(h, true)] → ∃ v, Answered v h 0 0 t ∧ v.sec = t.sec ∧ v.quarters = s.quarters)))

/-- R309, R308, R316: a page-key rotation of an ACTIVE tenant with no previous generation keeps the old key as the previous one and takes
the new key and its generation, when the block unwraps; one with a previous generation is refused with CONFLICT; a wire rotation of an ACTIVE tenant marks each of
its protected connections to advance its send epoch, and no other. -/
def Obligations.KeysRotate : Prop :=
  (∀ (s : State) (h : HostCmd) (b : Bytes), hostCheck s h 0x45 b = none → b.length = 140 → byteAt b 0 < 64 → byteAt b 1 = 0 →
    zeroRange b 2 4 = true → keyBlockBad (b.drop 4) = false → (s.tenant (byteAt b 0)).state = .active →
    let n := byteAt b 0
    let T := s.tenant n
    (T.prevGen ≠ 0 → ∃ t, exec (.keyRotatePageKey h b) s = .next t ∧ Answered (s.take (.host h) 0x45 b).2 h 0x12 0 t) ∧
    (T.prevGen = 0 →
      match unwrapKey n T.curGen (b.drop 4) with
      | .ok key => ∃ t v, exec (.keyRotatePageKey h b) s = .next t ∧
          t.tenant n = { T with prevGen := T.curGen, prevKey := T.curKey, curGen := byteAt b 4, curKey := key } ∧
          (∀ m, m ≠ n → t.tenant m = s.tenant m) ∧ t.quarters = s.quarters ∧ t.hbm = s.hbm ∧ v.sec = t.sec ∧ Answered v h 0 0 t
      | .error st => ∃ t, exec (.keyRotatePageKey h b) s = .next t ∧
          Answered ((s.take (.host h) 0x45 b).2.count bSEC 0 1) h st 0 t)) ∧
  (∀ (s : State) (h : HostCmd) (b : Bytes), hostCheck s h 0x45 b = none → 2 ≤ b.length → byteAt b 0 < 64 → byteAt b 1 = 1 →
    zeroRange b 2 b.length = true → (s.tenant (byteAt b 0)).state = .active →
    ∃ t v, exec (.keyRotateWireEpoch h b) s = .next t ∧ Answered v h 0 0 t ∧ v.host = s.host ∧ t.sec = s.sec ∧
      ∀ i, i < 65536 →
        t.conn i = (if (s.conn i).state ≠ .free ∧ (s.conn i).prot = true ∧ (s.conn i).tenant = byteAt b 0 then
          { s.conn i with keys := { (s.conn i).keys with rotate := true } } else s.conn i))

/-- R310: a sweep of a plain page whose header still carries the previous generation, in a stack, re-encrypts it under the current key, and
nothing else in the stacks changes; a page that a Quarter in Q-OFF holds waits for the next tick. -/
def Obligations.SweepReencryptsAPage : Prop :=
  ∀ (s : State) (n : Fin 64) (q : Fin 4) (key frame page a0 a1 : Nat) (e : DirEntry) (g : Seg) (fr : FrameRef) (sh : Shape),
    (s.tenant n).state = .active → (s.tenant n).prevGen ≠ 0 → s.entryOf q key = some (a0, e) → s.segOf q key = some (a1, g) →
    g.tenant = n.val → g.frames[frame]? = some fr → s.shape n g.shapeId = some sh → page < 32 → e.state ≠ .retired → e.state ≠ .incoming →
    (s.rawHdr q fr page sh).enc = true → (s.rawHdr q fr page sh).keyGen = (s.tenant n).prevGen →
    let x := (q.val, key, frame, page)
    let u := s.updTenant n fun T => { T with skipped := T.skipped.filter fun y => !(y == x) }
    (s.qOff q = true → (s.tenant n).skipped = [] →
      ∃ t, exec (.keySweepPage n q key frame page) s = .next t ∧ (t.tenant n).skipped = [x] ∧ t.hbm = s.hbm ∧
        t.host.mem = s.host.mem ∧ t.quarters = s.quarters) ∧
    (∀ b, s.qOff q = false → fr.spilled = false → u.slotStored q key fr page sh = .ok b →
      u.eccIn q fr.stack (fr.addr + page * sh.slot) sh.slot = false →
      ∃ t, exec (.keySweepPage n q key frame page) s = .next t ∧
        t.hbm = (u.stackWrite q fr.stack (fr.addr + page * sh.slot) sh.slot
          (memOf (reKey (s.tenant n) key e.gen frame page sh b))).hbm ∧
        t.sec = u.sec ∧ t.host.mem = s.host.mem)

/-- R311: once no page is left under the previous generation, that generation retires: its key is zeroised, PREV_GEN is 0, ROTATING falls,
and a TENANT event is posted; before that nothing changes. -/
def Obligations.PreviousKeyRetires : Prop :=
  ∀ (s : State) (n : Fin 64), (s.tenant n).prevGen ≠ 0 →
    (s.oldPages n ≠ 0 → exec (.keyGenRetire n) s = .next s) ∧
    (s.oldPages n = 0 → ∃ t u, exec (.keyGenRetire n) s = .next t ∧
      t.tenant n = { s.tenant n with prevGen := 0, prevKey := 0, skipped := [] } ∧ bit (t.tenantWord n) 4 = false ∧
      (∀ m, m ≠ n.val → t.tenant m = s.tenant m) ∧ t.quarters = s.quarters ∧
      u = (s.updTenant n fun T => { T with prevGen := 0, prevKey := 0, skipped := [] }).postTenant n
        { type := 0x08, p0 := n + 256, p1 := (s.tenant n).prevGen } ∧
      t = u.updFn n fun F => { F with outWait := F.outWait ++ [{ agent := 0, words := [0x84, u.tenantWord n, 0, 0, 0, 0, 0, 0] }] })

/-- R323: ATTEST with a nonce of 32 bytes completes OK and writes the signed report scoped to the function's tenant to the result buffer;
any other nonce is refused with BAD_DESCRIPTOR. -/
def Obligations.AttestReports : Prop :=
  ∀ (s : State) (h : HostCmd) (nonce : Bytes), hostCheck s h 0x4B nonce = none →
    let u := (s.take (.host h) 0x4B nonce).2
    let rep := s.report (some h.fn) nonce [h.fn]
    (nonce.length ≠ 32 → ∃ t, exec (.attest h nonce) s = .next t ∧ Answered u h 0xF0 0 t) ∧
    (nonce.length = 32 → ∃ t, exec (.attest h nonce) s = .next t ∧ Answered u h 0 0 t ∧
      (Answerable u h → h.resultFault = none → rep.length ≤ h.resultLen →
        t.hostMem h.fn = Mem.write (s.hostMem h.fn) h.resultAddr rep))

/-! ### Conversation operations (ch. 09) -/

/-- R263, R265, R53: a READ of a live segment at its generation answers OK with the stored bytes it names, LEN in DETAIL; a RETIRE of one
leaves a tombstone with the next generation in the entry's place, frees the descriptor and answers OK; either answers STALE_GEN at another
generation. -/
def Obligations.ReadAndRetire : Prop :=
  ∀ (s : State) (o : Origin) (b : Bytes) (p : Op) (u v : State) (a d : Nat) (e : DirEntry) (g : Seg),
    v.entryOf p.q p.key = some (a, e) → v.segOf p.q p.key = some (d, g) →
    (Admitted s o 0x14 b p u v → u.opBad p = false →
      (p.gen ≠ e.gen → exec (.read o b) s = .next (settle ((v.finish p.tk 0x10).recheck p.q p.key))) ∧
      (∀ (sh : Shape) (fr : FrameRef) (bytes : Bytes), p.gen = e.gen → e.state ≠ .retired → v.shape g.tenant g.shapeId = some sh → g.frames[fieldAt b 24 2]? = some fr →
        fieldAt b 28 4 + fieldAt b 32 4 ≤ sh.frame →
        v.frameBytes p.q p.key e.gen (fieldAt b 24 2) fr sh (fieldAt b 28 4) (fieldAt b 32 4) = .ok bytes →
        exec (.read o b) s = .next (settle ((v.finish p.tk 0 (fieldAt b 32 4) 0 bytes).recheck p.q p.key)))) ∧
    (Admitted s o 0x19 b p u v → u.opBad p = false →
      (p.gen ≠ e.gen → exec (.retire o b) s = .next (settle ((v.finish p.tk 0x10).recheck p.q p.key))) ∧
      (p.gen = e.gen → (e.state = .opened ∨ e.state = .sealed ∨ e.state = .coded) → g.chain.queue = [] →
        ∃ w : State, exec (.retire o b) s = .next (settle ((w.finish p.tk 0).recheck p.q p.key)) ∧
          (w.qtr p.q).dir.slots.look a =
            some { e with state := .retired, gen := nextGen e.gen, tombOrder := (v.qtr p.q).dir.tombs, bad := false } ∧
          (w.qtr p.q).store.segs.look d = none ∧ w.hbm = v.hbm ∧ w.sec = v.sec ∧ w.host.mem = v.host.mem ∧
          ∀ fr ∈ g.frames, fr.spilled = false →
            ∃ r ∈ (w.qtr p.q).store.releases, r.stack = fr.stack ∧ r.addr = fr.addr ∧ r.key = p.key))

/-- R250 to R255, R264: an append whose tokens begin at the next position of each of its layers, and whose pages have room, is stored in one
step and goes down the chain with OK; one whose tokens are all stored already and identical is a DUPLICATE; an append past the next position
waits. A SEAL at the segment's count closes its open pages, makes it SEALED and goes down the chain with OK.
The pages filled and the chain are read as assumption 42 says. -/
def Obligations.AppendAndSeal : Prop :=
  ∀ (s : State) (o : Origin) (b : Bytes) (p : Op) (u v : State) (a d : Nat) (e : DirEntry) (g : Seg) (sh : Shape),
    v.entryOf p.q p.key = some (a, e) → v.segOf p.q p.key = some (d, g) → v.shape (keyTenant p.key) p.shapeId = some sh →
    e.state = .opened → p.gen = e.gen → g.shapeId = p.shapeId → g.chainOn = true → v.cutting p.q p.key = false → u.opBad p = false →
    (∀ op, (op = 0x10 ∨ op = 0x11) → Admitted s o op b p u v →
      let r := appendReq b
      let c : Instr := if op = 0x10 then .append o b else .appendImm o b
      let x := r.data sh b
      v.overlap p.q p.key g r x = some true →
      ((∀ n ∈ r.nexts g, n.2 = r.first % 2048) → v.linesToAppend p.q p.key g r x ≤ v.roomLines p.q → 0 < r.count →
        let w := v.storeAppend p.q p.key e g r x
        exec c s = .next (settle ((w.chainDone p 0 (w.appendDetail p)).recheck p.q p.key))) ∧
      ((∀ n ∈ r.nexts g, r.first % 2048 + r.count ≤ n.2) →
        exec c s = .next (settle ((v.chainDone p 3 (v.appendDetail p)).recheck p.q p.key))) ∧
      ((∃ n ∈ r.nexts g, n.2 < r.first % 2048) → exec c s = .next (settle (v.holdOp p)))) ∧
    (Admitted s o 0x17 b p u v → v.shape g.tenant g.shapeId = some sh → (∀ c ∈ g.counts, c = fieldAt b 24 2 % 4096) →
      ((v.openPages p.q p.key g).map fun y => v.linesToClose p.q p.key y.1 y.2.1.page y.2.2 sh).sum ≤ v.roomLines p.q →
      let w := v.closeAll p.q p.key e.gen g sh
      exec (.seal o b) s = .next (settle (((w.toSealed p.q p.key).chainDone p 0 (fieldAt b 24 2 % 4096)).recheck p.q p.key)) ∧
      ∀ e', w.entryOf p.q p.key = some (a, e') → e'.state = .opened →
        ((w.toSealed p.q p.key).qtr p.q).dir.slots.look a = some { e' with state := .sealed, bad := false } ∧
        { key := p.key } ∈ ((w.toSealed p.q p.key).qtr p.q).pcd.queue)

/-- R266, R267: the source of a reseat. COPY of a live segment makes it MOVING with its state kept as PRIOR, takes its ticket as the
reseat's and sends PREPARE; once every frame is written COPY is answered; CUTOVER stops appends and waits on the reseat; RELEASE by the
driver gives the reseat up, and so does its deadline.
The order and form of the copy are the model's choice (assumptions 29 and 30). -/
def Obligations.ReseatSource : Prop :=
  (∀ (s : State) (o : Origin) (b : Bytes) (p : Op) (u v : State) (a : Nat) (e : DirEntry), Admitted s o 0x18 b p u v →
    reseatBad p.body p.role = false → v.entryOf p.q p.key = some (a, e) → p.gen = e.gen →
    (∀ (t0 : Ticket) (c : Nat × Conn), reseatSub b = 0 → (e.state = .opened ∨ e.state = .sealed ∨ e.state = .coded) → v.ticket p.tk = some t0 →
      tkQ p.tk = p.q → p.q < 4 →
      (v.qtr p.q).xpt.conns.find? (fun x => (x.2.state == .opening || x.2.state == .opened) && x.2.opener &&
        x.2.remoteNode == fieldAt b 26 2 && x.2.tenant == keyTenant p.key) = some c →
      ∃ (w : State) (t : Ticket), exec (.reseatCopy o b) s = .next (settle (w.sendReseat t 0 3 0 0)) ∧ w.ticket p.tk = some t ∧
        t = { t0 with kind := 3, side := 0, phase := 0, peer := fieldAt b 26 2, reseatConn := p.q * 16384 + c.1 } ∧
        (w.qtr p.q).dir.slots.look a = some { e with state := .moving, bad := false } ∧ w.hbm = v.hbm ∧ w.host = v.host) ∧
    (∀ t : Ticket, reseatSub b = 1 → e.state = .moving → v.reseatOf p.q p.key 0 = some t → t.phase = 0 →
      let w := v.updTicket t.id fun t => { t with phase := 1, cutTicket := some p.tk }
      exec (.reseatCutover o b) s = .next (settle ((if t.prepared then w.queueChanged t else w).tryCommit t.id))) ∧
    (∀ t : Ticket, reseatSub b = 2 → p.role = 0 → e.state = .moving → v.reseatOf p.q p.key 0 = some t →
      exec (.reseatRelease o b) s = .next (settle ((v.reseatEnd t 0x61 true).finish p.tk 0)))) ∧
  (∀ (s : State) (id : Nat) (t : Ticket), s.ticket id = some t → t.kind = 3 → t.side = 0 →
    (t.prepared = true → t.writesLeft = 0 → t.copyDone = false → exec (.reseatCopyDone id) s = .next (s.answerCopy t 0 t.framesDone)) ∧
    exec (.reseatDeadline id) s = .next (settle ((s.advance (t.arrival + t.deadline * 1000)).reseatEnd t 0x22 true)))

/-- R262, R266, R267: the destination of a reseat. A WRITE within a frame of an INCOMING segment on the reseat's own connection is written
there and answered OK, and WRITE_IMM posts its immediate too; PREPARE of an absent key allocates the segment as INCOMING and answers with its
ticket; COMMIT gives the segment a live state; the reseat's deadline removes the entry.
The order and form of the copy are the model's choice (assumptions 29 and 30). -/
def Obligations.ReseatDestination : Prop :=
  (∀ (s : State) (conn : Nat) (b : Bytes) (imm : Bool) (t : Ticket) (a d : Nat) (e : DirEntry) (g : Seg) (sh : Shape) (fr : FrameRef),
    let rem := fieldAt b 0 8
    let q := conn / 16384
    let op := if imm then 0x13 else 0x12
    let u := (s.take (.wire conn) op b).2
    writeBad imm b = false → u.ticket (rem % 2 ^ 20) = some t → t.kind = 3 → t.side = 1 → tkQ (rem % 2 ^ 20) = q → t.reseatConn = conn →
    u.entryOf q t.key = some (a, e) → e.state = .incoming → u.segOf q t.key = some (d, g) → u.shape g.tenant g.shapeId = some sh →
    g.frames[bits rem 32 21]? = some fr → bits rem 20 20 = 0 → bits rem 53 33 + (b.drop 24).length ≤ sh.frame →
    let w := u.stackWrite q fr.stack (fr.addr + bits rem 53 33) (b.drop 24).length (memOf (b.drop 24))
    let ev : Ev := { type := 0x04, quarter := q, p0 := 0x13, p1 := fieldAt b 8 8, p2 := rem % 2 ^ 20 }
    exec (if imm then .writeImm conn b else .write conn b) s =
      .next ((if imm then w.post t.tenant ev else w).answerWrite conn op 0 b)) ∧
  (∀ (s : State) (o : Origin) (b : Bytes) (p : Op) (u v : State), Admitted s o 0x18 b p u v → reseatBad p.body p.role = false →
    (∀ (sh : Shape) (w : State) (t : Ticket), reseatSub b = 3 → v.entryOf p.q p.key = none → v.shape (keyTenant p.key) p.shapeId = some sh →
      v.allocSeg p.q p.key p.shapeId 0 (nextGen (max p.gen 0)) sh .incoming p.toInbound none = .done w →
      let x := (w.trimReads p.q).updTicket p.tk fun t => { t with kind := 3, side := 1, newGen := nextGen (max p.gen 0), peer := fieldAt p.body 26 2, reseatConn := match p.o with | .wire i => i | .host _ => 0, copyDone := true }
      x.ticket p.tk = some t →
      exec (.reseatPrepare o b) s =
        .next (settle (x.answer t.origin p.q (x.withEntry p.q p.key { tag := t.cmd, status := 0, opcode := 0x18, detail := t.id })))) ∧
    (∀ (t : Ticket) (a d : Nat) (e : DirEntry) (g : Seg) (sh : Shape), reseatSub b = 4 → v.destTicket p (fieldAt p.body 28 4) = some t → v.entryOf p.q p.key = some (a, e) →
      v.segOf p.q p.key = some (d, g) → e.state = .incoming → fieldAt p.body 32 2 = e.gen → v.shape g.tenant g.shapeId = some sh →
      ∃ (w : State) (st : SegState), exec (.reseatCommit o b) s = .next (settle ((w.freeTicket t.id).finish p.tk 0)) ∧
        (st = .opened ∨ st = .sealed ∨ st = .coded) ∧
        (w.qtr p.q).dir.slots.look a = some { e with state := st, bad := false } ∧ w.hbm = v.hbm ∧ w.sec = v.sec)) ∧
  (∀ (s : State) (id : Nat) (t : Ticket), s.ticket id = some t → t.kind = 3 → t.side = 1 →
    exec (.reseatDeadline id) s = .next (settle ((s.advance (t.arrival + t.deadline * 1000)).dropIncoming t)))

/-- R269, R273, R129: an ATTEND of one node that is good and does not go to the express lane is taken by its Dovetail: its request is
registered, its jobs are formed from the segments found, and it is checked at once for completeness; with no map a fan-out ends with
NO_MAP.
The order of the dispatcher's actions is the model's reading (assumption 19). -/
def Obligations.AttendStarts : Prop :=
  ∀ (s : State) (o : Origin) (b : Bytes) (errs : List Nat) (p : Op) (u : State) (sh : Shape),
    let r0 := s.take o 0x15 b
    (∀ h, o = .host h → hostCheck r0.2 h 0x15 b = none) →
    r0.2.beginOp { origin := o, opcode := 0x15, body := b, arrival := r0.1 } = .ok (p, u) →
    let v := u.meter (keyTenant p.key) 5 1
    v.shape (keyTenant p.key) p.shapeId = some sh → attendBad sh p.body = false →
    let r := p.request sh (v.assisted 6)
    (∀ (l : List _) (w : State), r.fanout = false →
      findSegs p (reqSegs r.viewEnd [(r.firstSeg, r.lastSeg)]) (v.updTicket p.tk fun t => t.ofRequest r 0) = (some l, w) →
      laneFits w p.q r l = false →
      let r := { r with outWindow := r.heads.filter fun h => l.any fun x => outOfWindow w r h x }
      let x := formJobs (w.updDove p.q fun D => { D with reqs := D.reqs.put p.tk r }) r false l
      let n := (x.quarters.map fun e => (e.2.core.jobs.filter fun j => j.ticket == p.tk).length).sum +
        (match x.request p.tk with | some r => r.children.length | none => 0)
      exec (.attend o b errs) s = .next (settle (((x.updTicket p.tk fun t => { t with jobs := n }).checkMiss p.tk).checkReq p.tk))) ∧
    (∀ t : Ticket, r.fanout = true → v.ticket p.tk = some t → t.kind ≠ 2 → v.mapOf (keyTenant p.key) (keyConv p.key) = none →
      exec (.attend o b errs) s = .next (settle (v.finish p.tk 0x15)))

/-- R248, R249, R257, R275, R276: a PARTIAL ends its child; with a failing status and both hedges spent nothing more is sent and the
request is looked at again. A NOTICE WILL_MISS of a child whose hedges are spent is passed on to the origin. A RESPONSE of OK to a forward
that nothing waits for takes it off the chain and records the successor's generation. -/
def Obligations.ChildrenAndForwards : Prop :=
  (∀ (s : State) (conn : Nat) (b : Bytes) (t : Ticket) (r : Request) (c : Child) (g : ChildGroup),
    let tk := fieldAt b 0 8 % 2 ^ 20
    let u := (s.take (.wire conn) 0x16 b).2
    u.ticket tk = some t → u.request tk = some r → r.children.find? (fun c => c.idx == fieldAt b 0 8 / 2 ^ 20) = some c → t.kind = 2 →
    c.ended = false → r.groups.find? (fun g => g.idx == c.group) = some g → 2 ≤ g.hedges → b.length = 32 → byteAt b 8 = 0x61 →
    exec (.partialRecv conn b) s = .next (settle ((u.updChild tk c.idx fun c => { c with ended := true }).checkReq tk))) ∧
  (∀ (s : State) (conn : Nat) (b : Bytes) (t : Ticket) (r : Request) (c : Child) (g : ChildGroup),
    let tk := fieldAt b 0 8 % 2 ^ 20
    let u := (s.take (.wire conn) 0x1B b).2
    u.ticket tk = some t → u.request tk = some r → r.children.find? (fun c => c.idx == fieldAt b 0 8 / 2 ^ 20) = some c → t.kind = 2 →
    c.ended = false → c.willMiss = none → r.groups.find? (fun g => g.idx == c.group) = some g → 2 ≤ g.hedges → b.length = 16 →
    byteAt b 8 = 0x21 →
    let v := fieldAt b 9 3
    exec (.notice conn b) s = .next (settle ((u.updChild tk c.idx fun c => { c with willMiss := some v }).sendMiss tk
      (sat (v + ceilDiv (c.sentAt - t.arrival) 1000) 0xFFFFFF)))) ∧
  (∀ (s : State) (conn key d : Nat) (b : Bytes) (g : Seg) (f : Forward),
    let q := conn / 16384
    let u := (s.take (.wire conn) 0x1A b).2
    32 ≤ b.length → byteAt b 8 = 0 → (byteAt b 9 = 0x10 ∨ byteAt b 9 = 0x11 ∨ byteAt b 9 = 0x17) →
    u.forwardSeg q (fieldAt b 0 8) = some key → u.segOf q key = some (d, g) →
    g.chain.outstanding.find? (fun f => f.id == fieldAt b 0 8) = some f → f.waiter = none → g.chain.queue = [] → u.unitErrs = [] →
    exec (.response conn b) s = .next (u.updChain q key fun c =>
      { c with outstanding := c.outstanding.filter (fun x => x.id != fieldAt b 0 8), queue := [], succGen := fieldAt b 10 2 }))

/-- R253, R128, R271: when a hold's time or its operation's deadline has come, the hold goes and the operation ends with GAP; when the
deadline of an ATTEND without BY_DEADLINE that is not complete has come, it ends with DEADLINE. -/
def Obligations.DeadlinesEnd : Prop :=
  (∀ (s : State) (q : Fin 4) (id : Nat) (h : Held), ((s.qtr q).store.holds.find? fun h => h.id == id && !h.inStore) = some h →
    ∃ (w : State) (d : Nat), exec (.gapHoldExpiry q id) s = .next (settle (w.finish h.ticket 0x11 d)) ∧
      w.time = max s.time (min (h.since + 200000) (h.arrival + fieldAt h.body 20 3 * 1000)) ∧
      (w.qtr q).store.holds = (s.qtr q).store.holds.filter (fun x => x.id != id) ∧ w.hbm = s.hbm ∧ w.host = s.host ∧
      (w.qtr q).dir = (s.qtr q).dir) ∧
  (∀ (s : State) (id : Nat) (t : Ticket) (r : Request), s.ticket id = some t → t.opcode = 0x15 → t.kind ≠ 3 → s.request id = some r →
    r.assist6 = false → r.byDeadline = false → r.complete = false → (∀ a ∈ s.host.assists, a.purpose ≠ .merge id) →
    ∃ w : State, exec (.requestDeadline id) s = .next (settle (w.closeReq id 0x22 0 [] 0)) ∧
      w.time = max s.time (t.arrival + t.deadline * 1000) ∧ Posts { s with time := w.time } w)

/-! ### Jobs on the cores (ch. 04, 14) -/

/-- R122, R123, R111: the first job in order, ready, with its site chosen and its energy in the bucket and no clamp, starts on the lowest idle
core, and no other core changes; a core with none of its own work left over folds at each clamp point; R118: a saved job that is first goes
on, on the core that holds it.
The order of the dispatcher's actions is the model's reading (assumption 19). -/
def Obligations.JobsStartAndGoOn : Prop :=
  (∀ (s : State) (q : Fin 4) (j0 j : Job) (r : Request) (w : State) (k : Nat), s.firstJob q = some j0 → j0.state = .ready →
    s.request j0.ticket = some r → (if j0.admitted then (some j0, s) else s.resolveSite q r j0) = (some j, w) →
    let v := w.updJob q j.id fun _ => j
    v.pwr.clamp = false → v.fits q j = true → j.site = 1 →
    (v.coresIn q).find? (fun k => (v.core q k).idle) = some k →
    ∃ x : State, exec (.jobAdmit q) s = .next x.checkMisses ∧ (x.core q k).job = some j.id ∧ (x.core q k).mark = none ∧
      (∀ m, m ≠ k → x.core q m = v.core q m) ∧ x.hbm = v.hbm ∧ x.sec = v.sec ∧ (x.qtr q).dove = (v.qtr q).dove) ∧
  (∀ (s : State) (c : Fin 32) (id : Nat) (j j' : Job) (r : Request) (v : State),
    let q := c.val / 8
    let k := c.val % 8
    ((s.core q k).held = true → exec (.coreClampPoint c) s = .next s) ∧
    ((s.core q k).held = false → (s.core q k).job = some id → s.job q id = some j → s.request j.ticket = some r →
      foldStep s q k r j = (some j', v) → exec (.coreClampPoint c) s = .next (v.afterFold q k j j'))) ∧
  (∀ (s : State) (c : Fin 32) (j : Job),
    let q := c.val / 8
    let k := c.val % 8
    s.firstJob q = some j → j.state = .saved → j.core = k →
    ∃ t, exec (.jobResume c j.id) s = .next t ∧ (t.core q k).job = some j.id ∧
      (t.core q k).saved = (s.core q k).saved.filter (fun i => i != j.id) ∧ (∀ m, m ≠ k → t.core q m = s.core q m) ∧
      (∀ i, i ≠ j.id → t.job q i = s.job q i) ∧ t.hbm = s.hbm ∧ t.sec = s.sec)

/-- R117, R119: when a save ends, the saved job stands in one of the core's slots, and the core is free unless a job waits for it. R125, R391:
once every core of a Quarter that is in use holds, the island takes the pending clock and every core goes on. -/
def Obligations.SavesAndClockSwitches : Prop :=
  (∀ (s : State) (c : Fin 32) (id : Nat),
    let q := c.val / 8
    let k := c.val % 8
    (s.core q k).saving = some id → (s.job q id).isSome = true → s.inDispatch q k = true → (s.core q k).nextJob = none →
    ∃ t, exec (.contextSaveDone c) s = .next t ∧
      t.core q k = { s.core q k with saving := none, saved := (s.core q k).saved ++ [id], held := (s.qtr q).core.clockPend.isSome } ∧
      (t.job q id).map (fun j => (j.state, j.core)) = some (.saved, k) ∧ (∀ m, m ≠ k → t.core q m = s.core q m) ∧
      (∀ i, i ≠ id → t.job q i = s.job q i) ∧ t.hbm = s.hbm ∧ t.regs = s.regs ∧ t.host = s.host) ∧
  (∀ (s : State) (q : Fin 4) (p : Nat), (s.qtr q).core.clockPend = some p →
    (∀ k, k < 8 → ((s.core q k).held = true ∨ (s.core q k).online = false ∨ (s.core q k).faulted = true) ∧ (s.core q k).nextJob = none) →
    ∃ t, exec (.clockSwitch q) s = .next t ∧ (t.qtr q).core.clock = p ∧ (t.qtr q).core.clockPend = none ∧
      (∀ k, k < 8 → t.core q k = { s.core q k with held := false }) ∧ (t.qtr q).core.jobs = (s.qtr q).core.jobs ∧
      (∀ i, i ≠ q.val → t.qtr i = s.qtr i) ∧ t.regs = s.regs ∧ t.hbm = s.hbm)

/-! ### Scoring stacks (ch. 05) -/

/-- R142, R144, R145, R147: a scorer that has read all pages of a run writes that run's DONE entry with the folded rows, one that meets a
coded or encrypted page writes REDIRECT, and each goes on to the next run; a sequence whose runs are all done leaves its scorer, and its
notice waits for the issuer's fence or starts one. -/
def Obligations.SequencesRun : Prop :=
  ∀ (s : State) (n : Fin 16) (k : Fin 64) (x : Sequence) (rest : List Sequence),
    let q := n.val / 4
    let ls := n.val % 4
    2 ≤ ls → (s.bank q ls).queueOf k = x :: rest →
    (∀ (j : Job) (r : Request), x.done < x.runs → (s.bank q ls).crossing.contains k.val = false → s.job q x.job = some j →
      s.request j.ticket = some r →
      (∀ bl, s.bankPages q ls x.frame r.shape ((x.firstRun + x.done) % 4 * 8) 8 = .ok bl →
        ∃ t, exec (.scorerRunDone n k false) s = .next t ∧
          (t.bank q ls).entries.look (x.slot x.done) =
            some { tag := x.tag, run := x.firstRun + x.done, status := 0, rows := foldPage r { j with rows := [] } bl } ∧
          (t.bank q ls).queueOf k = { x with done := x.done + 1, bad := false } :: rest ∧ t.hbm = s.hbm ∧ t.sec = s.sec ∧
          (t.qtr q).core = (s.qtr q).core) ∧
      (s.bankPages q ls x.frame r.shape ((x.firstRun + x.done) % 4 * 8) 8 = .error 1 →
        ∃ t, exec (.scorerRunDone n k false) s = .next t ∧
          (t.bank q ls).entries.look (x.slot x.done) = some { tag := x.tag, run := x.firstRun + x.done, status := 1, rows := [] } ∧
          (t.bank q ls).queueOf k = { x with done := x.done + 1, bad := false } :: rest ∧ t.hbm = s.hbm)) ∧
    (x.runs ≤ x.done →
      ∃ t, exec (.sequenceRetire n k) s = .next t ∧ (t.bank q ls).queueOf k = rest ∧
        ((s.bank q ls).issuerFence.isSome = true → (t.bank q ls).notices = (s.bank q ls).notices ++ [{ x with retired := true }]) ∧
        ((s.bank q ls).issuerFence = none → (t.bank q ls).issuerFence.isSome = true ∧ (t.bank q ls).notices = [] ∧
          (t.bank q ls).fenced = (s.bank q ls).notices ++ [{ x with retired := true }]) ∧
        t.hbm = s.hbm ∧ t.regs = s.regs ∧ t.host = s.host ∧ (t.qtr q).core = (s.qtr q).core)

/-- R146: a fence with no sequence before it is done at once; one with sequences waits for them, with DONE_SEQ unchanged; when none of them
is left it is done. -/
def Obligations.FencesWait : Prop :=
  ∀ (s : State) (n : Fin 16) (v : Nat),
    let q := n.val / 4
    let ls := n.val % 4
    2 ≤ ls →
    (s.qOff q = false → v % 65536 ≠ (s.bank q ls).doneSeq →
      ∃ t, exec (.bscFence n v) s = .next t ∧ (t.bank q ls).fenceSeq = v % 65536 ∧
        (((s.bank q ls).seqs.flatMap fun e => e.2) = [] → (t.bank q ls).doneSeq = v % 65536 ∧ (t.bank q ls).fenceWait = none) ∧
        (((s.bank q ls).seqs.flatMap fun e => e.2) ≠ [] → (t.bank q ls).doneSeq = (s.bank q ls).doneSeq ∧
          (t.bank q ls).fenceWait = some ((s.bank q ls).seqs.flatMap fun e => e.2.map fun x => x.tag)) ∧
        (t.bank q ls).seqs = (s.bank q ls).seqs ∧ t.reg bBSC q (if ls = 2 then 4 else 8) = v % 65536 ∧ t.hbm = s.hbm ∧ t.host = s.host) ∧
    (∀ tags, (s.bank q ls).fenceWait = some tags → (s.bank q ls).fenceOver tags = true → (s.bank q ls).issuerFence = none →
      ∃ t, exec (.fenceComplete n) s = .next t ∧ (t.bank q ls).doneSeq = (s.bank q ls).fenceSeq ∧ (t.bank q ls).fenceWait = none ∧
        (t.bank q ls).seqs = (s.bank q ls).seqs ∧ t.hbm = s.hbm ∧ t.regs = s.regs ∧ t.host = s.host)

/-- R151, R154, R156, R157: with work pending, a scorer at work yields once its interval has passed since its last crossing, which is counted,
and its sequence stays; when the window ends it goes on; a refresh taken early abandons the run it was folding, which is folded again with
an interval of 32.
Which accesses a window serves is a free choice (assumption 45). -/
def Obligations.CrossingsAndRefresh : Prop :=
  ∀ (s : State) (n : Fin 16) (k : Fin 64),
    let q := n.val / 4
    let ls := n.val % 4
    2 ≤ ls →
    ((s.bank q ls).work k = true → (s.bank q ls).crossing.contains k.val = false → (s.bank q ls).queueOf k ≠ [] →
      ∃ t, exec (.crossingEnter n k) s = .next t ∧ (t.bank q ls).crossing = (s.bank q ls).crossing ++ [k.val] ∧
        t.time = max s.time ((s.bank q ls).lastXing.fetch k 0 +
          (if 0 < (s.bank q ls).restarts.fetch k 0 then 32 else s.xingInterval q)) ∧
        (t.bank q ls).seqs = (s.bank q ls).seqs ∧ (t.bank q ls).refreshDue.contains k.val = false ∧ t.sec = s.sec) ∧
    ((s.bank q ls).crossing.contains k.val = true →
      ∃ t, exec (.crossingWindowEnd n k) s = .next t ∧ (t.bank q ls).crossing.contains k.val = false ∧
        (t.bank q ls).lastXing.look k = some s.time ∧ (t.bank q ls).seqs = (s.bank q ls).seqs ∧ t.hbm = s.hbm ∧ t.regs = s.regs ∧
        t.host = s.host) ∧
    (∀ x rest, (s.bank q ls).queueOf k = x :: rest → x.done < x.runs → x.bad = false →
      ∃ t, exec (.refreshAbort n k) s = .next t ∧ (t.bank q ls).queueOf k = { x with bad := true } :: rest ∧
        0 < (t.bank q ls).restarts.fetch k 0 ∧ (t.bank q ls).refreshDue.contains k.val = false ∧
        (t.bank q ls).entries = (s.bank q ls).entries ∧ t.hbm = s.hbm ∧ t.sec = s.sec)

/-- R149, R150, Table 5-7: a write of sixteen channel modes, none of which starts a change to MEM: code 3 leaves its channel and sets
BAD_MODE; a channel whose change is pending only remembers the latest code; any other takes its code at once, with the change pending unless it
is from MEM to SHARED. A pending change completes when nothing newer is wanted. -/
def Obligations.ChannelModes : Prop :=
  ∀ (s : State) (n : Fin 16),
    let q := n.val / 4
    let ls := n.val % 4
    let B := s.bank q ls
    2 ≤ ls →
    (∀ (hi : Bool) (v : Word), s.qOff q = false →
      let c := fun (i : Nat) => i + (if hi then 16 else 0)
      let code := fun (i : Nat) => bits v.toNat (2 * i + 1) (2 * i)
      (∀ i, i < 16 → code i = 0 → B.mode.fetch (c i) 0 = 0 ∨ (B.pendFrom.look (c i)).isSome = true) →
      ∃ t, exec (.bscChmode n hi v) s = .next t ∧
        ((t.qtr q).bsc.badMode = true ↔ (s.qtr q).bsc.badMode = true ∨ ∃ i, i < 16 ∧ code i = 3) ∧
        (∀ i, i < 16 → (t.bank q ls).mode.fetch (c i) 0 =
          (if code i = 3 ∨ (B.pendFrom.look (c i)).isSome = true then B.mode.fetch (c i) 0 else code i)) ∧
        (∀ i, i < 16 → code i ≠ 3 → (t.bank q ls).want.look (c i) = some (code i)) ∧
        (∀ i, i < 16 → code i ≠ 3 → B.pendFrom.look (c i) = none → (t.bank q ls).pendFrom.look (c i) =
          (if code i = B.mode.fetch (c i) 0 ∨ (B.mode.fetch (c i) 0 = 0 ∧ code i = 1) then none else some (B.mode.fetch (c i) 0))) ∧
        (t.bank q ls).seqs = B.seqs ∧ t.hbm = s.hbm ∧ t.regs = s.regs ∧ t.host = s.host) ∧
    (∀ c : Fin 32, (B.pendFrom.look c).isSome = true → B.want.fetch c 0 = B.mode.fetch c 0 →
      (B.mode.fetch c 0 = 0 → B.queueOf (2 * c.val) = [] ∧ B.queueOf (2 * c.val + 1) = []) →
      ∃ t, exec (.modeChangeComplete n c) s = .next t ∧ (t.bank q ls).pendFrom.look c = none ∧
        (t.bank q ls).mode.fetch c 0 = B.mode.fetch c 0 ∧ (t.bank q ls).seqs = B.seqs ∧ t.regs = s.regs ∧ t.sec = s.sec)

/-- R159, R160: a change of BIST_SEQ on a channel in MEM with no change pending, while no other test runs, starts the test of its kind; otherwise
it ends REFUSED at once. A test that passes shows PASS; a failed SCORER test shows FAIL and its unit, and bars its channel. -/
def Obligations.BuiltInTests : Prop :=
  (∀ (s : State) (q : Fin 4) (v : Word), s.qOff q = false → bits v.toNat 31 16 ≠ bits (s.reg bBSC q 0x40) 31 16 →
    let ls := 2 + v.toNat % 2
    let c := bits v.toNat 5 1
    let kind := bits v.toNat 7 6
    let free := (s.bank q ls).mode.fetch c 0 = 0 ∧ (s.bank q ls).pendFrom.look c = none ∧ (s.qtr q).bsc.bistRunning = none ∧
      (kind = 1 ∨ kind = 2)
    (free → ∃ t, exec (.bscBistStart q v) s = .next t ∧ (t.qtr q).bsc.bistRunning = some (ls, c, kind, bits v.toNat 31 16) ∧
      (t.qtr q).bsc.bistSeq = (s.qtr q).bsc.bistSeq ∧ t.hbm = s.hbm ∧ t.host = s.host) ∧
    (¬ free → ∃ t, exec (.bscBistStart q v) s = .next t ∧ (t.qtr q).bsc.bistRunning = (s.qtr q).bsc.bistRunning ∧
      (t.qtr q).bsc.bistSeq = bits v.toNat 31 16 ∧ (t.qtr q).bsc.bistResult = 3 ∧ t.stk = s.stk ∧ t.hbm = s.hbm ∧ t.host = s.host)) ∧
  (∀ (s : State) (q : Fin 4) (ls c kind no unit : Nat) (pass : Bool), (s.qtr q).bsc.bistRunning = some (ls, c, kind, no) →
    (pass = true ∨ kind = 1) →
    ∃ t, exec (.bistComplete q pass unit) s = .next t ∧ (t.qtr q).bsc.bistRunning = none ∧ (t.qtr q).bsc.bistSeq = no ∧
      (t.qtr q).bsc.bistResult = (if pass then 1 else 2) ∧ (pass = false → (t.qtr q).bsc.bistUnit = unit % 64) ∧
      (t.bank q ls).chFail.contains c = ((s.bank q ls).chFail.contains c || !pass) ∧ t.hbm = s.hbm ∧ t.regs = s.regs ∧ t.host = s.host)

/-! ### DMA, frames and tickets (ch. 06) -/

/-- R176, R178 to R181: a good COPY, FRAME_SPILL or FRAME_FILL of a Quarter that has power goes to the end of that Quarter's descriptor queue,
a spill with its frame's place and length, a fill with a fresh HBM frame; a reserved field is refused with BAD_DESCRIPTOR. -/
def Obligations.DescriptorsAreQueued : Prop :=
  ∀ (s : State) (h : HostCmd) (q : Fin 4) (b : Bytes), hostCheck s h 0x50 b = none →
    let u := (s.take (.host h) 0x50 b).2
    let d := dmaDesc h b
    (d.op = 0 → dmaReserved b = true → ∃ t, exec (.dmaCopy h q b) s = .next t ∧ Answered u h 0xF0 0 t) ∧
    (dmaReserved b = false → s.qOff q = false →
      (d.op = 0 → copyBad d = false →
        ¬ (s.sec.conf = true ∧ d.srcKind = 0 ∧ frameChunks (d.src / 2 ^ 36 % 4) * 67108864 < d.src % 2 ^ 36 + d.length) →
        exec (.dmaCopy h q b) s = .next (u.queueDma q d)) ∧
      (∀ e g fr sh, d.op = 1 → moveBad d = false → s.moveCheck q d true = none → s.dmaFrame q d = some (e, g, fr, sh) →
        exec (.frameSpill h q b) s = .next (u.queueDma q { d with length := sh.frame, newStack := fr.stack, newAddr := fr.addr })) ∧
      (∀ e g fr sh ls a A, d.op = 2 → moveBad d = false →
        let v := u.applyAt bPST q 4
        v.qOff q = false → v.moveCheck q d false = none → v.dmaFrame q d = some (e, g, fr, sh) →
        takeFrame (v.qtr q).store.allocs ((stackOrder d.place d.frame (bit (v.reg bPST q 4) 4)).filter (v.stackEligible q)) sh.frame =
          some (ls, a, A) →
        exec (.frameFill h q b) s = .next ((v.updStore q fun S => { S with allocs := A }).queueDma q
          { d with length := sh.frame, newStack := ls, newAddr := a, spillOff := fr.addr / 256 })))

/-- R179, R180, R182, R183: an idle engine takes the oldest descriptor it may take; a host-to-host COPY that meets no fault moves its bytes in
full, frees the engine and completes OK; a fault stops a running engine at its offset with its record, FAULTED; RESUME with its TAG sets it
running from there, and another TAG is a CONFLICT; ABORT frees it, completes its descriptor with the status of the fault's class, and then
itself with OK.
When a descriptor is checked and gives its result is the model's reading (assumption 40). -/
def Obligations.EnginesMoveAndStop : Prop :=
  ∀ (s : State) (q e : Fin 4) (d : Dma),
    ((s.eng q e).state = .idle → s.qOff q = false → (s.qtr q).store.dmaQueue.find? (fun d => e < 3 || d.own) = some d → d.op = 0 →
      ∃ t, exec (.dmaEngineStart q e) s = .next t ∧ (t.eng q e).state = .running ∧ (t.eng q e).desc = some d ∧ (t.eng q e).done = 0 ∧
        (t.qtr q).store.dmaQueue = dropFirst (fun x => x == d) (s.qtr q).store.dmaQueue ∧
        (∀ i, i ≠ e.val → t.eng q i = s.eng q i) ∧ t.hbm = s.hbm ∧ t.host = s.host) ∧
    (∀ h, (s.eng q e).state = .running → (s.eng q e).desc = some d → d.user = .host h → d.op = 0 → d.srcKind = 1 → d.dstKind = 1 →
      s.unitErrs = [] → (s.eng q e).done < d.length →
      let n := d.length - (s.eng q e).done
      let at_ := (s.eng q e).done
      ∃ t u, exec (.dmaTransferEnd q e) s = .next t ∧ (t.eng q e).state = .idle ∧ (t.eng q e).desc = none ∧
        u.hostMem d.dstFn = Mem.paste (s.hostMem d.dstFn) (d.dst + at_) n (Mem.slice (s.hostMem d.srcFn) (d.src + at_) n) ∧
        (∀ f, f ≠ d.dstFn → u.hostMem f = s.hostMem f) ∧ u.hbm = s.hbm ∧ Answered u h 0 0 t) ∧
    (∀ (cls off addr : Nat) (dst : Bool), (s.eng q e).state = .running → (s.eng q e).desc = some d → s.unitErrs = [] → 0 < cls → cls < 6 →
      (s.eng q e).done ≤ off → off < d.bytes → s.anyStop q d (s.eng q e).done = none → d.autoResume = false →
      ∃ t, exec (.dmaFault q e cls off dst addr) s = .next t ∧
        t.eng q e = { state := .faulted, desc := some d, done := off, faultOffset := off, cls := cls, dstSide := dst, tag := d.tag, addr := addr } ∧
        (∀ i, i ≠ e.val → t.eng q i = s.eng q i)) ∧
    (∀ (h : HostCmd) (tag : Nat), hostCheck s h 0x48 (engParam e tag) = none → s.qOff q = false →
      let u := (s.take (.host h) 0x48 (engParam e tag)).2
      (((s.eng q e).state ≠ .faulted ∨ (s.eng q e).tag ≠ tag) →
        ∃ t, exec (.dmaResume h q e tag) s = .next t ∧ Answered u h 0x12 0 t) ∧
      ((s.eng q e).state = .faulted → (s.eng q e).tag = tag →
        ∃ t v, exec (.dmaResume h q e tag) s = .next t ∧ Answered v h 0 0 t ∧ v.host.mem = s.host.mem ∧
          t.eng q e = { s.eng q e with state := .running } ∧ (∀ i, i ≠ e.val → t.eng q i = s.eng q i))) ∧
    (∀ (h h' : HostCmd) (tag : Nat), hostCheck s h 0x49 (engParam e tag) = none → s.qOff q = false → (s.eng q e).state = .faulted →
      (s.eng q e).tag = tag → (s.eng q e).desc = some d → d.user = .host h' → d.op = 0 → s.unitErrs = [] →
      ∃ t v w, exec (.dmaAbort h q e tag) s = .next t ∧ Answered w h' (clsStatus (s.eng q e).cls) 0 v ∧ Answered v h 0 0 t ∧
        w.host.mem = s.host.mem ∧ (t.eng q e).state = .idle ∧ (t.eng q e).desc = none ∧ (∀ i, i ≠ e.val → t.eng q i = s.eng q i))

/-- R167, R173, R184, R185, Table 6-16: a releasable frame that nothing names is zeroed and returns to its free list; HSM WRITE puts the data
words into the entry that ENTRY names and READ loads it back; when a NOT_READY condition has ended, an engine that waited for it and meets
no fault runs on. -/
def Obligations.FramesAndSpillMap : Prop :=
  (∀ (s : State) (n : Fin 16) (addr : Nat) (r : Release),
    let q := n.val / 4
    let ls := n.val % 4
    (s.qtr q).store.releases.find? (fun r => r.stack == ls && r.addr == addr) = some r → s.frameNamed q ls addr r.size = false →
    ((s.qtr q).pcd.coders.any fun c => c.2.key == some r.key && c.2.holding) = false →
    ∃ t, exec (.frameScrubDone n addr) s = .next t ∧ t.hbm = Mem.clear s.hbm (hbmAddr q ls addr) r.size ∧
      (t.qtr q).store.releases = (s.qtr q).store.releases.filter (fun x => !(x.stack == ls && x.addr == addr)) ∧
      ((t.qtr q).store.allocs.fetch ls {}).used.look addr = none ∧ (t.qtr q).store.segs = (s.qtr q).store.segs ∧ t.sec = s.sec) ∧
  (∀ (s : State) (q : Fin 4), s.qOff q = false →
    let i := s.reg bPST q 0x200 % 32768
    (∃ t, exec (.hsmWrite q) s = .next t ∧
      (t.qtr q).store.hsm.fetch i 0 = BitVec.ofNat 64 (s.reg bPST q 0x204 + s.reg bPST q 0x208 * 2 ^ 32) ∧
      (∀ j, j ≠ i → (t.qtr q).store.hsm.fetch j 0 = (s.qtr q).store.hsm.fetch j 0) ∧ t.regs = s.regs ∧ t.hbm = s.hbm) ∧
    (∃ t, exec (.hsmRead q) s = .next t ∧
      t.reg bPST q 0x204 + t.reg bPST q 0x208 * 2 ^ 32 = ((s.qtr q).store.hsm.fetch i 0).toNat ∧ t.quarters = s.quarters ∧ t.hbm = s.hbm)) ∧
  (∀ (s : State) (q e : Fin 4) (d : Dma), s.unitErrs = [] → (s.eng q e).state = .waitReady → (s.eng q e).desc = some d →
    s.anyStop q d (s.eng q e).done = none → (∀ i : Fin 4, i ≠ e → (s.eng q i).state ≠ .waitReady) →
    (∀ c ∈ (s.qtr q).store.cache, c.kind ≠ .writeback) → (∀ h ∈ (s.qtr q).store.holds, h.inStore = false) →
    ∃ t, exec (.notReadyEnd q) s = .next t ∧ t.eng q e = { s.eng q e with state := .running } ∧
      (∀ i : Fin 4, i ≠ e → t.eng q i = s.eng q i) ∧ t.hbm = s.hbm ∧ (t.qtr q).dir = (s.qtr q).dir)

/-- R187 to R190: a spilled ticket that an event touches is handed to the on-chip pool with the next epoch, and its spill record only says so;
while the on-chip pool is above its level its least recently touched ticket is handed to the spill pool; when the on-chip pool fails, a ticket
that the spill pool owns goes on, and one with no readable record is an orphan.
What is lost with a pool is the model's reading (assumption 44). -/
def Obligations.TicketsMoveAndFail : Prop :=
  (∀ (s : State) (q : Fin 4) (id : Nat) (t0 : Ticket),
    let T := (s.qtr q).tk
    let k := tkSlot id
    T.inUse.contains k = true →
    (T.onChip.look k = none → T.spill.look k = some t0 → t0.moved = false → T.onChip.length < 16384 →
      ∃ t, exec (.ticketHandoff q id false) s = .next t ∧
        (t.qtr q).tk.onChip.look k = some { t0 with epoch := (t0.epoch + 1) % 65536, ownerSpill := false } ∧
        (t.qtr q).tk.spill.look k = some { t0 with epoch := (t0.epoch + 1) % 65536, ownerSpill := false, moved := true } ∧
        (t.qtr q).tk.inUse = T.inUse ∧ (t.qtr q).store = (s.qtr q).store ∧ t.hbm = s.hbm) ∧
    (T.onChip.look k = some t0 → T.spilling = true → T.touched.find? (fun x => (T.onChip.look x).isSome) = some k →
      ∃ t, exec (.ticketHandoff q id true) s = .next t ∧ (t.qtr q).tk.onChip.look k = none ∧
        (t.qtr q).tk.spill.look k = some { t0 with epoch := (t0.epoch + 1) % 65536, ownerSpill := true } ∧
        (t.qtr q).tk.inUse = T.inUse ∧ (t.qtr q).store = (s.qtr q).store ∧ t.hbm = s.hbm)) ∧
  (∀ (s : State) (q : Fin 4) (k : Nat), s.qOff q = false → s.unitErrs = [] → (s.qtr q).tk.inUse.contains k = true →
    (∀ i : Fin 4, (s.qtr i).store.cache = []) →
    (∀ b, (s.qtr q).tk.spill.look k = some b → b.owns true = true →
      ∃ t, exec (.poolFailure q true [k] [] []) s = .next t ∧ (t.qtr q).tk.onChip.look k = none ∧ (t.qtr q).tk.spill.look k = some b ∧
        (t.qtr q).tk.orphans = (s.qtr q).tk.orphans) ∧
    ((s.qtr q).tk.spill.look k = none →
      ∃ t, exec (.poolFailure q true [k] [] []) s = .next t ∧ (t.qtr q).tk.onChip.look k = none ∧ k ∈ (t.qtr q).tk.orphans))

/-! ### Coding tables, coders and the recode sweep (ch. 07) -/

/-- R196 to R198: a good LOAD of a table that no named Quarter holds takes a slot of each, LOADING, and completes later; a table block that
breaks its layout is refused with BAD_DESCRIPTOR; when every named Quarter has taken the table it is LOADED, current alone for its role if
the command asked for that, and the command completes OK; RELEASE frees a table that no unit names and leaves one that some queued unit
names RELEASING, current no more. -/
def Obligations.TablesLoadAndRelease : Prop :=
  (∀ (s : State) (h : HostCmd) (b : Bytes), hostCheck s h 0x44 b = none →
    let u := (s.take (.host h) 0x44 b).2
    let id := byteAt b 0
    let named := maskQuarters (byteAt b 2)
    (byteAt b 1 % 4 ≠ 1 → tableBad b = true → ∃ t, exec (.tableLoad h b) s = .next t ∧ Answered u h 0xF0 0 t) ∧
    (byteAt b 1 % 4 = 1 → tableBad b = true → ∃ t, exec (.tableRelease h b) s = .next t ∧ Answered u h 0xF0 0 t) ∧
    (byteAt b 1 % 4 ≠ 1 → tableBad b = false → named.any s.qOff = false →
      (∀ q ∈ named, s.slotOf q id = none ∧ (s.qtr q).pcd.slots.length < 16) →
      ∃ (t : State) (l : TableLoad), exec (.tableLoad h b) s = .next t ∧ t.loads = s.loads ++ [l] ∧ l.host = h ∧ l.tableId = id ∧
        l.quarters = named ∧ l.makeCurrent = bit (byteAt b 1) 4 ∧
        (∀ q ∈ named, ∃ x, t.slotOf q id = some x ∧
          x.2 = { id := id, tag := crc32c ((b.drop 8).take 128) % 256, state := .loading, role := bits (byteAt b 1) 3 2, current := false
                  lengths := tableLengths ((b.drop 8).take 128), load := l.id }) ∧
        (∀ q, q ∉ named → t.qtr q = s.qtr q) ∧ t.host = u.host ∧ t.sec = s.sec ∧ t.hbm = s.hbm ∧ t.regs = s.regs) ∧
    (byteAt b 1 % 4 = 1 → tableBad b = false → named.any s.qOff = false →
      ∃ t v, exec (.tableRelease h b) s = .next t ∧ Answered v h 0 0 t ∧ v.host = u.host ∧ v.sec = s.sec ∧ v.hbm = s.hbm ∧
        (∀ q, q ∉ named → t.qtr q = s.qtr q) ∧
        ∀ q ∈ named,
          (∀ e ∈ (s.qtr q).pcd.slots, e.2.id ≠ id → e.2.state ≠ .releasing → e ∈ (t.qtr q).pcd.slots) ∧
          (∀ e ∈ (t.qtr q).pcd.slots, e.2.id = id → e.2.state ≠ .loaded) ∧
          ((s.qtr q).pcd.using id = 0 → ∀ e ∈ (t.qtr q).pcd.slots, e.2.id = id → e.2.state ≠ .releasing) ∧
          ((s.qtr q).pcd.using id ≠ 0 → ∀ e ∈ (s.qtr q).pcd.slots, e.2.id = id → e.2.state = .loaded →
            (e.1, { e.2 with state := .releasing, current := false }) ∈ (t.qtr q).pcd.slots))) ∧
  (∀ (s : State) (id : Nat) (l : TableLoad), s.loads.find? (fun l => l.id == id) = some l →
    ∃ t v, exec (.tableLoadComplete id) s = .next t ∧ Answered v l.host 0 0 t ∧ v.host = s.host ∧ t.sec = s.sec ∧ t.hbm = s.hbm ∧
      t.loads = s.loads.filter (fun x => x.id != id) ∧ (∀ q, q ∉ l.quarters → t.qtr q = s.qtr q) ∧
      ∀ q ∈ l.quarters, ∀ x, s.slotOf q l.tableId = some x → x.2.state = .loading → x.2.load = id →
        ∃ y, t.slotOf q l.tableId = some y ∧ y.2.state = .loaded ∧ y.2.lengths = x.2.lengths ∧ y.2.role = x.2.role ∧
          (l.makeCurrent = true → y.2.current = true ∧
            ∀ e ∈ (t.qtr q).pcd.slots, e.2.role = x.2.role → e.2.current = true → e.2.id = l.tableId))

/-- R199 to R201: an idle coder takes the oldest segment that it may start and holds its first page, when that page is plain and readable
and its units do not grow, as the units of the current tables of K and of V; it commits the page that it holds by rewriting
the slot with the units and the payload's rest, and no other byte, when the page's header has not changed and no table of it is RELEASING;
after a mismatch it writes nothing, counts it and posts the event.
R203, Table 7-9: a write of PCD_RECODE that changes RECODE_SEQ starts a sweep of the Quarter's segments for the table it names, with
SKIPPED zero; with the table number 0 the sweep ends at once; while one runs the write is dropped and counted; a sweep with every segment
visited and no coder on it ends, and shows its number.
The counters and conditions that the rules leave are read as assumption 46 says. -/
def Obligations.CodersAndSweeps : Prop :=
  (∀ (s : State) (q : Fin 4) (c : Fin 2), s.qOff q = false → s.assisted 3 = false →
     (let w := s.applyAt bPCD q 0
      ∀ (k : Nat) (e : DirEntry) (g : Seg) (sh : Shape) (fr : FrameRef) (b pay : Bytes),
       (s.coder q c).key = none → (s.coder q c).sweep = false → w.assisted 3 = false → (w.qtr q).pcd.sweepRun = none →
       bit (w.reg bPCD q 0) 0 = true → w.startable q = some k → w.codeSeg q k false = some (e, g, sh) → g.frames[0]? = some fr →
       w.frameLeft q fr false = false → bit fr.damaged 0 = false → w.inWriteback q k 0 0 = false → w.slotStored q k fr 0 sh = .ok b →
       w.eccIn q fr.stack (fr.addr + 0 * sh.slot) sh.slot = false → (PageHdr.ofBytes b).damaged = false → (PageHdr.ofBytes b).tokens ≠ 0 →
       (PageHdr.ofBytes b).coded = false → w.openPlain k 0 0 sh b = some pay →
       let ku := encodeUnit (w.currentTable q (kRole sh)) (pay.take sh.kb)
       let vu := encodeUnit (w.currentTable q (vRole sh)) ((pay.drop sh.kb).take sh.vb)
       ku.1.length + vu.1.length ≤ sh.kb + sh.vb →
       ∃ t, exec (.coderStart q c) s = .next t ∧ (t.coder q c).key = some k ∧ (t.coder q c).holding = true ∧
         (t.coder q c).frame = 0 ∧ (t.coder q c).page = 0 ∧ (t.coder q c).header = b.take 64 ∧
         (t.coder q c).units = ku.1 ++ vu.1 ∧ (t.coder q c).kLen = ku.1.length ∧ t.hbm = s.hbm ∧ t.host = s.host) ∧
     (∀ (k : Nat) (e : DirEntry) (g : Seg) (sh : Shape) (fr : FrameRef) (b pay : Bytes),
       let C := s.coder q c
       let at_ := fr.addr + C.page * sh.slot
       C.key = some k → C.holding = true → C.asked = false → C.coded = true → C.sweep = false →
       s.codeSeg q k false = some (e, g, sh) → g.frames[C.frame]? = some fr → fr.spilled = false → fr.stack < 2 →
       s.slotStored q k fr C.page sh = .ok b → b.take 64 = C.header → s.openPlain k C.frame C.page sh b = some pay →
       let head : PageHdr :=
         { tokens := (PageHdr.ofBytes b).tokens, coded := true, kLen := C.kLen, vLen := C.units.length - C.kLen }
       let rest := C.units ++ List.replicate (sh.kb + sh.vb - C.units.length) 0 ++ pay.drop (sh.kb + sh.vb)
       (s.tablesGoing q C = false → ∃ u : State,
         exec (.coderPageCommit q c false) s = .next (((u.count bPCD q 0).count bPCD q 2 (2 - C.tables.length)).dropPage q c false) ∧
         u = { s with hbm := Mem.paste s.hbm (hbmAddr q fr.stack at_) sh.slot (memOf (s.storedSlot k e.gen C.frame C.page sh head rest)) }) ∧
       exec (.coderPageCommit q c true) s = .next ((((s.count bPCD q 3).count bPCD q 1).postFor (keyTenant k) 0
         { segEv k 2 0 with quarter := q }).dropPage q c false))) ∧
  (∀ (s : State) (q : Fin 4),
     (∀ value : Word, s.qOff q = false →
       let seqNo := bits value.toNat 31 16
       let id := value.toNat % 256
       bits (s.reg bPCD q 0x10) 31 16 ≠ seqNo →
       (∀ r, (s.qtr q).pcd.sweepRun = some r → exec (.recodeSweepStart q value) s = .next (s.count bPCD q 11)) ∧
       ((s.qtr q).pcd.sweepRun = none → ∃ t, exec (.recodeSweepStart q value) s = .next t ∧
         bits (t.reg bPCD q 0x10) 31 16 = seqNo ∧ t.reg bPCD q 0x10 % 256 = id ∧ (t.qtr q).pcd.skipped = 0 ∧
         (id = 0 → (t.qtr q).pcd.sweepRun = none ∧ (t.qtr q).pcd.sweepDone = seqNo) ∧
         (id ≠ 0 → (t.qtr q).pcd.sweepRun = some (seqNo, id) ∧ (t.qtr q).pcd.sweepKeys = s.sweepList q ∧
           (t.qtr q).pcd.sweepDone = (s.qtr q).pcd.sweepDone) ∧
         (t.qtr q).pcd.slots = (s.qtr q).pcd.slots ∧ (t.qtr q).pcd.coders = (s.qtr q).pcd.coders ∧ t.hbm = s.hbm ∧ t.host = s.host)) ∧
     (∀ r, (s.qtr q).pcd.sweepRun = some r → (s.qtr q).pcd.sweepKeys = [] → ((s.qtr q).pcd.coders.any fun e => e.2.sweep) = false →
       exec (.recodeSweepEnd q) s =
         .next (s.updPcd q fun P => { P with sweepDone := r.1, sweepRun := none, sweepKeys := [] })))

/-! ### Frames, connections and packets (ch. 08) -/

/-- R285, Table 10-2, R222, Table 8-7: a frame at a port that is up is counted; one that a check of the port or of Table 8-7 discards is
counted by that check and does nothing else; a PFC frame pauses classes; a policed packet of an OPEN connection is counted and charged to it, and
gives no notice within 64 µs of the last. -/
def Obligations.FramesAreChecked : Prop :=
  ∀ (s : State) (p : Fin 4) (f : RxFrame), ((s.qtr p).port.linkUp || bit (s.reg bPORT p 4) 13) = true → s.qOff p = false → s.unitErrs = [] →
    let v := (s.advance f.at_).count bPORT p 0
    let h := Hdr.ofBytes f.header
    let i := h.dstConn % 65536
    let r := police (applyPacket v p 0x600 h.tenant) p h.tenant f.len
    (∀ n, v.portDrop p f = some n → exec (.frameReceive p f) s = .next (v.count bPORT p n)) ∧
    (∀ en ts, v.portDrop p f = none → f.etherOuter = 0x8808 → f.pause = some (en, ts) →
      exec (.frameReceive p f) s = .next (pfcReceive v p en ts)) ∧
    (v.portDrop p f = none → f.etherOuter ≠ 0x8808 →
      (∀ n, v.epcenDrop p f = some n → exec (.frameReceive p f) s = .next (v.count bXPT p n)) ∧
      (v.epcenDrop p f = none → r.1 = false → h.opcode ≥ 0x10 → (s.conn i).state = .opened →
        (s.conn i).incarn % 256 = h.dstConn / 65536 → (s.conn i).tenant = h.tenant →
        (∃ n, (s.conn i).noticeAt = some n ∧ s.time < n + 64000 ∧ f.at_ < n + 64000) →
        exec (.frameReceive p f) s = .next (((r.2.count bPORT p 8).bumpOff bPORT p (0x5000 + 8 * h.tenant) 1).updConn i
          fun c => { c with drops := c.drops + 1 })))

/-- R215, R216, R226 to R228: a packet that has passed its checks and stands next in PSN order extends its connection's message, and the last
one hands the message to its operation; one that is newer waits, held; a duplicate, and a packet beyond the window, hand on nothing and
leave the PSN that is expected. -/
def Obligations.PacketsArriveInOrder : Prop :=
  ∀ (s u : State) (p : Fin 4) (f : RxFrame) (i : Nat),
    let h := Hdr.ofBytes f.header
    let c := s.conn i
    Arrives s p f u → Names s h i → s.unitErrs = [] → c.state = .opened → h.prot = false → c.prot = false → 0x10 ≤ h.opcode →
    h.ackValid = false → (isPeer c.remoteNode = false ∨ f.srcAddr = s.derivedAddr c.remoteNode c.remotePort) →
    let d := serialDiff 16777216 h.psn c.ePsn
    (h.psn = c.ePsn → c.heldRx = [] → c.rxBad = false → h.msn = c.msnRx → h.idx = c.idxRx → h.idx < 65536 → (c.idxRx = 0 → c.rxPart = []) →
      (c.idxRx ≠ 0 → h.opcode = c.rxOpcode) →
      let body := c.rxPart ++ f.payload
      let home := if hasKey h.opcode && body.length ≥ 17 then homeQ (bodyKey body) else i / 16384
      (h.last = true → h.opcode < 0x1C → 8 ≤ body.length → s.qOff home = false →
        ∃ t, exec (.frameReceive p f) s = .next t ∧
          t.inbox = s.inbox ++ [{ origin := .wire i, opcode := h.opcode, body := body
                                  arrival := if c.idxRx = 0 then f.at_ else c.rxArrival }] ∧
          (t.conn i).ePsn = (c.ePsn + 1) % 16777216 ∧ (t.conn i).msnRx = (c.msnRx + 1) % 65536 ∧ (t.conn i).idxRx = 0 ∧
          (t.conn i).rxPart = [] ∧ (t.conn i).state = .opened ∧ (∀ j, j ≠ i → t.conn j = s.conn j) ∧ t.hbm = s.hbm ∧ t.sec = s.sec) ∧
      (h.last = false → f.payload.length = 4096 →
        ∃ t, exec (.frameReceive p f) s = .next t ∧ t.inbox = s.inbox ∧ (t.conn i).ePsn = (c.ePsn + 1) % 16777216 ∧
          (t.conn i).rxPart = body ∧ (t.conn i).idxRx = c.idxRx + 1 ∧ (t.conn i).msnRx = c.msnRx ∧
          (∀ j, j ≠ i → t.conn j = s.conn j) ∧ t.hbm = s.hbm ∧ t.sec = s.sec)) ∧
    (0 < d → d < 64 → (c.heldRx.any fun x => x.psn == h.psn) = false →
      ∃ t, exec (.frameReceive p f) s = .next t ∧ t.inbox = s.inbox ∧ (t.conn i).ePsn = c.ePsn ∧
        (t.conn i).heldRx = c.heldRx ++ [{ psn := h.psn, opcode := h.opcode, msn := h.msn, idx := h.idx, last := h.last
                                           payload := f.payload, ce := f.ce, arrival := f.at_ }] ∧ t.hbm = s.hbm) ∧
    (8388608 ≤ d ∨ (c.heldRx.any fun x => x.psn == h.psn) = true ∨ 64 ≤ d →
      ∃ t, exec (.frameReceive p f) s = .next t ∧ t.inbox = s.inbox ∧ (t.conn i).ePsn = c.ePsn ∧ (t.conn i).heldRx = c.heldRx ∧
        (t.conn i).rxPart = c.rxPart ∧ t.hbm = s.hbm)

/-- R224, R225: an OPEN without protection that every check allows makes the lowest FREE index a connection in OPEN; an OPEN for a tenant
that is not ACTIVE is answered with a RESET; an ACCEPT opens a connection in OPENING, a protected one when the agreement gives a secret (assumption 22); a CLOSE of an OPEN connection with nothing
outstanding frees it, its INCARN one more; a RESET that matches takes it to ERROR. -/
def Obligations.HellosOpenAndClose : Prop :=
  ∀ (s u : State) (p : Fin 4) (f : RxFrame) (i : Nat),
    let h := Hdr.ofBytes f.header
    let c := s.conn i
    Arrives s p f u → s.unitErrs = [] → h.opcode = 1 → helloBad h f.payload = false → f.ce = false →
    (isHello f 0 = true → bit (byteAt f.payload 0) 2 = false →
      ((s.qtr p).xpt.conns.find? fun e =>
        (e.2.state == .opened || e.2.state == .error || e.2.state == .closing) && e.2.peerOpener &&
          e.2.remoteAddr == f.srcAddr && e.2.remoteConn == h.srcConn && e.2.tenant == h.tenant) = none →
      ((s.tenant h.tenant).state ≠ .active →
        exec (.helloOpen p f) s = .next ((u.count bXPT p 0).sendReset p f.srcAddr h 0x30)) ∧
      ((s.tenant h.tenant).state = .active → (s.tenant h.tenant).wireProt = false → s.sec.conf = false →
        s.connsOf h.tenant < (s.tenant h.tenant).connMax → s.freeConnIdx p = some i →
        ∃ t, exec (.helloOpen p f) s = .next t ∧ (t.conn i).state = .opened ∧ (t.conn i).opener = false ∧
          (t.conn i).remoteConn = h.srcConn ∧ (t.conn i).remoteAddr = f.srcAddr ∧ (t.conn i).tenant = h.tenant ∧ (t.conn i).tc = h.tc ∧
          (t.conn i).prot = false ∧ (t.conn i).ePsn = fieldAt f.payload 4 3 ∧ (t.conn i).incarn = c.incarn ∧
          (∀ j, j ≠ i → t.conn j = s.conn j) ∧ t.inbox = s.inbox ∧ t.hbm = s.hbm)) ∧
    (Names s h i → isHello f 1 = true → c.state = .opening →
      (isPeer c.remoteNode = false ∨ f.srcAddr = s.derivedAddr c.remoteNode c.remotePort) →
      (c.prot = false → ∃ t, exec (.helloAccept p f) s = .next t ∧ (t.conn i).state = .opened ∧ (t.conn i).remoteConn = h.srcConn ∧
        (t.conn i).ePsn = fieldAt f.payload 4 3 ∧ (t.conn i).ctlTimerAt = none ∧ (t.conn i).queue = c.queue ∧
        (∀ j, j ≠ i → t.conn j = s.conn j) ∧ t.inbox = s.inbox ∧ t.hbm = s.hbm) ∧
      (c.prot = true → ∃ t, exec (.helloAccept p f) s = .next t ∧
        match Config.sm2Agree (s.tenant c.tenant).anchor f.payload with
        | some k => (t.conn i).state = .opened ∧ (t.conn i).keys.secret = k
        | none => (t.conn i).state = .opening)) ∧
    (Names s h i → isHello f 2 = true → c.state = .opened → c.flight = [] → c.queue = [] →
      (isPeer c.remoteNode = false ∨ f.srcAddr = s.derivedAddr c.remoteNode c.remotePort) →
      ∃ t, exec (.helloClose p f) s = .next t ∧ t.conn i = { incarn := (c.incarn + 1) % 256 } ∧ (∀ j, j ≠ i → t.conn j = s.conn j) ∧
        t.inbox = s.inbox ∧ t.hbm = s.hbm) ∧
    (Names s h i → isHello f 3 = true → c.state = .opened → h.srcConn = c.remoteConn →
      (isPeer c.remoteNode = false ∨ f.srcAddr = s.derivedAddr c.remoteNode c.remotePort) →
      ∃ v : State, exec (.helloReset p f) s = .next (settle v) ∧ (v.conn i).state = .error ∧ (v.conn i).flight = [] ∧ (v.conn i).queue = [] ∧
        v.unitErrs = (c.owners.map fun o => (o, sCONNERR)) ++ [(MsgOwner.conn i c.remoteNode c.tenant, sCONNERR)] ∧
        (∀ j, j ≠ i → v.conn j = s.conn j) ∧ v.hbm = s.hbm)

/-- R230 to R235: an ACK drops the copies that it acknowledges and clears the retry count, and one with ECE shrinks the window once; a
CTX_BUSY puts its packet's resend off by the time it names, with no retry counted and the window as it was, the 64th in a row is an expiry, and
an OUT_OF_WINDOW changes nothing; a packet leaves in order while the PSN window, cwnd and the buffer allow it and
else waits; an expiry doubles RTO, takes the window to one packet and resends the oldest, and the eighth is an error of the connection. -/
def Obligations.AcksAndResends : Prop :=
  ∀ (s : State) (i : Nat),
    let q := i / 16384
    let c := s.conn i
    s.qOff q = false → s.unitErrs = [] → c.state = .opened →
    (∀ at_ a : Nat, a < 16777216 →
      let adv := serialDiff 16777216 a c.ackPsn
      0 < adv → adv ≤ serialDiff 16777216 c.nextPsn c.ackPsn →
      (∀ ece, ∃ t, exec (.ack i at_ a ece 0) s = .next t ∧ (t.conn i).ackPsn = a ∧ (t.conn i).retries = 0 ∧
        (t.conn i).flight.map (·.psn) = (c.flight.filter fun x => !psnNewer a x.psn).map (·.psn) ∧ (t.conn i).state = .opened ∧
        (t.conn i).queue = c.queue ∧ (∀ j, j ≠ i → t.conn j = s.conn j) ∧ t.inbox = s.inbox ∧ t.hbm = s.hbm) ∧
      (s.assisted 5 = false → c.decTime = none →
        ∃ t, exec (.ack i at_ a true 0) s = .next t ∧
          (t.conn i).cwnd = max cwndFloor (min c.cwnd (s.cwndMax q) - min c.cwnd (s.cwndMax q) / 2 ^ s.mdShift q))) ∧
    (∀ (at_ : Nat) (b : Bytes), b.length = 12 → byteAt b 1 = 0 → byteAt b 7 = 0 → zeroRange b 8 12 = true →
      (byteAt b 0 = sWINDOW → exec (.nak i at_ b) s = .next (s.advance at_)) ∧
      (∀ x, byteAt b 0 = sCTXBUSY → (c.flight.find? fun y => y.psn == fieldAt b 4 3 && !y.sacked) = some x → x.busy + 1 < 64 →
        exec (.nak i at_ b) s = .next ((s.advance at_).updConn i fun c => { c with
          flight := c.flight.map fun y => if y.psn = fieldAt b 4 3 then
            { y with busy := x.busy + 1, retryAt := some (max s.time at_ + fieldAt b 2 2 * 1000) } else y })) ∧
      (∀ x, byteAt b 0 = sCTXBUSY → (c.flight.find? fun y => y.psn == fieldAt b 4 3 && !y.sacked) = some x → x.busy + 1 = 64 →
        (c.retries < 7 → ∃ t, exec (.nak i at_ b) s = .next t ∧ (t.conn i).rto = min (2 * c.rto) (s.rtoMax q * 1000) ∧
          (t.conn i).retries = c.retries + 1 ∧ (t.conn i).cwnd = cwndFloor ∧
          (t.conn i).timerAt = some (max s.time at_ + min (2 * c.rto) (s.rtoMax q * 1000)) ∧
          (t.conn i).flight.map (·.psn) = c.flight.map (·.psn) ∧ (∀ j, j ≠ i → t.conn j = s.conn j) ∧ t.inbox = s.inbox ∧ t.hbm = s.hbm) ∧
        (7 ≤ c.retries → ∃ v : State, exec (.nak i at_ b) s = .next (settle v) ∧ (v.conn i).state = .error ∧ (v.conn i).flight = []))) ∧
    (∀ (at_ : Nat) (b : Bytes), b.length ≠ 12 → exec (.nak i at_ b) s = .next ((s.advance at_).count bXPT q 17)) ∧
    (∀ (at_ : Nat) (m : OutMsg) (rest : List OutMsg), c.queue = m :: rest →
      ((s.qtr q).xpt.ctx.look (i % 16384)).map (·.fetching) = some false →
      let pay := (m.body.drop (c.sentOfHead * 4096)).take 4096
      let last : Bool := decide (m.body.length ≤ (c.sentOfHead + 1) * 4096)
      (c.outstanding + pay.length + 64 > c.cwnd → exec (.packetSend i at_) s = .next (s.advance at_)) ∧
      (serialDiff 16777216 c.nextPsn c.ackPsn ≤ 63 → c.outstanding + pay.length + 64 ≤ c.cwnd →
        s.rtxBytes q + pay.length + 64 ≤ 8388608 →
        ∃ (t : State) (x : TxPkt), exec (.packetSend i at_) s = .next t ∧ (t.conn i).flight = c.flight ++ [x] ∧ x.psn = c.nextPsn ∧
          x.opcode = m.opcode ∧ x.msn = c.msnTx % 65536 ∧ x.idx = c.sentOfHead ∧ x.last = last ∧ x.payload = pay ∧ x.sentAt = max s.time at_ ∧
          (t.conn i).nextPsn = (c.nextPsn + 1) % 16777216 ∧ (t.conn i).queue = (if last then rest else m :: rest) ∧
          (t.conn i).timerAt = some (match c.timerAt with | some y => y | none => max s.time at_ + c.rto) ∧
          (∀ j, j ≠ i → t.conn j = s.conn j) ∧ t.inbox = s.inbox ∧ t.hbm = s.hbm)) ∧
    (∀ y, c.timerAt = some y →
      (c.retries < 7 → ∃ t, exec (.rtoExpiry i) s = .next t ∧ (t.conn i).rto = min (2 * c.rto) (s.rtoMax q * 1000) ∧
        (t.conn i).retries = c.retries + 1 ∧ (t.conn i).cwnd = cwndFloor ∧
        (t.conn i).timerAt = some (max s.time y + min (2 * c.rto) (s.rtoMax q * 1000)) ∧
        (t.conn i).flight.map (·.psn) = c.flight.map (·.psn) ∧ (∀ j, j ≠ i → t.conn j = s.conn j) ∧ t.inbox = s.inbox ∧ t.hbm = s.hbm) ∧
      (7 ≤ c.retries → ∃ v : State, exec (.rtoExpiry i) s = .next (settle v) ∧ (v.conn i).state = .error ∧ (v.conn i).flight = [] ∧
        v.unitErrs = (c.owners.map fun o => (o, sCONNERR)) ++ [(MsgOwner.conn i c.remoteNode c.tenant, sCONNERR)] ∧
        (∀ j, j ≠ i → v.conn j = s.conn j) ∧ v.hbm = s.hbm)) ∧
    (∀ y, c.ackDueAt = some y → ∃ t, exec (.ackDelayExpiry i) s = .next t ∧ t = (s.advance y).sendAck i ∧ (t.conn i).ackDueAt = none ∧
      (t.conn i).ackRun = 0 ∧ (t.conn i).ePsn = c.ePsn) ∧
    (∀ psn x y, (c.flight.find? fun z => z.psn == psn) = some x → x.retryAt = some y →
      ∃ t, exec (.ctxBusyRetry i psn) s = .next t ∧ t = (s.advance y).resendPkt i psn ∧
        (t.conn i).retries = c.retries ∧ (t.conn i).cwnd = c.cwnd ∧
        (t.conn i).flight = c.flight.map fun z => if z.psn = psn then { z with resent := true, retryAt := none } else z)

/-- R221, R225, R237, R238, R240, R241, R287, Tables 8-27 and 8-28: the end of ERR_HOLD frees a connection in ERROR; an idle connection that
the node opened begins to close; a notice that is due goes out 64 µs after the last; a context that arrives is cached; LOAD shows a
connection; SET_CWND sets its window only while the host controls congestion and is counted else; the copied context region is used from
its new place.
That a connection the node opens itself has traffic class 0 is the model's choice (assumption 20). -/
def Obligations.ConnectionTimersAndRegisters : Prop :=
  (∀ (s : State) (i : Nat),
    let q := i / 16384
    let c := s.conn i
    s.qOff q = false →
    (c.state = .error → ∃ t, exec (.errHoldExpiry i) s = .next t ∧ t.conn i = { incarn := (c.incarn + 1) % 256 } ∧
      (∀ j, j ≠ i → t.conn j = s.conn j) ∧ (t.qtr q).xpt.ctx.look (i % 16384) = none ∧ t.inbox = s.inbox ∧ t.hbm = s.hbm) ∧
    (c.state = .opened → c.opener = true → bits (s.reg bXPT q 0xC) 15 8 ≠ 0 → c.flight = [] → c.queue = [] → c.closeSent = false →
      c.closeRcvd = false → ∃ t, exec (.idleClose i) s = .next t ∧ (t.conn i).state = .closing ∧ (t.conn i).closeSent = true ∧
        s.time ≤ t.time ∧ c.lastActive + bits (s.reg bXPT q 0xC) 15 8 * 1000000 ≤ t.time ∧ (∀ j, j ≠ i → t.conn j = s.conn j) ∧
        t.inbox = s.inbox ∧ t.hbm = s.hbm) ∧
    (∀ n, c.state = .opened → 0 < c.drops → c.noticeAt = some n →
      ∃ t, exec (.policedNoticeGapEnd i) s = .next t ∧ (t.conn i).drops = 0 ∧ (t.conn i).noticeAt = some (max s.time (n + 64000)) ∧
        (t.conn i).queue = c.queue ++ [{ opcode := 0x1B, body := leBytes 8 0 ++ leBytes 1 0x23 ++ leBytes 3 (sat c.drops 0xFFFFFF) ++ leBytes 4 0 }] ∧
        (∀ j, j ≠ i → t.conn j = s.conn j)) ∧
    (∀ e, (s.qtr q).xpt.ctx.look (i % 16384) = some e → e.fetching = true → ((s.qtr q).xpt.miss.any fun m => m.conn == i) = false →
      s.unitErrs = [] → ∃ t, exec (.contextFetchDone i) s = .next t ∧
        (t.qtr q).xpt.ctx.look (i % 16384) = some { e with fetching := false } ∧ (∀ j, t.conn j = s.conn j) ∧ t.inbox = s.inbox)) ∧
  (∀ (s : State) (q : Fin 4), s.qOff q = false →
    let i := q.val * 16384 + s.reg bXPT q 0x40 % 16384
    (∃ t, exec (.connLoad q) s = .next t ∧ (∀ k w, (connWords s i)[k]? = some w → (t.qtr q).xpt.data.look k = some (w32 w)) ∧
      (∀ j, t.conn j = s.conn j) ∧ t.hbm = s.hbm) ∧
    (s.assisted 5 = true → ∃ t, exec (.setCwnd q) s = .next t ∧
      t.conn i = { s.conn i with cwnd := clampN (s.reg bXPT q 0x5C) cwndFloor (s.cwndMax q) } ∧ (∀ j, j ≠ i → t.conn j = s.conn j)) ∧
    (s.assisted 5 = false → exec (.setCwnd q) s = .next (s.count bXPT q 16)) ∧
    (∀ b, (s.qtr q).xpt.copyHost = some b → ∃ t, exec (.contextRegionCopyDone q) s = .next t ∧ (t.qtr q).xpt.ctxInHost = b ∧
      (t.qtr q).xpt.copyHost = none ∧ (∀ j, t.conn j = s.conn j)))

/-! ### Ports (ch. 10) -/

/-- R289 to R293: while a frame is on the wire nothing leaves; at a frame boundary a PFC frame that is due leaves first; else the head of a
lone queue of a lone class leaves, when the class is not paused and neither gated nor shaped, and its tenant's deficit pays for it. A PFC
frame that is received sets and clears the pauses of the classes it enables; a pause ends at its time; a class that stays above XON asks
again 20 µs later.
Which frames are dropped and which are held is the model's reading (assumption 23). -/
def Obligations.PortsSendAndPause : Prop :=
  ∀ (s : State) (p : Fin 4), s.unitErrs = [] →
    let P := (s.qtr p).port
    (∀ at_ : Nat, s.qOff p = false → P.linkUp = true → s.loops p = false →
      (5 * at_ + 4 < P.freeAt → exec (.frameTransmit p at_) s = .next s) ∧
      (P.freeAt ≤ 5 * at_ + 4 → P.inj = {} →
        let starts := max (5 * max s.time at_) P.freeAt
        (s.pfcDue p = true → ∃ (t : State) (g : TxFrame), exec (.frameTransmit p at_) s = .next t ∧ (t.qtr p).port.sent = P.sent ++ [g] ∧
          g.pfc.isSome = true ∧ g.bytes = 64 ∧ (t.qtr p).port.freeAt = starts + 4 * ceilDiv 84 80 ∧ t.pfcDue p = false) ∧
        (∀ (c : Fin 8) (n d : Nat) (f : TxFrame) (fs : List TxFrame), s.pfcDue p = false → P.gclRun = false → s.regs.staged = [] →
          s.reg bPORT p (0x800 + 8 * n) % 65536 = 0 → s.classPaused p c = false →
          (∀ k : Fin 8, k ≠ c → (P.classes.fetch k {}).round = []) → (P.classes.fetch c {}).visiting = false →
          (P.classes.fetch c {}).round = [{ tenant := n, frames := f :: fs, deficit := d }] → f.pfc = none →
          f.bytes ≤ d + s.quantum p n →
          (∀ u, (P.classes.fetch c {}).pausedUntil = some u → u ≤ max s.time at_) →
          ∃ t, exec (.frameTransmit p at_) s = .next t ∧ (t.qtr p).port.sent = P.sent ++ [f] ∧
            (t.qtr p).port.freeAt = starts + 4 * ceilDiv (f.bytes + 20) 80 ∧
            ((t.qtr p).port.classes.fetch c {}).round =
              (if fs = [] then [] else [{ tenant := n, frames := fs, deficit := d + s.quantum p n - f.bytes }]) ∧
            (∀ k : Fin 8, k ≠ c → (t.qtr p).port.classes.fetch k {} = P.classes.fetch k {}) ∧ (∀ j, t.conn j = s.conn j) ∧
            t.inbox = s.inbox ∧ t.hbm = s.hbm))) ∧
    (∀ (at_ : Nat) (en : BitVec 8) (times : List Nat), ∃ t, exec (.pfcReceive p at_ en times) s = .next t ∧
      (∀ c : Fin 8, ((t.qtr p).port.classes.fetch c {}).pausedUntil =
        if bit en.toNat c && s.pfcEn p c then
          (if times.getD c 0 = 0 then none else some (max s.time at_ + ceilDiv (times.getD c 0 * 64) 100))
        else (P.classes.fetch c {}).pausedUntil) ∧
      (∀ c : Fin 8, ((t.qtr p).port.classes.fetch c {}).round = (P.classes.fetch c {}).round) ∧
      (∀ q, q ≠ p.val → t.qtr q = s.qtr q) ∧ t.hbm = s.hbm) ∧
    (∀ (c : Fin 8) (u : Nat), (P.classes.fetch c {}).pausedUntil = some u → ∃ t, exec (.pfcPauseExpiry p c) s = .next t ∧
      (t.qtr p).port.classes.fetch c {} = { P.classes.fetch c {} with pausedUntil := none } ∧ t.time = max s.time u ∧
      (∀ k : Fin 8, k ≠ c → (t.qtr p).port.classes.fetch k {} = P.classes.fetch k {}) ∧ (∀ q, q ≠ p.val → t.qtr q = s.qtr q)) ∧
    (∀ c : Fin 8, s.pfcEn p c = true → (P.classes.fetch c {}).xoff = true →
      (∀ k : Fin 8, k ≠ c → s.pfcEn p k = false ∨ (P.classes.fetch k {}).xoff = false) →
      let due := max s.time ((P.classes.fetch c {}).xoffAt + 20000)
      ∃ t, exec (.pfcRefresh p) s = .next t ∧ t.time = due ∧
        (t.qtr p).port.classes.fetch c {} = { P.classes.fetch c {} with xoffAt := due, pfcDue := true } ∧
        (∀ k : Fin 8, k ≠ c → (t.qtr p).port.classes.fetch k {} = P.classes.fetch k {}) ∧ (∀ q, q ≠ p.val → t.qtr q = s.qtr q))

/-- R283, R294 to R298, R428, R450: GCL_ENABLE starts the active list at entry 0; entries follow each other; SWAP takes effect at once with
the lists off and else at the end of the last entry; the end of an injector's permit disarms it and a frame it holds is due, as is a frame
held for 10 µs; a link that goes down takes the port's frames with it and is told, by itself or with its clock; a link that comes up is
told.
Which frames are dropped and which are held is the model's reading (assumption 23). -/
def Obligations.GatesInjectorsAndLinks : Prop :=
  ∀ (s : State) (p : Fin 4),
    let P := (s.qtr p).port
    (s.qOff p = false → P.gclRun = false →
      (∃ t, exec (.gclEnable p) s = .next t ∧ (t.qtr p).port = { P with gclRun := true, gclEntry := 0, gclStart := 5 * s.time + 4 } ∧
        bit (t.reg bPORT p 0x200) 0 = true ∧ (∀ q, q ≠ p.val → t.qtr q = s.qtr q)) ∧
      (∃ t, exec (.gclSwap p) s = .next t ∧
        (t.qtr p).port = { P with active := s.shadowGcl p, activeBank := !P.activeBank, swapPend := false } ∧
        (∀ e : Fin 64, t.reg bPORT p (0x400 + 4 * e) = P.active.word e) ∧ (∀ q, q ≠ p.val → t.qtr q = s.qtr q))) ∧
    (P.gclRun = true →
      let due := P.gclStart + 4 * P.active.cycles P.gclEntry
      (s.qOff p = false → exec (.gclSwap p) s = .next (s.updPort p fun P => { P with swapPend := true })) ∧
      (P.gclEntry + 1 < P.active.size → exec (.gateEntryExpiry p) s =
        .next ((s.advance (ceilDiv due 5)).updPort p fun P => { P with gclEntry := P.gclEntry + 1, gclStart := due })) ∧
      (P.active.size ≤ P.gclEntry + 1 → P.swapPend = true → ∃ t, exec (.gateEntryExpiry p) s = .next t ∧
        (t.qtr p).port =
          { P with active := s.shadowGcl p, activeBank := !P.activeBank, swapPend := false, gclEntry := 0, gclStart := due })) ∧
    (∀ f k t0, P.inj.held = some (f, k, t0) →
      exec (.reorderTimeout p) s = .next (((s.advance (t0 + 10000)).updPort p fun P => { P with
        inj := { P.inj with release := P.inj.release ++ [f], held := none } }).countU bFINJ 0 p 2)) ∧
    (P.inj.armed = true → ∃ t, exec (.injectorExpiry p) s = .next t ∧ (t.qtr p).port.inj.armed = false ∧
      (t.qtr p).port.inj.held = none ∧ (t.qtr p).port.inj.next = P.inj.next ∧
      (t.qtr p).port.inj.release = P.inj.release ++ (match P.inj.held with | some x => [x.1] | none => []) ∧
      (t.qtr p).port.classes = P.classes ∧ t.time = max s.time P.inj.endAt ∧ (∀ q, q ≠ p.val → t.qtr q = s.qtr q)) ∧
    (P.linkUp = true → s.movers p = [] →
      (∃ t, exec (.linkDown p) s = .next t ∧ (t.qtr p).port = { P.flush with linkUp := false } ∧ (∀ q, q ≠ p.val → t.qtr q = s.qtr q) ∧
        t.hbm = s.hbm) ∧
      ∃ t, exec (.ethRefclkLoss p) s = .next t ∧ (t.qtr p).port = { P.flush with linkUp := false, refClk := false, training := false } ∧
        (∀ q, q ≠ p.val → t.qtr q = s.qtr q) ∧ t.hbm = s.hbm) ∧
    (P.linkUp = false → s.portMay p = true →
      exec (.linkUp p) s = .next ((s.updPort p fun P => { P with linkUp := true, training := false, refClk := true }).post 0
        { type := 0x0A, quarter := p, p0 := p + 4 }))

/-! ### Power, temperature and the management tick (R24, ch. 14) -/

/-- R24, R382 to R385, R387, R389, R390, R394: a management tick comes 1 ms after the one before it and puts a new cap into effect; a
rebalance gives each Quarter its floor and its share of the rest by demand, and engages the clamp when the package draws more than the
cap; a reading is recorded and steps its directory, and one at the limit of its die stops the stages and latches its sensor; a sensor
without a reading for 10 ms puts the node in conservative mode; the end of Q-OFF leaves a Quarter, for which nothing waits, ON or IDLE as its target says.
The order of a tick's parts is the model's choice (assumption 11), and its fractions are exact
(assumption 51). -/
def Obligations.PowerFollowsItsRules : Prop :=
  ∀ s : State,
    (∀ m : TickMeasure, s.squareRuns = true → ∃ u : State,
      (let w := (u.tickBankPower.tickPower.tickHistory.tickCalib m).markBad m.badEntries
       let x := [0, 1, 2, 3].foldl (fun (s : State) q => ((s.tickCongestion q).tickScrub q).tickOrphans q) w
       exec (.managementTick m) s = .next (settle ((x.tickSweep.tickMetering m).tickCounts m).checkMisses)) ∧
      u.ticks = s.ticks + 1 ∧ u.time = max s.time ((s.ticks + 1) * 1000000) ∧ u.pwr.capNext = none ∧
      u.pwr.capW = s.pwr.capNext.getD s.pwr.capW) ∧
    (∀ w : Nat, s.squareRuns = true → ∃ v : State, exec (.rebalance w) s = .next (settle v) ∧
      let ung := max 0 ((w : Rat) - s.jobsMw)
      let cap := s.capEffMw
      v.pwr.pkgMw = w ∧ v.pwr.ungatedMw = ung.floor.toNat ∧ v.pwr.rebalAt = max s.time (s.pwr.rebalAt + 10000) ∧
      (∀ q : Fin 4, (v.pwr.q.fetch q {}).rateMw = s.rateFor (max 0 ((cap : Rat) - ung)) q) ∧ v.pwr.clamp = decide (cap < w) ∧
      (w ≤ cap → v.pwr.duty = 64) ∧ (cap < w → v.pwr.duty = max 1 (64 * cap / w)) ∧ v.hbm = s.hbm ∧ v.sec = s.sec) ∧
    (∀ (i : Fin 33) (at_ d : Nat), s.pins.vsb12 = true → d < 2048 →
      ((tripsAt i d && !s.pwr.lockout) = false → ∃ t, exec (.sensorReading i at_ (some d)) s = .next t ∧
        t.pwr.sensors.fetch i {} = { degX8 := d, valid := true, lastValid := max s.time at_ } ∧
        (∀ j, j ≠ i.val → t.pwr.sensors.fetch j {} = s.pwr.sensors.fetch j {}) ∧
        (∀ q : Fin 4, t.pwr.dirStep.fetch q 0 =
          if s.pins.mainPg = true ∧ i.val = 5 + q then dirStepAt (s.pwr.dirStep.fetch q 0) d else s.pwr.dirStep.fetch q 0) ∧
        t.pwr.lockout = s.pwr.lockout ∧ t.pins = s.pins ∧ t.quarters = s.quarters ∧ t.hbm = s.hbm) ∧
      (tripsAt i d = true → s.pwr.lockout = false → ∃ t, exec (.sensorReading i at_ (some d)) s = .next t ∧ t.pwr.lockout = true ∧
        t.pwr.tripSensor = i ∧ t.pwr.alert = true ∧ t.pins.mainPg = false ∧ t.quarters = [] ∧ t.hbm = [] ∧ t.boot.nvm = s.boot.nvm)) ∧
    (∀ (i : Fin 33) (at_ : Nat), s.pins.vsb12 = true → ∃ t, exec (.sensorReading i at_ none) s = .next t ∧
      t.pwr.sensors.fetch i {} = { s.pwr.sensors.fetch i {} with valid := false, fault := true } ∧ t.pwr.lockout = s.pwr.lockout ∧
      t.pwr.tickBad = true ∧ t.pins = s.pins ∧ t.hbm = s.hbm) ∧
    (∀ i : Fin 33, s.pins.vsb12 = true → (s.pwr.sensors.fetch i {}).valid = false → (s.pwr.sensors.fetch i {}).lost = false →
      s.squareRuns = true → ∃ t, exec (.sensorInvalidTimeout i) s = .next t ∧ t.pwr.conservative = true ∧ t.pwr.history = 0 ∧
        (t.pwr.sensors.fetch i {}).lost = true ∧ (t.pwr.sensors.fetch i {}).fault = true ∧
        t.time = max s.time ((s.pwr.sensors.fetch i {}).lastValid + 10000000) ∧
        (∀ q : Fin 4, s.pwr.conservative = false → (t.pwr.q.fetch q {}).calib = 1) ∧ t.pins = s.pins ∧ t.hbm = s.hbm) ∧
    (∀ q : Fin 4, (s.qtr q).power = .leaving → s.regs.staged = [] → (s.qtr q).dir.shadowBad = [] → (s.qtr q).dir.waiting = [] →
      (∀ e : Fin 4, (s.eng q e).state ≠ .waitReady) → (∀ c ∈ (s.qtr q).store.cache, c.kind ≠ .writeback) →
      (∀ h ∈ (s.qtr q).store.holds, h.inStore = false) → ∃ v : State, exec (.qOffExitDone q) s = .next (settle v) ∧
      (v.qtr q).power = (if s.qTarget q = 1 then .idle else .on) ∧ (∀ n : Fin 4, (v.stack (4 * q + n)).selfRefresh = false) ∧
      (v.qtr q).store = (s.qtr q).store ∧ v.hbm = s.hbm)

/-! ### Start-up, resets and the module's supplies (ch. 15, ch. 18) -/

/-- R399, Table 15-2, R400, R401, R405: each start-up phase that may end leads to the next: the identity, the image of the slot that
verifies or boot failure, the image's tenant and cap, training with the scrub that was due, and Ready; a stack that has trained is READY and one
that has not is FAILED, with its Quarter when it holds structures; 8 s without Ready is a reset with cause 4 that marks the image's slot.
What is recorded when is the model's reading (assumption 15). -/
def Obligations.StartUpRunsItsPhases : Prop :=
  ∀ s : State,
    (s.boot.started = true → s.pins.vsb12 = true → s.pins.sysclk = true → s.boot.failStop = false → s.unitErrs = [] →
      (s.boot.phase = 1 → exec .startupPhaseDone s =
        .next { s with pwr := { s.pwr with alert := false }, boot := { s.boot with phase := 2 } }) ∧
      (s.boot.phase = 2 → s.pins.mainPg = true → exec .startupPhaseDone s = .next { s with boot := { s.boot with phase := 3 } }) ∧
      (s.boot.phase = 3 → exec .startupPhaseDone s =
        .next { s with sec := { s.sec with identOk := s.sec.fuseIdentProg }, boot := { s.boot with phase := 4 } }) ∧
      (s.boot.phase = 4 → ∃ t, exec .startupPhaseDone s = .next t ∧ t.boot.nvm = s.boot.nvm ∧ t.hbm = s.hbm ∧
        match (selectImage s.boot.nvm s.boot.standby s.sec.fuseConfLock).1 with
        | none => t.boot.phase = 15
        | some n => t.boot.slot = n ∧ t.boot.image = some (imageOf s.boot.nvm n s.sec.fuseConfLock) ∧
            t.sec.conf = (imageOf s.boot.nvm n s.sec.fuseConfLock).conf ∧
            t.boot.phase = (if !s.boot.standby.held || s.boot.standby.conf then 6 else 5)) ∧
      (∀ i, s.boot.phase = 6 → s.boot.image = some i → ∃ v : State, exec .startupPhaseDone s = .next (settle v) ∧ v.boot.phase = 7 ∧
        v.pwr.capW = i.capW ∧ v.tenant 0 = i.tenantZero) ∧
      (s.boot.phase = 7 → s.trained = true → ∃ t, exec .startupPhaseDone s = .next t ∧ t.boot.trainDone = true ∧
        t.boot.phase = (if s.boot.pcieDone then 8 else 5) ∧ t.hbm = (if s.boot.scrubNeed then [] else s.hbm)) ∧
      (s.boot.phase = 9 → s.boot.pcieDone = true → ∃ v : State, exec .startupPhaseDone s = .next (settle v) ∧ v.boot.phase = 10 ∧
        v.boot.readyOnce = true ∧ v.boot.readyTime = v.time ∧
        (s.image.chModes = [] → s.host.configOk = true → v.ready = true ∧ v.time = s.time ∧ v.hbm = s.hbm))) ∧
    (∀ n : Fin 16, (s.stack n).st = .training → (s.stack n).off = false → s.pins.mainPg = true → s.boot.phase = 7 → s.unitErrs = [] →
      (s.boot.trainDone = false → exec (.stackTrainingDone n true) s = .next (s.updStack n fun S => { S with st := .ready })) ∧
      (n.val % 4 < 2 → (s.qtr (n.val / 4)).failed = false → ∃ v : State, exec (.stackTrainingDone n false) s = .next (settle v) ∧
        (v.stack n).st = .failed ∧ (v.qtr (n.val / 4)).failed = true ∧ (v.qtr (n.val / 4)).power = .off) ∧
      (2 ≤ n.val % 4 ∨ (s.qtr (n.val / 4)).failed = true → ∃ w : State,
        exec (.stackTrainingDone n false) s = .next (settle (notReadyEnd w (n.val / 4))) ∧ (w.stack n).st = .failed)) ∧
    (s.pins.mainPg = true → s.boot.failStop = false →
      (s.boot.readyOnce = true → exec .bootWatchdog s = .next s) ∧
      (∀ i, s.boot.readyOnce = false → s.boot.image = some i → ∃ t, exec .bootWatchdog s = .next t ∧ t.boot.cause = 4 ∧ t.boot.phase = 1 ∧
        t.boot.standby.marked i.slot = true ∧ t.boot.nvm = s.boot.nvm ∧ t.quarters = [] ∧ t.pins = s.pins ∧ t.hbm = s.hbm))

/-- R397, R447 to R450, R453, Table 15-1: a power-on loses all but the NVM and the fuses; power-good begins a start-up with cause 1, or lets
the one that waits for it go on at time 0; a fall of MAIN_EN, of the 52 V input or of SYSCLK stops the stages and loses the main domain,
while the NVM and the standby record stay; standby power takes the record too; the tray gets the NVM bus by PROG_EN# while MAIN_EN is low.
What a loss keeps and what restarts the node is the model's reading (assumption 14). -/
def Obligations.ResetsAndSupplies : Prop :=
  ∀ s : State,
    let cold := fun (t : State) => t.quarters = [] ∧ t.hbm = [] ∧ t.stk = [] ∧ t.regs = {} ∧ t.pins.mainPg = false ∧ t.boot.nvm = s.boot.nvm ∧
      t.sec.fuseConfLock = s.sec.fuseConfLock ∧ t.sec.fuseJtagKill = s.sec.fuseJtagKill ∧ t.sec.fuseIdentProg = s.sec.fuseIdentProg ∧
      t.pending = s.pending
    let stopped := fun (t : State) => cold t ∧ t.boot.started = false ∧
      t.boot.standby = { s.boot.standby with lastStatus := s.bootStatus } ∧ t.pwr.cycled = (s.pwr.cycled || s.pwr.lockout) ∧
      t.pwr.lockout = s.pwr.lockout
    (∃ t, exec .powerOnReset s = .next t ∧ cold t ∧ t.boot.standby = {} ∧ t.boot.update = none ∧ t.pwr = {} ∧ t.boot.cause = 0 ∧
      t.boot.phase = 1) ∧
    (s.pins.mainPg = false → s.stagesMay = true →
      (s.boot.started = false → s.pwr.lockout = false → ∃ t, exec .mainPowerGood s = .next t ∧ t.pins = { s.pins with mainPg := true } ∧
        t.boot.cause = 1 ∧ t.boot.phase = 1 ∧ t.time = 0 ∧ t.quarters = [] ∧ t.hbm = [] ∧ t.boot.nvm = s.boot.nvm ∧
        t.boot.standby = s.boot.standby) ∧
      (s.boot.started = true → s.boot.phase = 2 → ∃ t, exec .mainPowerGood s = .next t ∧ t.pins = { s.pins with mainPg := true } ∧
        t.time = 0 ∧ t.ticks = 0 ∧ t.boot = s.boot ∧ t.regs = s.regs ∧ t.hbm = s.hbm)) ∧
    (s.pins.mainEn = false → ∃ t, exec (.mainEnChange true) s = .next t ∧ t = { s with pins := t.pins } ∧ t.pins.mainEn = true ∧
      t.pins.mainPg = s.pins.mainPg) ∧
    (s.pins.mainEn = true → s.pins.mainPg = true → ∃ t, exec (.mainEnChange false) s = .next t ∧ t.pins.mainEn = false ∧ stopped t) ∧
    (∀ mv : Nat, (s.pins.vin52Ok = false ∨ 44000 ≤ mv) → exec (.vin52Change mv) s = .next { s with
      pins := { s.pins with vin52Mv := mv, vin52Ok := if s.pins.vin52Ok then decide (44000 ≤ mv) else decide (45500 ≤ mv) } }) ∧
    (∀ mv : Nat, s.pins.vin52Ok = true → mv < 44000 → s.pins.mainPg = true → ∃ t, exec (.vin52Change mv) s = .next t ∧
      t.pins.vin52Ok = false ∧ t.pins.vin52Mv = mv ∧ stopped t) ∧
    (∃ t, exec .vsb12Loss s = .next t ∧ t.pins.vsb12 = false ∧ cold t ∧ t.boot.standby = {} ∧ t.pwr = {} ∧ t.boot.update = none) ∧
    (s.pins.mainPg = true → ∃ t, exec .sysclkLoss s = .next t ∧ t.pins.sysclk = false ∧ cold t ∧ t.boot.started = false) ∧
    (s.pins.vsb12 = true → s.pins.sysclk = false → ∃ t, exec .sysclkReturn s = .next t ∧ t.pins.sysclk = true ∧ cold t ∧
      t.boot.standby = {} ∧ t.boot.cause = 0) ∧
    (∀ b : Bool, ∃ t, exec (.progEnChange b) s = .next t ∧ t = { s with pins := t.pins } ∧ t.pins.progEn = b ∧
      t.pins.nvmBusTray = (b && s.pins.vsb12 && (s.pins.nvmBusTray || !s.pins.mainEn)))

/-! ### The Alley (ch. 15, R296, R324) -/

/-- R411 to R414, R324, R397: a damaged frame is dropped and counted, one for another station leaves by the other port, a command for this
node waits to run; ENUM gives the node its address and goes on with the next; a command without access is answered AUTH, and one that needs
52 V DOMAIN_OFF without it; SESSION_OPEN opens the lowest free session under the agreed key, and 60,000 ticks without a command close it; RESET
restarts the node with cause 2, HBM and the NVM kept.
The forms of responses, sessions and refusals are the model's choice (assumption 16). -/
def Obligations.AlleyFramesAndSessions : Prop :=
  ∀ (s : State) (m : Mgmt) (b : Bytes), s.agentUp = true →
    (∀ port : Fin 2,
      let h := alleyHdr b
      let n := 8 + h.len
      ((b.length ≠ n + 4 ∨ fieldAt b n 4 ≠ crc32c (b.take n)) →
        exec (.alleyFrame port b) s = .next ((s.countBoot 0).countBoot 1)) ∧
      (b.length = n + 4 → fieldAt b n 4 = crc32c (b.take n) →
        (¬ (h.dst = 63 ∧ h.cmd = 1 ∧ h.rsp = false) → ¬ (h.dst = s.boot.addr ∧ h.dst ≠ 0) →
          exec (.alleyFrame port b) s = .next ((s.countBoot 0).alleySend (1 - port) b)) ∧
        (h.dst = s.boot.addr → h.dst ≠ 0 → h.rsp = false → 0 < h.cmd → h.cmd < 0x0D → byteAt b 0 < 64 → byteAt b 1 < 64 → byteAt b 3 < 4 →
          h.more = false → h.session = false → byteAt b 7 < 8 → h.len ≤ 1024 →
          ∃ t, exec (.alleyFrame port b) s = .next t ∧ t.boot.out = s.boot.out ∧ t.hbm = s.hbm ∧ t.quarters = s.quarters ∧ t.sec = s.sec ∧
            t.boot.inbox = s.boot.inbox ++ [{ cmd := h.cmd, m := { port := port, seq := h.seq, dst := h.dst }, body := alleyPayload b }]))) ∧
    (m.dst = 63 → b.length = 2 → 0 < byteAt b 0 → byteAt b 0 < 63 → byteAt b 1 < 2 →
      let next := if byteAt b 1 = 0 then byteAt b 0 + 1 else byteAt b 0 - 1
      ∃ t, exec (.enum m b) s = .next t ∧ t.boot.addr = byteAt b 0 ∧ t.boot.aport = m.port ∧ t.boot.adir = byteAt b 1 ∧
        t.boot.out = s.boot.out ++ (if next = 63 ∨ next = 0 then [] else
          [{ port := 1 - m.port.val, bytes := alleyFrameOf 63 0 1 false false false m.seq (leBytes 1 next ++ leBytes 1 (byteAt b 1)) }]) ∧
        t.regs = s.regs ∧ t.hbm = s.hbm ∧ t.quarters = s.quarters ∧ t.boot.nvm = s.boot.nvm) ∧
    (∀ c ∈ [(2, Instr.sessionOpen m b), (5, .setPowerCap m b), (6, .routeSet m b), (7, .getAttestation m b), (8, .armFaultInject m b),
        (9, .meterRead m b), (12, .setNodeId m b)],
      (s.pins.mainPg = false → exec c.2 s = .next ((s.takeCmd c.1 m b).respond c.1 { m with ses := none } sDOMOFF [])) ∧
      (s.pins.mainPg = true → m.ses = none → s.cmdOpen c.1 = false → exec c.2 s = .next ((s.takeCmd c.1 m b).refuseAuth c.1 m))) ∧
    (∀ (u : State) (sid : Nat), Allowed s 2 m b u → b.length = 64 → u.freeSid = some sid →
      ∃ t, exec (.sessionOpen m b) s = .next t ∧ t.sec.tenants = s.sec.tenants ∧ t.hbm = s.hbm ∧
        (∀ k, k ≠ sid → t.sec.sessions.look k = u.sec.sessions.look k) ∧
        t.sec.sessions.look sid = (Config.sm2Agree u.image.oper (u.image.operId ++ b)).map fun key => { key := key }) ∧
    (∀ (sid : Nat) (k : MgmtSession), s.sec.sessions.look sid = some k →
      (k.idle < 60000 → exec (.sessionExpiry sid) s = .next s) ∧
      (60000 ≤ k.idle → ∃ t, exec (.sessionExpiry sid) s = .next t ∧ t.sec.sessions.look sid = none ∧
        (∀ j, j ≠ sid → t.sec.sessions.look j = s.sec.sessions.look j) ∧ t.sec.tenants = s.sec.tenants ∧ t.hbm = s.hbm)) ∧
    (m.ses = none → b = [0] →
      (s.pwr.lockout = true → s.coolEnough = false → exec (.reset m b) s = .next ((s.takeCmd 11 m b).respond 11 m sNOTREADY [])) ∧
      (s.pwr.lockout = false → ∃ t, exec (.reset m b) s = .next t ∧ t.boot.cause = 2 ∧ t.boot.phase = 1 ∧ t.boot.started = true ∧
        t.quarters = [] ∧ t.regs = {} ∧ t.hbm = (if s.pins.mainPg then s.hbm else []) ∧ t.boot.nvm = s.boot.nvm ∧ t.boot.update = none ∧
        t.boot.standby = s.boot.standby ∧ t.pins = s.pins ∧ t.boot.out = ((s.takeCmd 11 m b).respond 11 m 0 []).boot.out))

/-- Table 15-9, R243, R296, R323, R383, R412, R416, R418: with access, each management command has its effect and answers OK: the node ID
that the image allows, the status words, the telemetry, the report, the accumulators, the new routes, the cap of the next tick, the
injector that the image permits, and an update of the slot that is not in use, which erases its header, writes the bytes and ends, OK when the
image verifies and else, with a status that the spec leaves open, its header erased again.
The forms of responses and refusals are the model's choice (assumption 16). -/
def Obligations.ManagementCommands : Prop :=
  ∀ (s u : State) (m : Mgmt) (b : Bytes),
    (Allowed s 12 m b u → b.length = 2 → fieldAt b 0 2 < 16384 → 7 ≤ s.boot.phase →
      (s.image.fabric.any fun r => r.1 ≤ fieldAt b 0 2 && fieldAt b 0 2 ≤ r.2) = true →
      (s.boot.nodeId = none → exec (.setNodeId m b) s =
        .next ({ u with boot := { u.boot with nodeId := some (fieldAt b 0 2) } }.respond 12 m 0 [])) ∧
      (∀ k, s.boot.nodeId = some k →
        exec (.setNodeId m b) s = .next (u.respond 12 m (if k = fieldAt b 0 2 then sDUPLICATE else sCONFLICT) []))) ∧
    (Allowed s 3 m b u → b = [] → s.pins.mainPg = true → s.boot.phase ≠ 15 → exec (.getStatus m b) s = .next (u.respond 3 m 0
      (leBytes 4 u.bootStatus ++ leBytes 4 u.bootAlley ++ leBytes 4 u.xptNode ++ leBytes 4 u.pwrTherm ++ leBytes 4 u.glbStatus))) ∧
    (Allowed s 4 m b u → b = [] → s.pins.mainPg = true → exec (.getTelemetry m b) s = .next (u.drawFree.2.respond 4 m 0
      (((List.range 33).flatMap fun i => leBytes 4 (u.pwrTemp i)) ++ leBytes 4 (u.view bNRG 0 0xC) ++ leBytes 4 u.pins.vin52Mv ++
        leBytes 4 u.drawFree.1))) ∧
    (Allowed s 5 m b u → b.length = 2 → 600 ≤ fieldAt b 0 2 → fieldAt b 0 2 ≤ 1600 → exec (.setPowerCap m b) s =
      .next ({ u with pwr := { u.pwr with capNext := some (fieldAt b 0 2) } }.respond 5 m 0 [])) ∧
    (Allowed s 6 m b u → 4 ≤ b.length → fieldAt b 2 2 = b.length - 4 → 0 < b.length - 4 → b.length - 4 ≤ 976 →
      fieldAt b 0 2 + fieldAt b 2 2 ≤ 16384 → (b.drop 4).all (fun x => decide (x.toNat < 16)) = true →
      ∃ t, exec (.routeSet m b) s = .next t ∧ t.hbm = s.hbm ∧ t.sec = u.sec ∧
        ∀ q : Fin 4, ∃ T, (t.qtr q).xpt.routesNew = some T ∧ (t.qtr q).xpt.routes = (s.qtr q).xpt.routes ∧
          ∀ n, T.fetch n 0 = if fieldAt b 0 2 ≤ n ∧ n < fieldAt b 0 2 + fieldAt b 2 2 then byteAt b (4 + (n - fieldAt b 0 2))
            else ((s.qtr q).xpt.routesNew.getD (s.qtr q).xpt.routes).fetch n 0) ∧
    (Allowed s 7 m b u → b.length = 32 →
      exec (.getAttestation m b) s = .next ((u.count bSEC 0 8).respond 7 m 0 (u.report none b u.present))) ∧
    (Allowed s 9 m b u → b.length = 2 → byteAt b 0 + byteAt b 1 ≤ 64 → exec (.meterRead m b) s = .next (u.respond 9 m 0
      (leBytes 8 (u.ticks * 1000000) ++ (List.range (byteAt b 1)).flatMap fun i => (List.range 8).flatMap fun k =>
        leBytes 8 (u.regs.meter.fetch (blockBase bBOOT 0 + 0x5000 + (byteAt b 0 + i) * 0x40 + k * 8) 0)))) ∧
    (Allowed s 8 m b u → armBad b = false →
      let p := byteAt b 0 % 4
      let mode := fieldAt b 1 4 % 8
      (mode = 0 → exec (.armFaultInject m b) s = .next ((u.updPort p fun P => { P with inj := P.inj.disarm }).respond 8 m 0 [])) ∧
      (0 < mode → (bit s.finjPermit p && bit s.finjPermit (3 + mode)) = false →
        exec (.armFaultInject m b) s = .next (u.respond 8 m sPERM [])) ∧
      (0 < mode → bit s.finjPermit p = true → bit s.finjPermit (3 + mode) = true → (s.qtr p).port.inj.armed = false →
        (s.qtr p).port.inj.held = none → (s.qtr p).port.inj.release = [] →
        ∃ t, exec (.armFaultInject m b) s = .next t ∧ (t.qtr p).port.inj.armed = true ∧ (t.qtr p).port.inj.words = armWords b ∧
          (t.qtr p).port.inj.nth = fieldAt b 17 2 ∧ (t.qtr p).port.inj.endAt = s.time + fieldAt b 19 2 * 1000000 ∧
          (∀ q, q ≠ p → t.qtr q = s.qtr q) ∧ t.hbm = s.hbm)) ∧
    (Allowed s 10 m b u → s.pins.progEn = false →
      (∀ n, byteAt b 0 = 0 → b.length = 8 → n = (if s.imageInUse then 1 - s.boot.slot else byteAt b 1) → n < 2 → fieldAt b 4 4 ≤ slotBytes →
        ∃ t, exec (.updateImageStart m b) s = .next t ∧ t.boot.update = some (n, fieldAt b 4 4) ∧
          t.boot.nvm = Mem.clear s.boot.nvm (slotBase n) 256 ∧ t.boot.standby.marked n = false ∧ t.hbm = s.hbm ∧ t.quarters = s.quarters) ∧
      (∀ n len, byteAt b 0 = 1 → s.boot.update = some (n, len) → 8 ≤ b.length → b.length ≤ 1024 → fieldAt b 4 4 + (b.length - 8) ≤ len →
        ∃ t, exec (.updateImageData m b) s = .next t ∧ t.boot.update = some (n, len) ∧
          t.boot.nvm = Mem.write s.boot.nvm (slotBase n + fieldAt b 4 4) (b.drop 8) ∧ t.boot.standby = s.boot.standby ∧ t.hbm = s.hbm ∧
          t.quarters = s.quarters) ∧
      (byteAt b 0 = 1 → s.boot.update = none → exec (.updateImageData m b) s = .next (u.respond 10 m sCONFLICT [])) ∧
      (∀ n len, byteAt b 0 = 2 → s.boot.update = some (n, len) → s.pins.mainPg = true →
        ∃ t st, exec (.updateImageFinish m b) s = .next t ∧ t.boot.update = none ∧ t.boot.standby.marked n = false ∧ t.hbm = s.hbm ∧
          t.quarters = s.quarters ∧ t.boot.out = (u.respond 10 m st []).boot.out ∧
          if (imageFault s.boot.nvm n s.sec.fuseConfLock).isNone then st = 0 ∧ t.boot.nvm = s.boot.nvm
          else st ≠ 0 ∧ t.boot.nvm = Mem.clear s.boot.nvm (slotBase n) 256))

/-! ### Faults and tests (ch. 16) -/

/-- R423, R425, R428, R434, Table 16-12: a core that faults leaves dispatch for good and its job is cut again; a test runs on a core that is
out of dispatch and holds nothing, is refused else, and takes a core that fails out of use; the express lane is restored; a rebuild is
started once and leaves the slice as its shadow gives it.
That a test is refused while another runs is the model's reading (assumption 31). -/
def Obligations.CoresAndDirectoryRecover : Prop :=
  (∀ (s : State) (n : Fin 32),
    let q := n.val / 8
    let k := n.val % 8
    let c := s.core q k
    c.faulted = false → s.qOff q = false →
    (c.saved = [] → c.saving = none → c.job = none → ∃ t, exec (.coreFault n) s = .next t ∧
      t.core q k = { online := false, faulted := true } ∧ t.inDispatch q k = false ∧ (∀ j, j ≠ k → t.core q j = s.core q j) ∧
      (t.qtr q).core.jobs = (s.qtr q).core.jobs ∧ t.hbm = s.hbm) ∧
    (∀ id, c.saved = [] → c.saving = none → c.job = some id → id < s.nextId → ∃ t, exec (.coreFault n) s = .next t ∧
      t.inDispatch q k = false ∧ t.job q id = none ∧ t.hbm = s.hbm)) ∧
  (∀ (s : State) (q : Fin 4), s.qOff q = false →
    (∀ value : Word,
      let no := bits value.toNat 31 16
      let k := value.toNat % 8
      let busy := s.inDispatch q k || (s.core q k).saved != [] || (s.core q k).saving.isSome || (s.qtr q).core.testRunning.isSome
      bits (s.reg bDIR q 0x10) 31 16 ≠ no →
      (busy = true → ∃ t, exec (.coreTestStart q value) s = .next t ∧ (t.qtr q).core.testSeq = no ∧ (t.qtr q).core.testResult = 3 ∧
        (t.qtr q).core.testRunning = (s.qtr q).core.testRunning ∧ (∀ j, t.core q j = s.core q j) ∧ t.hbm = s.hbm) ∧
      (busy = false → ∃ t, exec (.coreTestStart q value) s = .next t ∧ (t.qtr q).core.testRunning = some (k, no) ∧
        (t.qtr q).core.testSeq = (s.qtr q).core.testSeq ∧ (t.core q k).testing = true ∧ (∀ j, j ≠ k → t.core q j = s.core q j) ∧
        t.hbm = s.hbm)) ∧
    (∀ pass k no, (s.qtr q).core.testRunning = some (k, no) → ∃ t, exec (.coreTestDone q pass) s = .next t ∧
      (t.qtr q).core.testRunning = none ∧ (t.qtr q).core.testSeq = no ∧ (t.qtr q).core.testResult = (if pass then 1 else 2) ∧
      (t.core q k).testing = false ∧ (pass = false → (t.core q k).online = false ∧ (t.core q k).faulted = true) ∧
      (pass = true → (t.core q k).online = (s.core q k).online ∧ (t.core q k).faulted = (s.core q k).faulted) ∧
      (∀ j, j ≠ k → t.core q j = s.core q j) ∧ t.regs = s.regs ∧ t.hbm = s.hbm) ∧
    exec (.dirXlRestore q) s = .next (s.updDir q fun d => { d with xlDisabled := false, xlMismatch := 0 }) ∧
    ((s.qtr q).dir.rebuilding = true → exec (.dirXlRebuild q) s = .next (s.count bDIR q 10)) ∧
    ((s.qtr q).dir.rebuilding = false →
      exec (.dirXlRebuild q) s = .next ((s.updDir q fun d => { d with rebuilding := true }).count bDIR q 4)) ∧
    ((s.qtr q).dir.rebuilding = true → (s.qtr q).dir.shadowBad = [] → (s.qtr q).dir.waiting = [] → s.unitErrs = [] →
      ∃ t, exec (.dirRebuildDone q) s = .next t ∧ (t.qtr q).dir.rebuilding = false ∧ (t.qtr q).dir.slots = (s.qtr q).dir.rebuilt ∧
        (t.qtr q).dir.shadow = (s.qtr q).dir.rebuilt ∧ (t.qtr q).store = (s.qtr q).store ∧ t.hbm = s.hbm))

/-- R429, R430, Table 16-3: an error that ECC cannot correct in a scoring stack is recorded and reported, and damages the page it strikes; a stack
that fails is FAILED, and one that holds structures takes its Quarter with it, which is then held off with its link down; a
drained stack with no frame left, or with its frame copied, is READY and supplies no frames; without its heartbeat the node stops, every
link down.
What is lost with a stack or a Quarter is the model's reading (assumption 44). -/
def Obligations.StacksAndQuartersFail : Prop :=
  ∀ s : State,
    (∀ (n : Fin 16) (a : Nat),
      let q := n.val / 4
      let ls := n.val % 4
      s.qOff q = false → (s.stack n).st ≠ .failed → 2 ≤ ls → a < stackSize ls →
      ∃ v : State, exec (.hbmUncorrectable n a) s = .next (settle (v.postFault 6 n (hbmAddr q ls a) 1 q)) ∧
        (v.stack n).uncorrectable.contains a = true ∧
        (∀ key f fr sh g i, s.frameHolding q ls a = some (key, f, fr, sh) → a - fr.addr < sh.slot * 32 → fr.spilled = false →
          s.segOf q key = some (i, g) → g.frames[f]? = some fr →
          ∃ g' fr', v.segOf q key = some (i, g') ∧ g'.frames[f]? = some fr' ∧ bit fr'.damaged ((a - fr.addr) / sh.slot) = true ∧
            fr'.stack = fr.stack ∧ fr'.addr = fr.addr)) ∧
    (∀ n : Fin 16, (s.stack n).st ≠ .failed → (s.qtr (n.val / 4)).failed = false →
      (2 ≤ n.val % 4 → ∃ w : State, exec (.stackFault n) s = .next (settle (notReadyEnd w (n.val / 4))) ∧ (w.stack n).st = .failed) ∧
      (n.val % 4 < 2 → ∃ u : State, exec (.stackFault n) s = .next (settle (u.failQuarter (n.val / 4) false (n.val % 4 == 1))) ∧
        (u.stack n).st = .failed ∧ (u.qtr (n.val / 4)).failed = false)) ∧
    (∀ q : Fin 4, (s.qtr q).failed = false → exec (.quarterFault q) s = .next (settle (s.failQuarter q true false)) ∧
      ∀ chipBad spillBad : Bool, ∃ w : State,
        s.failQuarter q chipBad spillBad = (s.guests q).foldl (fun s tk => s.checkReq tk) ([0, 1, 2, 3].foldl (fun s k => s.sweepHeld k) w) ∧
        (w.qtr q).failed = true ∧ (w.qtr q).power = .off ∧ (w.qtr q).port.linkUp = false ∧ (w.qtr q).port.failed = true ∧
        (w.qtr q).store.segs = [] ∧ (w.qtr q).dir.slots = [] ∧ (w.qtr q).core.jobs = []) ∧
    (∀ n : Fin 16,
      let q := n.val / 4
      let ls := n.val % 4
      let done := fun (u : State) =>
        let u := u.updStack n fun S => { S with st := .ready }
        notReadyEnd (u.setReg bPST q 4 (setBit (u.reg bPST q 4) ls false)) q
      (s.stack n).st = .draining →
      (s.framesOn q ls = [] → exec (.stackDrainDone n) s = .next (settle (done s))) ∧
      (∀ key f fr sh l a A, s.framesOn q ls = [(key, f, fr, sh)] →
        takeFrame (s.qtr q).store.allocs ((stackOrder 0 f true).filter (s.stackEligible q)) sh.frame = some (l, a, A) → l < 2 →
        ∃ u : State, exec (.stackDrainDone n) s = .next (settle (done u)) ∧
          u.hbm = Mem.paste s.hbm (hbmAddr q l a) sh.frame (Mem.slice s.hbm (hbmAddr q fr.stack fr.addr) sh.frame) ∧
          (∀ i g, s.segOf q key = some (i, g) → g.frames[f]? = some fr → ∃ g', u.segOf q key = some (i, g') ∧
            g'.frames[f]? = some { fr with stack := l, addr := a }))) ∧
    (s.boot.failStop = false → s.pins.mainPg = true → ∃ t, exec .squareHeartbeatLoss s = .next t ∧ t.boot.failStop = true ∧
      t.boot.phase = 15 ∧ t.host.linkUp = false ∧ t.ready = false ∧ (∀ p : Fin 4, (t.qtr p).port.linkUp = false) ∧ t.hbm = s.hbm ∧
      t.boot.nvm = s.boot.nvm ∧ t.regs = s.regs)

/-! ### The whole node -/

/-- A step takes the command at the front of the queue and runs it with the rest; with no command the node idles, and the local time
counter counts one (the model's choice: assumption 1). No word of the opcode table spells a command, so that a word puts none in the queue.
That no word spells a command follows from the table, which gives no bits (assumption 3). -/
def Obligations.StepTakesTheFront : Prop :=
  (∀ (c : Instr) (rest : List Instr) (s : State), step { s with pending := c :: rest } = exec c { s with pending := rest }) ∧
  (∀ s : State, s.pending = [] → step s = .next { s with time := s.time + 1 }) ∧
  (∀ nbits w : Nat, decodeTableWord nbits w = none) ∧ ∀ (s : State) (nbits w : Nat), s.withFetchWord nbits w = s

/-- R21, R220, R301, R397: reset leaves the local time counter at 0, no command waiting, every tenant ABSENT, every connection FREE, every function
without queues or messages, the node not Ready in its first phase with cause 0, and memories that list nothing.
Values that these rules do not give are the model's choice (assumptions 4 and 5). -/
def Obligations.ResetIsCold : Prop :=
  let s := State.reset
  s.time = 0 ∧ s.ticks = 0 ∧ s.pending = [] ∧ s.ready = false ∧ s.boot.phase = 1 ∧ s.boot.cause = 0 ∧ s.boot.nodeId = none ∧
  (∀ n, (s.tenant n).state = .absent) ∧ (∀ i, (s.conn i).state = .free) ∧ (∀ f, (s.fn f).sqs = [] ∧ (s.fn f).rings = [] ∧ (s.fn f).go = false) ∧
  (∀ q, (s.qtr q).dir.slots = [] ∧ (s.qtr q).store.segs = [] ∧ (s.qtr q).tk.inUse = []) ∧ MemoriesSound s

/-- No command is refused, and only one stops the node: the end of a transfer whose COPY names HBM bytes that its stack does not have.
That fault is the model's choice (assumption 41), and that no command is refused as well (assumption
52). -/
def Obligations.OneTransferAloneFaults : Prop :=
  (∀ (c : Instr) (s : State) (r : Refusal), exec c s ≠ .refused r) ∧
  ∀ (c : Instr) (s : State) (x : Fault), exec c s = .fault x ↔
    ∃ (q e : Fin 4) (d : Dma), c = .dmaTransferEnd q e ∧ (s.eng q e).state = .running ∧ (s.eng q e).desc = some d ∧ d.own = false ∧
      copyBeyond d = true ∧ x = .noSuchHbm (d.src / 2 ^ 36 % 4 + 4 * q) (d.src % 2 ^ 36 + d.length)

/-- R316, R402, R416: no command touches the commands that wait or the fuses, and only UPDATE_IMAGE writes the NVM. -/
def Obligations.OnlyUpdatesWriteTheNvm : Prop :=
  ∀ (c : Instr) (s t : State), exec c s = .next t →
    t.pending = s.pending ∧ t.sec.fuseConfLock = s.sec.fuseConfLock ∧ t.sec.fuseJtagKill = s.sec.fuseJtagKill ∧
    t.sec.fuseIdentProg = s.sec.fuseIdentProg ∧
    ((∀ m b, c ≠ .updateImageStart m b ∧ c ≠ .updateImageData m b ∧ c ≠ .updateImageFinish m b) → t.boot.nvm = s.boot.nvm)

/-- Every step keeps the canonical form of HBM, of the NVM and of every function's address space, from every state that has it, so that
equal memories stay equal data.
The canonical form is the model's own (assumption 4). -/
def Obligations.MemoriesStaySound : Prop :=
  (∀ s t : State, MemoriesSound s → step s = .next t → MemoriesSound t) ∧ ∀ s t : State, MemoriesSound s → Runs s t → MemoriesSound t

/-- R211, Table 8-2: the 32 bytes of an Epcen header give every field back, at every value that its field can hold. -/
def Obligations.HeadersRoundTrip : Prop :=
  ∀ h : Hdr, h.opcode < 256 → h.srcNode < 65536 → h.dstNode < 65536 → h.tenant < 64 → h.tc < 8 → (∀ q, h.hint = some q → q < 4) →
    h.dstConn < 16777216 → h.srcConn < 16777216 → h.psn < 16777216 → h.ackPsn < 16777216 → h.msn < 65536 → h.idx < 65536 →
    h.payLen < 8192 → h.bytes.length = 32 ∧ Hdr.ofBytes h.bytes = h
end

