-- ==== Sys2Proof/Laws/Mem.lean ====
section
/-!
SUPPORT. The laws of sparse memory: every operation keeps the canonical form, and a read after a write.
-/
namespace Sys2Proof.Machine

/-- A lower bound may be dropped. -/
theorem Mem.wfFrom_weaken {lo : Option Nat} {l : Nat} {m : Mem} (h : Mem.wfFrom (some l) m = true)
    (b : ∀ x, lo = some x → x ≤ l) : Mem.wfFrom lo m = true := by
  cases m with
  | nil => simp [Mem.wfFrom]
  | cons e t =>
    obtain ⟨k, v⟩ := e
    simp only [Mem.wfFrom, Bool.and_eq_true, decide_eq_true_eq] at h ⊢
    refine ⟨⟨?_, h.1.2⟩, h.2⟩
    cases lo with
    | none => rfl
    | some x => simpa using Nat.lt_of_le_of_lt (b x rfl) h.1.1

theorem Mem.wfFrom_cons (lo : Option Nat) (a : Nat) (b : Byte) (t : Mem) (hb : b ≠ 0) (hl : ∀ x, lo = some x → x < a)
    (ht : Mem.wfFrom (some a) t = true) : Mem.wfFrom lo ((a, b) :: t) = true := by
  have hb' : (b != 0) = true := by simpa using hb
  cases lo with
  | none => simp only [Mem.wfFrom, hb', ht, Bool.and_self]
  | some x => simp only [Mem.wfFrom, hb', ht, hl x rfl, decide_true, Bool.and_self]

theorem Mem.set_wfFrom (a : Nat) (b : Byte) (lo : Option Nat) (m : Mem) (h : Mem.wfFrom lo m = true)
    (hl : ∀ x, lo = some x → x < a) : Mem.wfFrom lo (Mem.set a b m) = true := by
  induction m generalizing lo with
  | nil =>
    by_cases g : b = 0
    · rw [Mem.set, if_pos g]; rfl
    · rw [Mem.set, if_neg g]; exact Mem.wfFrom_cons lo a b [] g hl rfl
  | cons e t ih =>
    obtain ⟨k, v⟩ := e
    have hk := h
    simp only [Mem.wfFrom, Bool.and_eq_true] at hk
    by_cases g : a = k
    · subst g
      rw [Mem.set, if_pos rfl]
      by_cases z : b = 0
      · rw [if_pos z]; exact Mem.wfFrom_weaken hk.2 (fun x hx => Nat.le_of_lt (hl x hx))
      · rw [if_neg z]; exact Mem.wfFrom_cons lo a b t z hl hk.2
    · rw [Mem.set, if_neg g]
      by_cases g' : a < k
      · rw [if_pos g']
        by_cases z : b = 0
        · rw [if_pos z]; exact h
        · rw [if_neg z]
          refine Mem.wfFrom_cons lo a b _ z hl ?_
          exact Mem.wfFrom_cons (some a) k v t (by simpa using hk.1.2) (by intro x hx; cases hx; exact g') hk.2
      · rw [if_neg g']
        refine Mem.wfFrom_cons lo k v _ (by simpa using hk.1.2) ?_ (ih (some k) hk.2 ?_)
        · intro x hx; subst hx; simpa using hk.1.1
        · intro x hx; cases hx; omega

/-- Writing a byte keeps the canonical form. -/
theorem Mem.set_wf (a : Nat) (b : Byte) (m : Mem) (h : Mem.wf m = true) : Mem.wf (Mem.set a b m) = true :=
  Mem.set_wfFrom a b none m h (by simp)

/-- Writing a byte string keeps the canonical form. -/
theorem Mem.write_wf (m : Mem) (a : Nat) (l : Bytes) (h : Mem.wf m = true) : Mem.wf (Mem.write m a l) = true := by
  induction l generalizing m a with
  | nil => exact h
  | cons b t ih => exact ih _ _ (Mem.set_wf a b m h)

theorem Mem.filter_wfFrom (p : Nat × Byte → Bool) (lo : Option Nat) (m : Mem) (h : Mem.wfFrom lo m = true) :
    Mem.wfFrom lo (m.filter p) = true := by
  induction m generalizing lo with
  | nil => simpa using h
  | cons e t ih =>
    obtain ⟨k, v⟩ := e
    simp only [Mem.wfFrom, Bool.and_eq_true] at h
    by_cases g : p (k, v) = true
    · simp only [List.filter_cons, g, if_true, Mem.wfFrom, Bool.and_eq_true]
      exact ⟨h.1, ih _ h.2⟩
    · simp only [List.filter_cons, g]
      refine ih lo ?_
      refine Mem.wfFrom_weaken h.2 ?_
      intro x hx
      subst hx
      have := h.1.1
      simp only [decide_eq_true_eq] at this
      omega

/-- Clearing a range keeps the canonical form. -/
theorem Mem.clear_wf (m : Mem) (a n : Nat) (h : Mem.wf m = true) : Mem.wf (Mem.clear m a n) = true :=
  Mem.filter_wfFrom _ none m h

theorem Mem.sets_wf (a : Nat) (c m : Mem) (h : Mem.wf m = true) :
    Mem.wf (c.foldl (fun acc e => Mem.set (a + e.1) e.2 acc) m) = true := by
  induction c generalizing m with
  | nil => exact h
  | cons e t ih => exact ih _ (Mem.set_wf _ _ _ h)

/-- Replacing a range keeps the canonical form, whatever replaces it. -/
theorem Mem.paste_wf (m : Mem) (a n : Nat) (c : Mem) (h : Mem.wf m = true) : Mem.wf (Mem.paste m a n c) = true :=
  Mem.sets_wf a _ _ (Mem.clear_wf m a n h)

theorem Mem.get_below {lo : Nat} {m : Mem} (h : Mem.wfFrom (some lo) m = true) {a : Nat} (g : a ≤ lo) : Mem.get a m = 0 := by
  cases m with
  | nil => rfl
  | cons e t =>
    obtain ⟨k, v⟩ := e
    simp only [Mem.wfFrom, Bool.and_eq_true, decide_eq_true_eq] at h
    have n : ¬ a = k := by omega
    have n' : a < k := by omega
    simp [Mem.get, n, n']

theorem Mem.get_cons (c k : Nat) (v : Byte) (t : Mem) :
    Mem.get c ((k, v) :: t) = if c = k then v else if c < k then 0 else Mem.get c t := rfl

/-- A read after a write of the same address gives the byte written. -/
theorem Mem.get_set_self (a : Nat) (b : Byte) (lo : Option Nat) (m : Mem) (h : Mem.wfFrom lo m = true) :
    Mem.get a (Mem.set a b m) = b := by
  induction m generalizing lo with
  | nil =>
    by_cases g : b = 0
    · rw [Mem.set, if_pos g, g]; rfl
    · rw [Mem.set, if_neg g, Mem.get_cons, if_pos rfl]
  | cons e t ih =>
    obtain ⟨k, v⟩ := e
    simp only [Mem.wfFrom, Bool.and_eq_true] at h
    by_cases g : a = k
    · subst g
      rw [Mem.set, if_pos rfl]
      by_cases z : b = 0
      · rw [if_pos z, Mem.get_below h.2 (Nat.le_refl _), z]
      · rw [if_neg z, Mem.get_cons, if_pos rfl]
    · rw [Mem.set, if_neg g]
      by_cases g' : a < k
      · rw [if_pos g']
        by_cases z : b = 0
        · rw [if_pos z, Mem.get_cons, if_neg g, if_pos g', z]
        · rw [if_neg z, Mem.get_cons, if_pos rfl]
      · rw [if_neg g', Mem.get_cons, if_neg g, if_neg g', ih _ h.2]

/-- A write leaves every other address alone. -/
theorem Mem.get_set_ne (a c : Nat) (b : Byte) (lo : Option Nat) (m : Mem) (h : Mem.wfFrom lo m = true) (n : c ≠ a) :
    Mem.get c (Mem.set a b m) = Mem.get c m := by
  induction m generalizing lo with
  | nil =>
    by_cases g : b = 0
    · rw [Mem.set, if_pos g]
    · rw [Mem.set, if_neg g, Mem.get_cons, if_neg n]; split <;> rfl
  | cons e t ih =>
    obtain ⟨k, v⟩ := e
    simp only [Mem.wfFrom, Bool.and_eq_true] at h
    by_cases g : a = k
    · subst g
      rw [Mem.set, if_pos rfl, Mem.get_cons, if_neg n]
      by_cases z : b = 0
      · rw [if_pos z]
        by_cases l : c < a
        · rw [if_pos l]; exact Mem.get_below h.2 (Nat.le_of_lt l)
        · rw [if_neg l]
      · rw [if_neg z, Mem.get_cons, if_neg n]
    · rw [Mem.set, if_neg g]
      by_cases g' : a < k
      · rw [if_pos g']
        by_cases z : b = 0
        · rw [if_pos z]
        · rw [if_neg z, Mem.get_cons, if_neg n]
          by_cases l : c < a
          · rw [if_pos l, Mem.get_cons, if_neg (by omega), if_pos (by omega)]
          · rw [if_neg l]
      · rw [if_neg g', Mem.get_cons, Mem.get_cons, ih _ h.2]

/-- The empty memory has the canonical form. -/
theorem Mem.nil_wf : Mem.wf [] = true := rfl

end Sys2Proof.Machine
end

