-- ==== Sys2Proof/Laws/Tab.lean ====
section
/-!
SUPPORT. The laws of tables: reading after a change of the same entry, and of another one.
-/
namespace Sys2Proof

theorem Tab.look_put_self {α : Type} (k : Nat) (v : α) (t : Tab α) : Tab.look k (t.put k v) = some v := by
  induction t with
  | nil => simp [Tab.put, Tab.look]
  | cons e t ih =>
    obtain ⟨a, w⟩ := e
    by_cases h : k = a
    · simp [Tab.put, Tab.look, h]
    · by_cases g : k < a
      · simp [Tab.put, Tab.look, h, g]
      · simp [Tab.put, Tab.look, h, g, ih]

theorem Tab.look_put_ne {α : Type} (j k : Nat) (v : α) (t : Tab α) (h : j ≠ k) : Tab.look j (t.put k v) = Tab.look j t := by
  induction t with
  | nil => simp [Tab.put, Tab.look, h]
  | cons e t ih =>
    obtain ⟨a, w⟩ := e
    by_cases g : k = a
    · subst g; simp [Tab.put, Tab.look, h]
    · by_cases g' : k < a
      · simp [Tab.put, Tab.look, g, g', h]
      · by_cases i : j = a
        · subst i; simp [Tab.put, Tab.look, g, g']
        · simp [Tab.put, Tab.look, g, g', i, ih]

theorem Tab.look_del_self {α : Type} (k : Nat) (t : Tab α) : Tab.look k (t.del k) = none := by
  induction t with
  | nil => rfl
  | cons e t ih =>
    obtain ⟨a, w⟩ := e
    by_cases g : a = k
    · subst g; simpa [Tab.del] using ih
    · have g' : ¬ k = a := fun x => g x.symm
      simpa [Tab.del, g, Tab.look, g'] using ih

theorem Tab.look_del_ne {α : Type} (j k : Nat) (t : Tab α) (h : j ≠ k) : Tab.look j (t.del k) = Tab.look j t := by
  induction t with
  | nil => rfl
  | cons e t ih =>
    obtain ⟨a, w⟩ := e
    by_cases g : a = k
    · subst g; simpa [Tab.del, Tab.look, h] using ih
    · by_cases i : j = a
      · subst i; simp [Tab.del, Tab.look, g]
      · simpa [Tab.del, Tab.look, g, i] using ih

@[simp] theorem Tab.fetch_put_self {α : Type} (k : Nat) (v d : α) (t : Tab α) : (t.put k v).fetch k d = v := by
  simp [Tab.fetch, Tab.look_put_self]

theorem Tab.fetch_put_ne {α : Type} (j k : Nat) (v d : α) (t : Tab α) (h : j ≠ k) : (t.put k v).fetch j d = t.fetch j d := by
  simp [Tab.fetch, Tab.look_put_ne j k v t h]

@[simp] theorem Tab.fetch_del_self {α : Type} (k : Nat) (d : α) (t : Tab α) : (t.del k).fetch k d = d := by
  simp [Tab.fetch, Tab.look_del_self]

theorem Tab.fetch_del_ne {α : Type} (j k : Nat) (d : α) (t : Tab α) (h : j ≠ k) : (t.del k).fetch j d = t.fetch j d := by
  simp [Tab.fetch, Tab.look_del_ne j k t h]

@[simp] theorem Tab.fetch_amend_self {α : Type} (k : Nat) (d : α) (f : α → α) (t : Tab α) :
    (t.amend k d f).fetch k d = f (t.fetch k d) := by
  simp [Tab.amend]

theorem Tab.fetch_amend_ne {α : Type} (j k : Nat) (d e : α) (f : α → α) (t : Tab α) (h : j ≠ k) :
    (t.amend k d f).fetch j e = t.fetch j e := by
  simp [Tab.amend, Tab.fetch_put_ne j k _ e t h]

@[simp] theorem Tab.look_amend_self {α : Type} (k : Nat) (d : α) (f : α → α) (t : Tab α) :
    Tab.look k (t.amend k d f) = some (f (t.fetch k d)) := by
  simp [Tab.amend, Tab.look_put_self]

/-- A table's entries after `put`: the old ones or the new one. -/
theorem Tab.mem_put {α : Type} {k : Nat} {v : α} {t : Tab α} {e : Nat × α} (h : e ∈ t.put k v) : e ∈ t ∨ e = (k, v) := by
  induction t with
  | nil => exact Or.inr (by simpa [Tab.put] using h)
  | cons x t ih =>
    obtain ⟨a, w⟩ := x
    by_cases g : k = a
    · simp only [Tab.put, g, if_true, List.mem_cons] at h
      rcases h with h | h
      · exact Or.inr (by rw [h, g])
      · exact Or.inl (List.mem_cons_of_mem _ h)
    · by_cases g' : k < a
      · simp only [Tab.put, g, g', if_true, if_false, List.mem_cons] at h
        rcases h with h | h | h
        · exact Or.inr h
        · exact Or.inl (by simp [h])
        · exact Or.inl (List.mem_cons_of_mem _ h)
      · simp only [Tab.put, g, g', if_false, List.mem_cons] at h
        rcases h with h | h
        · exact Or.inl (by simp [h])
        · rcases ih h with i | i
          · exact Or.inl (List.mem_cons_of_mem _ i)
          · exact Or.inr i

/-- What `fetch` gives is an entry of the table or the default. -/
theorem Tab.fetch_mem {α : Type} (t : Tab α) (k : Nat) (d : α) : t.fetch k d = d ∨ (k, t.fetch k d) ∈ t := by
  induction t with
  | nil => exact Or.inl rfl
  | cons x t ih =>
    obtain ⟨a, w⟩ := x
    by_cases g : k = a
    · subst g; exact Or.inr (by simp [Tab.fetch, Tab.look])
    · have e : Tab.fetch ((a, w) :: t) k d = Tab.fetch t k d := by simp [Tab.fetch, Tab.look, g]
      rw [e]
      rcases ih with i | i
      · exact Or.inl i
      · exact Or.inr (List.mem_cons_of_mem _ i)

theorem Tab.look_mem {α : Type} {k : Nat} {v : α} {t : Tab α} (h : Tab.look k t = some v) : (k, v) ∈ t := by
  induction t with
  | nil => cases h
  | cons x t ih =>
    obtain ⟨a, w⟩ := x
    by_cases g : k = a
    · subst g
      simp only [Tab.look, if_true, Option.some.injEq] at h
      rw [h]; exact List.mem_cons_self
    · simp only [Tab.look, g, if_false] at h
      exact List.mem_cons_of_mem _ (ih h)

end Sys2Proof
end

