-- ==== Sys2Proof/Laws/State.lean ====
section
/-!
SUPPORT. One lemma per field per update of State, each true by computation, and the reading of a unit after it has been changed.
-/
namespace Sys2Proof.Machine

@[simp] theorem State.updQ_time (s : State) (q : Nat) (f : Quarter → Quarter) : (s.updQ q f).time = s.time := rfl
@[simp] theorem State.updQ_ticks (s : State) (q : Nat) (f : Quarter → Quarter) : (s.updQ q f).ticks = s.ticks := rfl
@[simp] theorem State.updQ_free (s : State) (q : Nat) (f : Quarter → Quarter) : (s.updQ q f).free = s.free := rfl
@[simp] theorem State.updQ_pending (s : State) (q : Nat) (f : Quarter → Quarter) : (s.updQ q f).pending = s.pending := rfl
@[simp] theorem State.updQ_regs (s : State) (q : Nat) (f : Quarter → Quarter) : (s.updQ q f).regs = s.regs := rfl
@[simp] theorem State.updQ_host (s : State) (q : Nat) (f : Quarter → Quarter) : (s.updQ q f).host = s.host := rfl
@[simp] theorem State.updQ_inbox (s : State) (q : Nat) (f : Quarter → Quarter) : (s.updQ q f).inbox = s.inbox := rfl
@[simp] theorem State.updQ_unitErrs (s : State) (q : Nat) (f : Quarter → Quarter) : (s.updQ q f).unitErrs = s.unitErrs := rfl
@[simp] theorem State.updQ_stk (s : State) (q : Nat) (f : Quarter → Quarter) : (s.updQ q f).stk = s.stk := rfl
@[simp] theorem State.updQ_hbm (s : State) (q : Nat) (f : Quarter → Quarter) : (s.updQ q f).hbm = s.hbm := rfl
@[simp] theorem State.updQ_sec (s : State) (q : Nat) (f : Quarter → Quarter) : (s.updQ q f).sec = s.sec := rfl
@[simp] theorem State.updQ_pwr (s : State) (q : Nat) (f : Quarter → Quarter) : (s.updQ q f).pwr = s.pwr := rfl
@[simp] theorem State.updQ_boot (s : State) (q : Nat) (f : Quarter → Quarter) : (s.updQ q f).boot = s.boot := rfl
@[simp] theorem State.updQ_pins (s : State) (q : Nat) (f : Quarter → Quarter) : (s.updQ q f).pins = s.pins := rfl
@[simp] theorem State.updQ_loads (s : State) (q : Nat) (f : Quarter → Quarter) : (s.updQ q f).loads = s.loads := rfl
@[simp] theorem State.updQ_tickMeter (s : State) (q : Nat) (f : Quarter → Quarter) : (s.updQ q f).tickMeter = s.tickMeter := rfl
@[simp] theorem State.updQ_finjPermit (s : State) (q : Nat) (f : Quarter → Quarter) : (s.updQ q f).finjPermit = s.finjPermit := rfl
@[simp] theorem State.updQ_fmodeDenied (s : State) (q : Nat) (f : Quarter → Quarter) : (s.updQ q f).fmodeDenied = s.fmodeDenied := rfl
@[simp] theorem State.updQ_nextId (s : State) (q : Nat) (f : Quarter → Quarter) : (s.updQ q f).nextId = s.nextId := rfl

@[simp] theorem State.updFn_time (s : State) (n : Nat) (g : Fn → Fn) : (s.updFn n g).time = s.time := rfl
@[simp] theorem State.updFn_ticks (s : State) (n : Nat) (g : Fn → Fn) : (s.updFn n g).ticks = s.ticks := rfl
@[simp] theorem State.updFn_free (s : State) (n : Nat) (g : Fn → Fn) : (s.updFn n g).free = s.free := rfl
@[simp] theorem State.updFn_pending (s : State) (n : Nat) (g : Fn → Fn) : (s.updFn n g).pending = s.pending := rfl
@[simp] theorem State.updFn_regs (s : State) (n : Nat) (g : Fn → Fn) : (s.updFn n g).regs = s.regs := rfl
@[simp] theorem State.updFn_inbox (s : State) (n : Nat) (g : Fn → Fn) : (s.updFn n g).inbox = s.inbox := rfl
@[simp] theorem State.updFn_unitErrs (s : State) (n : Nat) (g : Fn → Fn) : (s.updFn n g).unitErrs = s.unitErrs := rfl
@[simp] theorem State.updFn_quarters (s : State) (n : Nat) (g : Fn → Fn) : (s.updFn n g).quarters = s.quarters := rfl
@[simp] theorem State.updFn_stk (s : State) (n : Nat) (g : Fn → Fn) : (s.updFn n g).stk = s.stk := rfl
@[simp] theorem State.updFn_hbm (s : State) (n : Nat) (g : Fn → Fn) : (s.updFn n g).hbm = s.hbm := rfl
@[simp] theorem State.updFn_sec (s : State) (n : Nat) (g : Fn → Fn) : (s.updFn n g).sec = s.sec := rfl
@[simp] theorem State.updFn_pwr (s : State) (n : Nat) (g : Fn → Fn) : (s.updFn n g).pwr = s.pwr := rfl
@[simp] theorem State.updFn_boot (s : State) (n : Nat) (g : Fn → Fn) : (s.updFn n g).boot = s.boot := rfl
@[simp] theorem State.updFn_pins (s : State) (n : Nat) (g : Fn → Fn) : (s.updFn n g).pins = s.pins := rfl
@[simp] theorem State.updFn_loads (s : State) (n : Nat) (g : Fn → Fn) : (s.updFn n g).loads = s.loads := rfl
@[simp] theorem State.updFn_tickMeter (s : State) (n : Nat) (g : Fn → Fn) : (s.updFn n g).tickMeter = s.tickMeter := rfl
@[simp] theorem State.updFn_finjPermit (s : State) (n : Nat) (g : Fn → Fn) : (s.updFn n g).finjPermit = s.finjPermit := rfl
@[simp] theorem State.updFn_fmodeDenied (s : State) (n : Nat) (g : Fn → Fn) : (s.updFn n g).fmodeDenied = s.fmodeDenied := rfl
@[simp] theorem State.updFn_nextId (s : State) (n : Nat) (g : Fn → Fn) : (s.updFn n g).nextId = s.nextId := rfl

@[simp] theorem State.updStack_time (s : State) (n : Nat) (f : Stack → Stack) : (s.updStack n f).time = s.time := rfl
@[simp] theorem State.updStack_ticks (s : State) (n : Nat) (f : Stack → Stack) : (s.updStack n f).ticks = s.ticks := rfl
@[simp] theorem State.updStack_free (s : State) (n : Nat) (f : Stack → Stack) : (s.updStack n f).free = s.free := rfl
@[simp] theorem State.updStack_pending (s : State) (n : Nat) (f : Stack → Stack) : (s.updStack n f).pending = s.pending := rfl
@[simp] theorem State.updStack_regs (s : State) (n : Nat) (f : Stack → Stack) : (s.updStack n f).regs = s.regs := rfl
@[simp] theorem State.updStack_host (s : State) (n : Nat) (f : Stack → Stack) : (s.updStack n f).host = s.host := rfl
@[simp] theorem State.updStack_inbox (s : State) (n : Nat) (f : Stack → Stack) : (s.updStack n f).inbox = s.inbox := rfl
@[simp] theorem State.updStack_unitErrs (s : State) (n : Nat) (f : Stack → Stack) : (s.updStack n f).unitErrs = s.unitErrs := rfl
@[simp] theorem State.updStack_quarters (s : State) (n : Nat) (f : Stack → Stack) : (s.updStack n f).quarters = s.quarters := rfl
@[simp] theorem State.updStack_hbm (s : State) (n : Nat) (f : Stack → Stack) : (s.updStack n f).hbm = s.hbm := rfl
@[simp] theorem State.updStack_sec (s : State) (n : Nat) (f : Stack → Stack) : (s.updStack n f).sec = s.sec := rfl
@[simp] theorem State.updStack_pwr (s : State) (n : Nat) (f : Stack → Stack) : (s.updStack n f).pwr = s.pwr := rfl
@[simp] theorem State.updStack_boot (s : State) (n : Nat) (f : Stack → Stack) : (s.updStack n f).boot = s.boot := rfl
@[simp] theorem State.updStack_pins (s : State) (n : Nat) (f : Stack → Stack) : (s.updStack n f).pins = s.pins := rfl
@[simp] theorem State.updStack_loads (s : State) (n : Nat) (f : Stack → Stack) : (s.updStack n f).loads = s.loads := rfl
@[simp] theorem State.updStack_tickMeter (s : State) (n : Nat) (f : Stack → Stack) : (s.updStack n f).tickMeter = s.tickMeter := rfl
@[simp] theorem State.updStack_finjPermit (s : State) (n : Nat) (f : Stack → Stack) : (s.updStack n f).finjPermit = s.finjPermit := rfl
@[simp] theorem State.updStack_fmodeDenied (s : State) (n : Nat) (f : Stack → Stack) : (s.updStack n f).fmodeDenied = s.fmodeDenied := rfl
@[simp] theorem State.updStack_nextId (s : State) (n : Nat) (f : Stack → Stack) : (s.updStack n f).nextId = s.nextId := rfl

@[simp] theorem State.updTenant_time (s : State) (n : Nat) (f : Tenant → Tenant) : (s.updTenant n f).time = s.time := rfl
@[simp] theorem State.updTenant_ticks (s : State) (n : Nat) (f : Tenant → Tenant) : (s.updTenant n f).ticks = s.ticks := rfl
@[simp] theorem State.updTenant_free (s : State) (n : Nat) (f : Tenant → Tenant) : (s.updTenant n f).free = s.free := rfl
@[simp] theorem State.updTenant_pending (s : State) (n : Nat) (f : Tenant → Tenant) : (s.updTenant n f).pending = s.pending := rfl
@[simp] theorem State.updTenant_regs (s : State) (n : Nat) (f : Tenant → Tenant) : (s.updTenant n f).regs = s.regs := rfl
@[simp] theorem State.updTenant_host (s : State) (n : Nat) (f : Tenant → Tenant) : (s.updTenant n f).host = s.host := rfl
@[simp] theorem State.updTenant_inbox (s : State) (n : Nat) (f : Tenant → Tenant) : (s.updTenant n f).inbox = s.inbox := rfl
@[simp] theorem State.updTenant_unitErrs (s : State) (n : Nat) (f : Tenant → Tenant) : (s.updTenant n f).unitErrs = s.unitErrs := rfl
@[simp] theorem State.updTenant_quarters (s : State) (n : Nat) (f : Tenant → Tenant) : (s.updTenant n f).quarters = s.quarters := rfl
@[simp] theorem State.updTenant_stk (s : State) (n : Nat) (f : Tenant → Tenant) : (s.updTenant n f).stk = s.stk := rfl
@[simp] theorem State.updTenant_hbm (s : State) (n : Nat) (f : Tenant → Tenant) : (s.updTenant n f).hbm = s.hbm := rfl
@[simp] theorem State.updTenant_pwr (s : State) (n : Nat) (f : Tenant → Tenant) : (s.updTenant n f).pwr = s.pwr := rfl
@[simp] theorem State.updTenant_boot (s : State) (n : Nat) (f : Tenant → Tenant) : (s.updTenant n f).boot = s.boot := rfl
@[simp] theorem State.updTenant_pins (s : State) (n : Nat) (f : Tenant → Tenant) : (s.updTenant n f).pins = s.pins := rfl
@[simp] theorem State.updTenant_loads (s : State) (n : Nat) (f : Tenant → Tenant) : (s.updTenant n f).loads = s.loads := rfl
@[simp] theorem State.updTenant_tickMeter (s : State) (n : Nat) (f : Tenant → Tenant) : (s.updTenant n f).tickMeter = s.tickMeter := rfl
@[simp] theorem State.updTenant_finjPermit (s : State) (n : Nat) (f : Tenant → Tenant) : (s.updTenant n f).finjPermit = s.finjPermit := rfl
@[simp] theorem State.updTenant_fmodeDenied (s : State) (n : Nat) (f : Tenant → Tenant) : (s.updTenant n f).fmodeDenied = s.fmodeDenied := rfl
@[simp] theorem State.updTenant_nextId (s : State) (n : Nat) (f : Tenant → Tenant) : (s.updTenant n f).nextId = s.nextId := rfl

@[simp] theorem State.advance_ticks (s : State) (n : Nat) : (s.advance n).ticks = s.ticks := rfl
@[simp] theorem State.advance_free (s : State) (n : Nat) : (s.advance n).free = s.free := rfl
@[simp] theorem State.advance_pending (s : State) (n : Nat) : (s.advance n).pending = s.pending := rfl
@[simp] theorem State.advance_regs (s : State) (n : Nat) : (s.advance n).regs = s.regs := rfl
@[simp] theorem State.advance_host (s : State) (n : Nat) : (s.advance n).host = s.host := rfl
@[simp] theorem State.advance_inbox (s : State) (n : Nat) : (s.advance n).inbox = s.inbox := rfl
@[simp] theorem State.advance_unitErrs (s : State) (n : Nat) : (s.advance n).unitErrs = s.unitErrs := rfl
@[simp] theorem State.advance_quarters (s : State) (n : Nat) : (s.advance n).quarters = s.quarters := rfl
@[simp] theorem State.advance_stk (s : State) (n : Nat) : (s.advance n).stk = s.stk := rfl
@[simp] theorem State.advance_hbm (s : State) (n : Nat) : (s.advance n).hbm = s.hbm := rfl
@[simp] theorem State.advance_sec (s : State) (n : Nat) : (s.advance n).sec = s.sec := rfl
@[simp] theorem State.advance_pwr (s : State) (n : Nat) : (s.advance n).pwr = s.pwr := rfl
@[simp] theorem State.advance_boot (s : State) (n : Nat) : (s.advance n).boot = s.boot := rfl
@[simp] theorem State.advance_pins (s : State) (n : Nat) : (s.advance n).pins = s.pins := rfl
@[simp] theorem State.advance_loads (s : State) (n : Nat) : (s.advance n).loads = s.loads := rfl
@[simp] theorem State.advance_tickMeter (s : State) (n : Nat) : (s.advance n).tickMeter = s.tickMeter := rfl
@[simp] theorem State.advance_finjPermit (s : State) (n : Nat) : (s.advance n).finjPermit = s.finjPermit := rfl
@[simp] theorem State.advance_fmodeDenied (s : State) (n : Nat) : (s.advance n).fmodeDenied = s.fmodeDenied := rfl
@[simp] theorem State.advance_nextId (s : State) (n : Nat) : (s.advance n).nextId = s.nextId := rfl

@[simp] theorem State.setReg_time (s : State) (code q off v : Nat) : (s.setReg code q off v).time = s.time := rfl
@[simp] theorem State.setReg_ticks (s : State) (code q off v : Nat) : (s.setReg code q off v).ticks = s.ticks := rfl
@[simp] theorem State.setReg_free (s : State) (code q off v : Nat) : (s.setReg code q off v).free = s.free := rfl
@[simp] theorem State.setReg_pending (s : State) (code q off v : Nat) : (s.setReg code q off v).pending = s.pending := rfl
@[simp] theorem State.setReg_host (s : State) (code q off v : Nat) : (s.setReg code q off v).host = s.host := rfl
@[simp] theorem State.setReg_inbox (s : State) (code q off v : Nat) : (s.setReg code q off v).inbox = s.inbox := rfl
@[simp] theorem State.setReg_unitErrs (s : State) (code q off v : Nat) : (s.setReg code q off v).unitErrs = s.unitErrs := rfl
@[simp] theorem State.setReg_quarters (s : State) (code q off v : Nat) : (s.setReg code q off v).quarters = s.quarters := rfl
@[simp] theorem State.setReg_stk (s : State) (code q off v : Nat) : (s.setReg code q off v).stk = s.stk := rfl
@[simp] theorem State.setReg_hbm (s : State) (code q off v : Nat) : (s.setReg code q off v).hbm = s.hbm := rfl
@[simp] theorem State.setReg_sec (s : State) (code q off v : Nat) : (s.setReg code q off v).sec = s.sec := rfl
@[simp] theorem State.setReg_pwr (s : State) (code q off v : Nat) : (s.setReg code q off v).pwr = s.pwr := rfl
@[simp] theorem State.setReg_boot (s : State) (code q off v : Nat) : (s.setReg code q off v).boot = s.boot := rfl
@[simp] theorem State.setReg_pins (s : State) (code q off v : Nat) : (s.setReg code q off v).pins = s.pins := rfl
@[simp] theorem State.setReg_loads (s : State) (code q off v : Nat) : (s.setReg code q off v).loads = s.loads := rfl
@[simp] theorem State.setReg_tickMeter (s : State) (code q off v : Nat) : (s.setReg code q off v).tickMeter = s.tickMeter := rfl
@[simp] theorem State.setReg_finjPermit (s : State) (code q off v : Nat) : (s.setReg code q off v).finjPermit = s.finjPermit := rfl
@[simp] theorem State.setReg_fmodeDenied (s : State) (code q off v : Nat) : (s.setReg code q off v).fmodeDenied = s.fmodeDenied := rfl
@[simp] theorem State.setReg_nextId (s : State) (code q off v : Nat) : (s.setReg code q off v).nextId = s.nextId := rfl

@[simp] theorem State.setCounter_time (s : State) (a : Nat) (c : Counter) : (s.setCounter a c).time = s.time := rfl
@[simp] theorem State.setCounter_ticks (s : State) (a : Nat) (c : Counter) : (s.setCounter a c).ticks = s.ticks := rfl
@[simp] theorem State.setCounter_free (s : State) (a : Nat) (c : Counter) : (s.setCounter a c).free = s.free := rfl
@[simp] theorem State.setCounter_pending (s : State) (a : Nat) (c : Counter) : (s.setCounter a c).pending = s.pending := rfl
@[simp] theorem State.setCounter_host (s : State) (a : Nat) (c : Counter) : (s.setCounter a c).host = s.host := rfl
@[simp] theorem State.setCounter_inbox (s : State) (a : Nat) (c : Counter) : (s.setCounter a c).inbox = s.inbox := rfl
@[simp] theorem State.setCounter_unitErrs (s : State) (a : Nat) (c : Counter) : (s.setCounter a c).unitErrs = s.unitErrs := rfl
@[simp] theorem State.setCounter_quarters (s : State) (a : Nat) (c : Counter) : (s.setCounter a c).quarters = s.quarters := rfl
@[simp] theorem State.setCounter_stk (s : State) (a : Nat) (c : Counter) : (s.setCounter a c).stk = s.stk := rfl
@[simp] theorem State.setCounter_hbm (s : State) (a : Nat) (c : Counter) : (s.setCounter a c).hbm = s.hbm := rfl
@[simp] theorem State.setCounter_sec (s : State) (a : Nat) (c : Counter) : (s.setCounter a c).sec = s.sec := rfl
@[simp] theorem State.setCounter_pwr (s : State) (a : Nat) (c : Counter) : (s.setCounter a c).pwr = s.pwr := rfl
@[simp] theorem State.setCounter_boot (s : State) (a : Nat) (c : Counter) : (s.setCounter a c).boot = s.boot := rfl
@[simp] theorem State.setCounter_pins (s : State) (a : Nat) (c : Counter) : (s.setCounter a c).pins = s.pins := rfl
@[simp] theorem State.setCounter_loads (s : State) (a : Nat) (c : Counter) : (s.setCounter a c).loads = s.loads := rfl
@[simp] theorem State.setCounter_tickMeter (s : State) (a : Nat) (c : Counter) : (s.setCounter a c).tickMeter = s.tickMeter := rfl
@[simp] theorem State.setCounter_finjPermit (s : State) (a : Nat) (c : Counter) : (s.setCounter a c).finjPermit = s.finjPermit := rfl
@[simp] theorem State.setCounter_fmodeDenied (s : State) (a : Nat) (c : Counter) : (s.setCounter a c).fmodeDenied = s.fmodeDenied := rfl
@[simp] theorem State.setCounter_nextId (s : State) (a : Nat) (c : Counter) : (s.setCounter a c).nextId = s.nextId := rfl

@[simp] theorem State.stage_time (s : State) (code q off v : Nat) : (s.stage code q off v).time = s.time := rfl
@[simp] theorem State.stage_ticks (s : State) (code q off v : Nat) : (s.stage code q off v).ticks = s.ticks := rfl
@[simp] theorem State.stage_free (s : State) (code q off v : Nat) : (s.stage code q off v).free = s.free := rfl
@[simp] theorem State.stage_pending (s : State) (code q off v : Nat) : (s.stage code q off v).pending = s.pending := rfl
@[simp] theorem State.stage_host (s : State) (code q off v : Nat) : (s.stage code q off v).host = s.host := rfl
@[simp] theorem State.stage_inbox (s : State) (code q off v : Nat) : (s.stage code q off v).inbox = s.inbox := rfl
@[simp] theorem State.stage_unitErrs (s : State) (code q off v : Nat) : (s.stage code q off v).unitErrs = s.unitErrs := rfl
@[simp] theorem State.stage_quarters (s : State) (code q off v : Nat) : (s.stage code q off v).quarters = s.quarters := rfl
@[simp] theorem State.stage_stk (s : State) (code q off v : Nat) : (s.stage code q off v).stk = s.stk := rfl
@[simp] theorem State.stage_hbm (s : State) (code q off v : Nat) : (s.stage code q off v).hbm = s.hbm := rfl
@[simp] theorem State.stage_sec (s : State) (code q off v : Nat) : (s.stage code q off v).sec = s.sec := rfl
@[simp] theorem State.stage_pwr (s : State) (code q off v : Nat) : (s.stage code q off v).pwr = s.pwr := rfl
@[simp] theorem State.stage_boot (s : State) (code q off v : Nat) : (s.stage code q off v).boot = s.boot := rfl
@[simp] theorem State.stage_pins (s : State) (code q off v : Nat) : (s.stage code q off v).pins = s.pins := rfl
@[simp] theorem State.stage_loads (s : State) (code q off v : Nat) : (s.stage code q off v).loads = s.loads := rfl
@[simp] theorem State.stage_tickMeter (s : State) (code q off v : Nat) : (s.stage code q off v).tickMeter = s.tickMeter := rfl
@[simp] theorem State.stage_finjPermit (s : State) (code q off v : Nat) : (s.stage code q off v).finjPermit = s.finjPermit := rfl
@[simp] theorem State.stage_fmodeDenied (s : State) (code q off v : Nat) : (s.stage code q off v).fmodeDenied = s.fmodeDenied := rfl
@[simp] theorem State.stage_nextId (s : State) (code q off v : Nat) : (s.stage code q off v).nextId = s.nextId := rfl

@[simp] theorem State.toPhase_time (s : State) (p : Nat) : (s.toPhase p).time = s.time := rfl
@[simp] theorem State.toPhase_ticks (s : State) (p : Nat) : (s.toPhase p).ticks = s.ticks := rfl
@[simp] theorem State.toPhase_free (s : State) (p : Nat) : (s.toPhase p).free = s.free := rfl
@[simp] theorem State.toPhase_pending (s : State) (p : Nat) : (s.toPhase p).pending = s.pending := rfl
@[simp] theorem State.toPhase_regs (s : State) (p : Nat) : (s.toPhase p).regs = s.regs := rfl
@[simp] theorem State.toPhase_host (s : State) (p : Nat) : (s.toPhase p).host = s.host := rfl
@[simp] theorem State.toPhase_inbox (s : State) (p : Nat) : (s.toPhase p).inbox = s.inbox := rfl
@[simp] theorem State.toPhase_unitErrs (s : State) (p : Nat) : (s.toPhase p).unitErrs = s.unitErrs := rfl
@[simp] theorem State.toPhase_quarters (s : State) (p : Nat) : (s.toPhase p).quarters = s.quarters := rfl
@[simp] theorem State.toPhase_stk (s : State) (p : Nat) : (s.toPhase p).stk = s.stk := rfl
@[simp] theorem State.toPhase_hbm (s : State) (p : Nat) : (s.toPhase p).hbm = s.hbm := rfl
@[simp] theorem State.toPhase_sec (s : State) (p : Nat) : (s.toPhase p).sec = s.sec := rfl
@[simp] theorem State.toPhase_pwr (s : State) (p : Nat) : (s.toPhase p).pwr = s.pwr := rfl
@[simp] theorem State.toPhase_pins (s : State) (p : Nat) : (s.toPhase p).pins = s.pins := rfl
@[simp] theorem State.toPhase_loads (s : State) (p : Nat) : (s.toPhase p).loads = s.loads := rfl
@[simp] theorem State.toPhase_tickMeter (s : State) (p : Nat) : (s.toPhase p).tickMeter = s.tickMeter := rfl
@[simp] theorem State.toPhase_finjPermit (s : State) (p : Nat) : (s.toPhase p).finjPermit = s.finjPermit := rfl
@[simp] theorem State.toPhase_fmodeDenied (s : State) (p : Nat) : (s.toPhase p).fmodeDenied = s.fmodeDenied := rfl
@[simp] theorem State.toPhase_nextId (s : State) (p : Nat) : (s.toPhase p).nextId = s.nextId := rfl

/-! ### Units after a change -/

@[simp] theorem State.qtr_updQ_self (s : State) (q : Nat) (f : Quarter → Quarter) : (s.updQ q f).qtr q = f (s.qtr q) := by
  simp [State.qtr, State.updQ]

theorem State.qtr_updQ_ne (s : State) (p q : Nat) (f : Quarter → Quarter) (h : p ≠ q) : (s.updQ q f).qtr p = s.qtr p := by
  simp [State.qtr, State.updQ, Tab.fetch_amend_ne p q _ _ f s.quarters h]

@[simp] theorem State.fn_updFn_self (s : State) (n : Nat) (g : Fn → Fn) : (s.updFn n g).fn n = g (s.fn n) := by
  simp [State.fn, State.updFn]

theorem State.fn_updFn_ne (s : State) (m n : Nat) (g : Fn → Fn) (h : m ≠ n) : (s.updFn n g).fn m = s.fn m := by
  simp [State.fn, State.updFn, Tab.fetch_amend_ne m n _ _ g s.host.fns h]

@[simp] theorem State.stack_updStack_self (s : State) (n : Nat) (f : Stack → Stack) : (s.updStack n f).stack n = f (s.stack n) := by
  simp [State.stack, State.updStack]

theorem State.stack_updStack_ne (s : State) (m n : Nat) (f : Stack → Stack) (h : m ≠ n) :
    (s.updStack n f).stack m = s.stack m := by
  simp [State.stack, State.updStack, Tab.fetch_amend_ne m n _ _ f s.stk h]

@[simp] theorem State.tenant_updTenant_self (s : State) (n : Nat) (f : Tenant → Tenant) :
    (s.updTenant n f).tenant n = f (s.tenant n) := by
  simp [State.tenant, State.updTenant]

theorem State.tenant_updTenant_ne (s : State) (m n : Nat) (f : Tenant → Tenant) (h : m ≠ n) :
    (s.updTenant n f).tenant m = s.tenant m := by
  simp [State.tenant, State.updTenant, Tab.fetch_amend_ne m n _ _ f s.sec.tenants h]

@[simp] theorem State.qtr_updFn (s : State) (q n : Nat) (g : Fn → Fn) : (s.updFn n g).qtr q = s.qtr q := rfl
@[simp] theorem State.qtr_updStack (s : State) (q n : Nat) (f : Stack → Stack) : (s.updStack n f).qtr q = s.qtr q := rfl
@[simp] theorem State.qtr_updTenant (s : State) (q n : Nat) (f : Tenant → Tenant) : (s.updTenant n f).qtr q = s.qtr q := rfl
@[simp] theorem State.qtr_advance (s : State) (q n : Nat) : (s.advance n).qtr q = s.qtr q := rfl
@[simp] theorem State.fn_updQ (s : State) (q n : Nat) (f : Quarter → Quarter) : (s.updQ q f).fn n = s.fn n := rfl
@[simp] theorem State.fn_updStack (s : State) (q n : Nat) (f : Stack → Stack) : (s.updStack q f).fn n = s.fn n := rfl
@[simp] theorem State.fn_advance (s : State) (n m : Nat) : (s.advance m).fn n = s.fn n := rfl
@[simp] theorem State.stack_updQ (s : State) (q n : Nat) (f : Quarter → Quarter) : (s.updQ q f).stack n = s.stack n := rfl
@[simp] theorem State.stack_updFn (s : State) (m n : Nat) (g : Fn → Fn) : (s.updFn m g).stack n = s.stack n := rfl
@[simp] theorem State.tenant_updQ (s : State) (q n : Nat) (f : Quarter → Quarter) : (s.updQ q f).tenant n = s.tenant n := rfl

/-- The value in effect after it has been set. -/
@[simp] theorem State.reg_setReg_self (s : State) (code q off v : Nat) : (s.setReg code q off v).reg code q off = v % 2 ^ 32 := by
  simp [State.reg, State.setReg, w32]

/-- Setting a register leaves the registers at other addresses alone. -/
theorem State.reg_setReg_ne (s : State) (c c' q q' off off' v : Nat) (h : blockBase c' q' + off' ≠ blockBase c q + off) :
    (s.setReg c q off v).reg c' q' off' = s.reg c' q' off' := by
  simp [State.reg, State.setReg, Tab.fetch_put_ne _ _ _ _ _ h]

end Sys2Proof.Machine
end

