-- ==== Sys2Proof/Laws/Kept.lean ====
section
/-!
SUPPORT. What every command keeps: the queue of commands, the NVM, the fuses, and the canonical form of HBM and of host memory. `Kept`
relates a state to a later one; each shared operation has one lemma that it keeps what has been kept so far, which later files state.
-/
namespace Sys2Proof.Machine

def Kept (s t : State) : Prop :=
  t.pending = s.pending ∧ t.boot.nvm = s.boot.nvm ∧
  (t.sec.fuseConfLock = s.sec.fuseConfLock ∧ t.sec.fuseJtagKill = s.sec.fuseJtagKill ∧ t.sec.fuseIdentProg = s.sec.fuseIdentProg) ∧
  (Mem.wf s.hbm = true → Mem.wf t.hbm = true) ∧
  ((∀ e ∈ s.host.mem, Mem.wf e.2 = true) → ∀ e ∈ t.host.mem, Mem.wf e.2 = true)
def OutKept (s : State) (o : Host.Outcome State Fault Refusal) : Prop := ∀ t, o = .next t → Kept s t

theorem Kept.refl (s : State) : Kept s s := ⟨rfl, rfl, ⟨rfl, rfl, rfl⟩, id, id⟩
theorem Kept.cut {s₀ : State} {p : Prop} (t : State) (h : Kept s₀ t) (g : Kept s₀ t → p) : p := g h
theorem Kept.cut2 {s₀ : State} {p : Prop} {α : Type} (t : α × State) (h : Kept s₀ t.2) (g : Kept s₀ t.2 → p) : p := g h
theorem Kept.cutf {s₀ : State} {p : Prop} (t : State → State) (h : ∀ u, Kept s₀ u → Kept s₀ (t u)) (g : (∀ u, Kept s₀ u → Kept s₀ (t u)) → p) : p := g h
theorem Kept.cutg {s₀ : State} {p : Prop} {α : Type} (t : State → α → State) (h : ∀ u a, Kept s₀ u → Kept s₀ (t u a)) (g : (∀ u a, Kept s₀ u → Kept s₀ (t u a)) → p) : p := g h
theorem Kept.cutr {s₀ : State} {p : Prop} {α : Type} (t : α → State) (h : ∀ a, Kept s₀ (t a)) (g : (∀ a, Kept s₀ (t a)) → p) : p := g h
theorem Mem.foldl_wf {α : Type} {g : Mem → α → Mem} {l : List α} {m : Mem} (hg : ∀ m a, Mem.wf m = true → Mem.wf (g m a) = true)
    (h : Mem.wf m = true) : Mem.wf (l.foldl g m) = true := by
  induction l generalizing m with
  | nil => exact h
  | cons a l ih => exact ih (hg _ _ h)
theorem Kept.ofEq {s₀ t : State} {α : Type} {x : α × State} {a : α} (e : x = (a, t)) (h : Kept s₀ x.2) : Kept s₀ t := by
  subst e; exact h
def AllocRes.KeptBy (s₀ : State) (r : AllocRes) : Prop :=
  match r with | .done t => Kept s₀ t | .refused _ t => Kept s₀ t | .parked t => Kept s₀ t
def StepRes.KeptBy (s₀ : State) (r : StepRes) : Prop :=
  match r with | .done t => Kept s₀ t | .hold t => Kept s₀ t | .wait t => Kept s₀ t | .parked t => Kept s₀ t
theorem AllocRes.KeptBy.done {s₀ t : State} (h : Kept s₀ t) : (AllocRes.done t).KeptBy s₀ := h
theorem AllocRes.KeptBy.refused {s₀ t : State} {n : Nat} (h : Kept s₀ t) : (AllocRes.refused n t).KeptBy s₀ := h
theorem AllocRes.KeptBy.parked {s₀ t : State} (h : Kept s₀ t) : (AllocRes.parked t).KeptBy s₀ := h
theorem AllocRes.KeptBy.ofDone {s₀ t : State} {r : AllocRes} (e : r = .done t) (h : r.KeptBy s₀) : Kept s₀ t := by subst e; exact h
theorem AllocRes.KeptBy.ofRefused {s₀ t : State} {n : Nat} {r : AllocRes} (e : r = .refused n t) (h : r.KeptBy s₀) : Kept s₀ t := by subst e; exact h
theorem AllocRes.KeptBy.ofParked {s₀ t : State} {r : AllocRes} (e : r = .parked t) (h : r.KeptBy s₀) : Kept s₀ t := by subst e; exact h
theorem StepRes.KeptBy.done {s₀ t : State} (h : Kept s₀ t) : (StepRes.done t).KeptBy s₀ := h
theorem StepRes.KeptBy.hold {s₀ t : State} (h : Kept s₀ t) : (StepRes.hold t).KeptBy s₀ := h
theorem StepRes.KeptBy.wait {s₀ t : State} (h : Kept s₀ t) : (StepRes.wait t).KeptBy s₀ := h
theorem StepRes.KeptBy.parked {s₀ t : State} (h : Kept s₀ t) : (StepRes.parked t).KeptBy s₀ := h
theorem StepRes.KeptBy.ofDone {s₀ t : State} {r : StepRes} (e : r = .done t) (h : r.KeptBy s₀) : Kept s₀ t := by subst e; exact h
theorem StepRes.KeptBy.ofHold {s₀ t : State} {r : StepRes} (e : r = .hold t) (h : r.KeptBy s₀) : Kept s₀ t := by subst e; exact h
theorem StepRes.KeptBy.ofWait {s₀ t : State} {r : StepRes} (e : r = .wait t) (h : r.KeptBy s₀) : Kept s₀ t := by subst e; exact h
theorem StepRes.KeptBy.ofParked {s₀ t : State} {r : StepRes} (e : r = .parked t) (h : r.KeptBy s₀) : Kept s₀ t := by subst e; exact h
def BeginKept (s₀ : State) (r : Except State (Op × State)) : Prop := match r with | .error t => Kept s₀ t | .ok p => Kept s₀ p.2
theorem BeginKept.error {s₀ t : State} (h : Kept s₀ t) : BeginKept s₀ (.error t) := h
theorem BeginKept.ok {s₀ : State} {p : Op × State} (h : Kept s₀ p.2) : BeginKept s₀ (.ok p) := h
theorem BeginKept.ofError {s₀ t : State} {r : Except State (Op × State)} (e : r = .error t) (h : BeginKept s₀ r) : Kept s₀ t := by subst e; exact h
theorem BeginKept.ofOk {s₀ : State} {a : Op} {t : State} {r : Except State (Op × State)} (e : r = .ok (a, t)) (h : BeginKept s₀ r) : Kept s₀ t := by subst e; exact h
theorem BeginKept.ofOk' {s₀ : State} {a : Op × State} {r : Except State (Op × State)} (e : r = .ok a) (h : BeginKept s₀ r) : Kept s₀ a.2 := by subst e; exact h
def OptKept (s₀ : State) (r : Option State) : Prop := ∀ t, r = some t → Kept s₀ t
theorem OptKept.some {s₀ t : State} (h : Kept s₀ t) : OptKept s₀ (some t) := by intro u e; cases e; exact h
theorem OptKept.none {s₀ : State} : OptKept s₀ none := by intro u e; cases e
theorem OptKept.of {s₀ t : State} {r : Option State} (e : r = .some t) (h : OptKept s₀ r) : Kept s₀ t := h t e
theorem OutKept.fault {s₀ : State} {f : Fault} : OutKept s₀ (.fault f) := by intro u hu; cases hu
theorem Kept.ite {s₀ a b : State} {c : Prop} [Decidable c] (ha : Kept s₀ a) (hb : Kept s₀ b) : Kept s₀ (if c then a else b) := by
  split <;> assumption
/-- As `Kept`, but the NVM may have been written. -/
def KeptButNvm (s t : State) : Prop :=
  ∃ m, (Mem.wf s.boot.nvm = true → Mem.wf m = true) ∧ Kept { s with boot := { s.boot with nvm := m } } t
theorem Kept.butNvm {s₀ s : State} (h : Kept s₀ s) : KeptButNvm s₀ s := ⟨s₀.boot.nvm, id, h⟩
theorem KeptButNvm.nvm {s₀ s : State} {m : Mem} (h : Kept s₀ s) (w : Mem.wf s.boot.nvm = true → Mem.wf m = true) :
    KeptButNvm s₀ { s with boot := { s.boot with nvm := m } } :=
  ⟨m, fun x => w (h.2.1 ▸ x), ⟨h.1, rfl, h.2.2.1, h.2.2.2⟩⟩
theorem OutKept.next {s₀ t : State} (h : Kept s₀ t) : OutKept s₀ (.next t) := by
  intro u hu; cases hu; exact h
theorem Kept.foldl {s₀ s : State} {α : Type} {g : State → α → State} {l : List α}
    (hg : ∀ t a, Kept s₀ t → Kept s₀ (g t a)) (h : Kept s₀ s) : Kept s₀ (l.foldl g s) := by
  induction l generalizing s with
  | nil => exact h
  | cons a l ih => exact ih (hg _ _ h)
theorem Kept.hbm {s₀ s : State} {m : Mem} (h : Kept s₀ s) (w : Mem.wf s.hbm = true → Mem.wf m = true) :
    Kept s₀ { s with hbm := m } := ⟨h.1, h.2.1, h.2.2.1, fun x => w (h.2.2.2.1 x), h.2.2.2.2⟩
theorem Kept.like {s₀ t u : State} (e1 : t.pending = u.pending) (e2 : t.boot.nvm = u.boot.nvm) (e3 : t.sec.fuseConfLock = u.sec.fuseConfLock)
    (e4 : t.sec.fuseJtagKill = u.sec.fuseJtagKill) (e5 : t.sec.fuseIdentProg = u.sec.fuseIdentProg) (e6 : t.hbm = u.hbm)
    (e7 : t.host.mem = u.host.mem) (h : Kept s₀ u) : Kept s₀ t := by
  unfold Kept at h ⊢
  rw [e1, e2, e3, e4, e5, e6, e7]; exact h
end Sys2Proof.Machine
end

