-- ==== Sys2Proof/Laws/KeptHost.lean ====
section
/-!
SUPPORT. What every command keeps, for units, queues, events, completions, pages and registers.
-/
namespace Sys2Proof.Machine

/-! ### Ops -/

theorem State.updQ_kept {s₀ : State} (s : State) (q : Nat) (f : Quarter → Quarter) (hk : Kept s₀ s) :
    Kept s₀ (State.updQ s q f) := by
  unfold State.updQ
  exact hk

theorem State.updFn_kept {s₀ : State} (s : State) (f : Nat) (g : Fn → Fn) (hk : Kept s₀ s) :
    Kept s₀ (State.updFn s f g) := by
  unfold State.updFn
  exact hk

theorem State.updStack_kept {s₀ : State} (s : State) (n : Nat) (f : Stack → Stack) (hk : Kept s₀ s) :
    Kept s₀ (State.updStack s n f) := by
  unfold State.updStack
  exact hk

theorem State.updTenant_kept {s₀ : State} (s : State) (t : Nat) (f : Tenant → Tenant) (hk : Kept s₀ s) :
    Kept s₀ (State.updTenant s t f) := by
  unfold State.updTenant
  exact hk

theorem State.updConn_kept {s₀ : State} (s : State) (i : Nat) (f : Conn → Conn) (hk : Kept s₀ s) :
    Kept s₀ (State.updConn s i f) := by
  unfold State.updConn
  exact hk

theorem State.updStore_kept {s₀ : State} (s : State) (q : Nat) (f : Store → Store) (hk : Kept s₀ s) :
    Kept s₀ (State.updStore s q f) := by
  unfold State.updStore
  exact hk

theorem State.updDir_kept {s₀ : State} (s : State) (q : Nat) (f : Dir → Dir) (hk : Kept s₀ s) :
    Kept s₀ (State.updDir s q f) := by
  unfold State.updDir
  exact hk

theorem State.updXpt_kept {s₀ : State} (s : State) (q : Nat) (f : Xpt → Xpt) (hk : Kept s₀ s) :
    Kept s₀ (State.updXpt s q f) := by
  unfold State.updXpt
  exact hk

theorem State.updCore_kept {s₀ : State} (s : State) (q : Nat) (f : CoreIsland → CoreIsland) (hk : Kept s₀ s) :
    Kept s₀ (State.updCore s q f) := by
  unfold State.updCore
  exact hk

theorem State.updPort_kept {s₀ : State} (s : State) (q : Nat) (f : Port → Port) (hk : Kept s₀ s) :
    Kept s₀ (State.updPort s q f) := by
  unfold State.updPort
  exact hk

theorem State.updTk_kept {s₀ : State} (s : State) (q : Nat) (f : TkPool → TkPool) (hk : Kept s₀ s) :
    Kept s₀ (State.updTk s q f) := by
  unfold State.updTk
  exact hk

theorem State.updDove_kept {s₀ : State} (s : State) (q : Nat) (f : Dove → Dove) (hk : Kept s₀ s) :
    Kept s₀ (State.updDove s q f) := by
  unfold State.updDove
  exact hk

theorem State.updPcd_kept {s₀ : State} (s : State) (q : Nat) (f : Pcd → Pcd) (hk : Kept s₀ s) :
    Kept s₀ (State.updPcd s q f) := by
  unfold State.updPcd
  exact hk

theorem State.updBsc_kept {s₀ : State} (s : State) (q : Nat) (f : Bsc → Bsc) (hk : Kept s₀ s) :
    Kept s₀ (State.updBsc s q f) := by
  unfold State.updBsc
  exact hk

theorem State.updBank_kept {s₀ : State} (s : State) (q ls : Nat) (f : BscStack → BscStack) (hk : Kept s₀ s) :
    Kept s₀ (State.updBank s q ls f) := by
  unfold State.updBank
  exact hk

theorem State.advance_kept {s₀ : State} (s : State) (t : Nat) (hk : Kept s₀ s) : Kept s₀ (State.advance s t) := by
  unfold State.advance
  exact hk

theorem State.drawFree_kept {s₀ : State} (s : State) (hk : Kept s₀ s) : Kept s₀ (State.drawFree s).2 := by
  unfold State.drawFree
  exact hk

theorem State.drawTrng_kept {s₀ : State} (s : State) (hk : Kept s₀ s) : Kept s₀ (State.drawTrng s).2 := by
  unfold State.drawTrng
  exact hk

theorem State.fresh_kept {s₀ : State} (s : State) (hk : Kept s₀ s) : Kept s₀ (State.fresh s).2 := by
  unfold State.fresh
  exact hk

theorem State.setReg_kept {s₀ : State} (s : State) (code q off v : Nat) (hk : Kept s₀ s) :
    Kept s₀ (State.setReg s code q off v) := by
  unfold State.setReg
  exact hk

theorem State.setCounter_kept {s₀ : State} (s : State) (a : Nat) (c : Counter) (hk : Kept s₀ s) :
    Kept s₀ (State.setCounter s a c) := by
  unfold State.setCounter
  exact hk

theorem State.bumpRaw_kept {s₀ : State} (s : State) (a k : Nat) (hk : Kept s₀ s) : Kept s₀ (State.bumpRaw s a k) := by
  unfold State.bumpRaw
  exact hk

theorem State.flushLost_kept {s₀ : State} (s : State) (f : Nat) (hk : Kept s₀ s) : Kept s₀ (State.flushLost s f) := by
  unfold State.flushLost
  repeat' first
    | with_reducible first
      | assumption | intro v | apply State.bumpRaw_kept | apply State.updFn_kept | apply Kept.ite
    | (extract_lets +onlyGivenNames x
       first
       | (refine Kept.cut (s₀ := s₀) x ?_ ?_; (on_goal 2 => intro hx; clear_value x); (on_goal 1 => unfold x))
       | skip)
    | split

theorem State.postRaw_kept {s₀ : State} (s : State) (f : Nat) (e : Ev) (hk : Kept s₀ s) :
    Kept s₀ (State.postRaw s f e) := by
  unfold State.postRaw
  repeat' first
    | with_reducible first
      | assumption | intro v | apply State.bumpRaw_kept | apply State.flushLost_kept | apply State.updFn_kept | apply Kept.ite
    | (extract_lets +onlyGivenNames x
       first
       | (refine Kept.cut (s₀ := s₀) x ?_ ?_; (on_goal 2 => intro hx; clear_value x); (on_goal 1 => unfold x))
       | skip)
    | split

theorem State.post_kept {s₀ : State} (s : State) (f : Nat) (e : Ev) (hk : Kept s₀ s) : Kept s₀ (State.post s f e) := by
  unfold State.post
  repeat' first
    | with_reducible first
      | assumption | apply State.postRaw_kept | apply Kept.ite

theorem State.bumpOff_kept {s₀ : State} (s : State) (code q off k : Nat) (hk : Kept s₀ s) :
    Kept s₀ (State.bumpOff s code q off k) := by
  unfold State.bumpOff
  repeat' first
    | with_reducible first
      | assumption | apply State.bumpRaw_kept | apply State.post_kept | apply State.setCounter_kept | apply Kept.ite

theorem State.meter_kept {s₀ : State} (s : State) (t m k : Nat) (hk : Kept s₀ s) : Kept s₀ (State.meter s t m k) := by
  unfold State.meter
  exact hk

theorem State.count_kept {s₀ : State} (s : State) (code q n : Nat) (k : Nat) (hk : Kept s₀ s) :
    Kept s₀ (State.count s code q n k) := by
  unfold State.count
  repeat' first
    | with_reducible first
      | assumption | apply State.bumpOff_kept

theorem State.countU_kept {s₀ : State} (s : State) (code q u n : Nat) (k : Nat) (hk : Kept s₀ s) :
    Kept s₀ (State.countU s code q u n k) := by
  unfold State.countU
  repeat' first
    | with_reducible first
      | assumption | apply State.bumpOff_kept

theorem State.postFor_kept {s₀ : State} (s : State) (tenant f : Nat) (e : Ev) (hk : Kept s₀ s) :
    Kept s₀ (State.postFor s tenant f e) := by
  unfold State.postFor
  repeat' first
    | with_reducible first
      | assumption | apply State.post_kept | apply Kept.ite

theorem State.postTenant_kept {s₀ : State} (s : State) (tenant : Nat) (e : Ev) (hk : Kept s₀ s) :
    Kept s₀ (State.postTenant s tenant e) := by
  unfold State.postTenant
  repeat' first
    | with_reducible first
      | assumption | apply State.post_kept | apply Kept.ite

theorem State.postFault_kept {s₀ : State} (s : State) (cause unit p1 p2 q : Nat) (hk : Kept s₀ s) :
    Kept s₀ (State.postFault s cause unit p1 p2 q) := by
  unfold State.postFault
  repeat' first
    | with_reducible first
      | assumption | apply State.post_kept

theorem State.postPower_kept {s₀ : State} (s : State) (cause unit new old : Nat) (hk : Kept s₀ s) :
    Kept s₀ (State.postPower s cause unit new old) := by
  unfold State.postPower
  repeat' first
    | with_reducible first
      | assumption | apply State.post_kept

theorem State.hostWrite_kept {s₀ : State} (s : State) (f a : Nat) (b : Bytes) (hk : Kept s₀ s) : Kept s₀ (s.hostWrite f a b) := by
  refine ⟨hk.1, hk.2.1, hk.2.2.1, hk.2.2.2.1, fun h0 e he => ?_⟩
  have h1 := hk.2.2.2.2 h0
  rcases Tab.mem_put he with h | h
  · exact h1 e h
  · subst h
    refine Mem.write_wf _ _ _ ?_
    rcases Tab.fetch_mem s.host.mem f [] with h | h
    · rw [h]; rfl
    · exact h1 _ h

theorem State.writeResult_kept {s₀ : State} (s : State) (h : HostCmd) (result : Bytes) (hk : Kept s₀ s) :
    Kept s₀ (State.writeResult s h result).1 := by
  unfold State.writeResult
  repeat' first
    | with_reducible first
      | assumption | intro v | apply State.hostWrite_kept | apply State.post_kept | apply State.take_kept | apply Kept.ite
    | (extract_lets +onlyGivenNames x
       first
       | (refine Kept.cut (s₀ := s₀) x ?_ ?_; (on_goal 2 => intro hx; clear_value x); (on_goal 1 => unfold x))
       | skip)
    | split

theorem State.placeCpl_kept {s₀ : State} (s : State) (f sq : Nat) (c : Cpl) (hk : Kept s₀ s) :
    Kept s₀ (State.placeCpl s f sq c) := by
  unfold State.placeCpl
  repeat' first
    | with_reducible first
      | assumption | intro v | apply State.count_kept | apply State.updFn_kept | apply Kept.ite
    | (extract_lets +onlyGivenNames x
       first
       | (refine Kept.cut (s₀ := s₀) x ?_ ?_; (on_goal 2 => intro hx; clear_value x); (on_goal 1 => unfold x))
       | skip)
    | split

theorem State.completeCore_kept {s₀ : State} (s : State) (h : HostCmd) (status detail : Nat) (result : Bytes) (hk : Kept s₀ s) :
    Kept s₀ (State.completeCore s h status detail result) := by
  unfold State.completeCore
  repeat' first
    | with_reducible first
      | assumption | apply State.count_kept | apply State.placeCpl_kept | apply State.updFn_kept
      | apply State.writeResult_kept | apply Kept.ite

theorem State.endDeletes_kept {s₀ : State} (n : Nat) (s : State) (f : Nat) (hk : Kept s₀ s) : Kept s₀ (State.endDeletes n s f) := by
  induction n generalizing s with
  | zero => exact hk
  | succ n ih =>
    unfold State.endDeletes
    split
    · exact hk
    · exact ih _ (State.updFn_kept _ _ _ (Kept.foldl (fun t a ht => State.completeCore_kept _ _ _ _ _ ht) (State.updFn_kept _ _ _ hk)))

theorem State.complete_kept {s₀ : State} (s : State) (h : HostCmd) (status : Nat) (detail : Nat) (result : Bytes) (hk : Kept s₀ s) :
    Kept s₀ (State.complete s h status detail result) := by
  unfold State.complete
  repeat' first
    | with_reducible first
      | assumption | apply State.completeCore_kept | apply State.endDeletes_kept

theorem State.hand_kept {s₀ : State} (s : State) (i : Nat) (m : OutMsg) (hk : Kept s₀ s) : Kept s₀ (State.hand s i m) := by
  unfold State.hand
  repeat' first
    | with_reducible first
      | assumption | intro v | apply State.updConn_kept | apply Kept.ite
    | split
    | assumption

theorem State.answerOp_kept {s₀ : State} (s : State) (o : Origin) (q : Nat) (a : Ans) (op : Nat) (hk : Kept s₀ s) :
    Kept s₀ (State.answerOp s o q a op) := by
  unfold State.answerOp
  repeat' first
    | with_reducible first
      | assumption | apply State.complete_kept | apply State.hand_kept | apply Kept.ite
    | split

theorem State.answer_kept {s₀ : State} (s : State) (o : Origin) (q : Nat) (a : Ans) (hk : Kept s₀ s) :
    Kept s₀ (State.answer s o q a) := by
  unfold State.answer
  repeat' first
    | with_reducible first
      | assumption | apply State.answerOp_kept

theorem State.take_kept {s₀ : State} (s : State) (o : Origin) (op : Nat) (body : Bytes) (hk : Kept s₀ s) :
    Kept s₀ (State.take s o op body).2 := by
  unfold State.take
  repeat' first
    | with_reducible first
      | assumption | intro v | apply Kept.ite
    | split
    | assumption

theorem State.noticeTo_kept {s₀ : State} (s : State) (o : Origin) (tag kind value : Nat) (hk : Kept s₀ s) :
    Kept s₀ (State.noticeTo s o tag kind value) := by
  unfold State.noticeTo
  repeat' first
    | with_reducible first
      | assumption | apply State.hand_kept | apply State.post_kept | apply Kept.ite
    | split

/-! ### Pages -/

theorem State.readWaits_kept {s₀ : State} (s : State) (q ls a n : Nat) (hk : Kept s₀ s) :
    Kept s₀ (State.readWaits s q ls a n) := by
  unfold State.readWaits
  repeat' first
    | with_reducible first
      | assumption | apply State.countU_kept | apply State.updBank_kept | apply Kept.ite

theorem State.stackWrite_kept {s₀ : State} (s : State) (q ls a n : Nat) (c : Mem) (hk : Kept s₀ s) :
    Kept s₀ (State.stackWrite s q ls a n c) := by
  unfold State.stackWrite
  repeat' first
    | with_reducible first
      | assumption | intro v | apply State.countU_kept | apply State.updBank_kept | apply Kept.ite
    | (extract_lets +onlyGivenNames x
       first
       | (refine Kept.cut (s₀ := s₀) x ?_ ?_; (on_goal 2 => intro hx; clear_value x); (on_goal 1 => unfold x))
       | (refine Kept.cut2 (s₀ := s₀) x ?_ ?_; (on_goal 2 => intro hx; clear_value x); (on_goal 1 => unfold x))
       | (refine Kept.cutf (s₀ := s₀) x ?_ ?_; (on_goal 2 => intro hf; clear_value x); (on_goal 1 => unfold x))
       | (refine Kept.cutg (s₀ := s₀) x ?_ ?_; (on_goal 2 => intro hf; clear_value x); (on_goal 1 => unfold x))
       | (refine Kept.cutr (s₀ := s₀) x ?_ ?_; (on_goal 2 => intro hf; clear_value x); (on_goal 1 => unfold x))
       | skip)
    | with_reducible apply hf
    | split
    | assumption
    | exact Kept.hbm (by assumption) (Mem.paste_wf _ _ _ _)

theorem State.updSegOf_kept {s₀ : State} (s : State) (q key : Nat) (f : Seg → Seg) (hk : Kept s₀ s) :
    Kept s₀ (State.updSegOf s q key f) := by
  unfold State.updSegOf
  exact hk

theorem State.dropCached_kept {s₀ : State} (s : State) (q key frame : Nat) (page : Option Nat) (hk : Kept s₀ s) :
    Kept s₀ (State.dropCached s q key frame page) := by
  unfold State.dropCached
  exact hk

theorem State.damagePage_kept {s₀ : State} (s : State) (q key : Nat) (fr : FrameRef) (frame page status : Nat) (sh : Shape) (hk : Kept s₀ s) :
    Kept s₀ (State.damagePage s q key fr frame page status sh) := by
  unfold State.damagePage
  repeat' first
    | with_reducible first
      | assumption | intro v | apply State.count_kept | apply State.dropCached_kept | apply State.hostWrite_kept
      | apply State.postFor_kept | apply State.updSegOf_kept | apply Kept.ite
    | (extract_lets +onlyGivenNames x
       first
       | (refine Kept.cut (s₀ := s₀) x ?_ ?_; (on_goal 2 => intro hx; clear_value x); (on_goal 1 => unfold x))
       | (refine Kept.cut2 (s₀ := s₀) x ?_ ?_; (on_goal 2 => intro hx; clear_value x); (on_goal 1 => unfold x))
       | (refine Kept.cutf (s₀ := s₀) x ?_ ?_; (on_goal 2 => intro hf; clear_value x); (on_goal 1 => unfold x))
       | (refine Kept.cutg (s₀ := s₀) x ?_ ?_; (on_goal 2 => intro hf; clear_value x); (on_goal 1 => unfold x))
       | (refine Kept.cutr (s₀ := s₀) x ?_ ?_; (on_goal 2 => intro hf; clear_value x); (on_goal 1 => unfold x))
       | skip)
    | with_reducible apply hf
    | split
    | assumption
    | exact Kept.hbm (by assumption) (Mem.set_wf _ _ _)

theorem State.pageFailed_kept {s₀ : State} (s : State) (q key : Nat) (fr : FrameRef) (frame page : Nat) (sh : Shape) (e : PageErr) (hk : Kept s₀ s) :
    Kept s₀ (State.pageFailed s q key fr frame page sh e) := by
  unfold State.pageFailed
  repeat' first
    | with_reducible first
      | assumption | apply State.count_kept | apply State.countU_kept | apply State.damagePage_kept | apply State.fresh_kept
      | apply State.postFor_kept | apply Kept.ite
    | split

/-! ### HostIf -/

theorem badDoorbell_kept {s₀ : State} (s : State) (f qid kind value : Nat) (hk : Kept s₀ s) :
    Kept s₀ (badDoorbell s f qid kind value) := by
  unfold badDoorbell
  repeat' first
    | with_reducible first
      | assumption | apply State.count_kept | apply State.post_kept

theorem sqTail_kept {s₀ : State} (s : State) (f qid value : Nat) (hk : Kept s₀ s) : Kept s₀ (sqTail s f qid value) := by
  unfold sqTail
  repeat' first
    | with_reducible first
      | assumption | apply State.updFn_kept | apply badDoorbell_kept | apply Kept.ite
    | split

theorem execSqTailDoorbell_kept {s₀ : State} (fn : Fin 64) (qid value : Nat) (s : State) (hk : Kept s₀ s) :
    OutKept s₀ (execSqTailDoorbell fn qid value s) := by
  unfold execSqTailDoorbell
  apply OutKept.next
  with_reducible apply sqTail_kept
  exact hk

theorem cqHead_kept {s₀ : State} (s : State) (f qid value : Nat) (hk : Kept s₀ s) : Kept s₀ (cqHead s f qid value) := by
  unfold cqHead
  repeat' first
    | with_reducible first
      | assumption | apply State.flushLost_kept | apply State.updFn_kept | apply badDoorbell_kept | apply Kept.ite
    | split

theorem execCqHeadDoorbell_kept {s₀ : State} (fn : Fin 64) (qid value : Nat) (s : State) (hk : Kept s₀ s) :
    OutKept s₀ (execCqHeadDoorbell fn qid value s) := by
  unfold execCqHeadDoorbell
  apply OutKept.next
  with_reducible apply cqHead_kept
  exact hk

theorem submissionFetch_kept {s₀ : State} (s : State) (f : Fin 64) (qid at_ : Nat) (entry body : Option Bytes) (hk : Kept s₀ s) :
    Kept s₀ (submissionFetch s f qid at_ entry body) := by
  unfold submissionFetch
  repeat' first
    | with_reducible first
      | assumption | intro v | apply State.advance_kept | apply State.complete_kept | apply State.count_kept
      | apply State.post_kept | apply State.take_kept | apply State.updFn_kept | apply Kept.ite
    | (extract_lets +onlyGivenNames x
       first
       | (refine Kept.cut (s₀ := s₀) x ?_ ?_; (on_goal 2 => intro hx; clear_value x); (on_goal 1 => unfold x))
       | skip)
    | split
    | assumption

theorem execSubmissionFetch_kept {s₀ : State} (fn : Fin 64) (qid at_ : Nat) (entry body : Option Bytes) (s : State) (hk : Kept s₀ s) :
    OutKept s₀ (execSubmissionFetch fn qid at_ entry body s) := by
  unfold execSubmissionFetch
  apply OutKept.next
  with_reducible apply submissionFetch_kept
  exact hk

theorem completionPost_kept {s₀ : State} (s : State) (f cq : Nat) (hk : Kept s₀ s) : Kept s₀ (completionPost s f cq) := by
  unfold completionPost
  repeat' first
    | with_reducible first
      | assumption | apply State.count_kept | apply State.endDeletes_kept | apply State.updFn_kept | apply Kept.ite
    | split

theorem execCompletionPost_kept {s₀ : State} (fn : Fin 64) (cq : Nat) (s : State) (hk : Kept s₀ s) :
    OutKept s₀ (execCompletionPost fn cq s) := by
  unfold execCompletionPost
  apply OutKept.next
  with_reducible apply completionPost_kept
  exact hk

theorem coalTimer_kept {s₀ : State} (s : State) (f qid : Nat) (hk : Kept s₀ s) : Kept s₀ (coalTimer s f qid) := by
  unfold coalTimer
  repeat' first
    | with_reducible first
      | assumption | apply State.advance_kept | apply State.updFn_kept | apply Kept.ite
    | split

theorem execCoalTimerExpiry_kept {s₀ : State} (fn : Fin 64) (qid : Nat) (s : State) (hk : Kept s₀ s) :
    OutKept s₀ (execCoalTimerExpiry fn qid s) := by
  unfold execCoalTimerExpiry
  apply OutKept.next
  with_reducible apply coalTimer_kept
  exact hk

theorem queueCreate_kept {s₀ : State} (s : State) (h : HostCmd) (b : Bytes) (hk : Kept s₀ s) :
    Kept s₀ (queueCreate s h b).2 := by
  unfold queueCreate
  repeat' first
    | with_reducible first
      | assumption | intro v | apply State.flushLost_kept | apply State.updFn_kept | apply Kept.ite
    | (extract_lets +onlyGivenNames x
       first
       | (refine Kept.cut (s₀ := s₀) x ?_ ?_; (on_goal 2 => intro hx; clear_value x); (on_goal 1 => unfold x))
       | skip)
    | split

theorem execQueueCreate_kept {s₀ : State} (h : HostCmd) (body : Bytes) (s : State) (hk : Kept s₀ s) :
    OutKept s₀ (execQueueCreate h body s) := by
  unfold execQueueCreate
  repeat' first
    | with_reducible first
      | assumption | intro v | apply State.complete_kept | apply State.take_kept | apply queueCreate_kept | apply Kept.ite
      | apply OutKept.next
    | (extract_lets +onlyGivenNames x
       first
       | (refine Kept.cut (s₀ := s₀) x ?_ ?_; (on_goal 2 => intro hx; clear_value x); (on_goal 1 => unfold x))
       | skip)
    | split

theorem queueDelete_kept {s₀ : State} (s : State) (h : HostCmd) (b : Bytes) (hk : Kept s₀ s) :
    Kept s₀ (queueDelete s h b) := by
  unfold queueDelete
  repeat' first
    | with_reducible first
      | assumption | apply State.complete_kept | apply State.endDeletes_kept | apply State.updFn_kept | apply Kept.ite
    | split

theorem execQueueDelete_kept {s₀ : State} (h : HostCmd) (body : Bytes) (s : State) (hk : Kept s₀ s) :
    OutKept s₀ (execQueueDelete h body s) := by
  unfold execQueueDelete
  repeat' first
    | with_reducible first
      | assumption | intro v | apply State.complete_kept | apply State.take_kept | apply queueDelete_kept | apply Kept.ite
      | apply OutKept.next
    | (extract_lets +onlyGivenNames x
       first
       | (refine Kept.cut (s₀ := s₀) x ?_ ?_; (on_goal 2 => intro hx; clear_value x); (on_goal 1 => unfold x)))
    | split

theorem admQueueCtl_kept {s₀ : State} (s : State) (f : Nat) (value : Word) (hk : Kept s₀ s) :
    Kept s₀ (admQueueCtl s f value) := by
  unfold admQueueCtl
  exact hk

theorem execAdmQueueCtl_kept {s₀ : State} (fn : Fin 64) (value : Word) (s : State) (hk : Kept s₀ s) :
    OutKept s₀ (execAdmQueueCtl fn value s) := by
  unfold execAdmQueueCtl
  apply OutKept.next
  with_reducible apply admQueueCtl_kept
  exact hk

theorem agentAnswer_kept {s₀ : State} (s : State) (f : Nat) (hk : Kept s₀ s) : Kept s₀ (agentAnswer s f) := by
  unfold agentAnswer
  repeat' first
    | with_reducible first
      | assumption | apply State.updFn_kept | apply Kept.ite

theorem execPing_kept {s₀ : State} (fn : Fin 64) (s : State) (hk : Kept s₀ s) : OutKept s₀ (execPing fn s) := by
  unfold execPing
  repeat' first
    | with_reducible first
      | assumption | apply agentAnswer_kept | apply Kept.ite | apply OutKept.next

theorem execFnInfo_kept {s₀ : State} (fn : Fin 64) (s : State) (hk : Kept s₀ s) : OutKept s₀ (execFnInfo fn s) := by
  unfold execFnInfo
  repeat' first
    | with_reducible first
      | assumption | apply agentAnswer_kept | apply Kept.ite | apply OutKept.next

theorem execAgentStatus_kept {s₀ : State} (fn : Fin 64) (s : State) (hk : Kept s₀ s) :
    OutKept s₀ (execAgentStatus fn s) := by
  unfold execAgentStatus
  repeat' first
    | with_reducible first
      | assumption | apply agentAnswer_kept | apply Kept.ite | apply OutKept.next

theorem execMbxAgentAnswer_kept {s₀ : State} (fn : Fin 64) (s : State) (hk : Kept s₀ s) :
    OutKept s₀ (execMbxAgentAnswer fn s) := by
  unfold execMbxAgentAnswer
  apply OutKept.next
  with_reducible apply agentAnswer_kept
  exact hk

theorem mbxInTimeout_kept {s₀ : State} (s : State) (f : Nat) (hk : Kept s₀ s) : Kept s₀ (mbxInTimeout s f) := by
  unfold mbxInTimeout
  repeat' first
    | with_reducible first
      | assumption | apply State.advance_kept | apply State.updFn_kept | apply mbxInCtl_kept | apply Kept.ite
    | split

theorem execMbxInTimeout_kept {s₀ : State} (fn : Fin 64) (s : State) (hk : Kept s₀ s) :
    OutKept s₀ (execMbxInTimeout fn s) := by
  unfold execMbxInTimeout
  apply OutKept.next
  with_reducible apply mbxInTimeout_kept
  exact hk

theorem execMbxOutPost_kept {s₀ : State} (fn : Fin 64) (s : State) (hk : Kept s₀ s) : OutKept s₀ (execMbxOutPost fn s) := by
  unfold execMbxOutPost
  apply OutKept.next
  with_reducible apply State.updFn_kept
  exact hk

theorem execMbxOutAck_kept {s₀ : State} (fn : Fin 64) (code : BitVec 8) (s : State) (hk : Kept s₀ s) :
    OutKept s₀ (execMbxOutAck fn code s) := by
  unfold execMbxOutAck
  apply OutKept.next
  with_reducible apply State.updFn_kept
  exact hk

theorem execOutboundTaken_kept {s₀ : State} (fn : Fin 64) (s : State) (hk : Kept s₀ s) :
    OutKept s₀ (execOutboundTaken fn s) := by
  unfold execOutboundTaken
  apply OutKept.next
  with_reducible apply State.updFn_kept
  exact hk

theorem execEqDrained_kept {s₀ : State} (fn : Fin 64) (s : State) (hk : Kept s₀ s) : OutKept s₀ (execEqDrained fn s) := by
  unfold execEqDrained
  apply OutKept.next
  with_reducible apply State.updFn_kept
  exact hk

theorem mbxOutTimeout_kept {s₀ : State} (s : State) (f : Nat) (hk : Kept s₀ s) : Kept s₀ (mbxOutTimeout s f) := by
  unfold mbxOutTimeout
  repeat' first
    | with_reducible first
      | assumption | apply State.advance_kept | apply State.post_kept | apply State.updFn_kept | apply Kept.ite
    | split

theorem execMbxOutTimeout_kept {s₀ : State} (fn : Fin 64) (s : State) (hk : Kept s₀ s) :
    OutKept s₀ (execMbxOutTimeout fn s) := by
  unfold execMbxOutTimeout
  apply OutKept.next
  with_reducible apply mbxOutTimeout_kept
  exact hk

theorem pcieLinkTrained_kept {s₀ : State} (s : State) (rate width : Nat) (hk : Kept s₀ s) :
    Kept s₀ (pcieLinkTrained s rate width) := by
  unfold pcieLinkTrained
  repeat' first
    | with_reducible first
      | assumption | intro v | apply State.post_kept | apply linkUp_kept | apply Kept.ite
    | split
    | assumption

theorem execPcieLinkTrained_kept {s₀ : State} (rate width : Nat) (s : State) (hk : Kept s₀ s) :
    OutKept s₀ (execPcieLinkTrained rate width s) := by
  unfold execPcieLinkTrained
  apply OutKept.next
  with_reducible apply pcieLinkTrained_kept
  exact hk

theorem execPcieRefclkLoss_kept {s₀ : State} (s : State) (hk : Kept s₀ s) : OutKept s₀ (execPcieRefclkLoss s) := by
  unfold execPcieRefclkLoss
  repeat' first
    | with_reducible first
      | assumption | intro v | apply linkUp_kept | apply Kept.ite | apply OutKept.next
    | split
    | assumption

theorem execTdispRequest_kept {s₀ : State} (fn : Fin 64) (toRun : Bool) (s : State) (hk : Kept s₀ s) :
    OutKept s₀ (execTdispRequest fn toRun s) := by
  unfold execTdispRequest
  repeat' first
    | with_reducible first
      | assumption | apply State.updFn_kept | apply Kept.ite | apply OutKept.next

/-! ### Registers -/

theorem State.accError_kept {s₀ : State} (s : State) (kind f addr : Nat) (hk : Kept s₀ s) :
    Kept s₀ (State.accError s kind f addr) := by
  unfold State.accError
  exact hk

theorem State.offWrite_kept {s₀ : State} (s : State) (code q off : Nat) (hk : Kept s₀ s) :
    Kept s₀ (State.offWrite s code q off) := by
  unfold State.offWrite
  repeat' first
    | with_reducible first
      | assumption | apply State.accError_kept | apply State.count_kept

theorem State.stage_kept {s₀ : State} (s : State) (code q off v : Nat) (hk : Kept s₀ s) :
    Kept s₀ (State.stage s code q off v) := by
  unfold State.stage
  exact hk

theorem State.applyAt_kept {s₀ : State} (s : State) (code q off : Nat) (hk : Kept s₀ s) :
    Kept s₀ (State.applyAt s code q off) := by
  unfold State.applyAt
  repeat' first
    | with_reducible first
      | assumption | intro v | apply State.setReg_kept | apply Kept.ite
    | split
    | assumption

theorem State.applyBoundary_kept {s₀ : State} (s : State) (b : Boundary) (want : Nat → Nat → Bool) (hk : Kept s₀ s) :
    Kept s₀ (State.applyBoundary s b want) := by
  unfold State.applyBoundary
  repeat' first
    | with_reducible first
      | assumption | intro v | apply State.applyAt_kept | apply Kept.foldl | apply Kept.ite
    | split

theorem State.addMeter_kept {s₀ : State} (s : State) (t m k : Nat) (hk : Kept s₀ s) : Kept s₀ (State.addMeter s t m k) := by
  unfold State.addMeter
  repeat' first
    | with_reducible first
      | assumption | intro v | apply State.count_kept | apply State.meter_kept | apply State.post_kept | apply Kept.ite
    | split
    | assumption

theorem State.startSnap_kept {s₀ : State} (s : State) (blocks : List Nat) (cmd : Option HostCmd) (seqNo : Nat) (hk : Kept s₀ s) :
    Kept s₀ (State.startSnap s blocks cmd seqNo) := by
  unfold State.startSnap
  exact hk

theorem snapshotCmd_kept {s₀ : State} (s : State) (h : HostCmd) (param : Bytes) (hk : Kept s₀ s) :
    Kept s₀ (snapshotCmd s h param) := by
  unfold snapshotCmd
  repeat' first
    | with_reducible first
      | assumption | intro v | apply State.complete_kept | apply State.startSnap_kept | apply Kept.ite
    | (extract_lets +onlyGivenNames x
       first
       | (refine Kept.cut (s₀ := s₀) x ?_ ?_; (on_goal 2 => intro hx; clear_value x); (on_goal 1 => unfold x))
       | skip)
    | split
    | assumption

theorem execSnapshot_kept {s₀ : State} (h : HostCmd) (param : Bytes) (s : State) (hk : Kept s₀ s) :
    OutKept s₀ (execSnapshot h param s) := by
  unfold execSnapshot
  repeat' first
    | with_reducible first
      | assumption | intro v | apply State.complete_kept | apply State.take_kept | apply snapshotCmd_kept | apply Kept.ite
      | apply OutKept.next
    | (extract_lets +onlyGivenNames x
       first
       | (refine Kept.cut (s₀ := s₀) x ?_ ?_; (on_goal 2 => intro hx; clear_value x); (on_goal 1 => unfold x)))
    | split

theorem snapshotRegStart_kept {s₀ : State} (s : State) (value : Nat) (hk : Kept s₀ s) : Kept s₀ (snapshotRegStart s value) := by
  have hkeep : ∀ u : State, Kept s₀ u → Kept s₀ (u.setReg bSNAP 0 0 (w32 value &&& 0xFFFFFF0F).toNat) := fun u h =>
    State.setReg_kept _ _ _ _ _ h
  have href : ∀ (u : State) (n : Nat), Kept s₀ u → Kept s₀
      { (u.count bGLB 0 6).accError 7 0 (blockBase bSNAP 0) with
        regs := { ((u.count bGLB 0 6).accError 7 0 (blockBase bSNAP 0)).regs with
          snap := { ((u.count bGLB 0 6).accError 7 0 (blockBase bSNAP 0)).regs.snap with refused := true, doneSeq := n } } } :=
    fun u n h => State.accError_kept (u.count bGLB 0 6) 7 0 (blockBase bSNAP 0) (State.count_kept _ _ _ _ _ h)
  unfold snapshotRegStart
  dsimp only
  split
  · exact hkeep _ hk
  · split
    · exact href _ _ hk
    · split
      · exact href _ _ (hkeep _ hk)
      · exact State.startSnap_kept _ _ _ _ (hkeep _ hk)

theorem execSnapshotRegStart_kept {s₀ : State} (value : Word) (s : State) (hk : Kept s₀ s) :
    OutKept s₀ (execSnapshotRegStart value s) := by
  unfold execSnapshotRegStart
  apply OutKept.next
  with_reducible apply snapshotRegStart_kept
  exact hk

theorem snapshotDone_kept {s₀ : State} (s : State) (hk : Kept s₀ s) : Kept s₀ (snapshotDone s) := by
  unfold snapshotDone
  repeat' first
    | with_reducible first
      | assumption | intro v | apply State.complete_kept | apply State.count_kept | apply State.startSnap_kept
      | apply Kept.foldl | apply Kept.ite
    | (extract_lets +onlyGivenNames x
       first
       | (refine Kept.cut (s₀ := s₀) x ?_ ?_; (on_goal 2 => intro hx; clear_value x); (on_goal 1 => unfold x))
       | skip)
    | split
    | assumption

theorem execSnapshotDone_kept {s₀ : State} (s : State) (hk : Kept s₀ s) : OutKept s₀ (execSnapshotDone s) := by
  unfold execSnapshotDone
  apply OutKept.next
  with_reducible apply snapshotDone_kept
  exact hk

theorem fmodeModeWrite_kept {s₀ : State} (s : State) (value : Nat) (hk : Kept s₀ s) : Kept s₀ (fmodeModeWrite s value) := by
  unfold fmodeModeWrite
  exact hk

theorem execFmodeModeWrite_kept {s₀ : State} (value : Word) (s : State) (hk : Kept s₀ s) :
    OutKept s₀ (execFmodeModeWrite value s) := by
  unfold execFmodeModeWrite
  apply OutKept.next
  with_reducible apply fmodeModeWrite_kept
  exact hk

theorem funcMode_kept {s₀ : State} (s : State) (h : HostCmd) (param : Bytes) (hk : Kept s₀ s) :
    Kept s₀ (funcMode s h param) := by
  unfold funcMode
  repeat' first
    | with_reducible first
      | assumption | intro v | apply State.complete_kept | apply State.stage_kept | apply Kept.ite
    | split
    | assumption

theorem execFuncMode_kept {s₀ : State} (h : HostCmd) (param : Bytes) (s : State) (hk : Kept s₀ s) :
    OutKept s₀ (execFuncMode h param s) := by
  unfold execFuncMode
  repeat' first
    | with_reducible first
      | assumption | intro v | apply State.complete_kept | apply State.take_kept | apply funcMode_kept | apply Kept.ite
      | apply OutKept.next
    | (extract_lets +onlyGivenNames x
       first
       | (refine Kept.cut (s₀ := s₀) x ?_ ?_; (on_goal 2 => intro hx; clear_value x); (on_goal 1 => unfold x)))
    | split

end Sys2Proof.Machine
end

