-- ==== Sys2Proof/Laws/KeptStore.lean ====
section
/-!
SUPPORT. What every command keeps, for the directory, the wire, the page store and the conversation operations.
-/
namespace Sys2Proof.Machine

/-! ### Directory -/

theorem State.postAssist_kept {s₀ : State} (s : State) (a : AssistPost) (purpose : Option AssistFor) (data : Bytes) (hk : Kept s₀ s) :
    Kept s₀ (State.postAssist s a purpose data).2 := by
  unfold State.postAssist
  repeat' first
    | with_reducible first
      | assumption | intro v | apply State.count_kept | apply State.updFn_kept | apply Kept.ite
    | split
    | assumption

theorem State.startRebuild_kept {s₀ : State} (s : State) (q : Nat) (hk : Kept s₀ s) : Kept s₀ (State.startRebuild s q) := by
  unfold State.startRebuild
  repeat' first
    | with_reducible first
      | assumption | apply State.count_kept | apply State.updDir_kept | apply Kept.ite

theorem State.dirParity_kept {s₀ : State} (s : State) (q a : Nat) (hk : Kept s₀ s) : Kept s₀ (State.dirParity s q a) := by
  unfold State.dirParity
  repeat' first
    | with_reducible first
      | assumption | apply State.count_kept | apply State.postFault_kept | apply State.startRebuild_kept
      | apply State.updDir_kept

theorem State.dirMulti_kept {s₀ : State} (s : State) (q key : Nat) (hk : Kept s₀ s) : Kept s₀ (State.dirMulti s q key) := by
  unfold State.dirMulti
  repeat' first
    | with_reducible first
      | assumption | apply State.count_kept | apply State.postFault_kept | apply State.startRebuild_kept
      | apply State.updDir_kept

theorem State.lookup_kept {s₀ : State} (s : State) (q key : Nat) (op : Inbound) (hk : Kept s₀ s) :
    Kept s₀ (State.lookup s q key op).2 := by
  unfold State.lookup
  repeat' first
    | with_reducible first
      | assumption | intro v | apply State.count_kept | apply State.dirMulti_kept | apply State.dirParity_kept
      | apply State.postAssist_kept | apply State.updDir_kept | apply Kept.ite
    | (extract_lets +onlyGivenNames x
       first
       | (refine Kept.cut (s₀ := s₀) x ?_ ?_; (on_goal 2 => intro hx; clear_value x); (on_goal 1 => unfold x))
       | skip)
    | split

theorem State.dirPut_kept {s₀ : State} (s : State) (q a : Nat) (e : DirEntry) (hk : Kept s₀ s) :
    Kept s₀ (State.dirPut s q a e) := by
  unfold State.dirPut
  exact hk

theorem State.dirDel_kept {s₀ : State} (s : State) (q a : Nat) (hk : Kept s₀ s) : Kept s₀ (State.dirDel s q a) := by
  unfold State.dirDel
  exact hk

theorem State.setEntry_kept {s₀ : State} (s : State) (q key : Nat) (f : DirEntry → DirEntry) (hk : Kept s₀ s) :
    Kept s₀ (State.setEntry s q key f) := by
  unfold State.setEntry
  repeat' first
    | with_reducible first
      | assumption | apply State.dirPut_kept | apply State.updSegOf_kept | apply Kept.ite
    | split

theorem State.enterSeg_kept {s₀ : State} (s : State) (q key shapeId gen entry desc : Nat) (sh : Shape) (st : SegState)
    (frames : List FrameRef) (A : Tab Alloc) (hk : Kept s₀ s) :
    Kept s₀ (s.enterSeg q key shapeId gen entry desc sh st frames A) := by
  unfold State.enterSeg
  dsimp only
  refine State.count_kept _ _ _ _ _ (State.dirPut_kept _ _ _ _ ?_)
  refine Kept.hbm (State.updStore_kept _ _ _ hk) fun w => ?_
  refine Mem.foldl_wf (fun m f hm => ?_) w
  exact Mem.foldl_wf (fun m p hm => Mem.clear_wf _ _ _ hm) hm

theorem State.allocSeg_kept {s₀ : State} (s : State) (q key shapeId place gen : Nat) (sh : Shape) (st : SegState) (op : Inbound) (addrs : Option (List (Nat × Nat))) (hk : Kept s₀ s) :
    AllocRes.KeptBy s₀ (State.allocSeg s q key shapeId place gen sh st op addrs) := by
  unfold State.allocSeg
  repeat' first
    | with_reducible first
      | assumption | intro v | apply State.applyAt_kept | apply State.count_kept | apply State.dirDel_kept
      | apply State.enterSeg_kept | apply State.postAssist_kept | apply State.postFor_kept | apply Kept.ite
      | apply AllocRes.KeptBy.done | apply AllocRes.KeptBy.refused | apply AllocRes.KeptBy.parked
    | (extract_lets +onlyGivenNames x
       first
       | (refine Kept.cut (s₀ := s₀) x ?_ ?_; (on_goal 2 => intro hx; clear_value x); (on_goal 1 => unfold x))
       | (refine Kept.cut2 (s₀ := s₀) x ?_ ?_; (on_goal 2 => intro hx; clear_value x); (on_goal 1 => unfold x))
       | skip)
    | with_reducible apply hf
    | split
    | assumption
    | with_reducible refine Kept.ofEq (by assumption) ?_
    | (dsimp +zetaDelta only)

theorem State.releaseSeg_kept {s₀ : State} (s : State) (q key : Nat) (hk : Kept s₀ s) :
    Kept s₀ (State.releaseSeg s q key) := by
  unfold State.releaseSeg
  repeat' first
    | with_reducible first
      | assumption | apply State.count_kept | apply State.updStore_kept | apply Kept.ite
    | split

theorem frameScrubDone_kept {s₀ : State} (s : State) (n addr : Nat) (hk : Kept s₀ s) :
    Kept s₀ (frameScrubDone s n addr) := by
  unfold frameScrubDone
  repeat' first
    | with_reducible first
      | assumption | intro v | apply State.count_kept | apply State.updStack_kept | apply State.updStore_kept | apply Kept.ite
    | (extract_lets +onlyGivenNames x
       first
       | (refine Kept.cut (s₀ := s₀) x ?_ ?_; (on_goal 2 => intro hx; clear_value x); (on_goal 1 => unfold x))
       | (refine Kept.cut2 (s₀ := s₀) x ?_ ?_; (on_goal 2 => intro hx; clear_value x); (on_goal 1 => unfold x))
       | (refine Kept.cutf (s₀ := s₀) x ?_ ?_; (on_goal 2 => intro hf; clear_value x); (on_goal 1 => unfold x))
       | (refine Kept.cutg (s₀ := s₀) x ?_ ?_; (on_goal 2 => intro hf; clear_value x); (on_goal 1 => unfold x))
       | (refine Kept.cutr (s₀ := s₀) x ?_ ?_; (on_goal 2 => intro hf; clear_value x); (on_goal 1 => unfold x))
       | skip)
    | with_reducible apply hf
    | split
    | assumption
    | exact Kept.hbm (by assumption) (Mem.clear_wf _ _ _)

theorem execFrameScrubDone_kept {s₀ : State} (stack : Fin 16) (addr : Nat) (s : State) (hk : Kept s₀ s) :
    OutKept s₀ (execFrameScrubDone stack addr s) := by
  unfold execFrameScrubDone
  apply OutKept.next
  with_reducible apply frameScrubDone_kept
  exact hk

theorem State.tkLevel_kept {s₀ : State} (s : State) (q : Nat) (hk : Kept s₀ s) : Kept s₀ (State.tkLevel s q) := by
  unfold State.tkLevel
  exact hk

theorem State.takeTicket_kept {s₀ : State} (s : State) (q : Nat) (t : Ticket) (hk : Kept s₀ s) :
    Kept s₀ (State.takeTicket s q t).2 := by
  unfold State.takeTicket
  repeat' first
    | with_reducible first
      | assumption | intro v | apply State.count_kept | apply State.tkLevel_kept | apply State.updTk_kept | apply Kept.ite
    | (extract_lets +onlyGivenNames x
       first
       | (refine Kept.cut (s₀ := s₀) x ?_ ?_; (on_goal 2 => intro hx; clear_value x); (on_goal 1 => unfold x))
       | skip)
    | split

theorem State.updTicket_kept {s₀ : State} (s : State) (id : Nat) (f : Ticket → Ticket) (hk : Kept s₀ s) :
    Kept s₀ (State.updTicket s id f) := by
  unfold State.updTicket
  exact hk

theorem State.dropMaps_kept {s₀ : State} (s : State) (hk : Kept s₀ s) : Kept s₀ (State.dropMaps s) := by
  unfold State.dropMaps
  exact hk

theorem State.freeTicket_kept {s₀ : State} (s : State) (id : Nat) (hk : Kept s₀ s) : Kept s₀ (State.freeTicket s id) := by
  unfold State.freeTicket
  exact hk

theorem ticketHandoff_kept {s₀ : State} (s : State) (q slot : Nat) (toSpill : Bool) (hk : Kept s₀ s) :
    Kept s₀ (ticketHandoff s q slot toSpill) := by
  unfold ticketHandoff
  repeat' first
    | with_reducible first
      | assumption | apply State.count_kept | apply State.tkLevel_kept | apply State.updTk_kept | apply Kept.ite
    | split

theorem execTicketHandoff_kept {s₀ : State} (q : Fin 4) (id : Nat) (toSpill : Bool) (s : State) (hk : Kept s₀ s) :
    OutKept s₀ (execTicketHandoff q id toSpill s) := by
  unfold execTicketHandoff
  apply OutKept.next
  with_reducible apply ticketHandoff_kept
  exact hk

/-! ### Wire -/

theorem State.toPort_kept {s₀ : State} (s : State) (p : Nat) (f : TxFrame) (hk : Kept s₀ s) :
    Kept s₀ (State.toPort s p f) := by
  unfold State.toPort
  repeat' first
    | with_reducible first
      | assumption | apply State.count_kept | apply State.updPort_kept | apply Kept.ite

theorem State.newRoutes_kept {s₀ : State} (s : State) (q : Nat) (hk : Kept s₀ s) : Kept s₀ (State.newRoutes s q) := by
  unfold State.newRoutes
  exact hk

theorem State.sendOn_kept {s₀ : State} (s : State) (i : Nat) (h : Hdr) (payload : Bytes) (resend : Bool) (hk : Kept s₀ s) :
    Kept s₀ (State.sendOn s i h payload resend) := by
  unfold State.sendOn
  repeat' first
    | with_reducible first
      | assumption | intro v | apply State.count_kept | apply State.newRoutes_kept | apply State.toPort_kept
      | apply State.updConn_kept | apply Kept.ite
    | (extract_lets +onlyGivenNames x
       first
       | (refine Kept.cut (s₀ := s₀) x ?_ ?_; (on_goal 2 => intro hx; clear_value x); (on_goal 1 => unfold x))
       | skip)
    | split

theorem State.sendHello_kept {s₀ : State} (s : State) (i kind status : Nat) (hk : Kept s₀ s) :
    Kept s₀ (State.sendHello s i kind status) := by
  unfold State.sendHello
  repeat' first
    | with_reducible first
      | assumption | apply State.drawTrng_kept | apply State.sendOn_kept | apply Kept.ite
    | split

theorem State.sendReset_kept {s₀ : State} (s : State) (p : Nat) (toAddr : Nat) (rx : Hdr) (status : Nat) (hk : Kept s₀ s) :
    Kept s₀ (State.sendReset s p toAddr rx status) := by
  unfold State.sendReset
  repeat' first
    | with_reducible first
      | assumption | apply State.count_kept | apply State.toPort_kept | apply Kept.ite

theorem State.startConn_kept {s₀ : State} (s : State) (i : Nat) (c : Conn) (hk : Kept s₀ s) :
    Kept s₀ (State.startConn s i c) := by
  unfold State.startConn
  exact hk

theorem State.openConn_kept {s₀ : State} (s : State) (q node tenant : Nat) (hk : Kept s₀ s) :
    Kept s₀ (State.openConn s q node tenant).2 := by
  unfold State.openConn
  repeat' first
    | with_reducible first
      | assumption | apply State.drawTrng_kept | apply State.sendHello_kept | apply State.startConn_kept
      | apply State.updConn_kept | apply Kept.ite
    | split

theorem State.peerConn_kept {s₀ : State} (s : State) (q node tenant : Nat) (hk : Kept s₀ s) :
    Kept s₀ (State.peerConn s q node tenant).2 := by
  unfold State.peerConn
  repeat' first
    | with_reducible first
      | assumption | apply State.openConn_kept | apply Kept.ite
    | split

theorem State.freeConn_kept {s₀ : State} (s : State) (i : Nat) (hk : Kept s₀ s) : Kept s₀ (State.freeConn s i) := by
  unfold State.freeConn
  exact hk

theorem State.failOpening_kept {s₀ : State} (s : State) (i : Nat) (hk : Kept s₀ s) : Kept s₀ (State.failOpening s i) := by
  unfold State.failOpening
  exact hk

theorem State.connError_kept {s₀ : State} (s : State) (i : Nat) (status : Nat) (hk : Kept s₀ s) :
    Kept s₀ (State.connError s i status) := by
  unfold State.connError
  repeat' first
    | with_reducible first
      | assumption | intro v | apply State.count_kept | apply State.postFor_kept | apply State.updConn_kept | apply Kept.ite
    | split
    | assumption

theorem State.closeStep_kept {s₀ : State} (s : State) (i : Nat) (hk : Kept s₀ s) : Kept s₀ (State.closeStep s i) := by
  unfold State.closeStep
  repeat' first
    | with_reducible first
      | assumption | apply State.freeConn_kept | apply State.sendHello_kept | apply State.updConn_kept | apply Kept.ite

theorem State.sendAck_kept {s₀ : State} (s : State) (i : Nat) (hk : Kept s₀ s) : Kept s₀ (State.sendAck s i) := by
  unfold State.sendAck
  repeat' first
    | with_reducible first
      | assumption | apply State.sendOn_kept | apply State.updConn_kept

theorem State.transmit_kept {s₀ : State} (s : State) (i : Nat) (p : TxPkt) (resend : Bool) (hk : Kept s₀ s) :
    Kept s₀ (State.transmit s i p resend) := by
  unfold State.transmit
  repeat' first
    | with_reducible first
      | assumption | apply State.count_kept | apply State.sendOn_kept | apply State.updConn_kept | apply Kept.ite

theorem State.resendPkt_kept {s₀ : State} (s : State) (i psn : Nat) (hk : Kept s₀ s) :
    Kept s₀ (State.resendPkt s i psn) := by
  unfold State.resendPkt
  repeat' first
    | with_reducible first
      | assumption | apply State.transmit_kept | apply State.updConn_kept | apply Kept.ite
    | split

/-! ### Cache -/

theorem State.trimReads_kept {s₀ : State} (s : State) (q : Nat) (hk : Kept s₀ s) : Kept s₀ (State.trimReads s q) := by
  unfold State.trimReads
  exact hk

theorem State.addCache_kept {s₀ : State} (s : State) (q : Nat) (e : CacheEntry) (hk : Kept s₀ s) :
    Kept s₀ (State.addCache s q e) := by
  unfold State.addCache
  exact hk

theorem State.touchCache_kept {s₀ : State} (s : State) (q key frame page : Nat) (hk : Kept s₀ s) :
    Kept s₀ (State.touchCache s q key frame page) := by
  unfold State.touchCache
  exact hk

theorem State.fillRead_kept {s₀ : State} (s : State) (q key frame page stk addr : Nat) (sh : Shape) (h : PageHdr) (pay : Bytes) (hk : Kept s₀ s) :
    Kept s₀ (State.fillRead s q key frame page stk addr sh h pay) := by
  unfold State.fillRead
  repeat' first
    | with_reducible first
      | assumption | apply State.addCache_kept | apply Kept.ite

theorem State.writeSlot_kept {s₀ : State} (s : State) (q key gen frame page : Nat) (fr : FrameRef) (sh : Shape) (plain : Mem) (hk : Kept s₀ s) :
    Kept s₀ (State.writeSlot s q key gen frame page fr sh plain) := by
  unfold State.writeSlot
  repeat' first
    | with_reducible first
      | assumption | apply State.stackWrite_kept

theorem State.closePage_kept {s₀ : State} (s : State) (q key gen frame page : Nat) (fr : FrameRef) (sh : Shape) (e : CacheEntry) (hk : Kept s₀ s) :
    Kept s₀ (State.closePage s q key gen frame page fr sh e) := by
  unfold State.closePage
  repeat' first
    | with_reducible first
      | assumption | apply State.addCache_kept | apply State.writeSlot_kept | apply Kept.ite

/-! ### Requests -/

theorem State.refuse_kept {s₀ : State} (s : State) (e : Inbound) (status : Nat) (hk : Kept s₀ s) :
    Kept s₀ (State.refuse s e status) := by
  unfold State.refuse
  repeat' first
    | with_reducible first
      | assumption | apply State.answerOp_kept

theorem State.finish_kept {s₀ : State} (s : State) (tk status : Nat) (detail : Nat) (copies : Nat) (data : Bytes) (covered : Nat) (hk : Kept s₀ s) :
    Kept s₀ (State.finish s tk status detail copies data covered) := by
  unfold State.finish
  repeat' first
    | with_reducible first
      | assumption | apply State.answerOp_kept | apply State.freeTicket_kept | apply Kept.ite
    | split

theorem State.beginOp_kept {s₀ : State} (s : State) (e : Inbound) (hk : Kept s₀ s) : BeginKept s₀ (State.beginOp s e) := by
  unfold State.beginOp
  repeat' first
    | with_reducible first
      | assumption | intro v | apply State.refuse_kept | apply State.takeTicket_kept | apply Kept.ite | apply BeginKept.error
      | apply BeginKept.ok
    | (extract_lets +onlyGivenNames x
       first
       | (refine Kept.cut (s₀ := s₀) x ?_ ?_; (on_goal 2 => intro hx; clear_value x); (on_goal 1 => unfold x))
       | (refine Kept.cut2 (s₀ := s₀) x ?_ ?_; (on_goal 2 => intro hx; clear_value x); (on_goal 1 => unfold x))
       | skip)
    | split
    | assumption
    | with_reducible refine Kept.ofEq (by assumption) ?_

theorem State.updChain_kept {s₀ : State} (s : State) (q key : Nat) (f : Chain → Chain) (hk : Kept s₀ s) :
    Kept s₀ (State.updChain s q key f) := by
  unfold State.updChain
  exact hk

theorem State.postImm_kept {s₀ : State} (s : State) (q opcode status : Nat) (body : Bytes) (hk : Kept s₀ s) :
    Kept s₀ (State.postImm s q opcode status body) := by
  unfold State.postImm
  repeat' first
    | with_reducible first
      | assumption | apply State.post_kept | apply Kept.ite

theorem State.ackOp_kept {s₀ : State} (s : State) (tk status detail copies : Nat) (body : Bytes) (hk : Kept s₀ s) :
    Kept s₀ (State.ackOp s tk status detail copies body) := by
  unfold State.ackOp
  repeat' first
    | with_reducible first
      | assumption | apply State.finish_kept | apply State.postImm_kept | apply Kept.ite
    | split

theorem State.ackWaiter_kept {s₀ : State} (s : State) (f : Forward) (copies : Nat) (hk : Kept s₀ s) :
    Kept s₀ (State.ackWaiter s f copies) := by
  unfold State.ackWaiter
  repeat' first
    | with_reducible first
      | assumption | apply State.ackOp_kept | apply Kept.ite
    | split

theorem State.breakChain_kept {s₀ : State} (s : State) (q key : Nat) (hk : Kept s₀ s) :
    Kept s₀ (State.breakChain s q key) := by
  unfold State.breakChain
  repeat' first
    | with_reducible first
      | assumption | intro v | apply State.ackWaiter_kept | apply State.postFor_kept | apply State.updChain_kept
      | apply Kept.foldl | apply Kept.ite
    | split

theorem State.sendForward_kept {s₀ : State} (s : State) (q key : Nat) (f : Forward) (hk : Kept s₀ s) :
    Kept s₀ (State.sendForward s q key f) := by
  unfold State.sendForward
  repeat' first
    | with_reducible first
      | assumption | intro v | apply State.ackWaiter_kept | apply State.breakChain_kept | apply State.hand_kept
      | apply State.peerConn_kept | apply State.updChain_kept | apply Kept.ite
    | (extract_lets +onlyGivenNames x
       first
       | (refine Kept.cut (s₀ := s₀) x ?_ ?_; (on_goal 2 => intro hx; clear_value x); (on_goal 1 => unfold x))
       | skip)
    | split
    | assumption
    | with_reducible refine Kept.ofEq (by assumption) ?_

theorem State.chainDone_kept {s₀ : State} (s : State) (p : Op) (status detail : Nat) (hk : Kept s₀ s) :
    Kept s₀ (State.chainDone s p status detail) := by
  unfold State.chainDone
  repeat' first
    | with_reducible first
      | assumption | apply State.ackOp_kept | apply State.fresh_kept | apply State.sendForward_kept
      | apply State.updChain_kept | apply State.updTicket_kept | apply Kept.ite
    | split

theorem State.flushForwards_kept {s₀ : State} (s : State) (q key : Nat) (hk : Kept s₀ s) :
    Kept s₀ (State.flushForwards s q key) := by
  unfold State.flushForwards
  repeat' first
    | with_reducible first
      | assumption | intro v | apply State.sendForward_kept | apply State.updChain_kept | apply Kept.foldl | apply Kept.ite
    | split

theorem State.forwardAnswered_kept {s₀ : State} (s : State) (q key fwd status gen copies : Nat) (hk : Kept s₀ s) :
    Kept s₀ (State.forwardAnswered s q key fwd status gen copies) := by
  unfold State.forwardAnswered
  repeat' first
    | with_reducible first
      | assumption | apply State.ackWaiter_kept | apply State.breakChain_kept | apply State.flushForwards_kept
      | apply State.updChain_kept | apply Kept.ite
    | split

theorem State.dropChain_kept {s₀ : State} (s : State) (q key : Nat) (hk : Kept s₀ s) :
    Kept s₀ (State.dropChain s q key) := by
  unfold State.dropChain
  repeat' first
    | with_reducible first
      | assumption | intro v | apply State.ackWaiter_kept | apply State.updChain_kept | apply State.updStore_kept
      | apply Kept.foldl | apply Kept.ite
    | split

theorem State.enterCoding_kept {s₀ : State} (s : State) (q key : Nat) (hk : Kept s₀ s) :
    Kept s₀ (State.enterCoding s q key) := by
  unfold State.enterCoding
  exact hk

theorem State.leaveCoding_kept {s₀ : State} (s : State) (q key : Nat) (hk : Kept s₀ s) :
    Kept s₀ (State.leaveCoding s q key) := by
  unfold State.leaveCoding
  exact hk

theorem State.toSealed_kept {s₀ : State} (s : State) (q key : Nat) (hk : Kept s₀ s) : Kept s₀ (State.toSealed s q key) := by
  unfold State.toSealed
  repeat' first
    | with_reducible first
      | assumption | apply State.enterCoding_kept | apply State.setEntry_kept | apply State.updSegOf_kept | apply Kept.ite
    | split

theorem State.retireEntry_kept {s₀ : State} (s : State) (q key gen : Nat) (hk : Kept s₀ s) :
    Kept s₀ (State.retireEntry s q key gen) := by
  unfold State.retireEntry
  repeat' first
    | with_reducible first
      | assumption | apply State.dropChain_kept | apply State.leaveCoding_kept | apply State.releaseSeg_kept
      | apply State.setEntry_kept | apply State.updDir_kept

/-! ### Segments -/

theorem State.storeFrame_kept {s₀ : State} (s : State) (q key gen rel count : Nat) (a : AppendData) (moving : Bool) (t : Nat × Nat × Nat × Nat) (fr : FrameRef) (hk : Kept s₀ s) :
    Kept s₀ (State.storeFrame s q key gen rel count a moving t fr) := by
  unfold State.storeFrame
  repeat' first
    | with_reducible first
      | assumption | intro v | apply State.addCache_kept | apply State.closePage_kept | apply State.count_kept
      | apply State.updSegOf_kept | apply State.updStore_kept | apply Kept.foldl | apply Kept.ite
    | split

theorem State.storeAppend_kept {s₀ : State} (s : State) (q key : Nat) (e : DirEntry) (g : Seg) (r : AppendReq) (a : AppendData)
    (hk : Kept s₀ s) : Kept s₀ (s.storeAppend q key e g r a) := by
  have h1 : Kept s₀ ((r.targets g a.kvh).foldl (fun s t =>
    match g.frames[t.2.2.1]? with
    | some fr => if t.2.2.2 < r.first % 2048 + r.count then s.storeFrame q key e.gen (r.first % 2048) r.count a (e.state == .moving) t fr else s
    | none => s) s) := by
    refine Kept.foldl (fun t x ht => ?_) hk
    split
    · split
      · exact State.storeFrame_kept _ _ _ _ _ _ _ _ _ _ ht
      · exact ht
    · exact ht
  have h2 := fun f => State.updSegOf_kept _ q key f h1
  unfold State.storeAppend
  dsimp only
  split
  · split
    · exact State.toSealed_kept _ _ _ (h2 _)
    · exact h2 _
  · exact h2 _

theorem State.appendAns_kept {s₀ : State} (s : State) (p : Op) (status : Nat) (hk : Kept s₀ s) :
    Kept s₀ (State.appendAns s p status) := by
  unfold State.appendAns
  repeat' first
    | with_reducible first
      | assumption | apply State.finish_kept

theorem appendRows_kept {s₀ : State} (s : State) (p : Op) (e : DirEntry) (g : Seg) (sh : Shape) (hk : Kept s₀ s) :
    StepRes.KeptBy s₀ (appendRows s p e g sh) := by
  unfold appendRows
  repeat' first
    | with_reducible first
      | assumption | intro v | apply State.appendAns_kept | apply State.chainDone_kept | apply State.count_kept
      | apply State.drawFree_kept | apply State.storeAppend_kept | apply State.updSegOf_kept | apply Kept.ite
      | apply StepRes.KeptBy.done | apply StepRes.KeptBy.parked | apply StepRes.KeptBy.hold | apply StepRes.KeptBy.wait
    | (extract_lets +onlyGivenNames x
       first
       | (refine Kept.cut (s₀ := s₀) x ?_ ?_; (on_goal 2 => intro hx; clear_value x); (on_goal 1 => unfold x))
       | (refine Kept.cut2 (s₀ := s₀) x ?_ ?_; (on_goal 2 => intro hx; clear_value x); (on_goal 1 => unfold x))
       | skip)
    | split

theorem appendLive_kept {s₀ : State} (s : State) (p : Op) (hk : Kept s₀ s) : StepRes.KeptBy s₀ (appendLive s p) := by
  unfold appendLive
  repeat' first
    | with_reducible first
      | assumption | intro v | apply State.appendAns_kept | apply appendRows_kept | apply Kept.ite | apply StepRes.KeptBy.done
      | apply StepRes.KeptBy.parked | apply StepRes.KeptBy.hold | apply StepRes.KeptBy.wait
    | (extract_lets +onlyGivenNames x
       first
       | (refine Kept.cut (s₀ := s₀) x ?_ ?_; (on_goal 2 => intro hx; clear_value x); (on_goal 1 => unfold x))
       | skip)
    | split

theorem appendStep.alloc_kept {s₀ : State} (p : Op) (addrs : Option (List (Nat × Nat))) (s : State) (gen : Nat) (hk : Kept s₀ s) :
    (appendStep.alloc p addrs s gen).KeptBy s₀ := by
  unfold appendStep.alloc
  dsimp only
  split
  · exact State.finish_kept _ _ _ _ _ _ _ hk
  · split
    · exact State.finish_kept _ _ _ _ _ _ _ hk
    · have ha := fun a b c d e f g h i => State.allocSeg_kept (s₀ := s₀) s a b c d e f g h i hk
      split
      · exact State.finish_kept _ _ _ _ _ _ _ (AllocRes.KeptBy.ofRefused ‹_› (ha ..))
      · exact AllocRes.KeptBy.ofParked ‹_› (ha ..)
      · exact appendLive_kept _ _ (State.trimReads_kept _ _ (AllocRes.KeptBy.ofDone ‹_› (ha ..)))
theorem appendStep_kept {s₀ : State} (s : State) (p : Op) (addrs : Option (List (Nat × Nat))) (hk : Kept s₀ s) :
    (appendStep s p addrs).KeptBy s₀ := by
  unfold appendStep
  split
  · split
    · exact State.appendAns_kept _ _ _ hk
    · split
      · split
        · exact appendLive_kept _ _ hk
        · exact State.appendAns_kept _ _ _ hk
      · split
        · exact State.appendAns_kept _ _ _ hk
        · exact appendStep.alloc_kept _ _ _ _ hk
  · split
    · exact State.appendAns_kept _ _ _ hk
    · exact appendStep.alloc_kept _ _ _ _ hk

theorem State.closeAll_kept {s₀ : State} (s : State) (q key gen : Nat) (g : Seg) (sh : Shape) (hk : Kept s₀ s) :
    Kept s₀ (State.closeAll s q key gen g sh) := by
  unfold State.closeAll
  repeat' first
    | with_reducible first
      | assumption | intro v | apply State.closePage_kept | apply State.updSegOf_kept | apply State.updStore_kept
      | apply Kept.foldl | apply Kept.ite
    | (extract_lets +onlyGivenNames x
       first
       | (refine Kept.cut (s₀ := s₀) x ?_ ?_; (on_goal 2 => intro hx; clear_value x); (on_goal 1 => unfold x))
       | skip)
    | split

theorem sealStep_kept {s₀ : State} (s : State) (p : Op) (hk : Kept s₀ s) : StepRes.KeptBy s₀ (sealStep s p) := by
  unfold sealStep
  repeat' first
    | with_reducible first
      | assumption | intro v | apply State.chainDone_kept | apply State.closeAll_kept | apply State.finish_kept
      | apply State.toSealed_kept | apply Kept.ite | apply StepRes.KeptBy.done | apply StepRes.KeptBy.parked
      | apply StepRes.KeptBy.hold | apply StepRes.KeptBy.wait
    | (extract_lets +onlyGivenNames x
       first
       | (refine Kept.cut (s₀ := s₀) x ?_ ?_; (on_goal 2 => intro hx; clear_value x); (on_goal 1 => unfold x))
       | skip)
    | split

theorem retireStep_kept {s₀ : State} (s : State) (p : Op) (hk : Kept s₀ s) : StepRes.KeptBy s₀ (retireStep s p) := by
  unfold retireStep
  repeat' first
    | with_reducible first
      | assumption | intro v | apply State.finish_kept | apply State.retireEntry_kept | apply Kept.ite
      | apply StepRes.KeptBy.done | apply StepRes.KeptBy.parked | apply StepRes.KeptBy.hold | apply StepRes.KeptBy.wait
    | (extract_lets +onlyGivenNames x
       first
       | (refine Kept.cut (s₀ := s₀) x ?_ ?_; (on_goal 2 => intro hx; clear_value x); (on_goal 1 => unfold x))
       | skip)
    | split

theorem readStep_kept {s₀ : State} (s : State) (p : Op) (hk : Kept s₀ s) : StepRes.KeptBy s₀ (readStep s p) := by
  unfold readStep
  repeat' first
    | with_reducible first
      | assumption | intro v | apply State.finish_kept | apply Kept.ite | apply StepRes.KeptBy.done
      | apply StepRes.KeptBy.parked | apply StepRes.KeptBy.hold | apply StepRes.KeptBy.wait
    | (extract_lets +onlyGivenNames x
       first
       | (refine Kept.cut (s₀ := s₀) x ?_ ?_; (on_goal 2 => intro hx; clear_value x); (on_goal 1 => unfold x))
       | skip)
    | split

theorem segStep_kept {s₀ : State} (s : State) (p : Op) (addrs : Option (List (Nat × Nat))) (hk : Kept s₀ s) :
    StepRes.KeptBy s₀ (segStep s p addrs) := by
  unfold segStep
  repeat' first
    | with_reducible first
      | assumption | apply appendStep_kept | apply readStep_kept | apply retireStep_kept | apply sealStep_kept
      | apply Kept.ite
    | split

theorem State.unhold_kept {s₀ : State} (s : State) (q id : Nat) (hk : Kept s₀ s) : Kept s₀ (State.unhold s q id) := by
  unfold State.unhold
  exact hk

theorem tryHeld_kept {s₀ : State} (s : State) (q : Nat) (h : Held) (hk : Kept s₀ s) : Kept s₀ (tryHeld s q h).2 := by
  unfold tryHeld
  repeat' first
    | with_reducible first
      | assumption | intro v | apply State.unhold_kept | apply State.updStore_kept | apply segStep_kept | apply Kept.ite
    | (extract_lets +onlyGivenNames x
       first
       | (refine Kept.cut (s₀ := s₀) x ?_ ?_; (on_goal 2 => intro hx; clear_value x); (on_goal 1 => unfold x))
       | (refine Kept.cut2 (s₀ := s₀) x ?_ ?_; (on_goal 2 => intro hx; clear_value x); (on_goal 1 => unfold x))
       | (refine Kept.cutf (s₀ := s₀) x ?_ ?_; (on_goal 2 => intro hf; clear_value x); (on_goal 1 => unfold x))
       | (refine Kept.cutg (s₀ := s₀) x ?_ ?_; (on_goal 2 => intro hf; clear_value x); (on_goal 1 => unfold x))
       | (refine Kept.cutr (s₀ := s₀) x ?_ ?_; (on_goal 2 => intro hf; clear_value x); (on_goal 1 => unfold x))
       | skip)
    | with_reducible apply hf
    | split
    | assumption
    | with_reducible refine Kept.ofEq (by assumption) ?_
    | with_reducible refine StepRes.KeptBy.ofDone (by assumption) ?_
    | with_reducible refine StepRes.KeptBy.ofHold (by assumption) ?_
    | with_reducible refine StepRes.KeptBy.ofWait (by assumption) ?_
    | with_reducible refine StepRes.KeptBy.ofParked (by assumption) ?_

theorem holdPass_kept {s₀ : State} (q : Nat) (l : List Held) (s : State) (hk : Kept s₀ s) : Kept s₀ (holdPass q l s).2 := by
  induction l generalizing s with
  | nil => exact hk
  | cons a l ih => exact ih _ (tryHeld_kept _ _ _ hk)

theorem recheckWhere_kept {s₀ : State} (want : Held → Bool) (q n : Nat) (s : State) (hk : Kept s₀ s) :
    Kept s₀ (recheckWhere want q n s) := by
  induction n generalizing s with
  | zero => exact hk
  | succ n ih =>
    unfold recheckWhere
    dsimp only
    split
    · exact ih _ (holdPass_kept _ _ _ hk)
    · exact holdPass_kept _ _ _ hk

theorem State.recheck_kept {s₀ : State} (s : State) (q key : Nat) (hk : Kept s₀ s) : Kept s₀ (State.recheck s q key) := by
  unfold State.recheck
  repeat' first
    | with_reducible first
      | assumption | apply recheckWhere_kept

theorem State.recheckWaiting_kept {s₀ : State} (s : State) (q : Nat) (hk : Kept s₀ s) :
    Kept s₀ (State.recheckWaiting s q) := by
  unfold State.recheckWaiting
  repeat' first
    | with_reducible first
      | assumption | apply recheckWhere_kept

theorem State.keepHeld_kept {s₀ : State} (s : State) (p : Op) (inStore : Bool) (hk : Kept s₀ s) :
    Kept s₀ (State.keepHeld s p inStore) := by
  unfold State.keepHeld
  exact hk

theorem State.holdOp_kept {s₀ : State} (s : State) (p : Op) (hk : Kept s₀ s) : Kept s₀ (State.holdOp s p) := by
  unfold State.holdOp
  repeat' first
    | with_reducible first
      | assumption | apply State.finish_kept | apply State.keepHeld_kept | apply Kept.ite

theorem segRun_kept {s₀ : State} (s : State) (p : Op) (addrs : Option (List (Nat × Nat))) (hk : Kept s₀ s) :
    Kept s₀ (segRun s p addrs) := by
  unfold segRun
  repeat' first
    | with_reducible first
      | assumption | intro v | apply State.holdOp_kept | apply State.keepHeld_kept | apply State.recheck_kept
      | apply segStep_kept | apply Kept.ite
    | (extract_lets +onlyGivenNames x
       first
       | (refine Kept.cut (s₀ := s₀) x ?_ ?_; (on_goal 2 => intro hx; clear_value x); (on_goal 1 => unfold x))
       | (refine Kept.cut2 (s₀ := s₀) x ?_ ?_; (on_goal 2 => intro hx; clear_value x); (on_goal 1 => unfold x))
       | (refine Kept.cutf (s₀ := s₀) x ?_ ?_; (on_goal 2 => intro hf; clear_value x); (on_goal 1 => unfold x))
       | (refine Kept.cutg (s₀ := s₀) x ?_ ?_; (on_goal 2 => intro hf; clear_value x); (on_goal 1 => unfold x))
       | (refine Kept.cutr (s₀ := s₀) x ?_ ?_; (on_goal 2 => intro hf; clear_value x); (on_goal 1 => unfold x))
       | skip)
    | with_reducible apply hf
    | split
    | assumption
    | with_reducible refine Kept.ofEq (by assumption) ?_
    | with_reducible refine StepRes.KeptBy.ofDone (by assumption) ?_
    | with_reducible refine StepRes.KeptBy.ofHold (by assumption) ?_
    | with_reducible refine StepRes.KeptBy.ofWait (by assumption) ?_
    | with_reducible refine StepRes.KeptBy.ofParked (by assumption) ?_

theorem segOp_kept {s₀ : State} (s : State) (e : Inbound) (addrs : Option (List (Nat × Nat))) (hk : Kept s₀ s) :
    Kept s₀ (segOp s e addrs) := by
  unfold segOp
  repeat' first
    | with_reducible first
      | assumption | intro v | apply State.beginOp_kept | apply State.finish_kept | apply State.lookup_kept
      | apply segRun_kept | apply Kept.ite
    | (extract_lets +onlyGivenNames x
       first
       | (refine Kept.cut (s₀ := s₀) x ?_ ?_; (on_goal 2 => intro hx; clear_value x); (on_goal 1 => unfold x))
       | (refine Kept.cut2 (s₀ := s₀) x ?_ ?_; (on_goal 2 => intro hx; clear_value x); (on_goal 1 => unfold x))
       | (refine Kept.cutf (s₀ := s₀) x ?_ ?_; (on_goal 2 => intro hf; clear_value x); (on_goal 1 => unfold x))
       | (refine Kept.cutg (s₀ := s₀) x ?_ ?_; (on_goal 2 => intro hf; clear_value x); (on_goal 1 => unfold x))
       | (refine Kept.cutr (s₀ := s₀) x ?_ ?_; (on_goal 2 => intro hf; clear_value x); (on_goal 1 => unfold x))
       | skip)
    | with_reducible apply hf
    | split
    | assumption
    | with_reducible refine Kept.ofEq (by assumption) ?_
    | with_reducible refine BeginKept.ofError (by assumption) ?_
    | with_reducible refine BeginKept.ofOk (by assumption) ?_

theorem State.arrive_kept {s₀ : State} (s : State) (o : Origin) (op : Nat) (body : Bytes) (run : State → Inbound → State)
    (hrun : ∀ t e, Kept s₀ t → Kept s₀ (run t e)) (hk : Kept s₀ s) : Kept s₀ (s.arrive o op body run) := by
  have h1 := State.take_kept s o op body hk
  unfold State.arrive
  dsimp only
  split
  · exact hrun _ _ h1
  · split
    · exact State.complete_kept _ _ _ _ _ h1
    · exact hrun _ _ h1

theorem gapHoldExpiry_kept {s₀ : State} (s : State) (q id : Nat) (hk : Kept s₀ s) : Kept s₀ (gapHoldExpiry s q id) := by
  unfold gapHoldExpiry
  repeat' first
    | with_reducible first
      | assumption | apply State.advance_kept | apply State.finish_kept | apply State.unhold_kept | apply Kept.ite
    | split

end Sys2Proof.Machine
end

