-- ==== Sys2Proof/Laws/KeptAttend.lean ====
section
/-!
SUPPORT. What every command keeps, for requests, jobs and ATTEND.
-/
namespace Sys2Proof.Machine

/-! ### Dovetail -/

theorem State.updReq_kept {s₀ : State} (s : State) (tk : Nat) (f : Request → Request) (hk : Kept s₀ s) :
    Kept s₀ (State.updReq s tk f) := by
  unfold State.updReq
  exact hk

theorem State.trimDove_kept {s₀ : State} (s : State) (q : Nat) (hk : Kept s₀ s) : Kept s₀ (State.trimDove s q) := by
  unfold State.trimDove
  repeat' first
    | with_reducible first
      | assumption | apply State.count_kept | apply State.updDove_kept

theorem State.postPiece_kept {s₀ : State} (s : State) (tk : Nat) (r : Request) (p : Piece) (hk : Kept s₀ s) :
    Kept s₀ (State.postPiece s tk r p).2 := by
  unfold State.postPiece
  repeat' first
    | with_reducible first
      | assumption | apply State.postAssist_kept

theorem State.addPieceTo_kept {s₀ : State} (s : State) (tk : Nat) (p : Piece) (hk : Kept s₀ s) :
    Kept s₀ (State.addPieceTo s tk p) := by
  unfold State.addPieceTo
  repeat' first
    | with_reducible first
      | assumption | apply State.count_kept | apply State.postPiece_kept | apply State.trimDove_kept
      | apply State.updDove_kept | apply State.updReq_kept | apply State.updTicket_kept | apply Kept.ite
    | split

theorem State.addLeaf_kept {s₀ : State} (s : State) (tk head passNo run : Nat) (rows : List RowState) (hk : Kept s₀ s) :
    Kept s₀ (State.addLeaf s tk head passNo run rows) := by
  unfold State.addLeaf
  repeat' first
    | with_reducible first
      | assumption | apply State.addPieceTo_kept | apply State.trimDove_kept | apply State.updReq_kept | apply Kept.ite
    | split

theorem State.dropAllJobs_kept {s₀ : State} (s : State) (tk : Nat) (hk : Kept s₀ s) : Kept s₀ (State.dropAllJobs s tk) := by
  unfold State.dropAllJobs
  exact hk

theorem State.sweepHeld_kept {s₀ : State} (s : State) (q : Nat) (hk : Kept s₀ s) : Kept s₀ (State.sweepHeld s q) := by
  unfold State.sweepHeld
  repeat' first
    | with_reducible first
      | assumption | apply State.recheckWaiting_kept | apply State.updStore_kept | apply Kept.ite

theorem State.dropAssists_kept {s₀ : State} (s : State) (tk : Nat) (hk : Kept s₀ s) : Kept s₀ (State.dropAssists s tk) := by
  unfold State.dropAssists
  exact hk

theorem State.closeReq_kept {s₀ : State} (s : State) (tk status detail : Nat) (data : Bytes) (covered : Nat) (hk : Kept s₀ s) :
    Kept s₀ (State.closeReq s tk status detail data covered) := by
  unfold State.closeReq
  repeat' first
    | with_reducible first
      | assumption | intro v | apply State.dropAllJobs_kept | apply State.dropAssists_kept | apply State.finish_kept
      | apply State.sweepHeld_kept | apply State.updDove_kept | apply Kept.foldl

theorem State.answerReq_kept {s₀ : State} (s : State) (tk : Nat) (r : Request) (hk : Kept s₀ s) :
    Kept s₀ (State.answerReq s tk r) := by
  unfold State.answerReq
  repeat' first
    | with_reducible first
      | assumption | apply State.closeReq_kept | apply State.count_kept | apply Kept.ite

theorem State.endReq_kept {s₀ : State} (s : State) (tk : Nat) (hk : Kept s₀ s) : Kept s₀ (State.endReq s tk) := by
  unfold State.endReq
  repeat' first
    | with_reducible first
      | assumption | apply State.answerReq_kept | apply State.closeReq_kept | apply State.dropAllJobs_kept
      | apply State.postAssist_kept | apply State.updReq_kept | apply Kept.ite
    | split

theorem State.checkReq_kept {s₀ : State} (s : State) (tk : Nat) (hk : Kept s₀ s) : Kept s₀ (State.checkReq s tk) := by
  unfold State.checkReq
  repeat' first
    | with_reducible first
      | assumption | apply State.complete_kept | apply State.endReq_kept | apply Kept.ite
    | split

theorem State.mergeAnswer_kept {s₀ : State} (s : State) (tk : Nat) (answer : Option (Nat × Bytes)) (hk : Kept s₀ s) :
    Kept s₀ (State.mergeAnswer s tk answer) := by
  unfold State.mergeAnswer
  repeat' first
    | with_reducible first
      | assumption | apply State.answer_kept | apply State.closeReq_kept | apply Kept.ite
    | split

theorem State.deadlineReq_kept {s₀ : State} (s : State) (tk : Nat) (hk : Kept s₀ s) : Kept s₀ (State.deadlineReq s tk) := by
  unfold State.deadlineReq
  repeat' first
    | with_reducible first
      | assumption | apply State.answerReq_kept | apply State.closeReq_kept | apply State.complete_kept
      | apply State.count_kept | apply State.countU_kept | apply Kept.ite
    | split

/-! ### Estimate -/

theorem State.updOne_kept {s₀ : State} (s : State) (q k : Nat) (f : Core → Core) (hk : Kept s₀ s) :
    Kept s₀ (State.updOne s q k f) := by
  unfold State.updOne
  exact hk

theorem State.updJob_kept {s₀ : State} (s : State) (q id : Nat) (f : Job → Job) (hk : Kept s₀ s) :
    Kept s₀ (State.updJob s q id f) := by
  unfold State.updJob
  exact hk

theorem State.dropJob_kept {s₀ : State} (s : State) (q id : Nat) (hk : Kept s₀ s) : Kept s₀ (State.dropJob s q id) := by
  unfold State.dropJob
  exact hk

theorem State.updQe_kept {s₀ : State} (s : State) (q : Nat) (f : QEnergy → QEnergy) (hk : Kept s₀ s) :
    Kept s₀ (State.updQe s q f) := by
  unfold State.updQe
  exact hk

theorem State.settleBucket_kept {s₀ : State} (s : State) (q : Nat) (hk : Kept s₀ s) : Kept s₀ (State.settleBucket s q) := by
  unfold State.settleBucket
  exact hk

theorem State.sendMiss_kept {s₀ : State} (s : State) (tk base : Nat) (hk : Kept s₀ s) :
    Kept s₀ (State.sendMiss s tk base) := by
  unfold State.sendMiss
  repeat' first
    | with_reducible first
      | assumption | apply State.countU_kept | apply State.noticeTo_kept | apply State.updTicket_kept | apply Kept.ite
    | split

theorem State.checkMiss_kept {s₀ : State} (s : State) (tk : Nat) (hk : Kept s₀ s) : Kept s₀ (State.checkMiss s tk) := by
  unfold State.checkMiss
  repeat' first
    | with_reducible first
      | assumption | apply State.sendMiss_kept | apply Kept.ite
    | split

theorem State.checkMisses_kept {s₀ : State} (s : State) (hk : Kept s₀ s) : Kept s₀ (State.checkMisses s) := by
  unfold State.checkMisses
  repeat' first
    | with_reducible first
      | assumption | intro v | apply State.checkMiss_kept | apply Kept.foldl

/-! ### Jobs -/

theorem State.postUnit_kept {s₀ : State} (s : State) (q : Nat) (reader : Reader) (f : JobFrame) (page : Nat) (sh : Shape) (h : PageHdr) (pay : Bytes) (kPart : Bytes) (hk : Kept s₀ s) :
    OptKept s₀ (State.postUnit s q reader f page sh h pay kPart) := by
  unfold State.postUnit
  repeat' first
    | with_reducible first
      | assumption | intro v | apply State.postAssist_kept | apply State.take_kept | apply Kept.ite | apply OptKept.some
      | exact OptKept.none
    | (extract_lets +onlyGivenNames x
       first
       | (refine Kept.cut (s₀ := s₀) x ?_ ?_; (on_goal 2 => intro hx; clear_value x); (on_goal 1 => unfold x))
       | skip)
    | split

theorem State.viewPage_kept {s₀ : State} (s : State) (q id : Nat) (cls : JClass) (sh : Shape) (f : JobFrame) (page viewEnd : Nat) (hk : Kept s₀ s) :
    Kept s₀ (State.viewPage s q id cls sh f page viewEnd).2 := by
  unfold State.viewPage
  repeat' first
    | with_reducible first
      | assumption | intro v | apply State.count_kept | apply State.fillRead_kept | apply State.pageFailed_kept
      | apply State.postUnit_kept | apply State.touchCache_kept | apply Kept.ite
    | (extract_lets +onlyGivenNames x
       first
       | (refine Kept.cut (s₀ := s₀) x ?_ ?_; (on_goal 2 => intro hx; clear_value x); (on_goal 1 => unfold x))
       | skip)
    | with_reducible apply hf
    | split
    | assumption
    | with_reducible refine Kept.ofEq (by assumption) ?_
    | with_reducible refine OptKept.of (by assumption) ?_

theorem State.addJob_kept {s₀ : State} (s : State) (q : Nat) (j : Job) (hk : Kept s₀ s) : Kept s₀ (State.addJob s q j) := by
  unfold State.addJob
  repeat' first
    | with_reducible first
      | assumption | apply State.count_kept | apply State.countU_kept | apply State.updCore_kept | apply State.updQ_kept
      | apply Kept.ite

theorem State.inherit_kept {s₀ : State} (s : State) (q old heir : Nat) (hk : Kept s₀ s) :
    Kept s₀ (State.inherit s q old heir) := by
  unfold State.inherit
  exact hk

theorem State.addCoreJob_kept {s₀ : State} (s : State) (q : Nat) (r : Request) (j : Job) (first n sub : Nat) (admitted : Bool) (raw : Nat) (hk : Kept s₀ s) :
    Kept s₀ (State.addCoreJob s q r j first n sub admitted raw) := by
  unfold State.addCoreJob
  repeat' first
    | with_reducible first
      | assumption | apply State.addJob_kept | apply State.fresh_kept | apply State.inherit_kept

theorem State.runsToCores_kept {s₀ : State} (s : State) (q : Nat) (r : Request) (j : Job) (admitted : Bool) (runs : List Nat) (hk : Kept s₀ s) :
    Kept s₀ (State.runsToCores s q r j admitted runs) := by
  unfold State.runsToCores
  repeat' first
    | with_reducible first
      | assumption | intro v | apply State.addCoreJob_kept | apply Kept.foldl

theorem State.resolveSite_kept {s₀ : State} (s : State) (q : Nat) (r : Request) (j : Job) (hk : Kept s₀ s) :
    Kept s₀ (State.resolveSite s q r j).2 := by
  unfold State.resolveSite
  repeat' first
    | with_reducible first
      | assumption | intro v | apply State.addJob_kept | apply State.fresh_kept | apply State.inherit_kept
      | apply State.runsToCores_kept | apply Kept.foldl | apply Kept.ite
    | (extract_lets +onlyGivenNames x
       first
       | (refine Kept.cut (s₀ := s₀) x ?_ ?_; (on_goal 2 => intro hx; clear_value x); (on_goal 1 => unfold x))
       | skip)
    | split

theorem issueSteps_kept {s₀ : State} (q ls : Nat) (l : List Sequence) (s : State) (hk : Kept s₀ s) : Kept s₀ (issueSteps q ls l s) := by
  induction l generalizing s with
  | nil => exact hk
  | cons x t ih =>
    unfold issueSteps
    dsimp only
    split
    · split
      · exact ih _ (State.countU_kept _ _ _ _ _ _ (State.updBank_kept _ _ _ _ hk))
      · exact ih _ hk
    · exact ih _ hk

theorem State.issueBacklog_kept {s₀ : State} (s : State) (q ls : Nat) (hk : Kept s₀ s) :
    Kept s₀ (State.issueBacklog s q ls) := by
  unfold State.issueBacklog
  repeat' first
    | with_reducible first
      | assumption | apply issueSteps_kept

theorem State.issueJob_kept {s₀ : State} (s : State) (q : Nat) (r : Request) (j : Job) (hk : Kept s₀ s) :
    Kept s₀ (State.issueJob s q r j) := by
  unfold State.issueJob
  repeat' first
    | with_reducible first
      | assumption | intro v | apply State.countU_kept | apply State.fresh_kept | apply State.issueBacklog_kept
      | apply State.updBank_kept | apply Kept.foldl

theorem State.recut_kept {s₀ : State} (s : State) (q : Nat) (j : Job) (hk : Kept s₀ s) : Kept s₀ (State.recut s q j) := by
  unfold State.recut
  repeat' first
    | with_reducible first
      | assumption | intro v | apply State.addCoreJob_kept | apply State.countU_kept | apply State.dropJob_kept
      | apply Kept.foldl | apply Kept.ite
    | split

theorem State.startJob_kept {s₀ : State} (s : State) (q k id : Nat) (hk : Kept s₀ s) :
    Kept s₀ (State.startJob s q k id) := by
  unfold State.startJob
  repeat' first
    | with_reducible first
      | assumption | apply State.updJob_kept | apply State.updOne_kept | apply Kept.ite

theorem State.freeCore_kept {s₀ : State} (s : State) (q k : Nat) (hk : Kept s₀ s) : Kept s₀ (State.freeCore s q k) := by
  unfold State.freeCore
  repeat' first
    | with_reducible first
      | assumption | intro v | apply State.startJob_kept | apply State.updOne_kept | apply Kept.ite
    | (extract_lets +onlyGivenNames x
       first
       | (refine Kept.cut (s₀ := s₀) x ?_ ?_; (on_goal 2 => intro hx; clear_value x); (on_goal 1 => unfold x)))
    | split

theorem State.moveSaved_kept {s₀ : State} (s : State) (q k : Nat) (hk : Kept s₀ s) : Kept s₀ (State.moveSaved s q k) := by
  unfold State.moveSaved
  repeat' first
    | with_reducible first
      | assumption | intro v | apply State.countU_kept | apply State.recut_kept | apply State.updJob_kept
      | apply State.updOne_kept | apply Kept.foldl | apply Kept.ite
    | (extract_lets +onlyGivenNames x
       first
       | (refine Kept.cut (s₀ := s₀) x ?_ ?_; (on_goal 2 => intro hx; clear_value x); (on_goal 1 => unfold x)))
    | split

theorem State.leaveDispatch_kept {s₀ : State} (s : State) (q k : Nat) (hk : Kept s₀ s) :
    Kept s₀ (State.leaveDispatch s q k) := by
  unfold State.leaveDispatch
  repeat' first
    | with_reducible first
      | assumption | apply State.checkMisses_kept | apply State.moveSaved_kept | apply State.recut_kept
      | apply State.updOne_kept | apply Kept.ite
    | split

theorem State.coreBit_kept {s₀ : State} (s : State) (q k : Nat) (hk : Kept s₀ s) : Kept s₀ (State.coreBit s q k) := by
  unfold State.coreBit
  repeat' first
    | with_reducible first
      | assumption | intro v | apply State.checkMisses_kept | apply State.leaveDispatch_kept | apply State.setReg_kept
      | apply Kept.ite
    | split
    | assumption

theorem State.jobBoundary_kept {s₀ : State} (s : State) (q k : Nat) (hk : Kept s₀ s) :
    Kept s₀ (State.jobBoundary s q k) := by
  unfold State.jobBoundary
  repeat' first
    | with_reducible first
      | assumption | apply State.applyAt_kept | apply State.coreBit_kept

theorem State.deduct_kept {s₀ : State} (s : State) (q : Nat) (j : Job) (hk : Kept s₀ s) : Kept s₀ (State.deduct s q j) := by
  unfold State.deduct
  repeat' first
    | with_reducible first
      | assumption | apply State.count_kept | apply State.settleBucket_kept | apply State.updQe_kept | apply Kept.ite

theorem jobAdmit_kept {s₀ : State} (s : State) (q : Nat) (hk : Kept s₀ s) : Kept s₀ (jobAdmit s q) := by
  unfold jobAdmit
  split
  · exact hk
  · split
    · exact hk
    · split
      · exact State.dropJob_kept _ _ _ hk
      · rename_i j0 _ _ _ r _
        have hw : Kept s₀ (if j0.admitted then (some j0, s) else s.resolveSite q r j0).2 := by
          split
          · exact hk
          · exact State.resolveSite_kept _ _ _ _ hk
        extract_lets w
        have hw' : Kept s₀ w.2 := hw
        clear_value w
        split
        · exact State.dropJob_kept _ _ _ hw'
        · rename_i j _
          have hu := fun f => State.updJob_kept w.2 q j.id f hw'
          dsimp only
          split
          · exact hu _
          · have hgo : ∀ (b : Bool) (t : State), Kept s₀ t → Kept s₀
              (((if b then t.countU bCORE q 8 6 else t).deduct q j).updJob q j.id fun j => { j with admitted := true }) := by
              intro b t ht
              refine State.updJob_kept _ _ _ _ (State.deduct_kept _ _ _ ?_)
              split
              · exact State.countU_kept _ _ _ _ _ _ ht
              · exact ht
            split
            · exact State.checkMisses_kept _ (State.issueJob_kept _ _ _ _ (State.updJob_kept _ _ _ _ (hgo _ _ (hu _))))
            · split
              · exact State.checkMisses_kept _ (State.startJob_kept _ _ _ _ (hgo _ _ (hu _)))
              · split
                · exact State.checkMisses_kept _ (State.countU_kept _ _ _ _ _ _ (State.updOne_kept _ _ _ _ (hgo _ _ (hu _))))
                · exact hu _

theorem execJobAdmit_kept {s₀ : State} (q : Fin 4) (s : State) (hk : Kept s₀ s) : OutKept s₀ (execJobAdmit q s) := by
  unfold execJobAdmit
  apply OutKept.next
  with_reducible apply jobAdmit_kept
  exact hk

theorem State.jobEnded_kept {s₀ : State} (s : State) (q k : Nat) (j : Job) (hk : Kept s₀ s) :
    Kept s₀ (State.jobEnded s q k j) := by
  unfold State.jobEnded
  repeat' first
    | with_reducible first
      | assumption | apply State.checkReq_kept | apply State.countU_kept | apply State.dropJob_kept
      | apply State.freeCore_kept | apply State.sweepHeld_kept | apply State.updQe_kept

theorem State.clampActs_kept {s₀ : State} (s : State) (q k : Nat) (hk : Kept s₀ s) : Kept s₀ (State.clampActs s q k) := by
  unfold State.clampActs
  repeat' first
    | with_reducible first
      | assumption | intro v | apply State.countU_kept | apply State.jobBoundary_kept | apply State.updJob_kept
      | apply State.updOne_kept | apply Kept.ite
    | (extract_lets +onlyGivenNames x
       first
       | (refine Kept.cut (s₀ := s₀) x ?_ ?_; (on_goal 2 => intro hx; clear_value x); (on_goal 1 => unfold x))
       | skip)
    | split

theorem State.foldBlocks_kept {s₀ : State} (s : State) (q k : Nat) (r : Request) (j : Job) (bl : List VBlk) (hk : Kept s₀ s) :
    Kept s₀ (State.foldBlocks s q k r j bl).2 := by
  unfold State.foldBlocks
  repeat' first
    | with_reducible first
      | assumption | apply State.addLeaf_kept | apply State.countU_kept | apply State.meter_kept | apply Kept.ite
    | split

theorem foldStep_kept {s₀ : State} (s : State) (q k : Nat) (r : Request) (j : Job) (hk : Kept s₀ s) :
    Kept s₀ (foldStep s q k r j).2 := by
  unfold foldStep
  repeat' first
    | with_reducible first
      | assumption | intro v | apply State.foldBlocks_kept | apply State.viewPage_kept | apply Kept.ite
    | (extract_lets +onlyGivenNames x
       first
       | (refine Kept.cut (s₀ := s₀) x ?_ ?_; (on_goal 2 => intro hx; clear_value x); (on_goal 1 => unfold x))
       | (refine Kept.cut2 (s₀ := s₀) x ?_ ?_; (on_goal 2 => intro hx; clear_value x); (on_goal 1 => unfold x))
       | skip)
    | split
    | assumption
    | with_reducible refine Kept.ofEq (by assumption) ?_

theorem State.afterFold_kept {s₀ : State} (s : State) (q k : Nat) (j j' : Job) (hk : Kept s₀ s) :
    Kept s₀ (State.afterFold s q k j j') := by
  unfold State.afterFold
  repeat' first
    | with_reducible first
      | assumption | apply State.checkReq_kept | apply State.clampActs_kept | apply State.dropJob_kept
      | apply State.freeCore_kept | apply State.jobBoundary_kept | apply State.jobEnded_kept | apply State.sweepHeld_kept
      | apply State.updJob_kept | apply Kept.ite

theorem coreClampPoint_kept {s₀ : State} (s : State) (q k : Nat) (hk : Kept s₀ s) : Kept s₀ (coreClampPoint s q k) := by
  unfold coreClampPoint
  repeat' first
    | with_reducible first
      | assumption | intro v | apply State.afterFold_kept | apply State.dropJob_kept | apply State.freeCore_kept
      | apply State.jobBoundary_kept | apply State.sweepHeld_kept | apply foldStep_kept | apply Kept.ite
    | (extract_lets +onlyGivenNames x
       first
       | (refine Kept.cut (s₀ := s₀) x ?_ ?_; (on_goal 2 => intro hx; clear_value x); (on_goal 1 => unfold x))
       | (refine Kept.cut2 (s₀ := s₀) x ?_ ?_; (on_goal 2 => intro hx; clear_value x); (on_goal 1 => unfold x))
       | skip)
    | split
    | assumption
    | with_reducible refine Kept.ofEq (by assumption) ?_

theorem execCoreClampPoint_kept {s₀ : State} (core : Fin 32) (s : State) (hk : Kept s₀ s) :
    OutKept s₀ (execCoreClampPoint core s) := by
  unfold execCoreClampPoint
  apply OutKept.next
  with_reducible apply coreClampPoint_kept
  exact hk

theorem contextSaveDone_kept {s₀ : State} (s : State) (q k : Nat) (hk : Kept s₀ s) : Kept s₀ (contextSaveDone s q k) := by
  unfold contextSaveDone
  repeat' first
    | with_reducible first
      | assumption | intro v | apply State.moveSaved_kept | apply State.startJob_kept | apply State.updJob_kept
      | apply State.updOne_kept | apply Kept.ite
    | (extract_lets +onlyGivenNames x
       first
       | (refine Kept.cut (s₀ := s₀) x ?_ ?_; (on_goal 2 => intro hx; clear_value x); (on_goal 1 => unfold x))
       | skip)
    | split

theorem execContextSaveDone_kept {s₀ : State} (core : Fin 32) (s : State) (hk : Kept s₀ s) :
    OutKept s₀ (execContextSaveDone core s) := by
  unfold execContextSaveDone
  apply OutKept.next
  with_reducible apply contextSaveDone_kept
  exact hk

theorem jobResume_kept {s₀ : State} (s : State) (q k id : Nat) (hk : Kept s₀ s) : Kept s₀ (jobResume s q k id) := by
  unfold jobResume
  repeat' first
    | with_reducible first
      | assumption | apply State.countU_kept | apply State.updJob_kept | apply State.updOne_kept | apply Kept.ite
    | split

theorem execJobResume_kept {s₀ : State} (core : Fin 32) (job : Nat) (s : State) (hk : Kept s₀ s) :
    OutKept s₀ (execJobResume core job s) := by
  unfold execJobResume
  apply OutKept.next
  with_reducible apply jobResume_kept
  exact hk

theorem clockSwitch_kept {s₀ : State} (s : State) (q : Nat) (hk : Kept s₀ s) : Kept s₀ (clockSwitch s q) := by
  unfold clockSwitch
  repeat' first
    | with_reducible first
      | assumption | intro v | apply State.startJob_kept | apply State.updCore_kept | apply State.updOne_kept
      | apply Kept.foldl | apply Kept.ite | exact OutKept.fault
    | (extract_lets +onlyGivenNames x
       first
       | (refine Kept.cut (s₀ := s₀) x ?_ ?_; (on_goal 2 => intro hx; clear_value x); (on_goal 1 => unfold x)))
    | split

theorem execClockSwitch_kept {s₀ : State} (q : Fin 4) (s : State) (hk : Kept s₀ s) : OutKept s₀ (execClockSwitch q s) := by
  unfold execClockSwitch
  apply OutKept.next
  with_reducible apply clockSwitch_kept
  exact hk

theorem State.pendClock_kept {s₀ : State} (s : State) (q p : Nat) (hk : Kept s₀ s) : Kept s₀ (State.pendClock s q p) := by
  unfold State.pendClock
  repeat' first
    | with_reducible first
      | assumption | intro v | apply State.updCore_kept | apply State.updOne_kept | apply Kept.foldl

theorem State.wakeJobs_kept {s₀ : State} (s : State) (q : Nat) (hk : Kept s₀ s) : Kept s₀ (State.wakeJobs s q) := by
  unfold State.wakeJobs
  exact hk

/-! ### Attend -/

theorem findSegs_kept {s₀ : State} (p : Op) (l : List Nat) (s : State) (hk : Kept s₀ s) : Kept s₀ (findSegs p l s).2 := by
  induction l generalizing s with
  | nil => exact hk
  | cons g t ih =>
    unfold findSegs
    dsimp only
    have hl := fun q key e => State.lookup_kept (s₀ := s₀) s q key e hk
    split
    · exact ih _ hk
    · split
      · exact Kept.ofEq ‹_› (hl ..)
      · exact ih _ (Kept.ofEq ‹_› (hl ..))
      · have hr := ih _ (Kept.ofEq ‹_› (hl ..))
        split
        · split
          · exact hr
          · exact hr
        · exact hr

theorem State.laneMismatch_kept {s₀ : State} (s : State) (q at_ : Nat) (hk : Kept s₀ s) :
    Kept s₀ (State.laneMismatch s q at_) := by
  unfold State.laneMismatch
  repeat' first
    | with_reducible first
      | assumption | apply State.count_kept | apply State.postFault_kept | apply State.updDir_kept | apply Kept.ite

theorem laneAttempts_kept {s₀ : State} (q : Nat) (l : List Nat) (s : State) (hk : Kept s₀ s) : Kept s₀ (laneAttempts q l s) := by
  induction l generalizing s with
  | nil => exact hk
  | cons a t ih =>
    unfold laneAttempts
    split
    · exact hk
    · exact ih _ (State.laneMismatch_kept _ _ _ hk)

theorem runLane_kept {s₀ : State} (s : State) (q : Nat) (r : Request) (l : List HeldSeg) (hk : Kept s₀ s) :
    Kept s₀ (runLane s q r l) := by
  unfold runLane
  repeat' first
    | with_reducible first
      | assumption | apply State.closeReq_kept | apply State.count_kept | apply State.updDir_kept

theorem formPart_kept {s₀ : State} (s : State) (r : Request) (cls : JClass) (head pass : Nat) (g : List HeldSeg) (hk : Kept s₀ s) :
    Kept s₀ (formPart s r cls head pass g) := by
  unfold formPart
  repeat' first
    | with_reducible first
      | assumption | intro v | apply State.addJob_kept | apply State.fresh_kept | apply Kept.foldl | apply Kept.ite
    | split

theorem formJobs_kept {s₀ : State} (s : State) (r : Request) (laneOut : Bool) (l : List HeldSeg) (hk : Kept s₀ s) :
    Kept s₀ (formJobs s r laneOut l) := by
  unfold formJobs
  repeat' first
    | with_reducible first
      | assumption | intro v | apply State.countU_kept | apply formPart_kept | apply Kept.foldl | apply Kept.ite

theorem State.sendChild_kept {s₀ : State} (s : State) (tk group node first last : Nat) (hk : Kept s₀ s) :
    Kept s₀ (State.sendChild s tk group node first last) := by
  unfold State.sendChild
  repeat' first
    | with_reducible first
      | assumption | intro v | apply State.hand_kept | apply State.peerConn_kept | apply State.updReq_kept | apply Kept.ite
    | (extract_lets +onlyGivenNames x
       first
       | (refine Kept.cut (s₀ := s₀) x ?_ ?_; (on_goal 2 => intro hx; clear_value x); (on_goal 1 => unfold x))
       | skip)
    | split
    | assumption

theorem State.updChild_kept {s₀ : State} (s : State) (tk idx : Nat) (f : Child → Child) (hk : Kept s₀ s) :
    Kept s₀ (State.updChild s tk idx f) := by
  unfold State.updChild
  exact hk

theorem State.hedge_kept {s₀ : State} (s : State) (tk : Nat) (c : Child) (cause : Nat) (ranges : List (Nat × Nat)) (hk : Kept s₀ s) :
    Kept s₀ (State.hedge s tk c cause ranges).2 := by
  unfold State.hedge
  repeat' first
    | with_reducible first
      | assumption | intro v | apply State.postAssist_kept | apply State.sendChild_kept | apply State.take_kept
      | apply State.updReq_kept | apply State.updTicket_kept | apply Kept.foldl | apply Kept.ite
    | split

theorem State.childFailed_kept {s₀ : State} (s : State) (tk idx : Nat) (hk : Kept s₀ s) :
    Kept s₀ (State.childFailed s tk idx) := by
  unfold State.childFailed
  repeat' first
    | with_reducible first
      | assumption | apply State.checkReq_kept | apply State.hedge_kept | apply State.updChild_kept | apply Kept.ite
    | split

theorem State.steerAnswer_kept {s₀ : State} (s : State) (tk group first last node : Nat) (hk : Kept s₀ s) :
    Kept s₀ (State.steerAnswer s tk group first last node) := by
  unfold State.steerAnswer
  repeat' first
    | with_reducible first
      | assumption | apply State.checkReq_kept | apply State.sendChild_kept | apply Kept.ite

theorem startChildren_kept {s₀ : State} (s : State) (tk : Nat) (m : ConvMap) (r : Request) (hk : Kept s₀ s) :
    Kept s₀ (startChildren s tk m r) := by
  unfold startChildren
  repeat' first
    | with_reducible first
      | assumption | intro v | apply State.sendChild_kept | apply State.updReq_kept | apply Kept.foldl | apply Kept.ite
    | (extract_lets +onlyGivenNames x
       first
       | (refine Kept.cut (s₀ := s₀) x ?_ ?_; (on_goal 2 => intro hx; clear_value x); (on_goal 1 => unfold x))
       | skip)
    | split

theorem attendRun_kept {s₀ : State} (s : State) (p : Op) (r : Request) (m : Option ConvMap) (laneErrs : List Nat) (hk : Kept s₀ s) :
    Kept s₀ (attendRun s p r m laneErrs) := by
  unfold attendRun
  extract_lets +onlyGivenNames ranges
  split
  · exact Kept.ofEq ‹_› (findSegs_kept _ _ _ hk)
  · rename_i l u heq
    have hu : Kept s₀ u := Kept.ofEq heq (findSegs_kept _ _ _ hk)
    clear heq
    extract_lets +onlyGivenNames fits r' w
    have hb : Kept s₀ w := by
      unfold w
      split
      · exact laneAttempts_kept _ _ _ hu
      · exact hu
    clear_value w
    split
    · exact runLane_kept _ _ _ _ hb
    · refine State.checkReq_kept _ _ (State.checkMiss_kept _ _ (State.updTicket_kept _ _ _ ?_))
      cases m with
      | none => exact formJobs_kept _ _ _ _ (State.updDove_kept _ _ _ hb)
      | some m => exact startChildren_kept _ _ _ _ (formJobs_kept _ _ _ _ (State.updDove_kept _ _ _ hb))

theorem attendOp_kept {s₀ : State} (s : State) (e : Inbound) (laneErrs : List Nat) (hk : Kept s₀ s) : Kept s₀ (attendOp s e laneErrs) := by
  unfold attendOp
  have h0 := State.beginOp_kept s e hk
  split
  · exact BeginKept.ofError ‹_› h0
  · rename_i p u heq
    have hu : Kept s₀ u := BeginKept.ofOk heq h0
    clear heq h0
    extract_lets +onlyGivenNames w
    have hw : Kept s₀ w := by
      unfold w
      split
      · exact State.meter_kept _ _ _ _ hu
      · exact hu
    clear_value w
    split
    · exact State.finish_kept _ _ _ _ _ _ _ hw
    · split
      · exact State.finish_kept _ _ _ _ _ _ _ hw
      · extract_lets r kept m
        clear_value m
        split
        · exact attendRun_kept _ _ _ _ _ (State.updTicket_kept _ _ _ hw)
        · split
          · exact State.finish_kept _ _ _ _ _ _ _ hw
          · exact attendRun_kept _ _ _ _ _ (State.updTicket_kept _ _ _ hw)

theorem partialMsg_kept {s₀ : State} (s : State) (body : Bytes) (hk : Kept s₀ s) : Kept s₀ (partialMsg s body) := by
  unfold partialMsg
  repeat' first
    | with_reducible first
      | assumption | intro v | apply State.addPieceTo_kept | apply State.checkReq_kept | apply State.count_kept
      | apply State.hedge_kept | apply State.postFor_kept | apply State.updChild_kept | apply Kept.foldl | apply Kept.ite
    | (extract_lets +onlyGivenNames x
       first
       | (refine Kept.cut (s₀ := s₀) x ?_ ?_; (on_goal 2 => intro hx; clear_value x); (on_goal 1 => unfold x))
       | skip)
    | split

theorem noticeMsg_kept {s₀ : State} (s : State) (body : Bytes) (hk : Kept s₀ s) : Kept s₀ (noticeMsg s body) := by
  unfold noticeMsg
  repeat' first
    | with_reducible first
      | assumption | apply State.checkReq_kept | apply State.hedge_kept | apply State.sendMiss_kept
      | apply State.updChild_kept | apply Kept.ite
    | split

theorem State.unpark_kept {s₀ : State} (s : State) (tk : Nat) (hk : Kept s₀ s) : Kept s₀ (State.unpark s tk) := by
  unfold State.unpark
  exact hk

theorem requestDeadline_kept {s₀ : State} (s : State) (tk : Nat) (hk : Kept s₀ s) : Kept s₀ (requestDeadline s tk) := by
  unfold requestDeadline
  repeat' first
    | with_reducible first
      | assumption | intro v | apply State.advance_kept | apply State.deadlineReq_kept | apply State.unpark_kept
      | apply State.updDove_kept | apply Kept.ite
    | (extract_lets +onlyGivenNames x
       first
       | (refine Kept.cut (s₀ := s₀) x ?_ ?_; (on_goal 2 => intro hx; clear_value x); (on_goal 1 => unfold x))
       | skip)
    | split

end Sys2Proof.Machine
end

