-- ==== Sys2Proof/Laws/KeptXfer.lean ====
section
/-!
SUPPORT. What every command keeps, for DMA, reseats, the transport, the ports and the message rows.
-/
namespace Sys2Proof.Machine

/-! ### Dma -/

theorem State.copyImage_kept {s₀ : State} (s : State) (q ls a n : Nat) (hk : Kept s₀ s) :
    Kept s₀ (State.copyImage s q ls a n).2 := by
  unfold State.copyImage
  repeat' first
    | with_reducible first
      | assumption | apply State.drawFree_kept | apply Kept.ite
    | split

theorem State.hostPaste_kept {s₀ : State} (s : State) (f a n : Nat) (c : Mem) (hk : Kept s₀ s) : Kept s₀ (s.hostPaste f a n c) := by
  refine ⟨hk.1, hk.2.1, hk.2.2.1, hk.2.2.2.1, fun h0 e he => ?_⟩
  have h1 := hk.2.2.2.2 h0
  rcases Tab.mem_put he with h | h
  · exact h1 e h
  · subst h
    refine Mem.paste_wf _ _ _ _ ?_
    rcases Tab.fetch_mem s.host.mem f [] with h | h
    · rw [h]; rfl
    · exact h1 _ h

theorem State.dmaMove_kept {s₀ : State} (s : State) (q : Nat) (d : Dma) (lo hi : Nat) (hk : Kept s₀ s) :
    Kept s₀ (State.dmaMove s q d lo hi) := by
  unfold State.dmaMove
  repeat' first
    | with_reducible first
      | assumption | apply State.copyImage_kept | apply State.hostPaste_kept | apply State.stackWrite_kept | apply Kept.ite
    | split

theorem State.releaseFrame_kept {s₀ : State} (s : State) (q ls addr size key gen : Nat) (hk : Kept s₀ s) :
    Kept s₀ (State.releaseFrame s q ls addr size key gen) := by
  unfold State.releaseFrame
  exact hk

theorem State.dropFrame_kept {s₀ : State} (s : State) (q key frame : Nat) (hk : Kept s₀ s) :
    Kept s₀ (State.dropFrame s q key frame) := by
  unfold State.dropFrame
  exact hk

theorem State.setFrame_kept {s₀ : State} (s : State) (q key frame : Nat) (f : FrameRef → FrameRef) (hk : Kept s₀ s) :
    Kept s₀ (State.setFrame s q key frame f) := by
  unfold State.setFrame
  exact hk

theorem State.spillCommit_kept {s₀ : State} (s : State) (q : Nat) (d : Dma) (hk : Kept s₀ s) :
    Kept s₀ (State.spillCommit s q d).2 := by
  unfold State.spillCommit
  repeat' first
    | with_reducible first
      | assumption | apply State.count_kept | apply State.dropFrame_kept | apply State.recheckWaiting_kept
      | apply State.releaseFrame_kept | apply State.setFrame_kept | apply Kept.ite
    | split

theorem State.fillCommit_kept {s₀ : State} (s : State) (q : Nat) (d : Dma) (hk : Kept s₀ s) :
    Kept s₀ (State.fillCommit s q d).2 := by
  unfold State.fillCommit
  repeat' first
    | with_reducible first
      | assumption | apply State.count_kept | apply State.dropFrame_kept | apply State.setFrame_kept
      | apply State.updCore_kept | apply Kept.ite
    | split

theorem State.dropNewFrame_kept {s₀ : State} (s : State) (q : Nat) (d : Dma) (hk : Kept s₀ s) :
    Kept s₀ (State.dropNewFrame s q d) := by
  unfold State.dropNewFrame
  repeat' first
    | with_reducible first
      | assumption | apply State.releaseFrame_kept | apply Kept.ite

theorem State.dmaAnswer_kept {s₀ : State} (s : State) (q : Nat) (d : Dma) (status : Nat) (hk : Kept s₀ s) :
    Kept s₀ (State.dmaAnswer s q d status) := by
  unfold State.dmaAnswer
  repeat' first
    | with_reducible first
      | assumption | apply State.complete_kept | apply State.count_kept | apply State.post_kept | apply Kept.ite
    | split

theorem State.dmaFail_kept {s₀ : State} (s : State) (q : Nat) (d : Dma) (status : Nat) (hk : Kept s₀ s) :
    Kept s₀ (State.dmaFail s q d status) := by
  unfold State.dmaFail
  repeat' first
    | with_reducible first
      | assumption | apply State.dmaAnswer_kept | apply State.dropNewFrame_kept

theorem State.updEng_kept {s₀ : State} (s : State) (q e : Nat) (f : Engine → Engine) (hk : Kept s₀ s) :
    Kept s₀ (State.updEng s q e f) := by
  unfold State.updEng
  exact hk

theorem State.freeEng_kept {s₀ : State} (s : State) (q e : Nat) (hk : Kept s₀ s) : Kept s₀ (State.freeEng s q e) := by
  unfold State.freeEng
  exact hk

theorem State.engStop_kept {s₀ : State} (s : State) (q e : Nat) (d : Dma) (x : DmaStop) (hk : Kept s₀ s) :
    Kept s₀ (State.engStop s q e d x) := by
  unfold State.engStop
  repeat' first
    | with_reducible first
      | assumption | apply State.count_kept | apply State.post_kept | apply State.updEng_kept | apply Kept.ite

theorem State.portCopy_kept {s₀ : State} (s : State) (q : Nat) (d : Dma) (hk : Kept s₀ s) :
    Kept s₀ (State.portCopy s q d).2 := by
  unfold State.portCopy
  repeat' first
    | with_reducible first
      | assumption | apply State.copyImage_kept | apply State.hand_kept | apply Kept.ite
    | split

theorem State.dmaDone_kept {s₀ : State} (s : State) (q : Nat) (d : Dma) (hk : Kept s₀ s) :
    Kept s₀ (State.dmaDone s q d) := by
  unfold State.dmaDone
  repeat' first
    | with_reducible first
      | assumption | apply State.dmaAnswer_kept | apply State.dmaFail_kept | apply State.fillCommit_kept
      | apply State.portCopy_kept | apply State.spillCommit_kept | apply Kept.ite
    | split

theorem State.queueDma_kept {s₀ : State} (s : State) (q : Nat) (d : Dma) (hk : Kept s₀ s) :
    Kept s₀ (State.queueDma s q d) := by
  unfold State.queueDma
  exact hk

theorem dmaCopy_kept {s₀ : State} (s : State) (h : HostCmd) (q : Nat) (b : Bytes) (hk : Kept s₀ s) :
    Kept s₀ (dmaCopy s h q b) := by
  unfold dmaCopy
  repeat' first
    | with_reducible first
      | assumption | apply State.complete_kept | apply State.queueDma_kept | apply Kept.ite

theorem execDmaCopy_kept {s₀ : State} (h : HostCmd) (q : Fin 4) (body : Bytes) (s : State) (hk : Kept s₀ s) :
    OutKept s₀ (execDmaCopy h q body s) := by
  unfold execDmaCopy
  repeat' first
    | with_reducible first
      | assumption | intro v | apply State.complete_kept | apply State.take_kept | apply dmaCopy_kept | apply Kept.ite
      | apply OutKept.next
    | (extract_lets +onlyGivenNames x
       first
       | (refine Kept.cut (s₀ := s₀) x ?_ ?_; (on_goal 2 => intro hx; clear_value x); (on_goal 1 => unfold x))
       | skip)
    | split

theorem frameSpill_kept {s₀ : State} (s : State) (h : HostCmd) (q : Nat) (b : Bytes) (hk : Kept s₀ s) :
    Kept s₀ (frameSpill s h q b) := by
  unfold frameSpill
  repeat' first
    | with_reducible first
      | assumption | apply State.complete_kept | apply State.queueDma_kept | apply Kept.ite
    | split

theorem execFrameSpill_kept {s₀ : State} (h : HostCmd) (q : Fin 4) (body : Bytes) (s : State) (hk : Kept s₀ s) :
    OutKept s₀ (execFrameSpill h q body s) := by
  unfold execFrameSpill
  repeat' first
    | with_reducible first
      | assumption | intro v | apply State.complete_kept | apply State.take_kept | apply frameSpill_kept | apply Kept.ite
      | apply OutKept.next
    | (extract_lets +onlyGivenNames x
       first
       | (refine Kept.cut (s₀ := s₀) x ?_ ?_; (on_goal 2 => intro hx; clear_value x); (on_goal 1 => unfold x)))
    | split

theorem frameFill_kept {s₀ : State} (s : State) (h : HostCmd) (q : Nat) (b : Bytes) (hk : Kept s₀ s) :
    Kept s₀ (frameFill s h q b) := by
  unfold frameFill
  repeat' first
    | with_reducible first
      | assumption | intro v | apply State.applyAt_kept | apply State.complete_kept | apply State.queueDma_kept
      | apply State.updStore_kept | apply Kept.ite
    | (extract_lets +onlyGivenNames x
       first
       | (refine Kept.cut (s₀ := s₀) x ?_ ?_; (on_goal 2 => intro hx; clear_value x); (on_goal 1 => unfold x))
       | skip)
    | split

theorem execFrameFill_kept {s₀ : State} (h : HostCmd) (q : Fin 4) (body : Bytes) (s : State) (hk : Kept s₀ s) :
    OutKept s₀ (execFrameFill h q body s) := by
  unfold execFrameFill
  repeat' first
    | with_reducible first
      | assumption | intro v | apply State.complete_kept | apply State.take_kept | apply frameFill_kept | apply Kept.ite
      | apply OutKept.next
    | (extract_lets +onlyGivenNames x
       first
       | (refine Kept.cut (s₀ := s₀) x ?_ ?_; (on_goal 2 => intro hx; clear_value x); (on_goal 1 => unfold x)))
    | split

theorem dmaEngineStart_kept {s₀ : State} (s : State) (q e : Nat) (hk : Kept s₀ s) : Kept s₀ (dmaEngineStart s q e) := by
  unfold dmaEngineStart
  repeat' first
    | with_reducible first
      | assumption | intro v | apply State.dmaFail_kept | apply State.updEng_kept | apply State.updStore_kept | apply Kept.ite
    | (extract_lets +onlyGivenNames x
       first
       | (refine Kept.cut (s₀ := s₀) x ?_ ?_; (on_goal 2 => intro hx; clear_value x); (on_goal 1 => unfold x))
       | skip)
    | with_reducible apply hf
    | split
    | assumption
    | with_reducible refine Kept.ofEq (by assumption) ?_
    | (dsimp +zetaDelta only)

theorem execDmaEngineStart_kept {s₀ : State} (q e : Fin 4) (s : State) (hk : Kept s₀ s) :
    OutKept s₀ (execDmaEngineStart q e s) := by
  unfold execDmaEngineStart
  apply OutKept.next
  with_reducible apply dmaEngineStart_kept
  exact hk

theorem State.resumeEng_kept {s₀ : State} (s : State) (q e : Nat) (hk : Kept s₀ s) : Kept s₀ (State.resumeEng s q e) := by
  unfold State.resumeEng
  repeat' first
    | with_reducible first
      | assumption | apply State.count_kept | apply State.updEng_kept

theorem dmaResume_kept {s₀ : State} (s : State) (h : HostCmd) (q e tag : Nat) (hk : Kept s₀ s) :
    Kept s₀ (dmaResume s h q e tag) := by
  unfold dmaResume
  repeat' first
    | with_reducible first
      | assumption | apply State.complete_kept | apply State.resumeEng_kept | apply Kept.ite

theorem execDmaResume_kept {s₀ : State} (h : HostCmd) (q e : Fin 4) (tag : Nat) (s : State) (hk : Kept s₀ s) :
    OutKept s₀ (execDmaResume h q e tag s) := by
  unfold execDmaResume
  repeat' first
    | with_reducible first
      | assumption | intro v | apply State.complete_kept | apply State.take_kept | apply dmaResume_kept | apply Kept.ite
      | apply OutKept.next
    | (extract_lets +onlyGivenNames x
       first
       | (refine Kept.cut (s₀ := s₀) x ?_ ?_; (on_goal 2 => intro hx; clear_value x); (on_goal 1 => unfold x))
       | skip)
    | split

/-! ### Reseat -/

theorem State.sendReseat_kept {s₀ : State} (s : State) (t : Ticket) (kind sub peerTicket newGen : Nat) (hk : Kept s₀ s) :
    Kept s₀ (State.sendReseat s t kind sub peerTicket newGen) := by
  unfold State.sendReseat
  repeat' first
    | with_reducible first
      | assumption | intro v | apply State.hand_kept | apply Kept.ite
    | (extract_lets +onlyGivenNames x
       first
       | (refine Kept.cut (s₀ := s₀) x ?_ ?_; (on_goal 2 => intro hx; clear_value x); (on_goal 1 => unfold x))
       | skip)
    | split

theorem State.dropReseatDma_kept {s₀ : State} (s : State) (q tk : Nat) (hk : Kept s₀ s) :
    Kept s₀ (State.dropReseatDma s q tk) := by
  unfold State.dropReseatDma
  exact hk

theorem State.answerCopy_kept {s₀ : State} (s : State) (t : Ticket) (status detail : Nat) (hk : Kept s₀ s) :
    Kept s₀ (State.answerCopy s t status detail) := by
  unfold State.answerCopy
  repeat' first
    | with_reducible first
      | assumption | apply State.answer_kept | apply State.updTicket_kept | apply Kept.ite

theorem State.closeReseat_kept {s₀ : State} (s : State) (t : Ticket) (status detail : Nat) (hk : Kept s₀ s) :
    Kept s₀ (State.closeReseat s t status detail) := by
  unfold State.closeReseat
  repeat' first
    | with_reducible first
      | assumption | apply State.answerCopy_kept | apply State.finish_kept | apply State.freeTicket_kept | apply Kept.ite
    | split

theorem State.reseatEnd_kept {s₀ : State} (s : State) (t : Ticket) (status : Nat) (release : Bool) (hk : Kept s₀ s) :
    Kept s₀ (s.reseatEnd t status release) := by
  unfold State.reseatEnd
  extract_lets +onlyGivenNames q a b prior
  have hb : Kept s₀ b := by
    unfold b
    split
    · exact State.sendReseat_kept _ _ _ _ _ _ (State.dropReseatDma_kept _ _ _ hk)
    · exact State.dropReseatDma_kept _ _ _ hk
  clear_value prior b
  refine State.recheck_kept _ _ _ (State.closeReseat_kept _ _ _ _ ?_)
  split
  · split
    · have h1 := fun f => State.updSegOf_kept _ q t.key f (State.setEntry_kept b q t.key (fun e => { e with state := prior }) hb)
      dsimp only
      split
      · exact State.enterCoding_kept _ _ _ (h1 _)
      · exact h1 _
    · exact hb
  · exact hb

theorem State.reseatCut_kept {s₀ : State} (s : State) (t : Ticket) (status detail : Nat) (hk : Kept s₀ s) :
    Kept s₀ (State.reseatCut s t status detail) := by
  unfold State.reseatCut
  repeat' first
    | with_reducible first
      | assumption | apply State.answerCopy_kept | apply State.closeReseat_kept | apply State.dropReseatDma_kept
      | apply State.recheck_kept | apply State.retireEntry_kept | apply Kept.ite

theorem State.reseatLost_kept {s₀ : State} (s : State) (tk : Nat) (hk : Kept s₀ s) : Kept s₀ (State.reseatLost s tk) := by
  unfold State.reseatLost
  repeat' first
    | with_reducible first
      | assumption | apply State.postFor_kept | apply State.reseatCut_kept | apply State.reseatEnd_kept | apply Kept.ite
    | split

theorem State.queueReseat_kept {s₀ : State} (s : State) (tk : Nat) (l : List Dma) (hk : Kept s₀ s) :
    Kept s₀ (State.queueReseat s tk l) := by
  unfold State.queueReseat
  repeat' first
    | with_reducible first
      | assumption | intro v | apply State.queueDma_kept | apply State.updTicket_kept | apply Kept.foldl

theorem State.queueCopy_kept {s₀ : State} (s : State) (t : Ticket) (hk : Kept s₀ s) : Kept s₀ (State.queueCopy s t) := by
  unfold State.queueCopy
  repeat' first
    | with_reducible first
      | assumption | intro v | apply State.queueReseat_kept | apply State.updSegOf_kept | apply Kept.ite
    | (extract_lets +onlyGivenNames x
       first
       | (refine Kept.cut (s₀ := s₀) x ?_ ?_; (on_goal 2 => intro hx; clear_value x); (on_goal 1 => unfold x))
       | skip)
    | split

theorem State.queueChanged_kept {s₀ : State} (s : State) (t : Ticket) (hk : Kept s₀ s) :
    Kept s₀ (State.queueChanged s t) := by
  unfold State.queueChanged
  repeat' first
    | with_reducible first
      | assumption | intro v | apply State.queueReseat_kept | apply State.updSegOf_kept | apply Kept.ite
    | (extract_lets +onlyGivenNames x
       first
       | (refine Kept.cut (s₀ := s₀) x ?_ ?_; (on_goal 2 => intro hx; clear_value x); (on_goal 1 => unfold x))
       | skip)
    | split

theorem State.tryCommit_kept {s₀ : State} (s : State) (tk : Nat) (hk : Kept s₀ s) : Kept s₀ (State.tryCommit s tk) := by
  unfold State.tryCommit
  repeat' first
    | with_reducible first
      | assumption | apply State.reseatLost_kept | apply State.sendReseat_kept | apply State.updTicket_kept | apply Kept.ite
    | split

theorem reseatCopy_kept {s₀ : State} (s : State) (p : Op) (hk : Kept s₀ s) : Kept s₀ (reseatCopy s p) := by
  unfold reseatCopy
  repeat' first
    | with_reducible first
      | assumption | intro v | apply State.finish_kept | apply State.leaveCoding_kept | apply State.peerConn_kept
      | apply State.reseatLost_kept | apply State.sendReseat_kept | apply State.setEntry_kept | apply State.updSegOf_kept
      | apply State.updTicket_kept | apply Kept.ite
    | (extract_lets +onlyGivenNames x
       first
       | (refine Kept.cut (s₀ := s₀) x ?_ ?_; (on_goal 2 => intro hx; clear_value x); (on_goal 1 => unfold x))
       | skip)
    | split

theorem reseatPrepared_kept {s₀ : State} (s : State) (t : Ticket) (status newGen detail : Nat) (hk : Kept s₀ s) :
    Kept s₀ (reseatPrepared s t status newGen detail) := by
  unfold reseatPrepared
  repeat' first
    | with_reducible first
      | assumption | apply State.queueCopy_kept | apply State.reseatEnd_kept | apply State.tryCommit_kept
      | apply State.updTicket_kept | apply Kept.ite

theorem reseatWritten_kept {s₀ : State} (s : State) (t : Ticket) (remote status : Nat) (hk : Kept s₀ s) :
    Kept s₀ (reseatWritten s t remote status) := by
  unfold reseatWritten
  repeat' first
    | with_reducible first
      | assumption | apply State.reseatEnd_kept | apply State.tryCommit_kept | apply State.updTicket_kept | apply Kept.ite

theorem reseatCommitted_kept {s₀ : State} (s : State) (t : Ticket) (status : Nat) (hk : Kept s₀ s) :
    Kept s₀ (reseatCommitted s t status) := by
  unfold reseatCommitted
  repeat' first
    | with_reducible first
      | assumption | apply State.reseatCut_kept | apply State.reseatEnd_kept | apply Kept.ite

theorem execReseatCopyDone_kept {s₀ : State} (ticket : Nat) (s : State) (hk : Kept s₀ s) :
    OutKept s₀ (execReseatCopyDone ticket s) := by
  unfold execReseatCopyDone
  repeat' first
    | with_reducible first
      | assumption | apply State.answerCopy_kept | apply Kept.ite | apply OutKept.next
    | split

theorem reseatCutover_kept {s₀ : State} (s : State) (p : Op) (hk : Kept s₀ s) : Kept s₀ (reseatCutover s p) := by
  unfold reseatCutover
  repeat' first
    | with_reducible first
      | assumption | apply State.finish_kept | apply State.queueChanged_kept | apply State.tryCommit_kept
      | apply State.updTicket_kept | apply Kept.ite
    | split

theorem reseatRelease_kept {s₀ : State} (s : State) (p : Op) (hk : Kept s₀ s) : Kept s₀ (reseatRelease s p) := by
  unfold reseatRelease
  split
  · exact State.finish_kept _ _ _ _ _ _ _ hk
  · split
    · exact State.finish_kept _ _ _ _ _ _ _ hk
    · refine State.finish_kept _ _ _ _ _ _ _ ?_
      split
      · exact State.reseatEnd_kept _ _ _ _ hk
      · extract_lets +onlyGivenNames prior u
        have hu : Kept s₀ u := State.setEntry_kept _ _ _ _ hk
        clear_value u prior
        refine State.recheck_kept _ _ _ ?_
        split
        · exact State.enterCoding_kept _ _ _ hu
        · exact hu

theorem reseatPrepare_kept {s₀ : State} (s : State) (p : Op) (addrs : Option (List (Nat × Nat))) (hk : Kept s₀ s) :
    Kept s₀ (reseatPrepare s p addrs) := by
  unfold reseatPrepare
  extract_lets +onlyGivenNames tomb
  clear_value tomb
  split
  · exact State.finish_kept _ _ _ _ _ _ _ hk
  · exact State.finish_kept _ _ _ _ _ _ _ hk
  · have ha := fun a b c d e f g h i => State.allocSeg_kept (s₀ := s₀) s a b c d e f g h i hk
    dsimp only
    split
    · exact State.finish_kept _ _ _ _ _ _ _ (AllocRes.KeptBy.ofRefused ‹_› (ha ..))
    · exact AllocRes.KeptBy.ofParked ‹_› (ha ..)
    · rename_i u heq
      have hu : Kept s₀ u := AllocRes.KeptBy.ofDone heq (ha ..)
      have h1 := fun f => State.updTicket_kept _ p.tk f (State.trimReads_kept _ p.q hu)
      split
      · exact h1 _
      · exact State.answer_kept _ _ _ _ (h1 _)

theorem State.dropIncoming_kept {s₀ : State} (s : State) (t : Ticket) (hk : Kept s₀ s) :
    Kept s₀ (State.dropIncoming s t) := by
  unfold State.dropIncoming
  repeat' first
    | with_reducible first
      | assumption | apply State.dirDel_kept | apply State.freeTicket_kept | apply State.releaseSeg_kept
      | apply State.setEntry_kept | apply Kept.ite
    | split

theorem reseatReleased_kept {s₀ : State} (s : State) (p : Op) (hk : Kept s₀ s) : Kept s₀ (reseatReleased s p) := by
  unfold reseatReleased
  repeat' first
    | with_reducible first
      | assumption | apply State.dropIncoming_kept | apply State.finish_kept | apply Kept.ite
    | split

theorem reseatCommit_kept {s₀ : State} (s : State) (p : Op) (hk : Kept s₀ s) : Kept s₀ (reseatCommit s p) := by
  unfold reseatCommit
  repeat' first
    | with_reducible first
      | assumption | apply State.drawFree_kept | apply State.enterCoding_kept | apply State.finish_kept
      | apply State.freeTicket_kept | apply State.setEntry_kept | apply State.updSegOf_kept | apply State.updStore_kept
      | apply settle_kept | apply Kept.ite
    | split

theorem State.answerWrite_kept {s₀ : State} (s : State) (conn op status : Nat) (b : Bytes) (hk : Kept s₀ s) :
    Kept s₀ (State.answerWrite s conn op status b) := by
  unfold State.answerWrite
  repeat' first
    | with_reducible first
      | assumption | apply State.answer_kept

theorem reseatWrite_kept {s₀ : State} (s : State) (conn op : Nat) (b : Bytes) (hk : Kept s₀ s) :
    Kept s₀ (reseatWrite s conn op b) := by
  unfold reseatWrite
  repeat' first
    | with_reducible first
      | assumption | apply State.addCache_kept | apply State.answerWrite_kept | apply State.post_kept
      | apply State.stackWrite_kept | apply State.updStore_kept | apply Kept.ite
    | split

theorem reseatDeadline_kept {s₀ : State} (s : State) (tk : Nat) (hk : Kept s₀ s) : Kept s₀ (reseatDeadline s tk) := by
  unfold reseatDeadline
  repeat' first
    | with_reducible first
      | assumption | apply State.advance_kept | apply State.dropIncoming_kept | apply State.reseatEnd_kept | apply Kept.ite
    | split

theorem reseatOp_kept {s₀ : State} (s : State) (e : Inbound) (addrs : Option (List (Nat × Nat))) (hk : Kept s₀ s) :
    Kept s₀ (reseatOp s e addrs) := by
  unfold reseatOp
  repeat' first
    | with_reducible first
      | assumption | intro v | apply State.beginOp_kept | apply State.finish_kept | apply State.lookup_kept
      | apply reseatCommit_kept | apply reseatCopy_kept | apply reseatCutover_kept | apply reseatPrepare_kept
      | apply reseatRelease_kept | apply reseatReleased_kept | apply Kept.ite
    | (extract_lets +onlyGivenNames x
       first
       | (refine Kept.cut (s₀ := s₀) x ?_ ?_; (on_goal 2 => intro hx; clear_value x); (on_goal 1 => unfold x))
       | (refine Kept.cut2 (s₀ := s₀) x ?_ ?_; (on_goal 2 => intro hx; clear_value x); (on_goal 1 => unfold x))
       | (refine Kept.cutf (s₀ := s₀) x ?_ ?_; (on_goal 2 => intro hf; clear_value x); (on_goal 1 => unfold x))
       | (refine Kept.cutg (s₀ := s₀) x ?_ ?_; (on_goal 2 => intro hf; clear_value x); (on_goal 1 => unfold x))
       | (refine Kept.cutr (s₀ := s₀) x ?_ ?_; (on_goal 2 => intro hf; clear_value x); (on_goal 1 => unfold x))
       | skip)
    | with_reducible apply hf
    | split
    | assumption
    | with_reducible refine Kept.ofEq (by assumption) ?_
    | with_reducible refine BeginKept.ofError (by assumption) ?_
    | with_reducible refine BeginKept.ofOk (by assumption) ?_

/-! ### Transport -/

theorem ackCore_kept {s₀ : State} (s : State) (i ackPsn : Nat) (ece : Bool) (sack : Nat) (hk : Kept s₀ s) :
    Kept s₀ (ackCore s i ackPsn ece sack) := by
  unfold ackCore
  repeat' first
    | with_reducible first
      | assumption | intro v | apply State.closeStep_kept | apply State.count_kept | apply State.fresh_kept
      | apply State.resendPkt_kept | apply State.updConn_kept | apply Kept.foldl | apply Kept.ite

theorem execAck_kept {s₀ : State} (conn : Nat) (at_ : Nat) (ackPsn : Nat) (ece : Bool) (sack : Nat) (s : State) (hk : Kept s₀ s) :
    OutKept s₀ (execAck conn at_ ackPsn ece sack s) := by
  unfold execAck
  repeat' first
    | with_reducible first
      | assumption | apply State.advance_kept | apply ackCore_kept | apply Kept.ite | apply OutKept.next

theorem rtoCore_kept {s₀ : State} (s : State) (i : Nat) (hk : Kept s₀ s) : Kept s₀ (rtoCore s i) := by
  unfold rtoCore
  repeat' first
    | with_reducible first
      | assumption | apply State.connError_kept | apply State.count_kept | apply State.resendPkt_kept
      | apply State.updConn_kept | apply Kept.ite
    | split

theorem nakCore_kept {s₀ : State} (s : State) (i : Nat) (b : Bytes) (hk : Kept s₀ s) : Kept s₀ (nakCore s i b) := by
  unfold nakCore
  repeat' first
    | with_reducible first
      | assumption | intro v | apply State.count_kept | apply State.updConn_kept | apply rtoCore_kept | apply Kept.ite
    | (extract_lets +onlyGivenNames x
       first
       | (refine Kept.cut (s₀ := s₀) x ?_ ?_; (on_goal 2 => intro hx; clear_value x); (on_goal 1 => unfold x))
       | skip)
    | split

theorem execCtxBusyRetry_kept {s₀ : State} (conn : Nat) (psn : Nat) (s : State) (hk : Kept s₀ s) :
    OutKept s₀ (execCtxBusyRetry conn psn s) := by
  unfold execCtxBusyRetry
  repeat' first
    | with_reducible first
      | assumption | apply State.advance_kept | apply State.resendPkt_kept | apply Kept.ite | apply OutKept.next
    | split

theorem rtoExpiry_kept {s₀ : State} (s : State) (i : Nat) (hk : Kept s₀ s) : Kept s₀ (rtoExpiry s i) := by
  unfold rtoExpiry
  repeat' first
    | with_reducible first
      | assumption | intro v | apply State.advance_kept | apply State.count_kept | apply State.failOpening_kept
      | apply State.freeConn_kept | apply State.sendHello_kept | apply State.updConn_kept | apply rtoCore_kept
      | apply Kept.ite
    | (extract_lets +onlyGivenNames x
       first
       | (refine Kept.cut (s₀ := s₀) x ?_ ?_; (on_goal 2 => intro hx; clear_value x); (on_goal 1 => unfold x))
       | skip)
    | split

theorem execAckDelayExpiry_kept {s₀ : State} (conn : Nat) (s : State) (hk : Kept s₀ s) :
    OutKept s₀ (execAckDelayExpiry conn s) := by
  unfold execAckDelayExpiry
  repeat' first
    | with_reducible first
      | assumption | apply State.advance_kept | apply State.sendAck_kept | apply Kept.ite | apply OutKept.next
    | split

theorem execErrHoldExpiry_kept {s₀ : State} (conn : Nat) (s : State) (hk : Kept s₀ s) :
    OutKept s₀ (execErrHoldExpiry conn s) := by
  unfold execErrHoldExpiry
  repeat' first
    | with_reducible first
      | assumption | apply State.advance_kept | apply State.freeConn_kept | apply Kept.ite | apply OutKept.next

theorem execIdleClose_kept {s₀ : State} (conn : Nat) (s : State) (hk : Kept s₀ s) : OutKept s₀ (execIdleClose conn s) := by
  unfold execIdleClose
  repeat' first
    | with_reducible first
      | assumption | apply State.advance_kept | apply State.closeStep_kept | apply State.updConn_kept | apply Kept.ite
      | apply OutKept.next

theorem packetSend_kept {s₀ : State} (s : State) (i : Nat) (hk : Kept s₀ s) : Kept s₀ (packetSend s i) := by
  unfold packetSend
  repeat' first
    | with_reducible first
      | assumption | intro v | apply State.take_kept | apply State.transmit_kept | apply State.updConn_kept
      | apply State.updXpt_kept | apply Kept.ite
    | (extract_lets +onlyGivenNames x
       first
       | (refine Kept.cut (s₀ := s₀) x ?_ ?_; (on_goal 2 => intro hx; clear_value x); (on_goal 1 => unfold x))
       | skip)
    | split

theorem execPacketSend_kept {s₀ : State} (conn : Nat) (at_ : Nat) (s : State) (hk : Kept s₀ s) :
    OutKept s₀ (execPacketSend conn at_ s) := by
  unfold execPacketSend
  repeat' first
    | with_reducible first
      | assumption | apply State.advance_kept | apply packetSend_kept | apply Kept.ite | apply OutKept.next

theorem acceptOpen_kept {s₀ : State} (s : State) (p i : Nat) (f : RxFrame) (h : Hdr) (protect : Bool) (secret : Nat) (hk : Kept s₀ s) :
    Kept s₀ (acceptOpen s p i f h protect secret) := by
  unfold acceptOpen
  repeat' first
    | with_reducible first
      | assumption | apply State.drawTrng_kept | apply State.sendHello_kept | apply State.startConn_kept

theorem helloOpen_kept {s₀ : State} (s : State) (p : Nat) (f : RxFrame) (h : Hdr) (hk : Kept s₀ s) :
    Kept s₀ (helloOpen s p f h) := by
  unfold helloOpen
  repeat' first
    | with_reducible first
      | assumption | apply State.count_kept | apply State.refuse_kept | apply State.sendHello_kept
      | apply State.sendReset_kept | apply acceptOpen_kept | apply Kept.ite
    | split

theorem helloAccept_kept {s₀ : State} (s : State) (i : Nat) (f : RxFrame) (h : Hdr) (hk : Kept s₀ s) :
    Kept s₀ (helloAccept s i f h) := by
  unfold helloAccept
  repeat' first
    | with_reducible first
      | assumption | apply State.count_kept | apply State.updConn_kept | apply Kept.ite
    | split

theorem helloClose_kept {s₀ : State} (s : State) (i : Nat) (hk : Kept s₀ s) : Kept s₀ (helloClose s i) := by
  unfold helloClose
  repeat' first
    | with_reducible first
      | assumption | intro v | apply State.closeStep_kept | apply State.updConn_kept | apply Kept.ite
    | (extract_lets +onlyGivenNames x
       first
       | (refine Kept.cut (s₀ := s₀) x ?_ ?_; (on_goal 2 => intro hx; clear_value x); (on_goal 1 => unfold x))
       | skip)
    | split

theorem helloReset_kept {s₀ : State} (s : State) (i : Nat) (h : Hdr) (hk : Kept s₀ s) : Kept s₀ (helloReset s i h) := by
  unfold helloReset
  repeat' first
    | with_reducible first
      | assumption | intro v | apply State.connError_kept | apply State.count_kept | apply State.failOpening_kept
      | apply Kept.ite
    | (extract_lets +onlyGivenNames x
       first
       | (refine Kept.cut (s₀ := s₀) x ?_ ?_; (on_goal 2 => intro hx; clear_value x); (on_goal 1 => unfold x))
       | skip)
    | split

theorem deliverMsg_kept {s₀ : State} (s : State) (i op : Nat) (bad : Bool) (body : Bytes) (arrival : Nat) (hk : Kept s₀ s) :
    Kept s₀ (deliverMsg s i op bad body arrival) := by
  unfold deliverMsg
  repeat' first
    | with_reducible first
      | assumption | intro v | apply State.answer_kept | apply State.refuse_kept | apply Kept.ite
    | split
    | assumption

theorem deliverPkt_kept {s₀ : State} (s : State) (i : Nat) (p : RxPkt) (hk : Kept s₀ s) : Kept s₀ (deliverPkt s i p) := by
  unfold deliverPkt
  repeat' first
    | with_reducible first
      | assumption | apply State.updConn_kept | apply deliverMsg_kept | apply Kept.ite

theorem drainHeld_kept {s₀ : State} (n : Nat) (s : State) (i : Nat) (hk : Kept s₀ s) : Kept s₀ (drainHeld n s i) := by
  induction n generalizing s with
  | zero => exact hk
  | succ n ih =>
    unfold drainHeld
    split
    · exact hk
    · exact ih _ (deliverPkt_kept _ _ _ (State.updConn_kept _ _ _ hk))

theorem rxSequenced_kept {s₀ : State} (s : State) (i : Nat) (h : Hdr) (payload : Bytes) (ce : Bool) (now : Nat) (hk : Kept s₀ s) :
    Kept s₀ (rxSequenced s i h payload ce now) := by
  unfold rxSequenced
  repeat' first
    | with_reducible first
      | assumption | apply State.count_kept | apply State.sendAck_kept | apply State.sendOn_kept | apply State.updConn_kept
      | apply deliverPkt_kept | apply drainHeld_kept | apply Kept.ite

theorem police_kept {s₀ : State} (s : State) (p t len : Nat) (hk : Kept s₀ s) : Kept s₀ (police s p t len).2 := by
  unfold police
  repeat' first
    | with_reducible first
      | assumption | intro v | apply State.updPort_kept | apply Kept.ite
    | (extract_lets +onlyGivenNames x
       first
       | (refine Kept.cut (s₀ := s₀) x ?_ ?_; (on_goal 2 => intro hx; clear_value x); (on_goal 1 => unfold x))
       | skip)
    | split

theorem policedNotice_kept {s₀ : State} (s : State) (i : Nat) (hk : Kept s₀ s) : Kept s₀ (policedNotice s i) := by
  unfold policedNotice
  repeat' first
    | with_reducible first
      | assumption | apply State.hand_kept | apply State.updConn_kept | apply Kept.ite

theorem policedDrop_kept {s₀ : State} (s : State) (p : Nat) (h : Hdr) (hk : Kept s₀ s) : Kept s₀ (policedDrop s p h) := by
  unfold policedDrop
  repeat' first
    | with_reducible first
      | assumption | apply State.bumpOff_kept | apply State.count_kept | apply State.updConn_kept | apply policedNotice_kept
      | apply Kept.ite

theorem execPolicedNoticeGapEnd_kept {s₀ : State} (conn : Nat) (s : State) (hk : Kept s₀ s) :
    OutKept s₀ (execPolicedNoticeGapEnd conn s) := by
  unfold execPolicedNoticeGapEnd
  repeat' first
    | with_reducible first
      | assumption | apply State.advance_kept | apply policedNotice_kept | apply Kept.ite | apply OutKept.next
    | split

theorem pfcUpdate_kept {s₀ : State} (s : State) (q : Nat) (hk : Kept s₀ s) : Kept s₀ (pfcUpdate s q) := by
  unfold pfcUpdate
  repeat' first
    | with_reducible first
      | assumption | intro v | apply State.updPort_kept | apply Kept.foldl | apply Kept.ite

theorem pfcReceive_kept {s₀ : State} (s : State) (p : Nat) (enable : Nat) (times : List Nat) (hk : Kept s₀ s) :
    Kept s₀ (pfcReceive s p enable times) := by
  unfold pfcReceive
  repeat' first
    | with_reducible first
      | assumption | intro v | apply State.count_kept | apply State.updPort_kept | apply Kept.foldl | apply Kept.ite

theorem execPfcReceive_kept {s₀ : State} (port : Fin 4) (at_ : Nat) (enable : BitVec 8) (times : List Nat) (s : State) (hk : Kept s₀ s) :
    OutKept s₀ (execPfcReceive port at_ enable times s) := by
  unfold execPfcReceive
  repeat' first
    | with_reducible first
      | assumption | apply State.advance_kept | apply pfcReceive_kept | apply Kept.ite | apply OutKept.next

theorem migrate_kept {s₀ : State} (s : State) (i : Nat) (src : Nat) (hk : Kept s₀ s) : Kept s₀ (migrate s i src) := by
  unfold migrate
  repeat' first
    | with_reducible first
      | assumption | intro v | apply State.resendPkt_kept | apply State.updConn_kept | apply Kept.foldl | apply Kept.ite

theorem rxOnConn_kept {s₀ : State} (s : State) (i : Nat) (f : RxFrame) (h : Hdr) (hk : Kept s₀ s) :
    Kept s₀ (rxOnConn s i f h) := by
  unfold rxOnConn
  repeat' first
    | with_reducible first
      | assumption | apply State.count_kept | apply State.updConn_kept | apply State.updXpt_kept | apply ackCore_kept
      | apply helloAccept_kept | apply helloClose_kept | apply helloReset_kept | apply migrate_kept | apply nakCore_kept
      | apply pfcUpdate_kept | apply rxSequenced_kept | apply Kept.ite

theorem State.ctxRoom_kept {s₀ : State} (s : State) (q : Nat) (hk : Kept s₀ s) : OptKept s₀ (State.ctxRoom s q) := by
  unfold State.ctxRoom
  repeat' first
    | with_reducible first
      | assumption | intro v | apply State.updXpt_kept | apply Kept.foldl | apply Kept.ite | apply OptKept.some
      | exact OptKept.none
    | (extract_lets +onlyGivenNames x
       first
       | (refine Kept.cut (s₀ := s₀) x ?_ ?_; (on_goal 2 => intro hx; clear_value x); (on_goal 1 => unfold x))
       | skip)
    | split

theorem State.startFetch_kept {s₀ : State} (s : State) (i : Nat) (hk : Kept s₀ s) : Kept s₀ (State.startFetch s i) := by
  unfold State.startFetch
  repeat' first
    | with_reducible first
      | assumption | intro v | apply State.ctxRoom_kept | apply State.updXpt_kept | apply Kept.ite
    | (extract_lets +onlyGivenNames x
       first
       | (refine Kept.cut (s₀ := s₀) x ?_ ?_; (on_goal 2 => intro hx; clear_value x); (on_goal 1 => unfold x))
       | (refine Kept.cut2 (s₀ := s₀) x ?_ ?_; (on_goal 2 => intro hx; clear_value x); (on_goal 1 => unfold x))
       | (refine Kept.cutf (s₀ := s₀) x ?_ ?_; (on_goal 2 => intro hf; clear_value x); (on_goal 1 => unfold x))
       | (refine Kept.cutg (s₀ := s₀) x ?_ ?_; (on_goal 2 => intro hf; clear_value x); (on_goal 1 => unfold x))
       | (refine Kept.cutr (s₀ := s₀) x ?_ ?_; (on_goal 2 => intro hf; clear_value x); (on_goal 1 => unfold x))
       | skip)
    | with_reducible apply hf
    | split
    | assumption
    | with_reducible refine Kept.ofEq (by assumption) ?_
    | with_reducible refine OptKept.of (by assumption) ?_

theorem rxContext_kept {s₀ : State} (s : State) (p : Nat) (f : RxFrame) (h : Hdr) (hk : Kept s₀ s) :
    Kept s₀ (rxContext s p f h) := by
  unfold rxContext
  repeat' first
    | with_reducible first
      | assumption | intro v | apply State.answer_kept | apply State.count_kept | apply State.sendReset_kept
      | apply State.startFetch_kept | apply State.toPort_kept | apply State.updXpt_kept | apply rxOnConn_kept | apply Kept.ite
    | (extract_lets +onlyGivenNames x
       first
       | (refine Kept.cut (s₀ := s₀) x ?_ ?_; (on_goal 2 => intro hx; clear_value x); (on_goal 1 => unfold x))
       | skip)
    | split

theorem State.settlePort_kept {s₀ : State} (s : State) (p base t : Nat) (hk : Kept s₀ s) :
    Kept s₀ (State.settlePort s p base t) := by
  unfold State.settlePort
  exact hk

theorem applyPacket_kept {s₀ : State} (s : State) (p base t : Nat) (hk : Kept s₀ s) : Kept s₀ (applyPacket s p base t) := by
  unfold applyPacket
  repeat' first
    | with_reducible first
      | assumption | apply State.applyAt_kept | apply State.settlePort_kept | apply Kept.ite

theorem rxEpcen_kept {s₀ : State} (s : State) (p : Nat) (f : RxFrame) (hk : Kept s₀ s) : Kept s₀ (rxEpcen s p f) := by
  unfold rxEpcen
  repeat' first
    | with_reducible first
      | assumption | apply State.count_kept | apply State.meter_kept | apply applyPacket_kept | apply helloOpen_kept
      | apply police_kept | apply policedDrop_kept | apply rxContext_kept | apply Kept.ite
    | split

theorem frameReceive_kept {s₀ : State} (s : State) (p : Nat) (f : RxFrame) (hk : Kept s₀ s) :
    Kept s₀ (frameReceive s p f) := by
  unfold frameReceive
  dsimp only
  repeat' first
    | with_reducible first
      | assumption | apply State.advance_kept | apply State.count_kept | apply linkUp_kept | apply pfcReceive_kept
      | apply rxEpcen_kept | apply Kept.ite
    | split

theorem contextFetchDone_kept {s₀ : State} (s : State) (i : Nat) (hk : Kept s₀ s) : Kept s₀ (contextFetchDone s i) := by
  unfold contextFetchDone
  repeat' first
    | with_reducible first
      | assumption | intro v | apply State.startFetch_kept | apply State.updXpt_kept | apply rxOnConn_kept | apply Kept.foldl
      | apply Kept.ite
    | (extract_lets +onlyGivenNames x
       first
       | (refine Kept.cut (s₀ := s₀) x ?_ ?_; (on_goal 2 => intro hx; clear_value x); (on_goal 1 => unfold x))
       | skip)
    | split

theorem connLoad_kept {s₀ : State} (s : State) (q : Nat) (hk : Kept s₀ s) : Kept s₀ (connLoad s q) := by
  unfold connLoad
  exact hk

theorem execConnLoad_kept {s₀ : State} (q : Fin 4) (s : State) (hk : Kept s₀ s) : OutKept s₀ (execConnLoad q s) := by
  unfold execConnLoad
  repeat' first
    | with_reducible first
      | assumption | apply State.offWrite_kept | apply connLoad_kept | apply Kept.ite | apply OutKept.next

theorem setCwnd_kept {s₀ : State} (s : State) (q : Nat) (hk : Kept s₀ s) : Kept s₀ (setCwnd s q) := by
  unfold setCwnd
  repeat' first
    | with_reducible first
      | assumption | apply State.count_kept | apply State.updConn_kept | apply Kept.ite

theorem execSetCwnd_kept {s₀ : State} (q : Fin 4) (s : State) (hk : Kept s₀ s) : OutKept s₀ (execSetCwnd q s) := by
  unfold execSetCwnd
  repeat' first
    | with_reducible first
      | assumption | apply State.offWrite_kept | apply setCwnd_kept | apply Kept.ite | apply OutKept.next

theorem execContextRegionCopyDone_kept {s₀ : State} (q : Fin 4) (s : State) (hk : Kept s₀ s) :
    OutKept s₀ (execContextRegionCopyDone q s) := by
  unfold execContextRegionCopyDone
  repeat' first
    | with_reducible first
      | assumption | apply State.updXpt_kept | apply Kept.ite | apply OutKept.next
    | split

/-! ### Ports -/

theorem State.swapGcl_kept {s₀ : State} (s : State) (p : Nat) (hk : Kept s₀ s) : Kept s₀ (State.swapGcl s p) := by
  unfold State.swapGcl
  repeat' first
    | with_reducible first
      | assumption | intro v | apply State.fresh_kept | apply State.setReg_kept | apply State.updPort_kept | apply Kept.foldl

theorem gclSwap_kept {s₀ : State} (s : State) (p : Nat) (hk : Kept s₀ s) : Kept s₀ (gclSwap s p) := by
  unfold gclSwap
  repeat' first
    | with_reducible first
      | assumption | apply State.swapGcl_kept | apply State.updPort_kept | apply Kept.ite

theorem gclEnable_kept {s₀ : State} (s : State) (p : Nat) (hk : Kept s₀ s) : Kept s₀ (gclEnable s p) := by
  unfold gclEnable
  repeat' first
    | with_reducible first
      | assumption | apply State.setReg_kept | apply State.updPort_kept | apply Kept.ite

theorem gclDisable_kept {s₀ : State} (s : State) (p : Nat) (hk : Kept s₀ s) : Kept s₀ (gclDisable s p) := by
  unfold gclDisable
  repeat' first
    | with_reducible first
      | assumption | apply State.setReg_kept | apply State.swapGcl_kept | apply State.updPort_kept | apply Kept.ite

theorem gclCtl_kept {s₀ : State} (s : State) (p v : Nat) (hk : Kept s₀ s) : Kept s₀ (gclCtl s p v) := by
  unfold gclCtl
  repeat' first
    | with_reducible first
      | assumption | apply State.count_kept | apply State.setReg_kept | apply gclDisable_kept | apply gclEnable_kept
      | apply gclSwap_kept | apply Kept.ite

theorem gclWrite_kept {s₀ : State} (s : State) (p e v : Nat) (hk : Kept s₀ s) : Kept s₀ (gclWrite s p e v) := by
  unfold gclWrite
  repeat' first
    | with_reducible first
      | assumption | apply State.count_kept | apply State.setReg_kept | apply Kept.ite

theorem gateEntryExpiry_kept {s₀ : State} (s : State) (p : Nat) (hk : Kept s₀ s) : Kept s₀ (gateEntryExpiry s p) := by
  unfold gateEntryExpiry
  repeat' first
    | with_reducible first
      | assumption | apply State.advance_kept | apply State.swapGcl_kept | apply State.updPort_kept | apply Kept.ite

theorem execGateEntryExpiry_kept {s₀ : State} (port : Fin 4) (s : State) (hk : Kept s₀ s) :
    OutKept s₀ (execGateEntryExpiry port s) := by
  unfold execGateEntryExpiry
  apply OutKept.next
  with_reducible apply gateEntryExpiry_kept
  exact hk

theorem execGclEnable_kept {s₀ : State} (port : Fin 4) (s : State) (hk : Kept s₀ s) :
    OutKept s₀ (execGclEnable port s) := by
  unfold execGclEnable
  repeat' first
    | with_reducible first
      | assumption | apply State.offWrite_kept | apply gclEnable_kept | apply Kept.ite | apply OutKept.next

theorem execGclSwap_kept {s₀ : State} (port : Fin 4) (s : State) (hk : Kept s₀ s) : OutKept s₀ (execGclSwap port s) := by
  unfold execGclSwap
  repeat' first
    | with_reducible first
      | assumption | apply State.offWrite_kept | apply gclSwap_kept | apply Kept.ite | apply OutKept.next

theorem State.chargeShaper_kept {s₀ : State} (s : State) (p t len : Nat) (hk : Kept s₀ s) :
    Kept s₀ (State.chargeShaper s p t len) := by
  unfold State.chargeShaper
  repeat' first
    | with_reducible first
      | assumption | apply State.settlePort_kept | apply State.updPort_kept | apply Kept.ite

theorem State.serveClass_kept {s₀ : State} (s : State) (p c : Nat) (hk : Kept s₀ s) :
    Kept s₀ (State.serveClass s p c).2 := by
  unfold State.serveClass
  repeat' first
    | with_reducible first
      | assumption | intro v | apply State.count_kept | apply State.updPort_kept | apply Kept.ite
    | (extract_lets +onlyGivenNames x
       first
       | (refine Kept.cut (s₀ := s₀) x ?_ ?_; (on_goal 2 => intro hx; clear_value x); (on_goal 1 => unfold x))
       | skip)
    | split

theorem serveFrom_kept {s₀ : State} (p : Nat) (l : List Nat) (s : State) (hk : Kept s₀ s) : Kept s₀ (serveFrom p l s).2 := by
  induction l generalizing s with
  | nil => exact hk
  | cons c t ih =>
    unfold serveFrom
    have h := State.serveClass_kept s p c hk
    split
    · exact Kept.ofEq ‹_› h
    · exact ih _ (Kept.ofEq ‹_› h)

theorem State.inject_kept {s₀ : State} (s : State) (p : Nat) (f : TxFrame) (hk : Kept s₀ s) :
    Kept s₀ (State.inject s p f).2 := by
  unfold State.inject
  repeat' first
    | with_reducible first
      | assumption | intro v | apply State.countU_kept | apply State.updPort_kept | apply Kept.ite
    | (extract_lets +onlyGivenNames x
       first
       | (refine Kept.cut (s₀ := s₀) x ?_ ?_; (on_goal 2 => intro hx; clear_value x); (on_goal 1 => unfold x))
       | skip)
    | split

theorem injectorExpiry_kept {s₀ : State} (s : State) (p : Nat) (hk : Kept s₀ s) : Kept s₀ (injectorExpiry s p) := by
  unfold injectorExpiry
  repeat' first
    | with_reducible first
      | assumption | apply State.advance_kept | apply State.countU_kept | apply State.updPort_kept | apply Kept.ite

theorem execInjectorExpiry_kept {s₀ : State} (port : Fin 4) (s : State) (hk : Kept s₀ s) :
    OutKept s₀ (execInjectorExpiry port s) := by
  unfold execInjectorExpiry
  apply OutKept.next
  with_reducible apply injectorExpiry_kept
  exact hk

theorem reorderTimeout_kept {s₀ : State} (s : State) (p : Nat) (hk : Kept s₀ s) : Kept s₀ (reorderTimeout s p) := by
  unfold reorderTimeout
  repeat' first
    | with_reducible first
      | assumption | apply State.advance_kept | apply State.countU_kept | apply State.updPort_kept | apply Kept.ite
    | split

theorem execReorderTimeout_kept {s₀ : State} (port : Fin 4) (s : State) (hk : Kept s₀ s) :
    OutKept s₀ (execReorderTimeout port s) := by
  unfold execReorderTimeout
  apply OutKept.next
  with_reducible apply reorderTimeout_kept
  exact hk

theorem loopBack_kept {s₀ : State} (s : State) (p : Nat) (f : TxFrame) (hk : Kept s₀ s) : Kept s₀ (loopBack s p f) := by
  unfold loopBack
  repeat' first
    | with_reducible first
      | assumption | apply frameReceive_kept

theorem State.putOnWire_kept {s₀ : State} (s : State) (p : Nat) (f : TxFrame) (hk : Kept s₀ s) :
    Kept s₀ (State.putOnWire s p f) := by
  unfold State.putOnWire
  repeat' first
    | with_reducible first
      | assumption | apply State.count_kept | apply State.meter_kept | apply State.updPort_kept | apply loopBack_kept
      | apply Kept.ite

theorem State.sendPfc_kept {s₀ : State} (s : State) (p : Nat) (hk : Kept s₀ s) : Kept s₀ (State.sendPfc s p) := by
  unfold State.sendPfc
  repeat' first
    | with_reducible first
      | assumption | apply State.putOnWire_kept | apply State.updPort_kept

theorem State.applyTx_kept {s₀ : State} (s : State) (p : Nat) (hk : Kept s₀ s) : Kept s₀ (State.applyTx s p) := by
  unfold State.applyTx
  repeat' first
    | with_reducible first
      | assumption | intro v | apply State.applyAt_kept | apply applyPacket_kept | apply Kept.foldl

theorem sendNext_kept {s₀ : State} (s : State) (p : Nat) (hk : Kept s₀ s) : Kept s₀ (sendNext s p) := by
  unfold sendNext
  repeat' first
    | with_reducible first
      | assumption | intro v | apply State.applyTx_kept | apply State.chargeShaper_kept | apply State.inject_kept
      | apply State.putOnWire_kept | apply State.sendPfc_kept | apply State.updPort_kept | apply serveFrom_kept
      | apply Kept.ite
    | (extract_lets +onlyGivenNames x
       first
       | (refine Kept.cut (s₀ := s₀) x ?_ ?_; (on_goal 2 => intro hx; clear_value x); (on_goal 1 => unfold x))
       | skip)
    | split
    | assumption
    | with_reducible refine Kept.ofEq (by assumption) ?_

theorem frameTransmit_kept {s₀ : State} (s : State) (p at_ : Nat) (hk : Kept s₀ s) : Kept s₀ (frameTransmit s p at_) := by
  unfold frameTransmit
  repeat' first
    | with_reducible first
      | assumption | apply State.advance_kept | apply linkUp_kept | apply sendNext_kept | apply Kept.ite

theorem pfcPauseExpiry_kept {s₀ : State} (s : State) (p c : Nat) (hk : Kept s₀ s) : Kept s₀ (pfcPauseExpiry s p c) := by
  unfold pfcPauseExpiry
  repeat' first
    | with_reducible first
      | assumption | apply State.advance_kept | apply State.updPort_kept | apply Kept.ite
    | split

theorem execPfcPauseExpiry_kept {s₀ : State} (port : Fin 4) (cls : Fin 8) (s : State) (hk : Kept s₀ s) :
    OutKept s₀ (execPfcPauseExpiry port cls s) := by
  unfold execPfcPauseExpiry
  apply OutKept.next
  with_reducible apply pfcPauseExpiry_kept
  exact hk

theorem pfcRefresh_kept {s₀ : State} (s : State) (p : Nat) (hk : Kept s₀ s) : Kept s₀ (pfcRefresh s p) := by
  unfold pfcRefresh
  repeat' first
    | with_reducible first
      | assumption | intro v | apply State.advance_kept | apply State.updPort_kept | apply Kept.foldl | apply Kept.ite
    | (extract_lets +onlyGivenNames x
       first
       | (refine Kept.cut (s₀ := s₀) x ?_ ?_; (on_goal 2 => intro hx; clear_value x); (on_goal 1 => unfold x))
       | skip)
    | split

theorem execPfcRefresh_kept {s₀ : State} (port : Fin 4) (s : State) (hk : Kept s₀ s) :
    OutKept s₀ (execPfcRefresh port s) := by
  unfold execPfcRefresh
  apply OutKept.next
  with_reducible apply pfcRefresh_kept
  exact hk

theorem State.migrateAll_kept {s₀ : State} (s : State) (q : Nat) (hk : Kept s₀ s) : Kept s₀ (State.migrateAll s q) := by
  unfold State.migrateAll
  repeat' first
    | with_reducible first
      | assumption | intro v | apply State.postFault_kept | apply State.resendPkt_kept | apply State.sendAck_kept
      | apply Kept.foldl

theorem State.dropLink_kept {s₀ : State} (s : State) (p : Nat) (hk : Kept s₀ s) : Kept s₀ (State.dropLink s p) := by
  unfold State.dropLink
  repeat' first
    | with_reducible first
      | assumption | apply State.post_kept | apply State.updPort_kept

theorem linkDown_kept {s₀ : State} (s : State) (p : Nat) (hk : Kept s₀ s) : Kept s₀ (linkDown s p) := by
  unfold linkDown
  repeat' first
    | with_reducible first
      | assumption | apply State.count_kept | apply State.dropLink_kept | apply State.migrateAll_kept | apply linkUp_kept
      | apply Kept.ite

theorem execLinkDown_kept {s₀ : State} (port : Fin 4) (s : State) (hk : Kept s₀ s) : OutKept s₀ (execLinkDown port s) := by
  unfold execLinkDown
  apply OutKept.next
  with_reducible apply linkDown_kept
  exact hk

theorem linkUp_kept {s₀ : State} (s : State) (p : Nat) (hk : Kept s₀ s) : Kept s₀ (linkUp s p) := by
  unfold linkUp
  repeat' first
    | with_reducible first
      | assumption | apply State.post_kept | apply State.updPort_kept | apply Kept.ite

theorem execLinkUp_kept {s₀ : State} (port : Fin 4) (s : State) (hk : Kept s₀ s) : OutKept s₀ (execLinkUp port s) := by
  unfold execLinkUp
  apply OutKept.next
  with_reducible apply linkUp_kept
  exact hk

/-! ### Rows -/

theorem State.lateAnswer_kept {s₀ : State} (s : State) (q fwd copies : Nat) (hk : Kept s₀ s) :
    Kept s₀ (State.lateAnswer s q fwd copies) := by
  unfold State.lateAnswer
  repeat' first
    | with_reducible first
      | assumption | apply State.ackWaiter_kept | apply State.updStore_kept | apply Kept.ite
    | split

theorem State.forwardFailed_kept {s₀ : State} (s : State) (q fwd : Nat) (hk : Kept s₀ s) :
    Kept s₀ (State.forwardFailed s q fwd) := by
  unfold State.forwardFailed
  repeat' first
    | with_reducible first
      | assumption | apply State.breakChain_kept | apply State.lateAnswer_kept | apply Kept.ite
    | split

theorem State.connLost_kept {s₀ : State} (s : State) (i node tenant : Nat) (hk : Kept s₀ s) :
    Kept s₀ (State.connLost s i node tenant) := by
  unfold State.connLost
  repeat' first
    | with_reducible first
      | assumption | intro v | apply State.breakChain_kept | apply State.childFailed_kept | apply State.reseatLost_kept
      | apply Kept.foldl

theorem State.unitFailed_kept {s₀ : State} (s : State) (o : MsgOwner) (hk : Kept s₀ s) :
    Kept s₀ (State.unitFailed s o) := by
  unfold State.unitFailed
  repeat' first
    | with_reducible first
      | assumption | apply State.childFailed_kept | apply State.connLost_kept | apply State.forwardFailed_kept
      | apply State.reseatLost_kept | apply Kept.ite
    | split

theorem settleFrom_kept {s₀ : State} (n : Nat) (s : State) (hk : Kept s₀ s) : Kept s₀ (settleFrom n s) := by
  induction n generalizing s with
  | zero => exact hk
  | succ n ih =>
    unfold settleFrom
    split
    · exact hk
    · rename_i e rest _
      exact ih _ (State.unitFailed_kept { s with unitErrs := rest } e.1 hk)

theorem settle_kept {s₀ : State} (s : State) (hk : Kept s₀ s) : Kept s₀ (settle s) := by
  unfold settle
  repeat' first
    | with_reducible first
      | assumption | apply settleFrom_kept

theorem reseatAnswer_kept {s₀ : State} (s : State) (i tag status gen detail : Nat) (hk : Kept s₀ s) :
    Kept s₀ (reseatAnswer s i tag status gen detail) := by
  unfold reseatAnswer
  repeat' first
    | with_reducible first
      | assumption | apply reseatCommitted_kept | apply reseatPrepared_kept | apply Kept.ite
    | split

theorem writeAnswer_kept {s₀ : State} (s : State) (i tag status : Nat) (hk : Kept s₀ s) :
    Kept s₀ (writeAnswer s i tag status) := by
  unfold writeAnswer
  repeat' first
    | with_reducible first
      | assumption | apply reseatWritten_kept | apply Kept.ite
    | split

theorem forwardAnswer_kept {s₀ : State} (s : State) (i fwd status gen copies : Nat) (hk : Kept s₀ s) :
    Kept s₀ (forwardAnswer s i fwd status gen copies) := by
  unfold forwardAnswer
  repeat' first
    | with_reducible first
      | assumption | intro v | apply State.forwardAnswered_kept | apply State.lateAnswer_kept | apply Kept.ite
    | (extract_lets +onlyGivenNames x
       first
       | (refine Kept.cut (s₀ := s₀) x ?_ ?_; (on_goal 2 => intro hx; clear_value x); (on_goal 1 => unfold x))
       | skip)
    | split

theorem childAnswer_kept {s₀ : State} (s : State) (tag : Nat) (hk : Kept s₀ s) : Kept s₀ (childAnswer s tag) := by
  unfold childAnswer
  repeat' first
    | with_reducible first
      | assumption | apply State.childFailed_kept

theorem responseMsg_kept {s₀ : State} (s : State) (i : Nat) (b : Bytes) (hk : Kept s₀ s) : Kept s₀ (responseMsg s i b) := by
  unfold responseMsg
  repeat' first
    | with_reducible first
      | assumption | apply childAnswer_kept | apply forwardAnswer_kept | apply reseatAnswer_kept | apply writeAnswer_kept
      | apply Kept.ite

theorem execAppend_kept {s₀ : State} (o : Origin) (body : Bytes) (s : State) (hk : Kept s₀ s) :
    OutKept s₀ (execAppend o body s) := by
  unfold execAppend
  repeat' first
    | with_reducible first
      | assumption | intro v | apply State.arrive_kept | apply segOp_kept | apply settle_kept | apply Kept.ite
      | apply OutKept.next

theorem execAppendImm_kept {s₀ : State} (o : Origin) (body : Bytes) (s : State) (hk : Kept s₀ s) :
    OutKept s₀ (execAppendImm o body s) := by
  unfold execAppendImm
  repeat' first
    | with_reducible first
      | assumption | intro v | apply State.arrive_kept | apply segOp_kept | apply settle_kept | apply Kept.ite
      | apply OutKept.next

theorem execRead_kept {s₀ : State} (o : Origin) (body : Bytes) (s : State) (hk : Kept s₀ s) :
    OutKept s₀ (execRead o body s) := by
  unfold execRead
  repeat' first
    | with_reducible first
      | assumption | intro v | apply State.arrive_kept | apply segOp_kept | apply settle_kept | apply Kept.ite
      | apply OutKept.next

theorem execSeal_kept {s₀ : State} (o : Origin) (body : Bytes) (s : State) (hk : Kept s₀ s) :
    OutKept s₀ (execSeal o body s) := by
  unfold execSeal
  repeat' first
    | with_reducible first
      | assumption | intro v | apply State.arrive_kept | apply segOp_kept | apply settle_kept | apply Kept.ite
      | apply OutKept.next

theorem execRetire_kept {s₀ : State} (o : Origin) (body : Bytes) (s : State) (hk : Kept s₀ s) :
    OutKept s₀ (execRetire o body s) := by
  unfold execRetire
  repeat' first
    | with_reducible first
      | assumption | intro v | apply State.arrive_kept | apply segOp_kept | apply settle_kept | apply Kept.ite
      | apply OutKept.next

theorem execGapHoldExpiry_kept {s₀ : State} (q : Fin 4) (holdId : Nat) (s : State) (hk : Kept s₀ s) :
    OutKept s₀ (execGapHoldExpiry q holdId s) := by
  unfold execGapHoldExpiry
  repeat' first
    | with_reducible first
      | assumption | apply gapHoldExpiry_kept | apply settle_kept | apply Kept.ite | apply OutKept.next

theorem reseatRow_kept {s₀ : State} (s : State) (o : Origin) (body : Bytes) (want : Nat → Bool) (hk : Kept s₀ s) :
    Kept s₀ (reseatRow s o body want) := by
  unfold reseatRow
  repeat' first
    | with_reducible first
      | assumption | intro v | apply State.arrive_kept | apply reseatOp_kept | apply settle_kept | apply Kept.ite

theorem execReseatCopy_kept {s₀ : State} (o : Origin) (body : Bytes) (s : State) (hk : Kept s₀ s) :
    OutKept s₀ (execReseatCopy o body s) := by
  unfold execReseatCopy
  apply OutKept.next
  with_reducible apply reseatRow_kept
  exact hk

theorem execReseatPrepare_kept {s₀ : State} (o : Origin) (body : Bytes) (s : State) (hk : Kept s₀ s) :
    OutKept s₀ (execReseatPrepare o body s) := by
  unfold execReseatPrepare
  apply OutKept.next
  with_reducible apply reseatRow_kept
  exact hk

theorem execReseatCutover_kept {s₀ : State} (o : Origin) (body : Bytes) (s : State) (hk : Kept s₀ s) :
    OutKept s₀ (execReseatCutover o body s) := by
  unfold execReseatCutover
  apply OutKept.next
  with_reducible apply reseatRow_kept
  exact hk

theorem execReseatCommit_kept {s₀ : State} (o : Origin) (body : Bytes) (s : State) (hk : Kept s₀ s) :
    OutKept s₀ (execReseatCommit o body s) := by
  unfold execReseatCommit
  apply OutKept.next
  with_reducible apply reseatRow_kept
  exact hk

theorem execReseatRelease_kept {s₀ : State} (o : Origin) (body : Bytes) (s : State) (hk : Kept s₀ s) :
    OutKept s₀ (execReseatRelease o body s) := by
  unfold execReseatRelease
  apply OutKept.next
  with_reducible apply reseatRow_kept
  exact hk

theorem execReseatDeadline_kept {s₀ : State} (ticket : Nat) (s : State) (hk : Kept s₀ s) :
    OutKept s₀ (execReseatDeadline ticket s) := by
  unfold execReseatDeadline
  repeat' first
    | with_reducible first
      | assumption | apply reseatDeadline_kept | apply settle_kept | apply Kept.ite | apply OutKept.next

theorem execAttend_kept {s₀ : State} (o : Origin) (body : Bytes) (laneErrs : List Nat) (s : State) (hk : Kept s₀ s) :
    OutKept s₀ (execAttend o body laneErrs s) := by
  unfold execAttend
  repeat' first
    | with_reducible first
      | assumption | intro v | apply State.arrive_kept | apply attendOp_kept | apply settle_kept | apply Kept.ite
      | apply OutKept.next

theorem execPartialRecv_kept {s₀ : State} (conn : Nat) (body : Bytes) (s : State) (hk : Kept s₀ s) :
    OutKept s₀ (execPartialRecv conn body s) := by
  unfold execPartialRecv
  repeat' first
    | with_reducible first
      | assumption | apply State.take_kept | apply partialMsg_kept | apply settle_kept | apply Kept.ite | apply OutKept.next

theorem execNotice_kept {s₀ : State} (conn : Nat) (body : Bytes) (s : State) (hk : Kept s₀ s) :
    OutKept s₀ (execNotice conn body s) := by
  unfold execNotice
  repeat' first
    | with_reducible first
      | assumption | apply State.take_kept | apply noticeMsg_kept | apply settle_kept | apply Kept.ite | apply OutKept.next

theorem execResponse_kept {s₀ : State} (conn : Nat) (body : Bytes) (s : State) (hk : Kept s₀ s) :
    OutKept s₀ (execResponse conn body s) := by
  unfold execResponse
  repeat' first
    | with_reducible first
      | assumption | apply State.take_kept | apply responseMsg_kept | apply settle_kept | apply Kept.ite | apply OutKept.next

theorem execWrite_kept {s₀ : State} (conn : Nat) (body : Bytes) (s : State) (hk : Kept s₀ s) :
    OutKept s₀ (execWrite conn body s) := by
  unfold execWrite
  repeat' first
    | with_reducible first
      | assumption | apply State.take_kept | apply reseatWrite_kept | apply Kept.ite | apply OutKept.next

theorem execWriteImm_kept {s₀ : State} (conn : Nat) (body : Bytes) (s : State) (hk : Kept s₀ s) :
    OutKept s₀ (execWriteImm conn body s) := by
  unfold execWriteImm
  repeat' first
    | with_reducible first
      | assumption | apply State.take_kept | apply reseatWrite_kept | apply Kept.ite | apply OutKept.next

theorem execRequestDeadline_kept {s₀ : State} (ticket : Nat) (s : State) (hk : Kept s₀ s) :
    OutKept s₀ (execRequestDeadline ticket s) := by
  unfold execRequestDeadline
  repeat' first
    | with_reducible first
      | assumption | apply requestDeadline_kept | apply settle_kept | apply Kept.ite | apply OutKept.next

theorem execNak_kept {s₀ : State} (conn : Nat) (at_ : Nat) (body : Bytes) (s : State) (hk : Kept s₀ s) :
    OutKept s₀ (execNak conn at_ body s) := by
  unfold execNak
  repeat' first
    | with_reducible first
      | assumption | apply State.advance_kept | apply nakCore_kept | apply settle_kept | apply Kept.ite | apply OutKept.next

theorem execRtoExpiry_kept {s₀ : State} (conn : Nat) (s : State) (hk : Kept s₀ s) : OutKept s₀ (execRtoExpiry conn s) := by
  unfold execRtoExpiry
  repeat' first
    | with_reducible first
      | assumption | apply rtoExpiry_kept | apply settle_kept | apply Kept.ite | apply OutKept.next

theorem execFrameReceive_kept {s₀ : State} (port : Fin 4) (f : RxFrame) (s : State) (hk : Kept s₀ s) :
    OutKept s₀ (execFrameReceive port f s) := by
  unfold execFrameReceive
  repeat' first
    | with_reducible first
      | assumption | apply frameReceive_kept | apply settle_kept | apply Kept.ite | apply OutKept.next

theorem execFrameTransmit_kept {s₀ : State} (port : Fin 4) (at_ : Nat) (s : State) (hk : Kept s₀ s) :
    OutKept s₀ (execFrameTransmit port at_ s) := by
  unfold execFrameTransmit
  repeat' first
    | with_reducible first
      | assumption | apply frameTransmit_kept | apply settle_kept | apply Kept.ite | apply OutKept.next

theorem execHelloOpen_kept {s₀ : State} (port : Fin 4) (f : RxFrame) (s : State) (hk : Kept s₀ s) :
    OutKept s₀ (execHelloOpen port f s) := by
  unfold execHelloOpen
  repeat' first
    | with_reducible first
      | assumption | apply frameReceive_kept | apply settle_kept | apply Kept.ite | apply OutKept.next

theorem execHelloAccept_kept {s₀ : State} (port : Fin 4) (f : RxFrame) (s : State) (hk : Kept s₀ s) :
    OutKept s₀ (execHelloAccept port f s) := by
  unfold execHelloAccept
  repeat' first
    | with_reducible first
      | assumption | apply frameReceive_kept | apply settle_kept | apply Kept.ite | apply OutKept.next

theorem execHelloClose_kept {s₀ : State} (port : Fin 4) (f : RxFrame) (s : State) (hk : Kept s₀ s) :
    OutKept s₀ (execHelloClose port f s) := by
  unfold execHelloClose
  repeat' first
    | with_reducible first
      | assumption | apply frameReceive_kept | apply settle_kept | apply Kept.ite | apply OutKept.next

theorem execHelloReset_kept {s₀ : State} (port : Fin 4) (f : RxFrame) (s : State) (hk : Kept s₀ s) :
    OutKept s₀ (execHelloReset port f s) := by
  unfold execHelloReset
  repeat' first
    | with_reducible first
      | assumption | apply frameReceive_kept | apply settle_kept | apply Kept.ite | apply OutKept.next

theorem execContextFetchDone_kept {s₀ : State} (conn : Nat) (s : State) (hk : Kept s₀ s) :
    OutKept s₀ (execContextFetchDone conn s) := by
  unfold execContextFetchDone
  repeat' first
    | with_reducible first
      | assumption | apply contextFetchDone_kept | apply settle_kept | apply Kept.ite | apply OutKept.next

end Sys2Proof.Machine
end

