-- ==== Sys2Proof/Laws/KeptBank.lean ====
section
/-!
SUPPORT. What every command keeps, for the bank scorers, coding, tenants, assists and faults.
-/
namespace Sys2Proof.Machine

/-! ### Bank -/

theorem scorerRunDone_kept {s₀ : State} (s : State) (q ls k : Nat) (fault : Bool) (hk : Kept s₀ s) :
    Kept s₀ (scorerRunDone s q ls k fault) := by
  unfold scorerRunDone
  repeat' first
    | with_reducible first
      | assumption | intro v | apply State.countU_kept | apply State.updBank_kept | apply Kept.ite
    | (extract_lets +onlyGivenNames x
       first
       | (refine Kept.cut (s₀ := s₀) x ?_ ?_; (on_goal 2 => intro hx; clear_value x); (on_goal 1 => unfold x))
       | skip)
    | split

theorem execScorerRunDone_kept {s₀ : State} (stack : Fin 16) (scorer : Fin 64) (fault : Bool) (s : State) (hk : Kept s₀ s) :
    OutKept s₀ (execScorerRunDone stack scorer fault s) := by
  unfold execScorerRunDone
  repeat' first
    | with_reducible first
      | assumption | apply scorerRunDone_kept | apply Kept.ite | apply OutKept.next

theorem sequenceRetire_kept {s₀ : State} (s : State) (q ls k : Nat) (hk : Kept s₀ s) :
    Kept s₀ (sequenceRetire s q ls k) := by
  unfold sequenceRetire
  repeat' first
    | with_reducible first
      | assumption | apply State.updBank_kept | apply Kept.ite
    | split

theorem execSequenceRetire_kept {s₀ : State} (stack : Fin 16) (scorer : Fin 64) (s : State) (hk : Kept s₀ s) :
    OutKept s₀ (execSequenceRetire stack scorer s) := by
  unfold execSequenceRetire
  repeat' first
    | with_reducible first
      | assumption | apply sequenceRetire_kept | apply Kept.ite | apply OutKept.next

theorem bscFence_kept {s₀ : State} (s : State) (q ls v : Nat) (hk : Kept s₀ s) : Kept s₀ (bscFence s q ls v) := by
  unfold bscFence
  repeat' first
    | with_reducible first
      | assumption | apply State.setReg_kept | apply State.updBank_kept | apply Kept.ite

theorem execBscFence_kept {s₀ : State} (stack : Fin 16) (seqNo : Nat) (s : State) (hk : Kept s₀ s) :
    OutKept s₀ (execBscFence stack seqNo s) := by
  unfold execBscFence
  repeat' first
    | with_reducible first
      | assumption | apply State.accError_kept | apply State.count_kept | apply bscFence_kept | apply Kept.ite
      | apply OutKept.next

theorem State.postScorer_kept {s₀ : State} (s : State) (q ls c unit v : Nat) (hk : Kept s₀ s) :
    Kept s₀ (State.postScorer s q ls c unit v) := by
  unfold State.postScorer
  repeat' first
    | with_reducible first
      | assumption | apply State.post_kept

theorem State.collectRun_kept {s₀ : State} (s : State) (q ls : Nat) (x : Sequence) (i : Nat) (hk : Kept s₀ s) :
    Kept s₀ (State.collectRun s q ls x i) := by
  unfold State.collectRun
  repeat' first
    | with_reducible first
      | assumption | apply State.addLeaf_kept | apply State.postFault_kept | apply State.postScorer_kept
      | apply State.runsToCores_kept | apply Kept.ite
    | split

theorem State.collectSeq_kept {s₀ : State} (s : State) (q ls : Nat) (x : Sequence) (hk : Kept s₀ s) :
    Kept s₀ (State.collectSeq s q ls x) := by
  unfold State.collectSeq
  repeat' first
    | with_reducible first
      | assumption | intro v | apply State.collectRun_kept | apply State.updBank_kept | apply Kept.foldl

theorem State.endBankJob_kept {s₀ : State} (s : State) (q id : Nat) (hk : Kept s₀ s) :
    Kept s₀ (State.endBankJob s q id) := by
  unfold State.endBankJob
  repeat' first
    | with_reducible first
      | assumption | apply State.checkReq_kept | apply State.dropJob_kept | apply State.sweepHeld_kept
      | apply State.updQe_kept | apply Kept.ite
    | split

theorem fenceComplete_kept {s₀ : State} (s : State) (q ls : Nat) (hk : Kept s₀ s) : Kept s₀ (fenceComplete s q ls) := by
  unfold fenceComplete
  repeat' first
    | with_reducible first
      | assumption | intro v | apply State.collectSeq_kept | apply State.endBankJob_kept | apply State.issueBacklog_kept
      | apply State.updBank_kept | apply Kept.foldl | apply Kept.ite
    | (extract_lets +onlyGivenNames x
       first
       | (refine Kept.cut (s₀ := s₀) x ?_ ?_; (on_goal 2 => intro hx; clear_value x); (on_goal 1 => unfold x))
       | skip)
    | split

theorem execFenceComplete_kept {s₀ : State} (stack : Fin 16) (s : State) (hk : Kept s₀ s) :
    OutKept s₀ (execFenceComplete stack s) := by
  unfold execFenceComplete
  repeat' first
    | with_reducible first
      | assumption | apply fenceComplete_kept | apply Kept.ite | apply OutKept.next

theorem State.perform_kept {s₀ : State} (s : State) (q ls : Nat) (a : ChAccess) (hk : Kept s₀ s) :
    Kept s₀ (State.perform s q ls a) := by
  unfold State.perform
  repeat' first
    | with_reducible first
      | assumption | intro v | apply Kept.ite
    | (extract_lets +onlyGivenNames x
       first
       | (refine Kept.cut (s₀ := s₀) x ?_ ?_; (on_goal 2 => intro hx; clear_value x); (on_goal 1 => unfold x))
       | (refine Kept.cut2 (s₀ := s₀) x ?_ ?_; (on_goal 2 => intro hx; clear_value x); (on_goal 1 => unfold x))
       | (refine Kept.cutf (s₀ := s₀) x ?_ ?_; (on_goal 2 => intro hf; clear_value x); (on_goal 1 => unfold x))
       | (refine Kept.cutg (s₀ := s₀) x ?_ ?_; (on_goal 2 => intro hf; clear_value x); (on_goal 1 => unfold x))
       | (refine Kept.cutr (s₀ := s₀) x ?_ ?_; (on_goal 2 => intro hf; clear_value x); (on_goal 1 => unfold x))
       | skip)
    | with_reducible apply hf
    | split
    | assumption
    | exact Kept.hbm (by assumption) (Mem.paste_wf _ _ _ _)

theorem State.serve_kept {s₀ : State} (s : State) (q ls k n : Nat) (hk : Kept s₀ s) : Kept s₀ (State.serve s q ls k n) := by
  unfold State.serve
  repeat' first
    | with_reducible first
      | assumption | intro v | apply State.perform_kept | apply State.take_kept | apply State.updBank_kept | apply Kept.foldl

theorem crossingEnter_kept {s₀ : State} (s : State) (q ls k : Nat) (hk : Kept s₀ s) : Kept s₀ (crossingEnter s q ls k) := by
  unfold crossingEnter
  repeat' first
    | with_reducible first
      | assumption | apply State.advance_kept | apply State.countU_kept | apply State.drawFree_kept | apply State.serve_kept
      | apply State.updBank_kept | apply Kept.ite

theorem execCrossingEnter_kept {s₀ : State} (stack : Fin 16) (pch : Fin 64) (s : State) (hk : Kept s₀ s) :
    OutKept s₀ (execCrossingEnter stack pch s) := by
  unfold execCrossingEnter
  repeat' first
    | with_reducible first
      | assumption | apply crossingEnter_kept | apply Kept.ite | apply OutKept.next

theorem crossingWindowEnd_kept {s₀ : State} (s : State) (q ls k : Nat) (hk : Kept s₀ s) :
    Kept s₀ (crossingWindowEnd s q ls k) := by
  unfold crossingWindowEnd
  repeat' first
    | with_reducible first
      | assumption | apply State.updBank_kept | apply Kept.ite

theorem execCrossingWindowEnd_kept {s₀ : State} (stack : Fin 16) (pch : Fin 64) (s : State) (hk : Kept s₀ s) :
    OutKept s₀ (execCrossingWindowEnd stack pch s) := by
  unfold execCrossingWindowEnd
  repeat' first
    | with_reducible first
      | assumption | apply crossingWindowEnd_kept | apply Kept.ite | apply OutKept.next

theorem refreshAbort_kept {s₀ : State} (s : State) (q ls k : Nat) (hk : Kept s₀ s) : Kept s₀ (refreshAbort s q ls k) := by
  unfold refreshAbort
  repeat' first
    | with_reducible first
      | assumption | apply State.countU_kept | apply State.updBank_kept | apply Kept.ite
    | split

theorem execRefreshAbort_kept {s₀ : State} (stack : Fin 16) (pch : Fin 64) (s : State) (hk : Kept s₀ s) :
    OutKept s₀ (execRefreshAbort stack pch s) := by
  unfold execRefreshAbort
  repeat' first
    | with_reducible first
      | assumption | apply refreshAbort_kept | apply Kept.ite | apply OutKept.next

theorem State.returnBacklog_kept {s₀ : State} (s : State) (q ls : Nat) (want : Nat → Bool) (hk : Kept s₀ s) :
    Kept s₀ (State.returnBacklog s q ls want) := by
  unfold State.returnBacklog
  repeat' first
    | with_reducible first
      | assumption | intro v | apply State.endBankJob_kept | apply State.runsToCores_kept | apply State.updBank_kept
      | apply Kept.foldl | apply Kept.ite
    | split

theorem State.endSeqs_kept {s₀ : State} (s : State) (q ls : Nat) (pchs : List Nat) (hk : Kept s₀ s) :
    Kept s₀ (State.endSeqs s q ls pchs) := by
  unfold State.endSeqs
  repeat' first
    | with_reducible first
      | assumption | apply State.countU_kept | apply State.returnBacklog_kept | apply State.updBank_kept

theorem State.startMode_kept {s₀ : State} (s : State) (q ls c new : Nat) (hk : Kept s₀ s) :
    Kept s₀ (State.startMode s q ls c new) := by
  unfold State.startMode
  repeat' first
    | with_reducible first
      | assumption | apply State.endSeqs_kept | apply State.updBank_kept | apply Kept.ite

theorem State.chanMode_kept {s₀ : State} (s : State) (q ls c v : Nat) (hk : Kept s₀ s) :
    Kept s₀ (State.chanMode s q ls c v) := by
  unfold State.chanMode
  repeat' first
    | with_reducible first
      | assumption | apply State.startMode_kept | apply State.updBank_kept | apply State.updBsc_kept | apply Kept.ite

theorem bscChmode_kept {s₀ : State} (s : State) (q ls : Nat) (hi : Bool) (v : Nat) (hk : Kept s₀ s) :
    Kept s₀ (bscChmode s q ls hi v) := by
  unfold bscChmode
  repeat' first
    | with_reducible first
      | assumption | intro v | apply State.chanMode_kept | apply Kept.foldl

theorem execBscChmode_kept {s₀ : State} (stack : Fin 16) (hi : Bool) (value : Word) (s : State) (hk : Kept s₀ s) :
    OutKept s₀ (execBscChmode stack hi value s) := by
  unfold execBscChmode
  repeat' first
    | with_reducible first
      | assumption | apply State.accError_kept | apply State.count_kept | apply bscChmode_kept | apply Kept.ite
      | apply OutKept.next

theorem modeChangeComplete_kept {s₀ : State} (s : State) (q ls c : Nat) (hk : Kept s₀ s) :
    Kept s₀ (modeChangeComplete s q ls c) := by
  unfold modeChangeComplete
  repeat' first
    | with_reducible first
      | assumption | intro v | apply State.serve_kept | apply State.startMode_kept | apply State.updBank_kept
      | apply Kept.foldl | apply Kept.ite
    | (extract_lets +onlyGivenNames x
       first
       | (refine Kept.cut (s₀ := s₀) x ?_ ?_; (on_goal 2 => intro hx; clear_value x); (on_goal 1 => unfold x))
       | skip)
    | split

theorem execModeChangeComplete_kept {s₀ : State} (stack : Fin 16) (chan : Fin 32) (s : State) (hk : Kept s₀ s) :
    OutKept s₀ (execModeChangeComplete stack chan s) := by
  unfold execModeChangeComplete
  repeat' first
    | with_reducible first
      | assumption | apply modeChangeComplete_kept | apply Kept.ite | apply OutKept.next

theorem State.flushStack_kept {s₀ : State} (s : State) (q ls : Nat) (hk : Kept s₀ s) :
    Kept s₀ (State.flushStack s q ls) := by
  unfold State.flushStack
  repeat' first
    | with_reducible first
      | assumption | intro v | apply State.serve_kept | apply Kept.foldl

theorem State.quietStack_kept {s₀ : State} (s : State) (q ls : Nat) (hk : Kept s₀ s) :
    Kept s₀ (State.quietStack s q ls) := by
  unfold State.quietStack
  repeat' first
    | with_reducible first
      | assumption | apply State.endSeqs_kept | apply State.flushStack_kept

theorem State.setBankPower_kept {s₀ : State} (s : State) (q ls : Nat) (on : Bool) (hk : Kept s₀ s) :
    Kept s₀ (State.setBankPower s q ls on) := by
  unfold State.setBankPower
  repeat' first
    | with_reducible first
      | assumption | apply State.quietStack_kept | apply State.updBank_kept | apply Kept.ite

theorem bscBistStart_kept {s₀ : State} (s : State) (q v : Nat) (hk : Kept s₀ s) : Kept s₀ (bscBistStart s q v) := by
  unfold bscBistStart
  repeat' first
    | with_reducible first
      | assumption | apply State.setReg_kept | apply State.updBsc_kept | apply State.updStack_kept | apply Kept.ite

theorem execBscBistStart_kept {s₀ : State} (q : Fin 4) (value : Word) (s : State) (hk : Kept s₀ s) :
    OutKept s₀ (execBscBistStart q value s) := by
  unfold execBscBistStart
  repeat' first
    | with_reducible first
      | assumption | apply State.accError_kept | apply State.count_kept | apply bscBistStart_kept | apply Kept.ite
      | apply OutKept.next

theorem bistComplete_kept {s₀ : State} (s : State) (q : Nat) (pass : Bool) (unit : Nat) (hk : Kept s₀ s) :
    Kept s₀ (bistComplete s q pass unit) := by
  unfold bistComplete
  repeat' first
    | with_reducible first
      | assumption | apply State.postFault_kept | apply State.postScorer_kept | apply State.quietStack_kept
      | apply State.updBank_kept | apply State.updBsc_kept | apply State.updStack_kept | apply Kept.ite
    | split

theorem execBistComplete_kept {s₀ : State} (q : Fin 4) (pass : Bool) (unit : Nat) (s : State) (hk : Kept s₀ s) :
    OutKept s₀ (execBistComplete q pass unit s) := by
  unfold execBistComplete
  apply OutKept.next
  with_reducible apply bistComplete_kept
  exact hk

/-! ### Coding -/

theorem tableLoad_kept {s₀ : State} (s : State) (h : HostCmd) (b : Bytes) (hk : Kept s₀ s) : Kept s₀ (tableLoad s h b) := by
  have hc := fun st d r => State.complete_kept s h st d r hk
  unfold tableLoad
  extract_lets +onlyGivenNames id role cur qs ls tag slots clash busy current
  have hcur : Kept s₀ (current s) := by
    unfold current
    split
    · exact Kept.foldl (fun t a ht => State.updPcd_kept _ _ _ ht) hk
    · exact hk
  clear_value clash busy current
  split
  · exact hc ..
  · split
    · exact hc ..
    · split
      · exact hc ..
      · split
        · exact hc ..
        · split
          · exact State.complete_kept _ _ _ _ _ hcur
          · dsimp only
            refine (Kept.foldl (fun t a ht => ?_) (State.fresh_kept s hk) : Kept s₀ (List.foldl _ _ _))
            split
            · exact ht
            · exact State.updPcd_kept _ _ _ ht

theorem execTableLoad_kept {s₀ : State} (h : HostCmd) (body : Bytes) (s : State) (hk : Kept s₀ s) :
    OutKept s₀ (execTableLoad h body s) := by
  unfold execTableLoad
  repeat' first
    | with_reducible first
      | assumption | intro v | apply State.complete_kept | apply State.take_kept | apply tableLoad_kept | apply Kept.ite
      | apply OutKept.next
    | (extract_lets +onlyGivenNames x
       first
       | (refine Kept.cut (s₀ := s₀) x ?_ ?_; (on_goal 2 => intro hx; clear_value x); (on_goal 1 => unfold x)))
    | split

theorem tableLoadComplete_kept {s₀ : State} (s : State) (id : Nat) (hk : Kept s₀ s) : Kept s₀ (tableLoadComplete s id) := by
  unfold tableLoadComplete
  repeat' first
    | with_reducible first
      | assumption | intro v | apply State.complete_kept | apply State.updPcd_kept | apply Kept.foldl | apply Kept.ite
    | split
    | assumption

theorem execTableLoadComplete_kept {s₀ : State} (loadId : Nat) (s : State) (hk : Kept s₀ s) :
    OutKept s₀ (execTableLoadComplete loadId s) := by
  unfold execTableLoadComplete
  apply OutKept.next
  with_reducible apply tableLoadComplete_kept
  exact hk

theorem tableRelease_kept {s₀ : State} (s : State) (h : HostCmd) (b : Bytes) (hk : Kept s₀ s) :
    Kept s₀ (tableRelease s h b) := by
  unfold tableRelease
  repeat' first
    | with_reducible first
      | assumption | intro v | apply State.complete_kept | apply State.updPcd_kept | apply Kept.foldl | apply Kept.ite

theorem execTableRelease_kept {s₀ : State} (h : HostCmd) (body : Bytes) (s : State) (hk : Kept s₀ s) :
    OutKept s₀ (execTableRelease h body s) := by
  unfold execTableRelease
  repeat' first
    | with_reducible first
      | assumption | intro v | apply State.complete_kept | apply State.take_kept | apply tableRelease_kept | apply Kept.ite
      | apply OutKept.next
    | (extract_lets +onlyGivenNames x
       first
       | (refine Kept.cut (s₀ := s₀) x ?_ ?_; (on_goal 2 => intro hx; clear_value x); (on_goal 1 => unfold x)))
    | split

theorem State.updCoder_kept {s₀ : State} (s : State) (q c : Nat) (f : Coder → Coder) (hk : Kept s₀ s) :
    Kept s₀ (State.updCoder s q c f) := by
  unfold State.updCoder
  exact hk

theorem State.noteSkip_kept {s₀ : State} (s : State) (q c : Nat) (hk : Kept s₀ s) : Kept s₀ (State.noteSkip s q c) := by
  unfold State.noteSkip
  repeat' first
    | with_reducible first
      | assumption | apply State.updCoder_kept | apply State.updPcd_kept | apply Kept.ite

theorem State.holdPage_kept {s₀ : State} (s : State) (q c : Nat) (hdr units : Bytes) (kLen : Nat) (tables : List Nat) (coded asked : Bool) (hk : Kept s₀ s) :
    Kept s₀ (State.holdPage s q c hdr units kLen tables coded asked) := by
  unfold State.holdPage
  exact hk

theorem State.formPage_kept {s₀ : State} (s : State) (q c : Nat) (sh : Shape) (hdr plain : Bytes) (sweep : Bool) (hk : Kept s₀ s) :
    Kept s₀ (State.formPage s q c sh hdr plain sweep).2 := by
  unfold State.formPage
  repeat' first
    | with_reducible first
      | assumption | intro v | apply State.count_kept | apply State.holdPage_kept | apply State.take_kept | apply Kept.ite
    | (extract_lets +onlyGivenNames x
       first
       | (refine Kept.cut (s₀ := s₀) x ?_ ?_; (on_goal 2 => intro hx; clear_value x); (on_goal 1 => unfold x))
       | skip)
    | split

theorem State.takePage_kept {s₀ : State} (s : State) (q c key frame page : Nat) (sh : Shape) (hdr : Bytes) (h : PageHdr) (plain : Bytes) (sweep : Bool) (hk : Kept s₀ s) :
    Kept s₀ (State.takePage s q c key frame page sh hdr h plain sweep).2 := by
  unfold State.takePage
  repeat' first
    | with_reducible first
      | assumption | intro v | apply State.count_kept | apply State.formPage_kept | apply State.holdPage_kept
      | apply State.noteSkip_kept | apply State.postAssist_kept | apply Kept.ite
    | (extract_lets +onlyGivenNames x
       first
       | (refine Kept.cut (s₀ := s₀) x ?_ ?_; (on_goal 2 => intro hx; clear_value x); (on_goal 1 => unfold x))
       | skip)
    | split

theorem State.codePage_kept {s₀ : State} (s : State) (q c key : Nat) (fr : FrameRef) (frame page : Nat) (sh : Shape) (sweep : Option Nat) (hk : Kept s₀ s) :
    Kept s₀ (State.codePage s q c key fr frame page sh sweep).2 := by
  unfold State.codePage
  repeat' first
    | with_reducible first
      | assumption | intro v | apply State.count_kept | apply State.holdPage_kept | apply State.noteSkip_kept
      | apply State.pageFailed_kept | apply State.postUnit_kept | apply State.take_kept | apply State.takePage_kept
      | apply Kept.ite
    | (extract_lets +onlyGivenNames x
       first
       | (refine Kept.cut (s₀ := s₀) x ?_ ?_; (on_goal 2 => intro hx; clear_value x); (on_goal 1 => unfold x))
       | (refine Kept.cut2 (s₀ := s₀) x ?_ ?_; (on_goal 2 => intro hx; clear_value x); (on_goal 1 => unfold x))
       | (refine Kept.cutf (s₀ := s₀) x ?_ ?_; (on_goal 2 => intro hf; clear_value x); (on_goal 1 => unfold x))
       | (refine Kept.cutg (s₀ := s₀) x ?_ ?_; (on_goal 2 => intro hf; clear_value x); (on_goal 1 => unfold x))
       | (refine Kept.cutr (s₀ := s₀) x ?_ ?_; (on_goal 2 => intro hf; clear_value x); (on_goal 1 => unfold x))
       | skip)
    | with_reducible apply hf
    | split
    | assumption
    | with_reducible refine Kept.ofEq (by assumption) ?_
    | with_reducible refine OptKept.of (by assumption) ?_

theorem State.nextSweep_kept {s₀ : State} (s : State) (q c : Nat) (hk : Kept s₀ s) : Kept s₀ (State.nextSweep s q c) := by
  unfold State.nextSweep
  repeat' first
    | with_reducible first
      | assumption | apply State.updCoder_kept | apply State.updPcd_kept | apply Kept.ite
    | split

theorem State.endPass_kept {s₀ : State} (s : State) (q c key : Nat) (hk : Kept s₀ s) :
    Kept s₀ (State.endPass s q c key) := by
  unfold State.endPass
  repeat' first
    | with_reducible first
      | assumption | apply State.leaveCoding_kept | apply State.setEntry_kept | apply State.updCoder_kept

theorem State.stopPass_kept {s₀ : State} (s : State) (q c key ls addr : Nat) (hk : Kept s₀ s) :
    Kept s₀ (State.stopPass s q c key ls addr) := by
  unfold State.stopPass
  exact hk

theorem coderRun_kept {s₀ : State} (n : Nat) (s : State) (q c : Nat) (hk : Kept s₀ s) : Kept s₀ (coderRun n s q c) := by
  induction n generalizing s with
  | zero => exact hk
  | succ n ih =>
    unfold coderRun
    dsimp only
    split
    · exact hk
    · split
      · split
        · split
          · exact ih _ (State.nextSweep_kept _ _ _ hk)
          · exact State.nextSweep_kept _ _ _ hk
        · exact hk
      · split
        · split
          · exact ih _ (State.nextSweep_kept _ _ _ hk)
          · exact State.updCoder_kept _ _ _ _ hk
        · split
          · split
            · exact ih _ (State.nextSweep_kept _ _ _ hk)
            · exact State.endPass_kept _ _ _ _ hk
          · split
            · exact ih _ (State.updCoder_kept _ _ _ _ hk)
            · have h := fun a b d e f g => State.codePage_kept (s₀ := s₀) s q c a b d e f g hk
              split
              · exact ih _ (State.updCoder_kept _ _ _ _ (Kept.ofEq ‹_› (h ..)))
              · have h2 := Kept.ofEq ‹_› (h ..)
                split
                · exact h2
                · exact State.stopPass_kept _ _ _ _ _ _ h2
              · exact Kept.ofEq ‹_› (h ..)

theorem State.runCoder_kept {s₀ : State} (s : State) (q c : Nat) (hk : Kept s₀ s) : Kept s₀ (State.runCoder s q c) := by
  unfold State.runCoder
  repeat' first
    | with_reducible first
      | assumption | apply coderRun_kept

theorem State.dropPage_kept {s₀ : State} (s : State) (q c : Nat) (again : Bool) (hk : Kept s₀ s) :
    Kept s₀ (State.dropPage s q c again) := by
  unfold State.dropPage
  repeat' first
    | with_reducible first
      | assumption | apply State.runCoder_kept | apply State.updCoder_kept

theorem coderStart_kept {s₀ : State} (s : State) (q c : Nat) (hk : Kept s₀ s) : Kept s₀ (coderStart s q c) := by
  unfold coderStart
  repeat' first
    | with_reducible first
      | assumption | apply State.applyAt_kept | apply State.runCoder_kept | apply State.updCoder_kept | apply Kept.ite
    | split

theorem execCoderStart_kept {s₀ : State} (q : Fin 4) (coder : Fin 2) (s : State) (hk : Kept s₀ s) :
    OutKept s₀ (execCoderStart q coder s) := by
  unfold execCoderStart
  apply OutKept.next
  with_reducible apply coderStart_kept
  exact hk

theorem State.commitPage_kept {s₀ : State} (s : State) (q key : Nat) (C : Coder) (e : DirEntry) (fr : FrameRef) (sh : Shape) (b units : Bytes) (coded : Bool) (kLen : Nat) (hk : Kept s₀ s) :
    Kept s₀ (State.commitPage s q key C e fr sh b units coded kLen) := by
  unfold State.commitPage
  repeat' first
    | with_reducible first
      | assumption | apply State.stackWrite_kept | apply Kept.ite
    | split

theorem coderPageCommit_kept {s₀ : State} (s : State) (q c : Nat) (mismatch : Bool) (hk : Kept s₀ s) :
    Kept s₀ (coderPageCommit s q c mismatch) := by
  unfold coderPageCommit
  repeat' first
    | with_reducible first
      | assumption | intro v | apply State.commitPage_kept | apply State.count_kept | apply State.dropPage_kept
      | apply State.postFor_kept | apply State.runCoder_kept | apply State.stopPass_kept | apply State.take_kept
      | apply Kept.ite
    | (extract_lets +onlyGivenNames x
       first
       | (refine Kept.cut (s₀ := s₀) x ?_ ?_; (on_goal 2 => intro hx; clear_value x); (on_goal 1 => unfold x))
       | skip)
    | split

theorem execCoderPageCommit_kept {s₀ : State} (q : Fin 4) (coder : Fin 2) (mismatch : Bool) (s : State) (hk : Kept s₀ s) :
    OutKept s₀ (execCoderPageCommit q coder mismatch s) := by
  unfold execCoderPageCommit
  apply OutKept.next
  with_reducible apply coderPageCommit_kept
  exact hk

theorem coderUnits_kept {s₀ : State} (s : State) (q c : Nat) (answer : Option Bytes) (hk : Kept s₀ s) :
    Kept s₀ (coderUnits s q c answer) := by
  unfold coderUnits
  repeat' first
    | with_reducible first
      | assumption | intro v | apply State.answer_kept | apply State.count_kept | apply State.dropPage_kept
      | apply State.holdPage_kept | apply State.noteSkip_kept | apply State.take_kept | apply Kept.ite
    | (extract_lets +onlyGivenNames x
       first
       | (refine Kept.cut (s₀ := s₀) x ?_ ?_; (on_goal 2 => intro hx; clear_value x); (on_goal 1 => unfold x))
       | skip)
    | split

theorem coderPlain_kept {s₀ : State} (s : State) (q c : Nat) (regions : Option Bytes) (hk : Kept s₀ s) :
    Kept s₀ (coderPlain s q c regions) := by
  unfold coderPlain
  repeat' first
    | with_reducible first
      | assumption | intro v | apply State.dropPage_kept | apply State.noteSkip_kept | apply State.take_kept
      | apply State.takePage_kept | apply Kept.ite
    | (extract_lets +onlyGivenNames x
       first
       | (refine Kept.cut (s₀ := s₀) x ?_ ?_; (on_goal 2 => intro hx; clear_value x); (on_goal 1 => unfold x))
       | (refine Kept.cut2 (s₀ := s₀) x ?_ ?_; (on_goal 2 => intro hx; clear_value x); (on_goal 1 => unfold x))
       | skip)
    | split
    | assumption
    | with_reducible refine Kept.ofEq (by assumption) ?_

theorem State.sweepDone_kept {s₀ : State} (s : State) (q : Nat) (hk : Kept s₀ s) : Kept s₀ (State.sweepDone s q) := by
  unfold State.sweepDone
  repeat' first
    | with_reducible first
      | assumption | apply State.updPcd_kept | apply Kept.ite
    | split

theorem recodeStart_kept {s₀ : State} (s : State) (q value : Nat) (hk : Kept s₀ s) : Kept s₀ (recodeStart s q value) := by
  unfold recodeStart
  repeat' first
    | with_reducible first
      | assumption | apply State.count_kept | apply State.setReg_kept | apply State.sweepDone_kept | apply State.updPcd_kept
      | apply Kept.ite

theorem execRecodeSweepStart_kept {s₀ : State} (q : Fin 4) (value : Word) (s : State) (hk : Kept s₀ s) :
    OutKept s₀ (execRecodeSweepStart q value s) := by
  unfold execRecodeSweepStart
  repeat' first
    | with_reducible first
      | assumption | apply State.accError_kept | apply State.count_kept | apply recodeStart_kept | apply Kept.ite
      | apply OutKept.next

theorem execRecodeSweepEnd_kept {s₀ : State} (q : Fin 4) (s : State) (hk : Kept s₀ s) :
    OutKept s₀ (execRecodeSweepEnd q s) := by
  unfold execRecodeSweepEnd
  repeat' first
    | with_reducible first
      | assumption | apply State.sweepDone_kept | apply Kept.ite | apply OutKept.next

/-! ### Engines -/

theorem State.reseatSend_kept {s₀ : State} (s : State) (q tk : Nat) (d : Dma) (hk : Kept s₀ s) :
    Kept s₀ (State.reseatSend s q tk d) := by
  unfold State.reseatSend
  repeat' first
    | with_reducible first
      | assumption | intro v | apply State.count_kept | apply State.hand_kept | apply State.reseatLost_kept | apply Kept.ite
    | (extract_lets +onlyGivenNames x
       first
       | (refine Kept.cut (s₀ := s₀) x ?_ ?_; (on_goal 2 => intro hx; clear_value x); (on_goal 1 => unfold x)))
    | split

theorem State.dmaEndWith_kept {s₀ : State} (s : State) (q : Nat) (d : Dma) (status : Nat) (hk : Kept s₀ s) :
    Kept s₀ (State.dmaEndWith s q d status) := by
  unfold State.dmaEndWith
  repeat' first
    | with_reducible first
      | assumption | intro v | apply State.dmaAnswer_kept | apply State.dmaFail_kept | apply State.reseatEnd_kept
      | apply Kept.ite
    | (extract_lets +onlyGivenNames x
       first
       | (refine Kept.cut (s₀ := s₀) x ?_ ?_; (on_goal 2 => intro hx; clear_value x); (on_goal 1 => unfold x)))
    | split

theorem State.anyMove_kept {s₀ : State} (s : State) (q : Nat) (d : Dma) (lo hi : Nat) (hk : Kept s₀ s) :
    Kept s₀ (State.anyMove s q d lo hi) := by
  unfold State.anyMove
  repeat' first
    | with_reducible first
      | assumption | apply State.dmaMove_kept | apply Kept.ite
    | split

theorem State.stopAt_kept {s₀ : State} (s : State) (q e : Nat) (d : Dma) (lo : Nat) (x : DmaStop) (hk : Kept s₀ s) :
    Kept s₀ (State.stopAt s q e d lo x) := by
  unfold State.stopAt
  repeat' first
    | with_reducible first
      | assumption | apply State.anyMove_kept | apply State.dmaEndWith_kept | apply State.engStop_kept
      | apply State.freeEng_kept | apply Kept.ite

theorem dmaTransferEnd_kept {s₀ : State} (s : State) (q e : Nat) (hk : Kept s₀ s) : Kept s₀ (dmaTransferEnd s q e) := by
  unfold dmaTransferEnd
  repeat' first
    | with_reducible first
      | assumption | intro v | apply State.anyMove_kept | apply State.dmaDone_kept | apply State.freeEng_kept
      | apply State.reseatSend_kept | apply State.stopAt_kept | apply Kept.ite
    | (extract_lets +onlyGivenNames x
       first
       | (refine Kept.cut (s₀ := s₀) x ?_ ?_; (on_goal 2 => intro hx; clear_value x); (on_goal 1 => unfold x))
       | skip)
    | split

theorem execDmaTransferEnd_kept {s₀ : State} (q e : Fin 4) (s : State) (hk : Kept s₀ s) :
    OutKept s₀ (execDmaTransferEnd q e s) := by
  unfold execDmaTransferEnd
  repeat' first
    | with_reducible first
      | assumption | intro v | apply dmaTransferEnd_kept | apply settle_kept | apply Kept.ite | apply OutKept.next
      | exact OutKept.fault
    | (extract_lets +onlyGivenNames x
       first
       | (refine Kept.cut (s₀ := s₀) x ?_ ?_; (on_goal 2 => intro hx; clear_value x); (on_goal 1 => unfold x))
       | skip)
    | split

theorem dmaFault_kept {s₀ : State} (s : State) (q e cls off : Nat) (dst : Bool) (addr : Nat) (hk : Kept s₀ s) :
    Kept s₀ (dmaFault s q e cls off dst addr) := by
  unfold dmaFault
  repeat' first
    | with_reducible first
      | assumption | intro v | apply State.stopAt_kept | apply Kept.ite
    | (extract_lets +onlyGivenNames x
       first
       | (refine Kept.cut (s₀ := s₀) x ?_ ?_; (on_goal 2 => intro hx; clear_value x); (on_goal 1 => unfold x))
       | skip)
    | split

theorem execDmaFault_kept {s₀ : State} (q e : Fin 4) (cls offset : Nat) (dst : Bool) (addr : Nat) (s : State) (hk : Kept s₀ s) :
    OutKept s₀ (execDmaFault q e cls offset dst addr s) := by
  unfold execDmaFault
  repeat' first
    | with_reducible first
      | assumption | apply dmaFault_kept | apply settle_kept | apply Kept.ite | apply OutKept.next

theorem dmaAbort_kept {s₀ : State} (s : State) (h : HostCmd) (q e tag : Nat) (hk : Kept s₀ s) :
    Kept s₀ (dmaAbort s h q e tag) := by
  unfold dmaAbort
  repeat' first
    | with_reducible first
      | assumption | apply State.complete_kept | apply State.dmaEndWith_kept | apply State.freeEng_kept | apply Kept.ite
    | split

theorem execDmaAbort_kept {s₀ : State} (h : HostCmd) (q e : Fin 4) (tag : Nat) (s : State) (hk : Kept s₀ s) :
    OutKept s₀ (execDmaAbort h q e tag s) := by
  unfold execDmaAbort
  repeat' first
    | with_reducible first
      | assumption | intro v | apply State.complete_kept | apply State.take_kept | apply dmaAbort_kept | apply settle_kept
      | apply Kept.ite | apply OutKept.next
    | (extract_lets +onlyGivenNames x
       first
       | (refine Kept.cut (s₀ := s₀) x ?_ ?_; (on_goal 2 => intro hx; clear_value x); (on_goal 1 => unfold x))
       | skip)
    | split

theorem State.drainEntry_kept {s₀ : State} (s : State) (q : Nat) (e : CacheEntry) (hk : Kept s₀ s) :
    Kept s₀ (State.drainEntry s q e) := by
  unfold State.drainEntry
  repeat' first
    | with_reducible first
      | assumption | apply State.updStore_kept | apply State.writeSlot_kept | apply Kept.ite
    | split

theorem State.drainWriteback_kept {s₀ : State} (s : State) (q : Nat) (hk : Kept s₀ s) :
    Kept s₀ (State.drainWriteback s q) := by
  unfold State.drainWriteback
  repeat' first
    | with_reducible first
      | assumption | intro v | apply State.drainEntry_kept | apply Kept.foldl

theorem State.wakeEngine_kept {s₀ : State} (s : State) (q e : Nat) (hk : Kept s₀ s) : Kept s₀ (State.wakeEngine s q e) := by
  unfold State.wakeEngine
  repeat' first
    | with_reducible first
      | assumption | intro v | apply State.dmaEndWith_kept | apply State.freeEng_kept | apply State.resumeEng_kept
      | apply Kept.ite
    | (extract_lets +onlyGivenNames x
       first
       | (refine Kept.cut (s₀ := s₀) x ?_ ?_; (on_goal 2 => intro hx; clear_value x); (on_goal 1 => unfold x))
       | skip)
    | split

theorem notReadyEnd_kept {s₀ : State} (s : State) (q : Nat) (hk : Kept s₀ s) : Kept s₀ (notReadyEnd s q) := by
  unfold notReadyEnd
  repeat' first
    | with_reducible first
      | assumption | intro v | apply State.drainWriteback_kept | apply State.recheckWaiting_kept | apply State.updPcd_kept
      | apply State.wakeEngine_kept | apply State.wakeJobs_kept | apply Kept.foldl

theorem execNotReadyEnd_kept {s₀ : State} (q : Fin 4) (s : State) (hk : Kept s₀ s) : OutKept s₀ (execNotReadyEnd q s) := by
  unfold execNotReadyEnd
  repeat' first
    | with_reducible first
      | assumption | apply notReadyEnd_kept | apply settle_kept | apply Kept.ite | apply OutKept.next

theorem hsmPut_kept {s₀ : State} (s : State) (q : Nat) (hk : Kept s₀ s) : Kept s₀ (hsmPut s q) := by
  unfold hsmPut
  exact hk

theorem hsmGet_kept {s₀ : State} (s : State) (q : Nat) (hk : Kept s₀ s) : Kept s₀ (hsmGet s q) := by
  unfold hsmGet
  exact hk

theorem execHsmWrite_kept {s₀ : State} (q : Fin 4) (s : State) (hk : Kept s₀ s) : OutKept s₀ (execHsmWrite q s) := by
  unfold execHsmWrite
  repeat' first
    | with_reducible first
      | assumption | apply State.offWrite_kept | apply hsmPut_kept | apply Kept.ite | apply OutKept.next

theorem execHsmRead_kept {s₀ : State} (q : Fin 4) (s : State) (hk : Kept s₀ s) : OutKept s₀ (execHsmRead q s) := by
  unfold execHsmRead
  repeat' first
    | with_reducible first
      | assumption | apply State.offWrite_kept | apply hsmGet_kept | apply Kept.ite | apply OutKept.next

/-! ### Tenants -/

theorem State.tenantState_kept {s₀ : State} (s : State) (t : Nat) (hk : Kept s₀ s) : Kept s₀ (State.tenantState s t) := by
  unfold State.tenantState
  exact hk

theorem State.tenantMoved_kept {s₀ : State} (s : State) (t : Nat) (hk : Kept s₀ s) : Kept s₀ (State.tenantMoved s t) := by
  unfold State.tenantMoved
  exact hk

theorem shapeDefine_kept {s₀ : State} (s : State) (t : Nat) (b : Bytes) (hk : Kept s₀ s) :
    Kept s₀ (shapeDefine s t b).2 := by
  unfold shapeDefine
  repeat' first
    | with_reducible first
      | assumption | intro v | apply Kept.ite
    | (extract_lets +onlyGivenNames x
       first
       | (refine Kept.cut (s₀ := s₀) x ?_ ?_; (on_goal 2 => intro hx; clear_value x); (on_goal 1 => unfold x))
       | skip)
    | split
    | assumption

theorem execShapeDefine_kept {s₀ : State} (h : HostCmd) (body : Bytes) (s : State) (hk : Kept s₀ s) :
    OutKept s₀ (execShapeDefine h body s) := by
  unfold execShapeDefine
  repeat' first
    | with_reducible first
      | assumption | intro v | apply State.complete_kept | apply State.take_kept | apply shapeDefine_kept | apply Kept.ite
      | apply OutKept.next
    | (extract_lets +onlyGivenNames x
       first
       | (refine Kept.cut (s₀ := s₀) x ?_ ?_; (on_goal 2 => intro hx; clear_value x); (on_goal 1 => unfold x))
       | skip)
    | split

theorem mapSet_kept {s₀ : State} (s : State) (t conv : Nat) (b : Bytes) (hk : Kept s₀ s) :
    Kept s₀ (mapSet s t conv b).2 := by
  unfold mapSet
  repeat' first
    | with_reducible first
      | assumption | intro v | apply State.count_kept | apply State.dropMaps_kept | apply State.updQ_kept | apply Kept.ite
    | (extract_lets +onlyGivenNames x
       first
       | (refine Kept.cut (s₀ := s₀) x ?_ ?_; (on_goal 2 => intro hx; clear_value x); (on_goal 1 => unfold x))
       | skip)
    | split

theorem execMapSet_kept {s₀ : State} (h : HostCmd) (conv : Nat) (body : Bytes) (s : State) (hk : Kept s₀ s) :
    OutKept s₀ (execMapSet h conv body s) := by
  unfold execMapSet
  repeat' first
    | with_reducible first
      | assumption | intro v | apply State.complete_kept | apply State.take_kept | apply mapSet_kept | apply Kept.ite
      | apply OutKept.next
    | (extract_lets +onlyGivenNames x
       first
       | (refine Kept.cut (s₀ := s₀) x ?_ ?_; (on_goal 2 => intro hx; clear_value x); (on_goal 1 => unfold x))
       | skip)
    | split

theorem tenantCreate_kept {s₀ : State} (s : State) (b : Bytes) (hk : Kept s₀ s) : Kept s₀ (tenantCreate s b).2 := by
  unfold tenantCreate
  repeat' first
    | with_reducible first
      | assumption | intro v | apply State.count_kept | apply State.tenantMoved_kept | apply State.updTenant_kept
      | apply Kept.ite
    | (extract_lets +onlyGivenNames x
       first
       | (refine Kept.cut (s₀ := s₀) x ?_ ?_; (on_goal 2 => intro hx; clear_value x); (on_goal 1 => unfold x))
       | skip)
    | split

theorem execTenantCreate_kept {s₀ : State} (h : HostCmd) (body : Bytes) (s : State) (hk : Kept s₀ s) :
    OutKept s₀ (execTenantCreate h body s) := by
  unfold execTenantCreate
  repeat' first
    | with_reducible first
      | assumption | intro v | apply State.complete_kept | apply State.take_kept | apply tenantCreate_kept | apply Kept.ite
      | apply OutKept.next
    | (extract_lets +onlyGivenNames x
       first
       | (refine Kept.cut (s₀ := s₀) x ?_ ?_; (on_goal 2 => intro hx; clear_value x); (on_goal 1 => unfold x))
       | skip)
    | split

theorem rotatePageKey_kept {s₀ : State} (s : State) (b : Bytes) (hk : Kept s₀ s) : Kept s₀ (rotatePageKey s b).2 := by
  unfold rotatePageKey
  repeat' first
    | with_reducible first
      | assumption | intro v | apply State.count_kept | apply State.tenantState_kept | apply State.updTenant_kept
      | apply Kept.ite
    | (extract_lets +onlyGivenNames x
       first
       | (refine Kept.cut (s₀ := s₀) x ?_ ?_; (on_goal 2 => intro hx; clear_value x); (on_goal 1 => unfold x))
       | skip)
    | split

theorem execKeyRotatePageKey_kept {s₀ : State} (h : HostCmd) (body : Bytes) (s : State) (hk : Kept s₀ s) :
    OutKept s₀ (execKeyRotatePageKey h body s) := by
  unfold execKeyRotatePageKey
  repeat' first
    | with_reducible first
      | assumption | intro v | apply State.complete_kept | apply State.take_kept | apply rotatePageKey_kept | apply Kept.ite
      | apply OutKept.next
    | (extract_lets +onlyGivenNames x
       first
       | (refine Kept.cut (s₀ := s₀) x ?_ ?_; (on_goal 2 => intro hx; clear_value x); (on_goal 1 => unfold x))
       | skip)
    | split

theorem rotateWire_kept {s₀ : State} (s : State) (b : Bytes) (hk : Kept s₀ s) : Kept s₀ (rotateWire s b).2 := by
  unfold rotateWire
  repeat' first
    | with_reducible first
      | assumption | intro v | apply State.updXpt_kept | apply Kept.foldl | apply Kept.ite
    | (extract_lets +onlyGivenNames x
       first
       | (refine Kept.cut (s₀ := s₀) x ?_ ?_; (on_goal 2 => intro hx; clear_value x); (on_goal 1 => unfold x))
       | skip)
    | split

theorem execKeyRotateWireEpoch_kept {s₀ : State} (h : HostCmd) (body : Bytes) (s : State) (hk : Kept s₀ s) :
    OutKept s₀ (execKeyRotateWireEpoch h body s) := by
  unfold execKeyRotateWireEpoch
  repeat' first
    | with_reducible first
      | assumption | intro v | apply State.complete_kept | apply State.take_kept | apply rotateWire_kept | apply Kept.ite
      | apply OutKept.next
    | (extract_lets +onlyGivenNames x
       first
       | (refine Kept.cut (s₀ := s₀) x ?_ ?_; (on_goal 2 => intro hx; clear_value x); (on_goal 1 => unfold x))
       | skip)
    | split

theorem State.sweepSkip_kept {s₀ : State} (s : State) (t : Nat) (x : Nat × Nat × Nat × Nat) (again : Bool) (hk : Kept s₀ s) :
    Kept s₀ (State.sweepSkip s t x again) := by
  unfold State.sweepSkip
  repeat' first
    | with_reducible first
      | assumption | apply State.postTenant_kept | apply State.updTenant_kept | apply Kept.ite

theorem keySweepPage_kept {s₀ : State} (s : State) (t q key frame page : Nat) (hk : Kept s₀ s) :
    Kept s₀ (keySweepPage s t q key frame page) := by
  unfold keySweepPage
  repeat' first
    | with_reducible first
      | assumption | intro v | apply State.count_kept | apply State.hostWrite_kept | apply State.stackWrite_kept
      | apply State.sweepSkip_kept | apply State.updTenant_kept | apply Kept.ite
    | (extract_lets +onlyGivenNames x
       first
       | (refine Kept.cut (s₀ := s₀) x ?_ ?_; (on_goal 2 => intro hx; clear_value x); (on_goal 1 => unfold x))
       | skip)
    | split

theorem execKeySweepPage_kept {s₀ : State} (tenant : Fin 64) (q : Fin 4) (key frame page : Nat) (s : State) (hk : Kept s₀ s) :
    OutKept s₀ (execKeySweepPage tenant q key frame page s) := by
  unfold execKeySweepPage
  apply OutKept.next
  with_reducible apply keySweepPage_kept
  exact hk

theorem keyGenRetire_kept {s₀ : State} (s : State) (t : Nat) (hk : Kept s₀ s) : Kept s₀ (keyGenRetire s t) := by
  unfold keyGenRetire
  repeat' first
    | with_reducible first
      | assumption | apply State.postTenant_kept | apply State.tenantState_kept | apply State.updTenant_kept | apply Kept.ite

theorem execKeyGenRetire_kept {s₀ : State} (tenant : Fin 64) (s : State) (hk : Kept s₀ s) :
    OutKept s₀ (execKeyGenRetire tenant s) := by
  unfold execKeyGenRetire
  apply OutKept.next
  with_reducible apply keyGenRetire_kept
  exact hk

theorem State.dropTenantAssists_kept {s₀ : State} (s : State) (t : Nat) (hk : Kept s₀ s) :
    Kept s₀ (State.dropTenantAssists s t) := by
  unfold State.dropTenantAssists
  exact hk

theorem State.endTicket_kept {s₀ : State} (s : State) (tk status : Nat) (hk : Kept s₀ s) :
    Kept s₀ (State.endTicket s tk status) := by
  unfold State.endTicket
  repeat' first
    | with_reducible first
      | assumption | apply State.closeReq_kept | apply State.finish_kept | apply State.unpark_kept | apply State.updStore_kept
      | apply Kept.ite
    | split

theorem State.endReseat_kept {s₀ : State} (s : State) (id status : Nat) (hk : Kept s₀ s) :
    Kept s₀ (State.endReseat s id status) := by
  unfold State.endReseat
  repeat' first
    | with_reducible first
      | assumption | apply State.dropIncoming_kept | apply State.reseatEnd_kept | apply Kept.ite
    | split

theorem State.endEngine_kept {s₀ : State} (s : State) (q t e : Nat) (hk : Kept s₀ s) :
    Kept s₀ (State.endEngine s q t e) := by
  unfold State.endEngine
  repeat' first
    | with_reducible first
      | assumption | intro v | apply State.anyMove_kept | apply State.dmaEndWith_kept | apply State.drawFree_kept
      | apply State.freeEng_kept | apply Kept.ite
    | (extract_lets +onlyGivenNames x
       first
       | (refine Kept.cut (s₀ := s₀) x ?_ ?_; (on_goal 2 => intro hx; clear_value x); (on_goal 1 => unfold x))
       | skip)
    | split

theorem State.endDma_kept {s₀ : State} (s : State) (q t : Nat) (hk : Kept s₀ s) : Kept s₀ (State.endDma s q t) := by
  unfold State.endDma
  repeat' first
    | with_reducible first
      | assumption | intro v | apply State.dmaEndWith_kept | apply State.endEngine_kept | apply State.updStore_kept
      | apply Kept.foldl

theorem State.endPages_kept {s₀ : State} (s : State) (q t : Nat) (hk : Kept s₀ s) : Kept s₀ (State.endPages s q t) := by
  unfold State.endPages
  exact hk

theorem State.endConn_kept {s₀ : State} (s : State) (i : Nat) (hk : Kept s₀ s) : Kept s₀ (State.endConn s i) := by
  unfold State.endConn
  repeat' first
    | with_reducible first
      | assumption | apply State.connError_kept | apply State.sendHello_kept | apply Kept.ite

theorem drainStart_kept {s₀ : State} (s : State) (t : Nat) (hk : Kept s₀ s) : Kept s₀ (drainStart s t) := by
  unfold drainStart
  repeat' first
    | with_reducible first
      | assumption | intro v | apply State.dropTenantAssists_kept | apply State.endConn_kept | apply State.endDma_kept
      | apply State.endPages_kept | apply State.endReseat_kept | apply State.endTicket_kept | apply State.tenantMoved_kept
      | apply State.updPort_kept | apply State.updTenant_kept | apply State.updXpt_kept | apply Kept.foldl

theorem tenantDrain_kept {s₀ : State} (s : State) (h : HostCmd) (b : Bytes) (hk : Kept s₀ s) :
    Kept s₀ (tenantDrain s h b) := by
  unfold tenantDrain
  repeat' first
    | with_reducible first
      | assumption | apply State.complete_kept | apply State.updTenant_kept | apply drainStart_kept | apply settle_kept
      | apply Kept.ite
    | split

theorem execTenantDrain_kept {s₀ : State} (h : HostCmd) (body : Bytes) (s : State) (hk : Kept s₀ s) :
    OutKept s₀ (execTenantDrain h body s) := by
  unfold execTenantDrain
  repeat' first
    | with_reducible first
      | assumption | intro v | apply State.complete_kept | apply State.take_kept | apply tenantDrain_kept | apply Kept.ite
      | apply OutKept.next
    | (extract_lets +onlyGivenNames x
       first
       | (refine Kept.cut (s₀ := s₀) x ?_ ?_; (on_goal 2 => intro hx; clear_value x); (on_goal 1 => unfold x)))
    | split

theorem State.scrubQuarter_kept {s₀ : State} (s : State) (q t : Nat) (hk : Kept s₀ s) :
    Kept s₀ (State.scrubQuarter s q t) := by
  unfold State.scrubQuarter
  repeat' first
    | with_reducible first
      | assumption | intro v | apply State.dirDel_kept | apply State.releaseSeg_kept | apply State.updQ_kept
      | apply Kept.foldl

theorem drainWorkEnded_kept {s₀ : State} (s : State) (t : Nat) (hk : Kept s₀ s) : Kept s₀ (drainWorkEnded s t) := by
  unfold drainWorkEnded
  split
  · exact hk
  · extract_lets +onlyGivenNames u v
    have hv : Kept s₀ v := Kept.foldl (fun t a ht => State.scrubQuarter_kept _ _ _ ht) (State.updTenant_kept _ _ _ hk)
    clear_value v
    refine State.tenantMoved_kept _ _ ?_
    exact hv

theorem execDrainWorkEnded_kept {s₀ : State} (tenant : Fin 64) (s : State) (hk : Kept s₀ s) :
    OutKept s₀ (execDrainWorkEnded tenant s) := by
  unfold execDrainWorkEnded
  apply OutKept.next
  with_reducible apply drainWorkEnded_kept
  exact hk

theorem drainScrubDone_kept {s₀ : State} (s : State) (t : Nat) (hk : Kept s₀ s) : Kept s₀ (drainScrubDone s t) := by
  unfold drainScrubDone
  repeat' first
    | with_reducible first
      | assumption | intro v | apply State.complete_kept | apply State.count_kept | apply State.postTenant_kept
      | apply State.tenantMoved_kept | apply State.updTenant_kept | apply Kept.foldl | apply Kept.ite

theorem execDrainScrubDone_kept {s₀ : State} (tenant : Fin 64) (s : State) (hk : Kept s₀ s) :
    OutKept s₀ (execDrainScrubDone tenant s) := by
  unfold execDrainScrubDone
  apply OutKept.next
  with_reducible apply drainScrubDone_kept
  exact hk

theorem attest_kept {s₀ : State} (s : State) (h : HostCmd) (nonce : Bytes) (hk : Kept s₀ s) :
    Kept s₀ (attest s h nonce) := by
  unfold attest
  repeat' first
    | with_reducible first
      | assumption | apply State.complete_kept | apply State.count_kept | apply Kept.ite

theorem execAttest_kept {s₀ : State} (h : HostCmd) (nonce : Bytes) (s : State) (hk : Kept s₀ s) :
    OutKept s₀ (execAttest h nonce s) := by
  unfold execAttest
  repeat' first
    | with_reducible first
      | assumption | intro v | apply State.complete_kept | apply State.take_kept | apply attest_kept | apply Kept.ite
      | apply OutKept.next
    | (extract_lets +onlyGivenNames x
       first
       | (refine Kept.cut (s₀ := s₀) x ?_ ?_; (on_goal 2 => intro hx; clear_value x); (on_goal 1 => unfold x)))
    | split

/-! ### Assist -/

theorem State.resumeOp_kept {s₀ : State} (s : State) (e : Inbound) (addrs : Option (List (Nat × Nat))) (hk : Kept s₀ s) :
    Kept s₀ (State.resumeOp s e addrs) := by
  unfold State.resumeOp
  repeat' first
    | with_reducible first
      | assumption | apply attendOp_kept | apply reseatOp_kept | apply segOp_kept | apply Kept.ite

theorem State.dirAnswer_kept {s₀ : State} (s : State) (q key : Nat) (a : HostAns) (hk : Kept s₀ s) :
    Kept s₀ (State.dirAnswer s q key a) := by
  unfold State.dirAnswer
  repeat' first
    | with_reducible first
      | assumption | apply State.dirDel_kept | apply State.dirPut_kept | apply Kept.ite
    | split

theorem State.foldExpanded_kept {s₀ : State} (s : State) (q : Nat) (j : Job) (r : Request) (f : JobFrame) (page : Nat) (h : PageHdr) (pay : Bytes) (hk : Kept s₀ s) :
    Kept s₀ (State.foldExpanded s q j r f page h pay) := by
  unfold State.foldExpanded
  repeat' first
    | with_reducible first
      | assumption | apply State.afterFold_kept | apply State.fillRead_kept | apply State.foldBlocks_kept | apply Kept.ite

theorem State.jobUnit_kept {s₀ : State} (s : State) (q id key frame page : Nat) (isV : Bool) (kPart : Bytes) (a : HostAns) (hk : Kept s₀ s) :
    Kept s₀ (State.jobUnit s q id key frame page isV kPart a) := by
  unfold State.jobUnit
  repeat' first
    | with_reducible first
      | assumption | intro v | apply State.afterFold_kept | apply State.foldExpanded_kept | apply State.pageFailed_kept
      | apply State.postUnit_kept | apply Kept.ite
    | (extract_lets +onlyGivenNames x
       first
       | (refine Kept.cutf (s₀ := s₀) x ?_ ?_; (on_goal 2 => intro hf; clear_value x); (on_goal 1 => unfold x))
       | (refine Kept.cutr (s₀ := s₀) x ?_ ?_; (on_goal 2 => intro hf; clear_value x); (on_goal 1 => unfold x))
       | skip)
    | with_reducible apply hf
    | split
    | assumption
    | with_reducible refine Kept.ofEq (by assumption) ?_
    | with_reducible refine OptKept.of (by assumption) ?_

theorem State.coderUnit_kept {s₀ : State} (s : State) (q c key frame page : Nat) (isV : Bool) (kPart : Bytes) (a : HostAns) (hk : Kept s₀ s) :
    Kept s₀ (State.coderUnit s q c key frame page isV kPart a) := by
  unfold State.coderUnit
  repeat' first
    | with_reducible first
      | assumption | intro v | apply State.postUnit_kept | apply coderPlain_kept | apply Kept.ite
    | (extract_lets +onlyGivenNames x
       first
       | (refine Kept.cut (s₀ := s₀) x ?_ ?_; (on_goal 2 => intro hx; clear_value x); (on_goal 1 => unfold x))
       | (refine Kept.cut2 (s₀ := s₀) x ?_ ?_; (on_goal 2 => intro hx; clear_value x); (on_goal 1 => unfold x))
       | (refine Kept.cutf (s₀ := s₀) x ?_ ?_; (on_goal 2 => intro hf; clear_value x); (on_goal 1 => unfold x))
       | (refine Kept.cutg (s₀ := s₀) x ?_ ?_; (on_goal 2 => intro hf; clear_value x); (on_goal 1 => unfold x))
       | (refine Kept.cutr (s₀ := s₀) x ?_ ?_; (on_goal 2 => intro hf; clear_value x); (on_goal 1 => unfold x))
       | skip)
    | with_reducible apply hf
    | split
    | assumption
    | with_reducible refine Kept.ofEq (by assumption) ?_
    | with_reducible refine OptKept.of (by assumption) ?_

theorem State.encodeAnswer_kept {s₀ : State} (s : State) (q c key frame page : Nat) (a : HostAns) (hk : Kept s₀ s) :
    Kept s₀ (State.encodeAnswer s q c key frame page a) := by
  unfold State.encodeAnswer
  repeat' first
    | with_reducible first
      | assumption | apply coderUnits_kept | apply Kept.ite

theorem State.clearWork_kept {s₀ : State} (s : State) (tk : Nat) (hk : Kept s₀ s) : Kept s₀ (State.clearWork s tk) := by
  unfold State.clearWork
  exact hk

theorem State.replyTo_kept {s₀ : State} (s : State) (t : Ticket) (status : Nat) (hk : Kept s₀ s) :
    Kept s₀ (State.replyTo s t status) := by
  unfold State.replyTo
  repeat' first
    | with_reducible first
      | assumption | apply State.answerOp_kept | apply Kept.ite

theorem State.endOrphan_kept {s₀ : State} (s : State) (id status : Nat) (silent : Bool) (hk : Kept s₀ s) :
    Kept s₀ (State.endOrphan s id status silent) := by
  unfold State.endOrphan
  repeat' first
    | with_reducible first
      | assumption | intro v | apply State.clearWork_kept | apply State.count_kept | apply State.freeTicket_kept
      | apply State.replyTo_kept | apply State.sweepHeld_kept | apply Kept.foldl | apply Kept.ite
    | split

theorem State.orphanAnswer_kept {s₀ : State} (s : State) (id : Nat) (a : HostAns) (hk : Kept s₀ s) :
    Kept s₀ (State.orphanAnswer s id a) := by
  unfold State.orphanAnswer
  repeat' first
    | with_reducible first
      | assumption | apply State.endOrphan_kept | apply Kept.ite
    | split

theorem State.assistDone_kept {s₀ : State} (s : State) (p : AssistFor) (a : HostAns) (hk : Kept s₀ s) :
    Kept s₀ (State.assistDone s p a) := by
  unfold State.assistDone
  repeat' first
    | with_reducible first
      | assumption | apply State.coderUnit_kept | apply State.dirAnswer_kept | apply State.encodeAnswer_kept
      | apply State.jobUnit_kept | apply State.mergeAnswer_kept | apply State.orphanAnswer_kept | apply State.resumeOp_kept
      | apply State.steerAnswer_kept | apply Kept.ite
    | split

theorem State.endAssist_kept {s₀ : State} (s : State) (tag : Nat) (hk : Kept s₀ s) : Kept s₀ (State.endAssist s tag) := by
  unfold State.endAssist
  exact hk

theorem assistReply_kept {s₀ : State} (s : State) (h : HostCmd) (b : Bytes) (hk : Kept s₀ s) :
    Kept s₀ (assistReply s h b) := by
  unfold assistReply
  repeat' first
    | with_reducible first
      | assumption | intro v | apply State.assistDone_kept | apply State.complete_kept | apply State.endAssist_kept
      | apply Kept.ite
    | (extract_lets +onlyGivenNames x
       first
       | (refine Kept.cut (s₀ := s₀) x ?_ ?_; (on_goal 2 => intro hx; clear_value x); (on_goal 1 => unfold x))
       | skip)
    | split

theorem execAssistReply_kept {s₀ : State} (h : HostCmd) (body : Bytes) (s : State) (hk : Kept s₀ s) :
    OutKept s₀ (execAssistReply h body s) := by
  unfold execAssistReply
  repeat' first
    | with_reducible first
      | assumption | intro v | apply State.complete_kept | apply State.take_kept | apply assistReply_kept | apply settle_kept
      | apply Kept.ite | apply OutKept.next
    | (extract_lets +onlyGivenNames x
       first
       | (refine Kept.cut (s₀ := s₀) x ?_ ?_; (on_goal 2 => intro hx; clear_value x); (on_goal 1 => unfold x)))
    | split

theorem State.assistOut_kept {s₀ : State} (s : State) (e : Assist) (hk : Kept s₀ s) : Kept s₀ (State.assistOut s e) := by
  unfold State.assistOut
  repeat' first
    | with_reducible first
      | assumption | apply State.assistDone_kept | apply State.count_kept | apply State.endAssist_kept

theorem execAssistTimeout_kept {s₀ : State} (tag : Nat) (s : State) (hk : Kept s₀ s) :
    OutKept s₀ (execAssistTimeout tag s) := by
  unfold execAssistTimeout
  repeat' first
    | with_reducible first
      | assumption | apply State.advance_kept | apply State.assistOut_kept | apply settle_kept | apply Kept.ite
      | apply OutKept.next
    | split

/-! ### Faults -/

theorem coreFault_kept {s₀ : State} (s : State) (q k : Nat) (hk : Kept s₀ s) : Kept s₀ (coreFault s q k) := by
  unfold coreFault
  extract_lets +onlyGivenNames c
  split
  · exact hk
  · extract_lets +onlyGivenNames ids lost u w
    have hw : Kept s₀ w := by
      refine Kept.foldl (fun t a ht => ?_) (State.updOne_kept _ _ _ _ hk)
      split
      · exact State.recut_kept _ _ _ ht
      · exact ht
    clear_value w
    exact State.checkMisses_kept _ (State.postFault_kept _ _ _ _ _ _ (State.coreBit_kept _ _ _ hw))

theorem execCoreFault_kept {s₀ : State} (core : Fin 32) (s : State) (hk : Kept s₀ s) :
    OutKept s₀ (execCoreFault core s) := by
  unfold execCoreFault
  apply OutKept.next
  with_reducible apply coreFault_kept
  exact hk

theorem coreTestStart_kept {s₀ : State} (s : State) (q v : Nat) (hk : Kept s₀ s) : Kept s₀ (coreTestStart s q v) := by
  unfold coreTestStart
  repeat' first
    | with_reducible first
      | assumption | apply State.setReg_kept | apply State.updCore_kept | apply State.updOne_kept | apply Kept.ite

theorem execCoreTestStart_kept {s₀ : State} (q : Fin 4) (value : Word) (s : State) (hk : Kept s₀ s) :
    OutKept s₀ (execCoreTestStart q value s) := by
  unfold execCoreTestStart
  repeat' first
    | with_reducible first
      | assumption | apply State.offWrite_kept | apply coreTestStart_kept | apply Kept.ite | apply OutKept.next

theorem coreTestDone_kept {s₀ : State} (s : State) (q : Nat) (pass : Bool) (hk : Kept s₀ s) :
    Kept s₀ (coreTestDone s q pass) := by
  unfold coreTestDone
  repeat' first
    | with_reducible first
      | assumption | apply State.updCore_kept | apply State.updOne_kept | apply Kept.ite
    | split

theorem execCoreTestDone_kept {s₀ : State} (q : Fin 4) (pass : Bool) (s : State) (hk : Kept s₀ s) :
    OutKept s₀ (execCoreTestDone q pass s) := by
  unfold execCoreTestDone
  apply OutKept.next
  with_reducible apply coreTestDone_kept
  exact hk

theorem execDirXlRestore_kept {s₀ : State} (q : Fin 4) (s : State) (hk : Kept s₀ s) :
    OutKept s₀ (execDirXlRestore q s) := by
  unfold execDirXlRestore
  repeat' first
    | with_reducible first
      | assumption | apply State.offWrite_kept | apply State.updDir_kept | apply Kept.ite | apply OutKept.next

theorem execDirXlRebuild_kept {s₀ : State} (q : Fin 4) (s : State) (hk : Kept s₀ s) :
    OutKept s₀ (execDirXlRebuild q s) := by
  unfold execDirXlRebuild
  repeat' first
    | with_reducible first
      | assumption | apply State.count_kept | apply State.offWrite_kept | apply State.startRebuild_kept | apply Kept.ite
      | apply OutKept.next

theorem State.loseReseat_kept {s₀ : State} (s : State) (q key : Nat) (hk : Kept s₀ s) :
    Kept s₀ (State.loseReseat s q key) := by
  unfold State.loseReseat
  repeat' first
    | with_reducible first
      | assumption | intro v | apply State.dropIncoming_kept | apply State.reseatEnd_kept | apply Kept.ite
    | (extract_lets +onlyGivenNames x
       first
       | (refine Kept.cut (s₀ := s₀) x ?_ ?_; (on_goal 2 => intro hx; clear_value x); (on_goal 1 => unfold x)))
    | split

theorem State.loseSeg_kept {s₀ : State} (s : State) (q key : Nat) (gap : Bool) (hk : Kept s₀ s) :
    Kept s₀ (State.loseSeg s q key gap) := by
  unfold State.loseSeg
  repeat' first
    | with_reducible first
      | assumption | intro v | apply State.dirDel_kept | apply State.dropChain_kept | apply State.finish_kept
      | apply State.leaveCoding_kept | apply State.loseReseat_kept | apply State.recheck_kept | apply State.releaseSeg_kept
      | apply State.unhold_kept | apply Kept.foldl | apply Kept.ite
    | split

theorem dirRebuildDone_kept {s₀ : State} (s : State) (q : Nat) (hk : Kept s₀ s) : Kept s₀ (dirRebuildDone s q) := by
  unfold dirRebuildDone
  repeat' first
    | with_reducible first
      | assumption | intro v | apply State.count_kept | apply State.loseSeg_kept | apply State.resumeOp_kept
      | apply State.updDir_kept | apply Kept.foldl | apply Kept.ite

theorem execDirRebuildDone_kept {s₀ : State} (q : Fin 4) (s : State) (hk : Kept s₀ s) :
    OutKept s₀ (execDirRebuildDone q s) := by
  unfold execDirRebuildDone
  repeat' first
    | with_reducible first
      | assumption | apply dirRebuildDone_kept | apply settle_kept | apply Kept.ite | apply OutKept.next

theorem State.resolveId_kept {s₀ : State} (s : State) (q slot : Nat) (chipBad spillBad workLost : Bool) (hk : Kept s₀ s) :
    Kept s₀ (State.resolveId s q slot chipBad spillBad workLost) := by
  unfold State.resolveId
  repeat' first
    | with_reducible first
      | assumption | intro v | apply State.count_kept | apply State.endReseat_kept | apply State.endTicket_kept
      | apply State.updTk_kept | apply Kept.ite
    | (extract_lets +onlyGivenNames x
       first
       | (refine Kept.cut (s₀ := s₀) x ?_ ?_; (on_goal 2 => intro hx; clear_value x); (on_goal 1 => unfold x))
       | skip)
    | split

theorem poolFailure_kept {s₀ : State} (s : State) (q : Nat) (onChip : Bool) (ids lostWork silent : List Nat) (hk : Kept s₀ s) :
    Kept s₀ (poolFailure s q onChip ids lostWork silent) := by
  unfold poolFailure
  repeat' first
    | with_reducible first
      | assumption | intro v | apply State.resolveId_kept | apply State.sweepHeld_kept | apply Kept.foldl

theorem execPoolFailure_kept {s₀ : State} (q : Fin 4) (onChip : Bool) (ids : List Nat) (lostWork : List Nat) (silent : List Nat) (s : State) (hk : Kept s₀ s) :
    OutKept s₀ (execPoolFailure q onChip ids lostWork silent s) := by
  unfold execPoolFailure
  repeat' first
    | with_reducible first
      | assumption | apply poolFailure_kept | apply settle_kept | apply Kept.ite | apply OutKept.next

theorem State.endAllDma_kept {s₀ : State} (s : State) (q : Nat) (hk : Kept s₀ s) : Kept s₀ (State.endAllDma s q) := by
  unfold State.endAllDma
  repeat' first
    | with_reducible first
      | assumption | intro v | apply State.dmaAnswer_kept | apply State.updStore_kept | apply Kept.foldl | apply Kept.ite
    | split

theorem State.dropQuarterAssists_kept {s₀ : State} (s : State) (q : Nat) (hk : Kept s₀ s) :
    Kept s₀ (State.dropQuarterAssists s q) := by
  unfold State.dropQuarterAssists
  exact hk

theorem State.failQuarter_kept {s₀ : State} (s : State) (q : Nat) (chipBad spillBad : Bool) (hk : Kept s₀ s) :
    Kept s₀ (State.failQuarter s q chipBad spillBad) := by
  unfold State.failQuarter
  repeat' first
    | with_reducible first
      | assumption | intro v | apply State.checkReq_kept | apply State.dropLink_kept | apply State.dropQuarterAssists_kept
      | apply State.endAllDma_kept | apply State.postFault_kept | apply State.resolveId_kept | apply State.sweepHeld_kept
      | apply State.updBsc_kept | apply State.updCore_kept | apply State.updQ_kept | apply State.updStack_kept
      | apply linkUp_kept | apply Kept.foldl | apply Kept.ite

theorem execQuarterFault_kept {s₀ : State} (q : Fin 4) (s : State) (hk : Kept s₀ s) :
    OutKept s₀ (execQuarterFault q s) := by
  unfold execQuarterFault
  repeat' first
    | with_reducible first
      | assumption | apply State.failQuarter_kept | apply settle_kept | apply Kept.ite | apply OutKept.next

theorem stackFault_kept {s₀ : State} (s : State) (q ls : Nat) (hk : Kept s₀ s) : Kept s₀ (stackFault s q ls) := by
  unfold stackFault
  repeat' first
    | with_reducible first
      | assumption | apply State.endSeqs_kept | apply State.failQuarter_kept | apply State.postFault_kept
      | apply State.updBank_kept | apply State.updStack_kept | apply notReadyEnd_kept | apply Kept.ite

theorem execStackFault_kept {s₀ : State} (n : Fin 16) (s : State) (hk : Kept s₀ s) : OutKept s₀ (execStackFault n s) := by
  unfold execStackFault
  repeat' first
    | with_reducible first
      | assumption | apply settle_kept | apply stackFault_kept | apply Kept.ite | apply OutKept.next

theorem State.moveFrame_kept {s₀ : State} (s : State) (q : Nat) (x : Nat × Nat × FrameRef × Shape) (hk : Kept s₀ s) :
    Kept s₀ (State.moveFrame s q x) := by
  unfold State.moveFrame
  repeat' first
    | with_reducible first
      | assumption | apply State.dropFrame_kept | apply State.releaseFrame_kept | apply State.setFrame_kept
      | apply State.stackWrite_kept | apply State.updStore_kept | apply Kept.ite
    | split

theorem stackDrainDone_kept {s₀ : State} (s : State) (q ls : Nat) (hk : Kept s₀ s) : Kept s₀ (stackDrainDone s q ls) := by
  unfold stackDrainDone
  repeat' first
    | with_reducible first
      | assumption | intro v | apply State.moveFrame_kept | apply State.setReg_kept | apply State.updStack_kept
      | apply notReadyEnd_kept | apply Kept.foldl | apply Kept.ite

theorem execStackDrainDone_kept {s₀ : State} (n : Fin 16) (s : State) (hk : Kept s₀ s) :
    OutKept s₀ (execStackDrainDone n s) := by
  unfold execStackDrainDone
  repeat' first
    | with_reducible first
      | assumption | apply settle_kept | apply stackDrainDone_kept | apply Kept.ite | apply OutKept.next

theorem State.pageError_kept {s₀ : State} (s : State) (q ls a : Nat) (hk : Kept s₀ s) :
    Kept s₀ (State.pageError s q ls a) := by
  unfold State.pageError
  repeat' first
    | with_reducible first
      | assumption | intro v | apply State.damagePage_kept | apply State.updStack_kept | apply Kept.ite
    | (extract_lets +onlyGivenNames x
       first
       | (refine Kept.cut (s₀ := s₀) x ?_ ?_; (on_goal 2 => intro hx; clear_value x); (on_goal 1 => unfold x)))
    | split

theorem State.heapError_kept {s₀ : State} (s : State) (q u : Nat) (hk : Kept s₀ s) : Kept s₀ (State.heapError s q u).2 := by
  unfold State.heapError
  repeat' first
    | with_reducible first
      | assumption | intro v | apply State.loseSeg_kept | apply State.updQ_kept | apply Kept.ite
    | (extract_lets +onlyGivenNames x
       first
       | (refine Kept.cut (s₀ := s₀) x ?_ ?_; (on_goal 2 => intro hx; clear_value x); (on_goal 1 => unfold x))
       | skip)
    | split

theorem State.spillError_kept {s₀ : State} (s : State) (q : Nat) (hk : Kept s₀ s) : Kept s₀ (State.spillError s q) := by
  unfold State.spillError
  repeat' first
    | with_reducible first
      | assumption | intro v | apply State.closeReq_kept | apply State.drawFree_kept | apply Kept.ite
    | (extract_lets +onlyGivenNames x
       first
       | (refine Kept.cut (s₀ := s₀) x ?_ ?_; (on_goal 2 => intro hx; clear_value x); (on_goal 1 => unfold x))
       | skip)
    | split

theorem State.backingError_kept {s₀ : State} (s : State) (q n : Nat) (hk : Kept s₀ s) :
    Kept s₀ (State.backingError s q n) := by
  unfold State.backingError
  repeat' first
    | with_reducible first
      | assumption | apply State.connError_kept | apply Kept.ite

theorem State.hbmRegion_kept {s₀ : State} (s : State) (q ls a : Nat) (hk : Kept s₀ s) :
    Kept s₀ (State.hbmRegion s q ls a).2 := by
  unfold State.hbmRegion
  repeat' first
    | with_reducible first
      | assumption | intro v | apply State.backingError_kept | apply State.heapError_kept | apply State.pageError_kept
      | apply State.spillError_kept | apply State.updDir_kept | apply State.updStore_kept | apply poolFailure_kept
      | apply Kept.ite
    | (extract_lets +onlyGivenNames x
       first
       | (refine Kept.cut (s₀ := s₀) x ?_ ?_; (on_goal 2 => intro hx; clear_value x); (on_goal 1 => unfold x))
       | skip)
    | split

theorem hbmUncorrectable_kept {s₀ : State} (s : State) (q ls a : Nat) (hk : Kept s₀ s) :
    Kept s₀ (hbmUncorrectable s q ls a) := by
  unfold hbmUncorrectable
  repeat' first
    | with_reducible first
      | assumption | apply State.hbmRegion_kept | apply State.postFault_kept | apply Kept.ite

theorem execHbmUncorrectable_kept {s₀ : State} (stack : Fin 16) (addr : Nat) (s : State) (hk : Kept s₀ s) :
    OutKept s₀ (execHbmUncorrectable stack addr s) := by
  unfold execHbmUncorrectable
  repeat' first
    | with_reducible first
      | assumption | apply hbmUncorrectable_kept | apply settle_kept | apply Kept.ite | apply OutKept.next

theorem State.failStopped_kept {s₀ : State} (s : State) (hk : Kept s₀ s) : Kept s₀ (State.failStopped s) := by
  unfold State.failStopped
  exact hk

theorem execSquareHeartbeatLoss_kept {s₀ : State} (s : State) (hk : Kept s₀ s) :
    OutKept s₀ (execSquareHeartbeatLoss s) := by
  unfold execSquareHeartbeatLoss
  repeat' first
    | with_reducible first
      | assumption | apply State.failStopped_kept | apply Kept.ite | apply OutKept.next

end Sys2Proof.Machine
end

