-- ==== Sys2Proof/Laws/KeptNode.lean ====
section
/-!
SUPPORT. What every command keeps, for register writes, start-up, energy, the Alley, the tick and the pins.
-/
namespace Sys2Proof.Machine

/-! ### RegWrite -/

theorem State.atOnce_kept {s₀ : State} (s : State) (code q off : Nat) (hk : Kept s₀ s) :
    Kept s₀ (State.atOnce s code q off) := by
  unfold State.atOnce
  repeat' first
    | with_reducible first
      | assumption | intro v | apply State.applyAt_kept | apply State.coreBit_kept | apply Kept.foldl | apply Kept.ite

theorem State.plainWrite_kept {s₀ : State} (s : State) (code q off : Nat) (r : RegSpec) (v : Nat) (hk : Kept s₀ s) :
    Kept s₀ (State.plainWrite s code q off r v) := by
  unfold State.plainWrite
  repeat' first
    | with_reducible first
      | assumption | apply State.atOnce_kept | apply State.setReg_kept | apply State.stage_kept | apply Kept.ite

theorem connCmd_kept {s₀ : State} (s : State) (q v : Nat) (hk : Kept s₀ s) : Kept s₀ (connCmd s q v) := by
  unfold connCmd
  repeat' first
    | with_reducible first
      | assumption | apply connLoad_kept | apply setCwnd_kept | apply Kept.ite

theorem hsmCmd_kept {s₀ : State} (s : State) (q v : Nat) (hk : Kept s₀ s) : Kept s₀ (hsmCmd s q v) := by
  unfold hsmCmd
  repeat' first
    | with_reducible first
      | assumption | apply hsmGet_kept | apply hsmPut_kept | apply Kept.ite

theorem xlCmd_kept {s₀ : State} (s : State) (q v : Nat) (hk : Kept s₀ s) : Kept s₀ (xlCmd s q v) := by
  unfold xlCmd
  repeat' first
    | with_reducible first
      | assumption | apply State.count_kept | apply State.startRebuild_kept | apply State.updDir_kept | apply Kept.ite

theorem hostCtx_kept {s₀ : State} (s : State) (q off : Nat) (r : RegSpec) (v : Nat) (hk : Kept s₀ s) :
    Kept s₀ (hostCtx s q off r v) := by
  unfold hostCtx
  repeat' first
    | with_reducible first
      | assumption | apply State.count_kept | apply State.plainWrite_kept | apply Kept.ite

theorem State.baseWrite_kept {s₀ : State} (s : State) (code q off : Nat) (r : RegSpec) (v : Nat) (hk : Kept s₀ s) :
    Kept s₀ (State.baseWrite s code q off r v) := by
  unfold State.baseWrite
  repeat' first
    | with_reducible first
      | assumption | intro v | apply State.plainWrite_kept | apply State.updBsc_kept | apply State.updDir_kept
      | apply bscBistStart_kept | apply bscChmode_kept | apply bscFence_kept | apply connCmd_kept | apply coreTestStart_kept
      | apply fmodeModeWrite_kept | apply gclCtl_kept | apply gclWrite_kept | apply hostCtx_kept | apply hsmCmd_kept
      | apply recodeStart_kept | apply snapshotRegStart_kept | apply xlCmd_kept | apply Kept.ite
    | split
    | assumption

theorem State.writeNow_kept {s₀ : State} (s : State) (code q off v : Nat) (hk : Kept s₀ s) :
    Kept s₀ (State.writeNow s code q off v) := by
  unfold State.writeNow
  repeat' first
    | with_reducible first
      | assumption | intro v | apply State.applyAt_kept | apply State.baseWrite_kept | apply State.coreBit_kept
      | apply Kept.foldl | apply Kept.ite
    | split

theorem State.aliasWrite_kept {s₀ : State} (s : State) (f addr op code q off : Nat) (v : Word) (hk : Kept s₀ s) :
    Kept s₀ (State.aliasWrite s f addr op code q off v) := by
  unfold State.aliasWrite
  repeat' first
    | with_reducible first
      | assumption | apply State.accError_kept | apply State.baseWrite_kept | apply State.count_kept | apply Kept.ite
    | split

theorem mbxInCtl_kept {s₀ : State} (s : State) (n : Nat) (v : Word) (hk : Kept s₀ s) : Kept s₀ (mbxInCtl s n v) := by
  unfold mbxInCtl
  repeat' first
    | with_reducible first
      | assumption | apply State.count_kept | apply State.post_kept | apply State.updFn_kept | apply Kept.ite

theorem dbIn_kept {s₀ : State} (s : State) (n : Nat) (v : Word) (hk : Kept s₀ s) : Kept s₀ (dbIn s n v) := by
  unfold dbIn
  repeat' first
    | with_reducible first
      | assumption | apply State.count_kept | apply State.updFn_kept | apply Kept.ite

theorem pageWrite_kept {s₀ : State} (s : State) (n off : Nat) (v : Word) (hk : Kept s₀ s) :
    Kept s₀ (pageWrite s n off v) := by
  unfold pageWrite
  repeat' first
    | with_reducible first
      | assumption | apply State.updFn_kept | apply admQueueCtl_kept | apply dbIn_kept | apply mbxInCtl_kept | apply Kept.ite

theorem State.clearOvf_kept {s₀ : State} (s : State) (code q off : Nat) (hk : Kept s₀ s) :
    Kept s₀ (State.clearOvf s code q off) := by
  unfold State.clearOvf
  repeat' first
    | with_reducible first
      | assumption | apply State.setCounter_kept | apply Kept.ite

theorem State.reservedAccess_kept {s₀ : State} (s : State) (f addr : Nat) (hk : Kept s₀ s) :
    Kept s₀ (State.reservedAccess s f addr) := by
  unfold State.reservedAccess
  repeat' first
    | with_reducible first
      | assumption | apply State.accError_kept | apply State.count_kept

theorem State.wordWrite_kept {s₀ : State} (s : State) (f addr : Nat) (v : Word) (hk : Kept s₀ s) :
    Kept s₀ (State.wordWrite s f addr v) := by
  unfold State.wordWrite
  repeat' first
    | with_reducible first
      | assumption | apply State.accError_kept | apply State.aliasWrite_kept | apply State.baseWrite_kept
      | apply State.clearOvf_kept | apply State.count_kept | apply State.reservedAccess_kept | apply cqHead_kept
      | apply pageWrite_kept | apply sqTail_kept | apply Kept.ite
    | split

theorem registerWrite_kept {s₀ : State} (s : State) (f addr : Nat) (v : Word) (be dwords : Nat) (hk : Kept s₀ s) :
    Kept s₀ (registerWrite s f addr v be dwords) := by
  unfold registerWrite
  repeat' first
    | with_reducible first
      | assumption | apply State.accError_kept | apply State.count_kept | apply State.wordWrite_kept | apply Kept.ite

theorem execRegisterWrite_kept {s₀ : State} (fn : Fin 64) (addr : Nat) (value : Word) (be : BitVec 4) (dwords : Nat) (s : State) (hk : Kept s₀ s) :
    OutKept s₀ (execRegisterWrite fn addr value be dwords s) := by
  unfold execRegisterWrite
  repeat' first
    | with_reducible first
      | assumption | apply registerWrite_kept | apply settle_kept | apply Kept.ite | apply OutKept.next

theorem State.returns_kept {s₀ : State} (s : State) (v : Word) (hk : Kept s₀ s) : Kept s₀ (State.returns s v) := by
  unfold State.returns
  exact hk

theorem State.pairRead_kept {s₀ : State} (s : State) (f addr v : Nat) (hk : Kept s₀ s) :
    Kept s₀ (State.pairRead s f addr v) := by
  unfold State.pairRead
  repeat' first
    | with_reducible first
      | assumption | intro v | apply State.returns_kept | apply Kept.ite
    | split
    | assumption

theorem counterRead_kept {s₀ : State} (s : State) (f addr : Nat) (hk : Kept s₀ s) : Kept s₀ (counterRead s f addr) := by
  unfold counterRead
  repeat' first
    | with_reducible first
      | assumption | apply State.accError_kept | apply State.count_kept | apply State.drawFree_kept
      | apply State.pairRead_kept | apply State.reservedAccess_kept | apply State.returns_kept | apply Kept.ite
    | split

theorem execCounterRead_kept {s₀ : State} (fn : Fin 64) (addr : Nat) (s : State) (hk : Kept s₀ s) :
    OutKept s₀ (execCounterRead fn addr s) := by
  unfold execCounterRead
  apply OutKept.next
  with_reducible apply counterRead_kept
  exact hk

theorem execCounterOvfClear_kept {s₀ : State} (fn : Fin 64) (addr : Nat) (s : State) (hk : Kept s₀ s) :
    OutKept s₀ (execCounterOvfClear fn addr s) := by
  unfold execCounterOvfClear
  repeat' first
    | with_reducible first
      | assumption | apply State.wordWrite_kept | apply settle_kept | apply Kept.ite | apply OutKept.next

/-! ### Start -/

theorem State.endAssists_kept {s₀ : State} (s : State) (hk : Kept s₀ s) : Kept s₀ (State.endAssists s) := by
  unfold State.endAssists
  repeat' first
    | with_reducible first
      | assumption | intro v | apply State.assistOut_kept | apply Kept.foldl | apply Kept.ite

theorem State.resetFn_kept {s₀ : State} (s : State) (f : Nat) (hk : Kept s₀ s) : Kept s₀ (State.resetFn s f) := by
  unfold State.resetFn
  repeat' first
    | with_reducible first
      | assumption | apply State.count_kept | apply State.endAssists_kept | apply State.stage_kept | apply State.updFn_kept
      | apply Kept.ite

theorem execFlr_kept {s₀ : State} (fn : Fin 64) (s : State) (hk : Kept s₀ s) : OutKept s₀ (execFlr fn s) := by
  unfold execFlr
  repeat' first
    | with_reducible first
      | assumption | apply State.resetFn_kept | apply settle_kept | apply Kept.ite | apply OutKept.next

theorem execTdiLeaveRun_kept {s₀ : State} (fn : Fin 64) (s : State) (hk : Kept s₀ s) :
    OutKept s₀ (execTdiLeaveRun fn s) := by
  unfold execTdiLeaveRun
  repeat' first
    | with_reducible first
      | assumption | apply State.resetFn_kept | apply settle_kept | apply Kept.ite | apply OutKept.next

theorem perst_kept {s₀ : State} (s : State) (hk : Kept s₀ s) : Kept s₀ (perst s) := by
  unfold perst
  repeat' first
    | with_reducible first
      | assumption | intro v | apply State.resetFn_kept | apply linkUp_kept | apply Kept.foldl | apply Kept.ite
    | (extract_lets +onlyGivenNames x
       first
       | (refine Kept.cut (s₀ := s₀) x ?_ ?_; (on_goal 2 => intro hx; clear_value x); (on_goal 1 => unfold x))
       | skip)
    | split
    | assumption

theorem execPerst_kept {s₀ : State} (s : State) (hk : Kept s₀ s) : OutKept s₀ (execPerst s) := by
  unfold execPerst
  repeat' first
    | with_reducible first
      | assumption | apply perst_kept | apply settle_kept | apply Kept.ite | apply OutKept.next

theorem State.blank_kept {s₀ : State} (s : State) (hk : Kept s₀ s) : Kept s₀ s.blank :=
  ⟨hk.1, hk.2.1, hk.2.2.1, fun _ => rfl, hk.2.2.2.2⟩

theorem State.restart_kept {s₀ : State} (s : State) (cause : Nat) (hk : Kept s₀ s) : Kept s₀ (s.restart cause) := by
  refine ⟨hk.1, hk.2.1, hk.2.2.1, fun h => ?_, hk.2.2.2.2⟩
  show Mem.wf (if s.pins.mainPg then s.hbm else []) = true
  split
  · exact hk.2.2.2.1 h
  · rfl

theorem State.loseMain_kept {s₀ : State} (s : State) (hk : Kept s₀ s) : Kept s₀ (State.loseMain s) := by
  unfold State.loseMain
  repeat' first
    | with_reducible first
      | assumption | intro v | apply State.blank_kept | apply Kept.ite
    | (extract_lets +onlyGivenNames x
       first
       | (refine Kept.cut (s₀ := s₀) x ?_ ?_; (on_goal 2 => intro hx; clear_value x); (on_goal 1 => unfold x))
       | skip)
    | split
    | assumption

theorem State.powerOn_kept {s₀ : State} (s : State) (hk : Kept s₀ s) : Kept s₀ s.powerOn :=
  ⟨hk.1, hk.2.1, hk.2.2.1, fun _ => rfl, hk.2.2.2.2⟩

theorem execPowerOnReset_kept {s₀ : State} (s : State) (hk : Kept s₀ s) : OutKept s₀ (execPowerOnReset s) := by
  unfold execPowerOnReset
  apply OutKept.next
  with_reducible apply State.powerOn_kept
  exact hk

theorem mainPowerGood_kept {s₀ : State} (s : State) (hk : Kept s₀ s) : Kept s₀ (mainPowerGood s) := by
  unfold mainPowerGood
  repeat' first
    | with_reducible first
      | assumption | intro v | apply State.restart_kept | apply Kept.ite
    | (extract_lets +onlyGivenNames x
       first
       | (refine Kept.cut (s₀ := s₀) x ?_ ?_; (on_goal 2 => intro hx; clear_value x); (on_goal 1 => unfold x))
       | skip)
    | split
    | assumption

theorem execMainPowerGood_kept {s₀ : State} (s : State) (hk : Kept s₀ s) : OutKept s₀ (execMainPowerGood s) := by
  unfold execMainPowerGood
  apply OutKept.next
  with_reducible apply mainPowerGood_kept
  exact hk

theorem bootWatchdog_kept {s₀ : State} (s : State) (hk : Kept s₀ s) : Kept s₀ (bootWatchdog s) := by
  unfold bootWatchdog
  repeat' first
    | with_reducible first
      | assumption | intro v | apply State.restart_kept | apply Kept.ite
    | split
    | assumption

theorem execBootWatchdog_kept {s₀ : State} (s : State) (hk : Kept s₀ s) : OutKept s₀ (execBootWatchdog s) := by
  unfold execBootWatchdog
  apply OutKept.next
  with_reducible apply bootWatchdog_kept
  exact hk

theorem State.toPhase_kept {s₀ : State} (s : State) (p : Nat) (hk : Kept s₀ s) : Kept s₀ (State.toPhase s p) := by
  unfold State.toPhase
  exact hk

theorem startImage_kept {s₀ : State} (s : State) (hk : Kept s₀ s) : Kept s₀ (startImage s) := by
  unfold startImage
  repeat' first
    | with_reducible first
      | assumption | intro v | apply Kept.ite
    | (extract_lets +onlyGivenNames x
       first
       | (refine Kept.cut (s₀ := s₀) x ?_ ?_; (on_goal 2 => intro hx; clear_value x); (on_goal 1 => unfold x))
       | skip)
    | split
    | assumption

theorem State.imageModes_kept {s₀ : State} (s : State) (i : Image) (hk : Kept s₀ s) : Kept s₀ (State.imageModes s i) := by
  unfold State.imageModes
  repeat' first
    | with_reducible first
      | assumption | intro v | apply State.drawFree_kept | apply State.post_kept | apply State.updXpt_kept
      | apply State.writeNow_kept | apply Kept.foldl | apply Kept.ite

theorem State.applyImage_kept {s₀ : State} (s : State) (i : Image) (hk : Kept s₀ s) : Kept s₀ (s.applyImage i) := by
  unfold State.applyImage
  extract_lets +onlyGivenNames u v
  have hu : Kept s₀ u := by
    refine Kept.foldl (fun t a ht => ?_) hk
    split
    · exact State.writeNow_kept _ _ _ _ _ ht
    · exact ht
  have hv : Kept s₀ v := State.imageModes_kept _ _ hu
  clear_value v
  exact hv

theorem State.bootScrub_kept {s₀ : State} (s : State) (hk : Kept s₀ s) : Kept s₀ s.bootScrub :=
  ⟨hk.1, hk.2.1, hk.2.2.1, fun _ => rfl, hk.2.2.2.2⟩

theorem State.trainPort_kept {s₀ : State} (s : State) (p : Nat) (hk : Kept s₀ s) : Kept s₀ (State.trainPort s p) := by
  unfold State.trainPort
  repeat' first
    | with_reducible first
      | assumption | apply State.updPort_kept | apply linkUp_kept | apply Kept.ite

theorem State.trainIf_kept {s₀ : State} (s : State) (p : Nat) (hk : Kept s₀ s) : Kept s₀ (State.trainIf s p) := by
  unfold State.trainIf
  repeat' first
    | with_reducible first
      | assumption | apply State.trainPort_kept | apply Kept.ite

theorem State.ringReady_kept {s₀ : State} (s : State) (hk : Kept s₀ s) : Kept s₀ (State.ringReady s) := by
  unfold State.ringReady
  exact hk

theorem State.toReady_kept {s₀ : State} (s : State) (hk : Kept s₀ s) : Kept s₀ s.toReady := by
  unfold State.toReady
  extract_lets +onlyGivenNames u
  have hu : Kept s₀ u := by
    refine Kept.foldl (fun t a ht => ?_) hk
    split
    · exact State.writeNow_kept _ _ _ _ _ ht
    · exact ht
  clear_value u
  exact State.ringReady_kept _ (hu : Kept s₀ { u with boot := _ })

theorem State.afterPcie_kept {s₀ : State} (s : State) (hk : Kept s₀ s) : Kept s₀ (State.afterPcie s) := by
  unfold State.afterPcie
  repeat' first
    | with_reducible first
      | assumption | intro v | apply State.ringReady_kept | apply State.toPhase_kept | apply Kept.ite
    | split
    | assumption

theorem startupPhaseDone_kept {s₀ : State} (s : State) (hk : Kept s₀ s) : Kept s₀ (startupPhaseDone s) := by
  unfold startupPhaseDone
  repeat' first
    | with_reducible first
      | assumption | intro v | apply State.afterPcie_kept | apply State.applyImage_kept | apply State.bootScrub_kept
      | apply State.toPhase_kept | apply State.toReady_kept | apply State.trainPort_kept | apply linkUp_kept
      | apply startImage_kept | apply Kept.foldl | apply Kept.ite
    | (extract_lets +onlyGivenNames x
       first
       | (refine Kept.cut (s₀ := s₀) x ?_ ?_; (on_goal 2 => intro hx; clear_value x); (on_goal 1 => unfold x))
       | skip)
    | split
    | assumption

theorem execStartupPhaseDone_kept {s₀ : State} (s : State) (hk : Kept s₀ s) : OutKept s₀ (execStartupPhaseDone s) := by
  unfold execStartupPhaseDone
  repeat' first
    | with_reducible first
      | assumption | apply settle_kept | apply startupPhaseDone_kept | apply Kept.ite | apply OutKept.next

theorem State.holdOff_kept {s₀ : State} (s : State) (q : Nat) (hk : Kept s₀ s) : Kept s₀ (State.holdOff s q) := by
  unfold State.holdOff
  exact hk

theorem stackTrainingDone_kept {s₀ : State} (s : State) (n : Nat) (ok : Bool) (hk : Kept s₀ s) :
    Kept s₀ (stackTrainingDone s n ok) := by
  unfold stackTrainingDone
  repeat' first
    | with_reducible first
      | assumption | apply State.holdOff_kept | apply State.postFault_kept | apply State.postPower_kept
      | apply State.updStack_kept | apply notReadyEnd_kept | apply Kept.ite

theorem execStackTrainingDone_kept {s₀ : State} (n : Fin 16) (ok : Bool) (s : State) (hk : Kept s₀ s) :
    OutKept s₀ (execStackTrainingDone n ok s) := by
  unfold execStackTrainingDone
  repeat' first
    | with_reducible first
      | assumption | apply settle_kept | apply stackTrainingDone_kept | apply Kept.ite | apply OutKept.next

/-! ### Energy -/

theorem State.clampFor_kept {s₀ : State} (s : State) (pPkg : Nat) (hk : Kept s₀ s) : Kept s₀ (s.clampFor pPkg) := by
  unfold State.clampFor
  extract_lets +onlyGivenNames cap
  split
  · exact hk
  · extract_lets +onlyGivenNames duty u
    have hu : Kept s₀ u := by
      unfold u
      split
      · exact hk
      · exact State.postPower_kept _ _ _ _ _ hk
    clear_value u
    refine State.count_kept _ _ _ _ _ ?_
    exact hu

theorem rebalance_kept {s₀ : State} (s : State) (pPkg : Nat) (hk : Kept s₀ s) : Kept s₀ (rebalance s pPkg) := by
  unfold rebalance
  repeat' first
    | with_reducible first
      | assumption | intro v | apply State.advance_kept | apply State.checkMisses_kept | apply State.clampFor_kept
      | apply State.count_kept | apply State.settleBucket_kept | apply State.updQe_kept | apply Kept.foldl | apply Kept.ite
    | split
    | assumption

theorem execRebalance_kept {s₀ : State} (pPkg : Nat) (s : State) (hk : Kept s₀ s) : OutKept s₀ (execRebalance pPkg s) := by
  unfold execRebalance
  repeat' first
    | with_reducible first
      | assumption | apply rebalance_kept | apply settle_kept | apply Kept.ite | apply OutKept.next

theorem State.stepFor_kept {s₀ : State} (s : State) (i deg : Nat) (hk : Kept s₀ s) : Kept s₀ (State.stepFor s i deg) := by
  unfold State.stepFor
  repeat' first
    | with_reducible first
      | assumption | intro v | apply State.count_kept | apply State.postPower_kept | apply Kept.ite
    | split
    | assumption

theorem State.shutDown_kept {s₀ : State} (s : State) (i : Nat) (hk : Kept s₀ s) : Kept s₀ (State.shutDown s i) := by
  unfold State.shutDown
  repeat' first
    | with_reducible first
      | assumption | intro v | apply State.loseMain_kept | apply State.postPower_kept | apply Kept.ite
    | (extract_lets +onlyGivenNames x
       first
       | (refine Kept.cut (s₀ := s₀) x ?_ ?_; (on_goal 2 => intro hx; clear_value x); (on_goal 1 => unfold x))
       | skip)
    | split
    | assumption

theorem sensorReading_kept {s₀ : State} (s : State) (i at_ : Nat) (deg : Option Nat) (hk : Kept s₀ s) :
    Kept s₀ (sensorReading s i at_ deg) := by
  unfold sensorReading
  repeat' first
    | with_reducible first
      | assumption | intro v | apply State.advance_kept | apply State.shutDown_kept | apply State.stepFor_kept
      | apply Kept.ite
    | split
    | assumption

theorem execSensorReading_kept {s₀ : State} (i : Fin 33) (at_ : Nat) (deg : Option Nat) (s : State) (hk : Kept s₀ s) :
    OutKept s₀ (execSensorReading i at_ deg s) := by
  unfold execSensorReading
  repeat' first
    | with_reducible first
      | assumption | apply sensorReading_kept | apply Kept.ite | apply OutKept.next

theorem State.goConservative_kept {s₀ : State} (s : State) (hk : Kept s₀ s) : Kept s₀ (State.goConservative s) := by
  unfold State.goConservative
  repeat' first
    | with_reducible first
      | assumption | intro v | apply State.count_kept | apply State.postPower_kept | apply State.updQe_kept | apply Kept.foldl
      | apply Kept.ite
    | split
    | assumption

theorem sensorInvalid_kept {s₀ : State} (s : State) (i : Nat) (hk : Kept s₀ s) : Kept s₀ (sensorInvalid s i) := by
  unfold sensorInvalid
  repeat' first
    | with_reducible first
      | assumption | intro v | apply State.advance_kept | apply State.goConservative_kept | apply Kept.ite
    | split
    | assumption

theorem execSensorInvalidTimeout_kept {s₀ : State} (i : Fin 33) (s : State) (hk : Kept s₀ s) :
    OutKept s₀ (execSensorInvalidTimeout i s) := by
  unfold execSensorInvalidTimeout
  repeat' first
    | with_reducible first
      | assumption | apply sensorInvalid_kept | apply Kept.ite | apply OutKept.next

theorem State.applyStaged_kept {s₀ : State} (s : State) (q : Nat) (hk : Kept s₀ s) : Kept s₀ (State.applyStaged s q) := by
  unfold State.applyStaged
  repeat' first
    | with_reducible first
      | assumption | intro v | apply State.applyAt_kept | apply State.coreBit_kept | apply applyPacket_kept | apply Kept.foldl
      | apply Kept.ite
    | split

theorem qOffExitDone_kept {s₀ : State} (s : State) (q : Nat) (hk : Kept s₀ s) : Kept s₀ (qOffExitDone s q) := by
  unfold qOffExitDone
  repeat' first
    | with_reducible first
      | assumption | intro v | apply State.applyStaged_kept | apply State.postPower_kept | apply State.startRebuild_kept
      | apply State.trainIf_kept | apply State.updQ_kept | apply State.updQe_kept | apply State.updStack_kept
      | apply dirRebuildDone_kept | apply notReadyEnd_kept | apply Kept.foldl | apply Kept.ite

theorem execQOffExitDone_kept {s₀ : State} (q : Fin 4) (s : State) (hk : Kept s₀ s) :
    OutKept s₀ (execQOffExitDone q s) := by
  unfold execQOffExitDone
  repeat' first
    | with_reducible first
      | assumption | apply qOffExitDone_kept | apply settle_kept | apply Kept.ite | apply OutKept.next

/-! ### Alley -/

theorem State.alleySend_kept {s₀ : State} (s : State) (port : Nat) (b : Bytes) (hk : Kept s₀ s) :
    Kept s₀ (State.alleySend s port b) := by
  unfold State.alleySend
  exact hk

theorem State.respond_kept {s₀ : State} (s : State) (cmd : Nat) (m : Mgmt) (status : Nat) (data : Bytes) (hk : Kept s₀ s) :
    Kept s₀ (State.respond s cmd m status data) := by
  unfold State.respond
  repeat' first
    | with_reducible first
      | assumption | intro v | apply State.alleySend_kept | apply Kept.foldl

theorem State.countBoot_kept {s₀ : State} (s : State) (n : Nat) (hk : Kept s₀ s) : Kept s₀ (State.countBoot s n) := by
  unfold State.countBoot
  repeat' first
    | with_reducible first
      | assumption | apply State.count_kept | apply Kept.ite

theorem State.refuseAuth_kept {s₀ : State} (s : State) (cmd : Nat) (m : Mgmt) (hk : Kept s₀ s) :
    Kept s₀ (State.refuseAuth s cmd m) := by
  unfold State.refuseAuth
  repeat' first
    | with_reducible first
      | assumption | apply State.count_kept | apply State.countBoot_kept | apply State.respond_kept | apply Kept.ite

theorem alleyTake_kept {s₀ : State} (s : State) (port : Nat) (b : Bytes) (hk : Kept s₀ s) :
    Kept s₀ (alleyTake s port b) := by
  unfold alleyTake
  repeat' first
    | with_reducible first
      | assumption | intro v | apply State.refuseAuth_kept | apply State.respond_kept | apply Kept.ite
    | split
    | assumption

theorem alleyFrame_kept {s₀ : State} (s : State) (port : Nat) (b : Bytes) (hk : Kept s₀ s) :
    Kept s₀ (alleyFrame s port b) := by
  unfold alleyFrame
  repeat' first
    | with_reducible first
      | assumption | apply State.alleySend_kept | apply State.countBoot_kept | apply State.take_kept | apply alleyTake_kept
      | apply Kept.ite

theorem execAlleyFrame_kept {s₀ : State} (port : Fin 2) (bytes : Bytes) (s : State) (hk : Kept s₀ s) :
    OutKept s₀ (execAlleyFrame port bytes s) := by
  unfold execAlleyFrame
  repeat' first
    | with_reducible first
      | assumption | apply alleyFrame_kept | apply Kept.ite | apply OutKept.next

theorem State.takeCmd_kept {s₀ : State} (s : State) (cmd : Nat) (m : Mgmt) (body : Bytes) (hk : Kept s₀ s) :
    Kept s₀ (State.takeCmd s cmd m body) := by
  unfold State.takeCmd
  exact hk

theorem State.useSession_kept {s₀ : State} (s : State) (x : Session) (hk : Kept s₀ s) : Kept s₀ (State.useSession s x) := by
  unfold State.useSession
  exact hk

theorem mgmtRun_kept {s₀ : State} (s : State) (cmd : Nat) (m : Mgmt) (body : Bytes) (run : State → Nat × Bytes × State)
    (hrun : ∀ t, Kept s₀ t → Kept s₀ (run t).2.2) (hk : Kept s₀ s) : Kept s₀ (mgmtRun s cmd m body run) := by
  unfold mgmtRun
  split
  · exact hk
  · have h1 := State.takeCmd_kept s cmd m body hk
    dsimp only
    split
    · exact State.respond_kept _ _ _ _ _ h1
    · cases hs : m.ses with
      | none =>
        dsimp only
        split
        · exact State.refuseAuth_kept _ _ _ h1
        · rename_i u heq
          split at heq
          · cases heq
            split
            · exact State.respond_kept _ _ _ _ _ h1
            · exact State.respond_kept _ _ _ _ _ (hrun _ h1)
          · cases heq
      | some x =>
        dsimp only
        split
        · exact State.refuseAuth_kept _ _ _ h1
        · rename_i u heq
          split at heq
          · cases heq
            have h2 := State.useSession_kept _ x h1
            split
            · exact State.respond_kept _ _ _ _ _ h2
            · exact State.respond_kept _ _ _ _ _ (hrun _ h2)
          · cases heq
theorem mgmtRun_keptButNvm {s₀ : State} (s : State) (cmd : Nat) (m : Mgmt) (body : Bytes) (run : State → Nat × Bytes × State)
    (hrun : ∀ t, Kept s₀ t → KeptButNvm s₀ (run t).2.2) (hk : Kept s₀ s) : KeptButNvm s₀ (mgmtRun s cmd m body run) := by
  have hr : ∀ {u : State} (c : Nat) (n : Mgmt) (st : Nat) (d : Bytes), KeptButNvm s₀ u → KeptButNvm s₀ (u.respond c n st d) :=
    fun c n st d h => h.elim fun v hv => ⟨v, hv.1, State.respond_kept _ _ _ _ _ hv.2⟩
  unfold mgmtRun
  split
  · exact hk.butNvm
  · have h1 := State.takeCmd_kept s cmd m body hk
    dsimp only
    split
    · exact hr _ _ _ _ h1.butNvm
    · cases hs : m.ses with
      | none =>
        dsimp only
        split
        · exact (State.refuseAuth_kept _ _ _ h1).butNvm
        · rename_i u heq
          split at heq
          · cases heq
            split
            · exact hr _ _ _ _ h1.butNvm
            · exact hr _ _ _ _ (hrun _ h1)
          · cases heq
      | some x =>
        dsimp only
        split
        · exact (State.refuseAuth_kept _ _ _ h1).butNvm
        · rename_i u heq
          split at heq
          · cases heq
            have h2 := State.useSession_kept _ x h1
            split
            · exact hr _ _ _ _ h2.butNvm
            · exact hr _ _ _ _ (hrun _ h2)
          · cases heq

theorem enumerate_kept {s₀ : State} (s : State) (m : Mgmt) (b : Bytes) (hk : Kept s₀ s) : Kept s₀ (enumerate s m b) := by
  unfold enumerate
  repeat' first
    | with_reducible first
      | assumption | intro v | apply State.alleySend_kept | apply State.takeCmd_kept | apply Kept.ite
    | split
    | assumption

theorem execEnum_kept {s₀ : State} (m : Mgmt) (body : Bytes) (s : State) (hk : Kept s₀ s) :
    OutKept s₀ (execEnum m body s) := by
  unfold execEnum
  repeat' first
    | with_reducible first
      | assumption | apply enumerate_kept | apply Kept.ite | apply OutKept.next

theorem setNodeId_kept {s₀ : State} (b : Bytes) (s : State) (hk : Kept s₀ s) : Kept s₀ (setNodeId b s).2.2 := by
  unfold setNodeId
  repeat' first
    | with_reducible first
      | assumption | intro v | apply Kept.ite
    | (extract_lets +onlyGivenNames x
       first
       | (refine Kept.cut (s₀ := s₀) x ?_ ?_; (on_goal 2 => intro hx; clear_value x); (on_goal 1 => unfold x))
       | skip)
    | split
    | assumption

theorem execSetNodeId_kept {s₀ : State} (m : Mgmt) (body : Bytes) (s : State) (hk : Kept s₀ s) :
    OutKept s₀ (execSetNodeId m body s) := by
  unfold execSetNodeId
  repeat' first
    | with_reducible first
      | assumption | apply mgmtRun_kept | apply setNodeId_kept | apply Kept.ite | apply OutKept.next

theorem sessionOpen_kept {s₀ : State} (b : Bytes) (s : State) (hk : Kept s₀ s) : Kept s₀ (sessionOpen b s).2.2 := by
  unfold sessionOpen
  split
  · exact hk
  · split
    · exact hk
    · split
      · exact State.count_kept _ _ _ _ _ (State.count_kept _ _ _ _ _ (State.count_kept _ _ _ _ _ hk))
      · refine State.count_kept _ _ _ _ _ (State.count_kept _ _ _ _ _ ?_)
        exact State.drawTrng_kept s hk

theorem execSessionOpen_kept {s₀ : State} (m : Mgmt) (body : Bytes) (s : State) (hk : Kept s₀ s) :
    OutKept s₀ (execSessionOpen m body s) := by
  unfold execSessionOpen
  repeat' first
    | with_reducible first
      | assumption | apply mgmtRun_kept | apply sessionOpen_kept | apply Kept.ite | apply OutKept.next

theorem sessionExpiry_kept {s₀ : State} (s : State) (sid : Nat) (hk : Kept s₀ s) : Kept s₀ (sessionExpiry s sid) := by
  unfold sessionExpiry
  repeat' first
    | with_reducible first
      | assumption | intro v | apply Kept.ite
    | split
    | assumption

theorem execSessionExpiry_kept {s₀ : State} (sid : Nat) (s : State) (hk : Kept s₀ s) :
    OutKept s₀ (execSessionExpiry sid s) := by
  unfold execSessionExpiry
  apply OutKept.next
  with_reducible apply sessionExpiry_kept
  exact hk

theorem getStatus_kept {s₀ : State} (b : Bytes) (s : State) (hk : Kept s₀ s) : Kept s₀ (getStatus b s).2.2 := by
  unfold getStatus
  repeat' first
    | with_reducible first
      | assumption | apply Kept.ite
    | split

theorem execGetStatus_kept {s₀ : State} (m : Mgmt) (body : Bytes) (s : State) (hk : Kept s₀ s) :
    OutKept s₀ (execGetStatus m body s) := by
  unfold execGetStatus
  repeat' first
    | with_reducible first
      | assumption | apply getStatus_kept | apply mgmtRun_kept | apply Kept.ite | apply OutKept.next

theorem getTelemetry_kept {s₀ : State} (b : Bytes) (s : State) (hk : Kept s₀ s) : Kept s₀ (getTelemetry b s).2.2 := by
  unfold getTelemetry
  repeat' first
    | with_reducible first
      | assumption | apply State.drawFree_kept | apply Kept.ite
    | split

theorem execGetTelemetry_kept {s₀ : State} (m : Mgmt) (body : Bytes) (s : State) (hk : Kept s₀ s) :
    OutKept s₀ (execGetTelemetry m body s) := by
  unfold execGetTelemetry
  repeat' first
    | with_reducible first
      | assumption | apply getTelemetry_kept | apply mgmtRun_kept | apply Kept.ite | apply OutKept.next

theorem setPowerCap_kept {s₀ : State} (b : Bytes) (s : State) (hk : Kept s₀ s) : Kept s₀ (setPowerCap b s).2.2 := by
  unfold setPowerCap
  repeat' first
    | with_reducible first
      | assumption | intro v | apply Kept.ite
    | (extract_lets +onlyGivenNames x
       first
       | (refine Kept.cut (s₀ := s₀) x ?_ ?_; (on_goal 2 => intro hx; clear_value x); (on_goal 1 => unfold x))
       | skip)
    | split
    | assumption

theorem execSetPowerCap_kept {s₀ : State} (m : Mgmt) (body : Bytes) (s : State) (hk : Kept s₀ s) :
    OutKept s₀ (execSetPowerCap m body s) := by
  unfold execSetPowerCap
  repeat' first
    | with_reducible first
      | assumption | apply mgmtRun_kept | apply setPowerCap_kept | apply Kept.ite | apply OutKept.next

theorem routeSet_kept {s₀ : State} (b : Bytes) (s : State) (hk : Kept s₀ s) : Kept s₀ (routeSet b s).2.2 := by
  unfold routeSet
  repeat' first
    | with_reducible first
      | assumption | intro v | apply State.updXpt_kept | apply Kept.foldl | apply Kept.ite
    | (extract_lets +onlyGivenNames x
       first
       | (refine Kept.cut (s₀ := s₀) x ?_ ?_; (on_goal 2 => intro hx; clear_value x); (on_goal 1 => unfold x))
       | skip)
    | split

theorem execRouteSet_kept {s₀ : State} (m : Mgmt) (body : Bytes) (s : State) (hk : Kept s₀ s) :
    OutKept s₀ (execRouteSet m body s) := by
  unfold execRouteSet
  repeat' first
    | with_reducible first
      | assumption | apply mgmtRun_kept | apply routeSet_kept | apply Kept.ite | apply OutKept.next

theorem getAttestation_kept {s₀ : State} (b : Bytes) (s : State) (hk : Kept s₀ s) : Kept s₀ (getAttestation b s).2.2 := by
  unfold getAttestation
  repeat' first
    | with_reducible first
      | assumption | apply State.count_kept | apply Kept.ite
    | split

theorem execGetAttestation_kept {s₀ : State} (m : Mgmt) (body : Bytes) (s : State) (hk : Kept s₀ s) :
    OutKept s₀ (execGetAttestation m body s) := by
  unfold execGetAttestation
  repeat' first
    | with_reducible first
      | assumption | apply getAttestation_kept | apply mgmtRun_kept | apply Kept.ite | apply OutKept.next

theorem meterRead_kept {s₀ : State} (b : Bytes) (s : State) (hk : Kept s₀ s) : Kept s₀ (meterRead b s).2.2 := by
  unfold meterRead
  repeat' first
    | with_reducible first
      | assumption | intro v | apply State.meter_kept | apply Kept.ite
    | (extract_lets +onlyGivenNames x
       first
       | (refine Kept.cut (s₀ := s₀) x ?_ ?_; (on_goal 2 => intro hx; clear_value x); (on_goal 1 => unfold x))
       | skip)
    | split

theorem execMeterRead_kept {s₀ : State} (m : Mgmt) (body : Bytes) (s : State) (hk : Kept s₀ s) :
    OutKept s₀ (execMeterRead m body s) := by
  unfold execMeterRead
  repeat' first
    | with_reducible first
      | assumption | apply meterRead_kept | apply mgmtRun_kept | apply Kept.ite | apply OutKept.next

theorem armFaultInject_kept {s₀ : State} (b : Bytes) (s : State) (hk : Kept s₀ s) : Kept s₀ (armFaultInject b s).2.2 := by
  unfold armFaultInject
  repeat' first
    | with_reducible first
      | assumption | intro v | apply State.countU_kept | apply State.updPort_kept | apply Kept.ite
    | (extract_lets +onlyGivenNames x
       first
       | (refine Kept.cut (s₀ := s₀) x ?_ ?_; (on_goal 2 => intro hx; clear_value x); (on_goal 1 => unfold x))
       | skip)
    | split

theorem execArmFaultInject_kept {s₀ : State} (m : Mgmt) (body : Bytes) (s : State) (hk : Kept s₀ s) :
    OutKept s₀ (execArmFaultInject m body s) := by
  unfold execArmFaultInject
  repeat' first
    | with_reducible first
      | assumption | apply armFaultInject_kept | apply mgmtRun_kept | apply Kept.ite | apply OutKept.next

theorem State.eraseHeader_kept {s₀ : State} (s : State) (slot : Nat) (hk : Kept s₀ s) : KeptButNvm s₀ (s.eraseHeader slot) :=
  KeptButNvm.nvm hk fun w => Mem.clear_wf _ _ _ w

theorem updateStart_kept {s₀ : State} (b : Bytes) (s : State) (hk : Kept s₀ s) : KeptButNvm s₀ (updateStart b s).2.2 := by
  unfold updateStart
  extract_lets +onlyGivenNames slot len
  split
  · exact hk.butNvm
  · split
    · exact hk.butNvm
    · obtain ⟨m, hm, h⟩ := State.eraseHeader_kept s slot hk
      exact ⟨m, hm, h⟩

theorem execUpdateImageStart_kept {s t : State} (m : Mgmt) (body : Bytes) (h : execUpdateImageStart m body s = .next t) : KeptButNvm s t := by
  unfold execUpdateImageStart at h
  cases h
  split
  · exact mgmtRun_keptButNvm _ _ _ _ _ (fun t ht => updateStart_kept _ _ ht) (Kept.refl s)
  · exact (Kept.refl s).butNvm

theorem updateData_kept {s₀ : State} (b : Bytes) (s : State) (hk : Kept s₀ s) : KeptButNvm s₀ (updateData b s).2.2 := by
  unfold updateData
  extract_lets +onlyGivenNames off d
  split
  · exact hk.butNvm
  · split
    · exact hk.butNvm
    · split
      · exact hk.butNvm
      · exact KeptButNvm.nvm hk fun w => Mem.write_wf _ _ _ w

theorem execUpdateImageData_kept {s t : State} (m : Mgmt) (body : Bytes) (h : execUpdateImageData m body s = .next t) : KeptButNvm s t := by
  unfold execUpdateImageData at h
  cases h
  split
  · exact mgmtRun_keptButNvm _ _ _ _ _ (fun t ht => updateData_kept _ _ ht) (Kept.refl s)
  · exact (Kept.refl s).butNvm

theorem updateFinish_kept {s₀ : State} (b : Bytes) (s : State) (hk : Kept s₀ s) : KeptButNvm s₀ (updateFinish b s).2.2 := by
  have key : ∀ (v : State) (slot : Nat), Kept s₀ v → KeptButNvm s₀
      (if !v.pins.mainPg then ((sOK, [0], v) : Nat × Bytes × State)
       else if (imageFault v.boot.nvm slot v.sec.fuseConfLock).isNone then (sOK, [], v)
       else (1 + v.drawFree.1 % 255, [], v.drawFree.2.eraseHeader slot)).2.2 := by
    intro v slot hv
    split
    · exact hv.butNvm
    · split
      · exact hv.butNvm
      · exact State.eraseHeader_kept _ _ (State.drawFree_kept _ hv)
  have h0 := State.countBoot_kept s 3 hk
  unfold updateFinish
  split
  · exact hk.butNvm
  · split
    · exact hk.butNvm
    · split
      · exact hk.butNvm
      · refine key _ _ ?_
        exact h0

theorem execUpdateImageFinish_kept {s t : State} (m : Mgmt) (body : Bytes) (h : execUpdateImageFinish m body s = .next t) : KeptButNvm s t := by
  unfold execUpdateImageFinish at h
  cases h
  split
  · exact mgmtRun_keptButNvm _ _ _ _ _ (fun t ht => updateFinish_kept _ _ ht) (Kept.refl s)
  · exact (Kept.refl s).butNvm

theorem alleyReset_kept {s₀ : State} (s : State) (m : Mgmt) (b : Bytes) (hk : Kept s₀ s) : Kept s₀ (alleyReset s m b) := by
  unfold alleyReset
  extract_lets +onlyGivenNames u ok
  have hu : Kept s₀ u := mgmtRun_kept _ _ _ _ _ (fun t ht => ht) hk
  clear_value u
  split
  · refine State.restart_kept _ _ ?_
    exact hu
  · exact hu

theorem execReset_kept {s₀ : State} (m : Mgmt) (body : Bytes) (s : State) (hk : Kept s₀ s) :
    OutKept s₀ (execReset m body s) := by
  unfold execReset
  apply OutKept.next
  with_reducible apply alleyReset_kept
  exact hk

/-! ### Tick -/

theorem State.discardClass_kept {s₀ : State} (s : State) (p c : Nat) (hk : Kept s₀ s) :
    Kept s₀ (State.discardClass s p c) := by
  unfold State.discardClass
  repeat' first
    | with_reducible first
      | assumption | apply State.count_kept | apply State.updPort_kept

theorem State.portEnable_kept {s₀ : State} (s : State) (p : Nat) (was : Bool) (hk : Kept s₀ s) :
    Kept s₀ (State.portEnable s p was) := by
  unfold State.portEnable
  repeat' first
    | with_reducible first
      | assumption | apply State.trainIf_kept | apply State.updPort_kept | apply linkDown_kept | apply Kept.ite

theorem State.tickApply_kept {s₀ : State} (s : State) (hk : Kept s₀ s) : Kept s₀ (State.tickApply s) := by
  unfold State.tickApply
  repeat' first
    | with_reducible first
      | assumption | intro v | apply State.applyBoundary_kept | apply State.discardClass_kept | apply State.portEnable_kept
      | apply Kept.foldl | apply Kept.ite

theorem State.tickModes_kept {s₀ : State} (s : State) (old : Nat) (hk : Kept s₀ s) : Kept s₀ (State.tickModes s old) := by
  unfold State.tickModes
  repeat' first
    | with_reducible first
      | assumption | intro v | apply State.complete_kept | apply State.updXpt_kept | apply Kept.foldl | apply Kept.ite
    | split
    | assumption

theorem State.tickPstate_kept {s₀ : State} (s : State) (hk : Kept s₀ s) : Kept s₀ (State.tickPstate s) := by
  unfold State.tickPstate
  repeat' first
    | with_reducible first
      | assumption | intro v | apply State.count_kept | apply State.pendClock_kept | apply State.postPower_kept
      | apply State.setReg_kept | apply State.updCore_kept | apply Kept.foldl | apply Kept.ite
    | split
    | assumption

theorem State.tickCap_kept {s₀ : State} (s : State) (hk : Kept s₀ s) : Kept s₀ (State.tickCap s) := by
  unfold State.tickCap
  repeat' first
    | with_reducible first
      | assumption | intro v | apply State.postPower_kept | apply Kept.ite
    | split
    | assumption

theorem State.tickBankPower_kept {s₀ : State} (s : State) (hk : Kept s₀ s) : Kept s₀ (State.tickBankPower s) := by
  unfold State.tickBankPower
  repeat' first
    | with_reducible first
      | assumption | intro v | apply State.setBankPower_kept | apply Kept.foldl

theorem State.tickStack_kept {s₀ : State} (s : State) (q ls : Nat) (hk : Kept s₀ s) : Kept s₀ (State.tickStack s q ls) := by
  unfold State.tickStack
  repeat' first
    | with_reducible first
      | assumption | apply State.postPower_kept | apply State.quietStack_kept | apply State.updStack_kept
      | apply notReadyEnd_kept | apply Kept.ite

theorem State.stopCoder_kept {s₀ : State} (s : State) (q c : Nat) (hk : Kept s₀ s) : Kept s₀ (State.stopCoder s q c) := by
  unfold State.stopCoder
  repeat' first
    | with_reducible first
      | assumption | intro v | apply State.stopPass_kept | apply Kept.ite
    | (extract_lets +onlyGivenNames x
       first
       | (refine Kept.cut (s₀ := s₀) x ?_ ?_; (on_goal 2 => intro hx; clear_value x); (on_goal 1 => unfold x))
       | skip)
    | split

theorem State.agentGone_kept {s₀ : State} (s : State) (q : Nat) (hk : Kept s₀ s) : Kept s₀ (State.agentGone s q) := by
  unfold State.agentGone
  repeat' first
    | with_reducible first
      | assumption | intro v | apply agentAnswer_kept | apply Kept.foldl | apply Kept.ite

theorem State.enterOff_kept {s₀ : State} (s : State) (q : Nat) (hk : Kept s₀ s) : Kept s₀ (State.enterOff s q) := by
  unfold State.enterOff
  repeat' first
    | with_reducible first
      | assumption | intro v | apply State.agentGone_kept | apply State.count_kept | apply State.drainWriteback_kept
      | apply State.flushStack_kept | apply State.postPower_kept | apply State.settleBucket_kept | apply State.stopCoder_kept
      | apply State.updQ_kept | apply State.updQe_kept | apply State.updStack_kept | apply State.updStore_kept
      | apply State.updXpt_kept | apply Kept.foldl

theorem State.tryOff_kept {s₀ : State} (s : State) (q : Nat) (hk : Kept s₀ s) : Kept s₀ (State.tryOff s q) := by
  unfold State.tryOff
  repeat' first
    | with_reducible first
      | assumption | apply State.count_kept | apply State.enterOff_kept | apply State.postPower_kept | apply State.updQ_kept
      | apply Kept.ite

theorem State.tickQuarter_kept {s₀ : State} (s : State) (q : Nat) (hk : Kept s₀ s) : Kept s₀ (State.tickQuarter s q) := by
  unfold State.tickQuarter
  repeat' first
    | with_reducible first
      | assumption | apply State.postPower_kept | apply State.tryOff_kept | apply State.updQ_kept | apply Kept.ite
    | split

theorem State.tickPower_kept {s₀ : State} (s : State) (hk : Kept s₀ s) : Kept s₀ (State.tickPower s) := by
  unfold State.tickPower
  repeat' first
    | with_reducible first
      | assumption | intro v | apply State.tickQuarter_kept | apply State.tickStack_kept | apply Kept.foldl

theorem State.tickHistory_kept {s₀ : State} (s : State) (hk : Kept s₀ s) : Kept s₀ (State.tickHistory s) := by
  unfold State.tickHistory
  repeat' first
    | with_reducible first
      | assumption | intro v | apply State.postPower_kept | apply Kept.ite
    | split
    | assumption

theorem State.tickCalib_kept {s₀ : State} (s : State) (m : TickMeasure) (hk : Kept s₀ s) :
    Kept s₀ (State.tickCalib s m) := by
  unfold State.tickCalib
  repeat' first
    | with_reducible first
      | assumption | intro v | apply State.updQe_kept | apply Kept.foldl

theorem State.tickCongestion_kept {s₀ : State} (s : State) (q : Nat) (hk : Kept s₀ s) :
    Kept s₀ (State.tickCongestion s q) := by
  unfold State.tickCongestion
  repeat' first
    | with_reducible first
      | assumption | intro v | apply State.postAssist_kept | apply State.updXpt_kept | apply Kept.foldl | apply Kept.ite

theorem State.markBad_kept {s₀ : State} (s : State) (l : List (Nat × Nat)) (hk : Kept s₀ s) :
    Kept s₀ (State.markBad s l) := by
  unfold State.markBad
  repeat' first
    | with_reducible first
      | assumption | intro v | apply State.updDir_kept | apply Kept.foldl

theorem State.tickScrub_kept {s₀ : State} (s : State) (q : Nat) (hk : Kept s₀ s) : Kept s₀ (State.tickScrub s q) := by
  unfold State.tickScrub
  repeat' first
    | with_reducible first
      | assumption | intro v | apply State.dirParity_kept | apply State.updDir_kept | apply Kept.ite
    | (extract_lets +onlyGivenNames x
       first
       | (refine Kept.cut (s₀ := s₀) x ?_ ?_; (on_goal 2 => intro hx; clear_value x); (on_goal 1 => unfold x))
       | skip)
    | split

theorem State.askOrphan_kept {s₀ : State} (s : State) (q slot id : Nat) (hk : Kept s₀ s) :
    Kept s₀ (State.askOrphan s q slot id).2 := by
  unfold State.askOrphan
  repeat' first
    | with_reducible first
      | assumption | apply State.postAssist_kept | apply Kept.ite
    | split

theorem State.scanId_kept {s₀ : State} (s : State) (q slot : Nat) (hk : Kept s₀ s) : Kept s₀ (State.scanId s q slot) := by
  unfold State.scanId
  repeat' first
    | with_reducible first
      | assumption | apply State.askOrphan_kept | apply State.endOrphan_kept | apply State.updTk_kept | apply Kept.ite

theorem State.tickOrphans_kept {s₀ : State} (s : State) (q : Nat) (hk : Kept s₀ s) : Kept s₀ (State.tickOrphans s q) := by
  unfold State.tickOrphans
  repeat' first
    | with_reducible first
      | assumption | intro v | apply State.scanId_kept | apply Kept.foldl | apply Kept.ite

theorem State.tickSweep_kept {s₀ : State} (s : State) (hk : Kept s₀ s) : Kept s₀ (State.tickSweep s) := by
  unfold State.tickSweep
  repeat' first
    | with_reducible first
      | assumption | intro v | apply keySweepPage_kept | apply Kept.foldl

theorem State.tickMetering_kept {s₀ : State} (s : State) (m : TickMeasure) (hk : Kept s₀ s) :
    Kept s₀ (State.tickMetering s m) := by
  unfold State.tickMetering
  repeat' first
    | with_reducible first
      | assumption | intro v | apply State.addMeter_kept | apply Kept.foldl | apply Kept.ite
    | split
    | assumption

theorem State.tickCounts_kept {s₀ : State} (s : State) (m : TickMeasure) (hk : Kept s₀ s) :
    Kept s₀ (State.tickCounts s m) := by
  unfold State.tickCounts
  repeat' first
    | with_reducible first
      | assumption | intro v | apply State.countU_kept | apply Kept.foldl | apply Kept.ite
    | (extract_lets +onlyGivenNames x
       first
       | (refine Kept.cut (s₀ := s₀) x ?_ ?_; (on_goal 2 => intro hx; clear_value x); (on_goal 1 => unfold x))
       | skip)
    | split
    | assumption

theorem managementTick_kept {s₀ : State} (s : State) (m : TickMeasure) (hk : Kept s₀ s) : Kept s₀ (managementTick s m) := by
  unfold managementTick
  repeat' first
    | with_reducible first
      | assumption | intro v | apply State.advance_kept | apply State.checkMisses_kept | apply State.markBad_kept
      | apply State.tickApply_kept | apply State.tickBankPower_kept | apply State.tickCalib_kept | apply State.tickCap_kept
      | apply State.tickCongestion_kept | apply State.tickCounts_kept | apply State.tickHistory_kept
      | apply State.tickMetering_kept | apply State.tickModes_kept | apply State.tickOrphans_kept | apply State.tickPower_kept
      | apply State.tickPstate_kept | apply State.tickScrub_kept | apply State.tickSweep_kept | apply Kept.foldl
      | apply Kept.ite
    | split
    | assumption

theorem execManagementTick_kept {s₀ : State} (m : TickMeasure) (s : State) (hk : Kept s₀ s) :
    OutKept s₀ (execManagementTick m s) := by
  unfold execManagementTick
  repeat' first
    | with_reducible first
      | assumption | apply managementTick_kept | apply settle_kept | apply Kept.ite | apply OutKept.next

/-! ### Electric -/

theorem State.stopStages_kept {s₀ : State} (s : State) (hk : Kept s₀ s) : Kept s₀ (State.stopStages s) := by
  unfold State.stopStages
  repeat' first
    | with_reducible first
      | assumption | intro v | apply State.loseMain_kept | apply Kept.ite
    | (extract_lets +onlyGivenNames x
       first
       | (refine Kept.cut (s₀ := s₀) x ?_ ?_; (on_goal 2 => intro hx; clear_value x); (on_goal 1 => unfold x))
       | skip)
    | split
    | assumption

theorem mainEnChange_kept {s₀ : State} (s : State) (level : Bool) (hk : Kept s₀ s) : Kept s₀ (mainEnChange s level) := by
  unfold mainEnChange
  repeat' first
    | with_reducible first
      | assumption | intro v | apply State.stopStages_kept | apply Kept.ite
    | split
    | assumption

theorem execMainEnChange_kept {s₀ : State} (level : Bool) (s : State) (hk : Kept s₀ s) :
    OutKept s₀ (execMainEnChange level s) := by
  unfold execMainEnChange
  apply OutKept.next
  with_reducible apply mainEnChange_kept
  exact hk

theorem vin52Change_kept {s₀ : State} (s : State) (mv : Nat) (hk : Kept s₀ s) : Kept s₀ (vin52Change s mv) := by
  unfold vin52Change
  repeat' first
    | with_reducible first
      | assumption | intro v | apply State.stopStages_kept | apply Kept.ite
    | split
    | assumption

theorem execVin52Change_kept {s₀ : State} (mv : Nat) (s : State) (hk : Kept s₀ s) : OutKept s₀ (execVin52Change mv s) := by
  unfold execVin52Change
  apply OutKept.next
  with_reducible apply vin52Change_kept
  exact hk

theorem vsb12Loss_kept {s₀ : State} (s : State) (hk : Kept s₀ s) : Kept s₀ (vsb12Loss s) := by
  unfold vsb12Loss
  repeat' first
    | with_reducible first
      | assumption | intro v | apply State.powerOn_kept | apply Kept.ite
    | (extract_lets +onlyGivenNames x
       first
       | (refine Kept.cut (s₀ := s₀) x ?_ ?_; (on_goal 2 => intro hx; clear_value x); (on_goal 1 => unfold x))
       | skip)
    | split
    | assumption

theorem execVsb12Loss_kept {s₀ : State} (s : State) (hk : Kept s₀ s) : OutKept s₀ (execVsb12Loss s) := by
  unfold execVsb12Loss
  apply OutKept.next
  with_reducible apply vsb12Loss_kept
  exact hk

theorem sysclkLoss_kept {s₀ : State} (s : State) (hk : Kept s₀ s) : Kept s₀ (sysclkLoss s) := by
  unfold sysclkLoss
  repeat' first
    | with_reducible first
      | assumption | intro v | apply State.loseMain_kept | apply Kept.ite
    | (extract_lets +onlyGivenNames x
       first
       | (refine Kept.cut (s₀ := s₀) x ?_ ?_; (on_goal 2 => intro hx; clear_value x); (on_goal 1 => unfold x))
       | skip)
    | split
    | assumption

theorem execSysclkLoss_kept {s₀ : State} (s : State) (hk : Kept s₀ s) : OutKept s₀ (execSysclkLoss s) := by
  unfold execSysclkLoss
  apply OutKept.next
  with_reducible apply sysclkLoss_kept
  exact hk

theorem sysclkReturn_kept {s₀ : State} (s : State) (hk : Kept s₀ s) : Kept s₀ (sysclkReturn s) := by
  unfold sysclkReturn
  repeat' first
    | with_reducible first
      | assumption | intro v | apply State.powerOn_kept | apply Kept.ite
    | split
    | assumption

theorem execSysclkReturn_kept {s₀ : State} (s : State) (hk : Kept s₀ s) : OutKept s₀ (execSysclkReturn s) := by
  unfold execSysclkReturn
  repeat' first
    | with_reducible first
      | assumption | intro v | apply sysclkReturn_kept | apply Kept.ite | apply OutKept.next
    | split
    | assumption

theorem ethRefclkLoss_kept {s₀ : State} (s : State) (p : Nat) (hk : Kept s₀ s) : Kept s₀ (ethRefclkLoss s p) := by
  unfold ethRefclkLoss
  repeat' first
    | with_reducible first
      | assumption | apply State.updPort_kept | apply linkDown_kept

theorem execEthRefclkLoss_kept {s₀ : State} (port : Fin 4) (s : State) (hk : Kept s₀ s) :
    OutKept s₀ (execEthRefclkLoss port s) := by
  unfold execEthRefclkLoss
  apply OutKept.next
  with_reducible apply ethRefclkLoss_kept
  exact hk

theorem progEnChange_kept {s₀ : State} (s : State) (asserted : Bool) (hk : Kept s₀ s) :
    Kept s₀ (progEnChange s asserted) := by
  unfold progEnChange
  exact hk

theorem execProgEnChange_kept {s₀ : State} (asserted : Bool) (s : State) (hk : Kept s₀ s) :
    OutKept s₀ (execProgEnChange asserted s) := by
  unfold execProgEnChange
  apply OutKept.next
  with_reducible apply progEnChange_kept
  exact hk

end Sys2Proof.Machine
end

