-- ==== Sys2Proof/Laws/KeptExec.lean ====
section
/-!
SUPPORT. What one command keeps, and what one step keeps.
-/
namespace Sys2Proof.Machine

/-- A command that does not write the NVM keeps what `Kept` lists. -/
theorem exec_kept (c : Instr) (s : State) (h1 : ∀ m b, c ≠ .updateImageStart m b) (h2 : ∀ m b, c ≠ .updateImageData m b)
    (h3 : ∀ m b, c ≠ .updateImageFinish m b) : OutKept s (exec c s) := by
  have hr := Kept.refl s
  cases c
  · exact execManagementTick_kept _ _ hr
  · exact execShapeDefine_kept _ _ _ hr
  · exact execMapSet_kept _ _ _ _ hr
  · exact execAppend_kept _ _ _ hr
  · exact execAppendImm_kept _ _ _ hr
  · exact execRead_kept _ _ _ hr
  · exact execSeal_kept _ _ _ hr
  · exact execRetire_kept _ _ _ hr
  · exact execReseatCopy_kept _ _ _ hr
  · exact execReseatPrepare_kept _ _ _ hr
  · exact execReseatCopyDone_kept _ _ hr
  · exact execReseatCutover_kept _ _ _ hr
  · exact execReseatCommit_kept _ _ _ hr
  · exact execReseatRelease_kept _ _ _ hr
  · exact execReseatDeadline_kept _ _ hr
  · exact execAttend_kept _ _ _ _ hr
  · exact execPartialRecv_kept _ _ _ hr
  · exact execNotice_kept _ _ _ hr
  · exact execResponse_kept _ _ _ hr
  · exact execWrite_kept _ _ _ hr
  · exact execWriteImm_kept _ _ _ hr
  · exact execGapHoldExpiry_kept _ _ _ hr
  · exact execRequestDeadline_kept _ _ hr
  · exact execJobAdmit_kept _ _ hr
  · exact execCoreClampPoint_kept _ _ hr
  · exact execContextSaveDone_kept _ _ hr
  · exact execJobResume_kept _ _ _ hr
  · exact execClockSwitch_kept _ _ hr
  · exact execScorerRunDone_kept _ _ _ _ hr
  · exact execSequenceRetire_kept _ _ _ hr
  · exact execBscFence_kept _ _ _ hr
  · exact execFenceComplete_kept _ _ hr
  · exact execCrossingEnter_kept _ _ _ hr
  · exact execCrossingWindowEnd_kept _ _ _ hr
  · exact execRefreshAbort_kept _ _ _ hr
  · exact execBscChmode_kept _ _ _ _ hr
  · exact execModeChangeComplete_kept _ _ _ hr
  · exact execBscBistStart_kept _ _ _ hr
  · exact execBistComplete_kept _ _ _ _ hr
  · exact execDmaCopy_kept _ _ _ _ hr
  · exact execFrameSpill_kept _ _ _ _ hr
  · exact execFrameFill_kept _ _ _ _ hr
  · exact execDmaEngineStart_kept _ _ _ hr
  · exact execDmaTransferEnd_kept _ _ _ hr
  · exact execDmaFault_kept _ _ _ _ _ _ _ hr
  · exact execDmaResume_kept _ _ _ _ _ hr
  · exact execDmaAbort_kept _ _ _ _ _ hr
  · exact execNotReadyEnd_kept _ _ hr
  · exact execFrameScrubDone_kept _ _ _ hr
  · exact execHsmWrite_kept _ _ hr
  · exact execHsmRead_kept _ _ hr
  · exact execTicketHandoff_kept _ _ _ _ hr
  · exact execPoolFailure_kept _ _ _ _ _ _ hr
  · exact execTableLoad_kept _ _ _ hr
  · exact execTableLoadComplete_kept _ _ hr
  · exact execTableRelease_kept _ _ _ hr
  · exact execCoderStart_kept _ _ _ hr
  · exact execCoderPageCommit_kept _ _ _ _ hr
  · exact execRecodeSweepStart_kept _ _ _ hr
  · exact execRecodeSweepEnd_kept _ _ hr
  · exact execFrameReceive_kept _ _ _ hr
  · exact execHelloOpen_kept _ _ _ hr
  · exact execHelloAccept_kept _ _ _ hr
  · exact execHelloClose_kept _ _ _ hr
  · exact execHelloReset_kept _ _ _ hr
  · exact execAck_kept _ _ _ _ _ _ hr
  · exact execNak_kept _ _ _ _ hr
  · exact execPacketSend_kept _ _ _ hr
  · exact execRtoExpiry_kept _ _ hr
  · exact execAckDelayExpiry_kept _ _ hr
  · exact execErrHoldExpiry_kept _ _ hr
  · exact execIdleClose_kept _ _ hr
  · exact execCtxBusyRetry_kept _ _ _ hr
  · exact execContextFetchDone_kept _ _ hr
  · exact execConnLoad_kept _ _ hr
  · exact execSetCwnd_kept _ _ hr
  · exact execContextRegionCopyDone_kept _ _ hr
  · exact execPfcReceive_kept _ _ _ _ _ hr
  · exact execPfcPauseExpiry_kept _ _ _ hr
  · exact execPfcRefresh_kept _ _ hr
  · exact execFrameTransmit_kept _ _ _ hr
  · exact execLinkDown_kept _ _ hr
  · exact execLinkUp_kept _ _ hr
  · exact execGateEntryExpiry_kept _ _ hr
  · exact execGclEnable_kept _ _ hr
  · exact execGclSwap_kept _ _ hr
  · exact execInjectorExpiry_kept _ _ hr
  · exact execReorderTimeout_kept _ _ hr
  · exact execTenantCreate_kept _ _ _ hr
  · exact execTenantDrain_kept _ _ _ hr
  · exact execDrainWorkEnded_kept _ _ hr
  · exact execDrainScrubDone_kept _ _ hr
  · exact execKeyRotatePageKey_kept _ _ _ hr
  · exact execKeyRotateWireEpoch_kept _ _ _ hr
  · exact execKeySweepPage_kept _ _ _ _ _ _ hr
  · exact execKeyGenRetire_kept _ _ hr
  · exact execSessionExpiry_kept _ _ hr
  · exact execSqTailDoorbell_kept _ _ _ _ hr
  · exact execCqHeadDoorbell_kept _ _ _ _ hr
  · exact execSubmissionFetch_kept _ _ _ _ _ _ hr
  · exact execCompletionPost_kept _ _ _ hr
  · exact execCoalTimerExpiry_kept _ _ _ hr
  · exact execQueueCreate_kept _ _ _ hr
  · exact execQueueDelete_kept _ _ _ hr
  · exact execFuncMode_kept _ _ _ hr
  · exact execAssistReply_kept _ _ _ hr
  · exact execAssistTimeout_kept _ _ hr
  · exact execSnapshot_kept _ _ _ hr
  · exact execAttest_kept _ _ _ hr
  · exact execPing_kept _ _ hr
  · exact execFnInfo_kept _ _ hr
  · exact execAgentStatus_kept _ _ hr
  · exact execMbxAgentAnswer_kept _ _ hr
  · exact execMbxInTimeout_kept _ _ hr
  · exact execMbxOutPost_kept _ _ hr
  · exact execMbxOutAck_kept _ _ _ hr
  · exact execOutboundTaken_kept _ _ hr
  · exact execEqDrained_kept _ _ hr
  · exact execMbxOutTimeout_kept _ _ hr
  · exact execFlr_kept _ _ hr
  · exact execAdmQueueCtl_kept _ _ _ hr
  · exact execTdiLeaveRun_kept _ _ hr
  · exact execPcieLinkTrained_kept _ _ _ hr
  · exact execPerst_kept _ hr
  · exact execRegisterWrite_kept _ _ _ _ _ _ hr
  · exact execCounterRead_kept _ _ _ hr
  · exact execCounterOvfClear_kept _ _ _ hr
  · exact execSnapshotRegStart_kept _ _ hr
  · exact execSnapshotDone_kept _ hr
  · exact execFmodeModeWrite_kept _ _ hr
  · exact execRebalance_kept _ _ hr
  · exact execSetPowerCap_kept _ _ _ hr
  · exact execSensorReading_kept _ _ _ _ hr
  · exact execSensorInvalidTimeout_kept _ _ hr
  · exact execQOffExitDone_kept _ _ hr
  · exact execStackTrainingDone_kept _ _ _ hr
  · exact execPowerOnReset_kept _ hr
  · exact execMainPowerGood_kept _ hr
  · exact execBootWatchdog_kept _ hr
  · exact execStartupPhaseDone_kept _ hr
  · exact execAlleyFrame_kept _ _ _ hr
  · exact execEnum_kept _ _ _ hr
  · exact execSessionOpen_kept _ _ _ hr
  · exact execGetStatus_kept _ _ _ hr
  · exact execGetTelemetry_kept _ _ _ hr
  · exact execRouteSet_kept _ _ _ hr
  · exact execGetAttestation_kept _ _ _ hr
  · exact execArmFaultInject_kept _ _ _ hr
  · exact execMeterRead_kept _ _ _ hr
  · exact absurd rfl (h1 _ _)
  · exact absurd rfl (h2 _ _)
  · exact absurd rfl (h3 _ _)
  · exact execReset_kept _ _ _ hr
  · exact execSetNodeId_kept _ _ _ hr
  · exact execDirRebuildDone_kept _ _ hr
  · exact execDirXlRestore_kept _ _ hr
  · exact execDirXlRebuild_kept _ _ hr
  · exact execCoreTestStart_kept _ _ _ hr
  · exact execCoreTestDone_kept _ _ _ hr
  · exact execCoreFault_kept _ _ hr
  · exact execHbmUncorrectable_kept _ _ _ hr
  · exact execStackFault_kept _ _ hr
  · exact execQuarterFault_kept _ _ hr
  · exact execStackDrainDone_kept _ _ hr
  · exact execSquareHeartbeatLoss_kept _ hr
  · exact execMainEnChange_kept _ _ hr
  · exact execVin52Change_kept _ _ hr
  · exact execVsb12Loss_kept _ hr
  · exact execSysclkLoss_kept _ hr
  · exact execSysclkReturn_kept _ hr
  · exact execEthRefclkLoss_kept _ _ hr
  · exact execProgEnChange_kept _ _ hr
  · exact execPolicedNoticeGapEnd_kept _ _ hr
  · exact execPcieRefclkLoss_kept _ hr
  · exact execTdispRequest_kept _ _ _ hr

/-- Any command keeps it but for the NVM, whose canonical form it keeps. -/
theorem exec_keptButNvm (c : Instr) (s t : State) (h : exec c s = .next t) : KeptButNvm s t := by
  by_cases h1 : ∃ m b, c = .updateImageStart m b
  · obtain ⟨m, b, rfl⟩ := h1; exact execUpdateImageStart_kept m b h
  by_cases h2 : ∃ m b, c = .updateImageData m b
  · obtain ⟨m, b, rfl⟩ := h2; exact execUpdateImageData_kept m b h
  by_cases h3 : ∃ m b, c = .updateImageFinish m b
  · obtain ⟨m, b, rfl⟩ := h3; exact execUpdateImageFinish_kept m b h
  exact (exec_kept c s (fun m b e => h1 ⟨m, b, e⟩) (fun m b e => h2 ⟨m, b, e⟩) (fun m b e => h3 ⟨m, b, e⟩) t h).butNvm

end Sys2Proof.Machine
end

