-- ==== Sys2Proof/Laws/Reports.lean ====
section
/-!
SUPPORT. Counters, events and completions only report: they leave the rest of the state alone.
-/
namespace Sys2Proof

open Sys2Proof.Machine

/-! ### Functions -/

theorem FnPosts.refl (F : Fn) : FnPosts F F := ⟨rfl, fun _ => rfl, fun _ _ h _ => h⟩

theorem FnPosts.trans {F G H : Fn} (a : FnPosts F G) (b : FnPosts G H) : FnPosts F H :=
  ⟨by rw [b.1, a.1], fun q => (b.2.1 q).trans (a.2.1 q), fun q r h k => b.2.2 q r (a.2.2 q r h k) k⟩

theorem FnPosts.reports {F G : Fn} (h : FnPosts F G) : FnReports F G := ⟨by rw [h.1], h.2.1⟩

theorem FnPosts.sqs {F G : Fn} (h : FnPosts F G) : G.sqs = F.sqs := by rw [h.1]

theorem FnReports.refl (F : Fn) : FnReports F F := ⟨rfl, fun _ => rfl⟩

theorem FnReports.trans {F G H : Fn} (a : FnReports F G) (b : FnReports G H) : FnReports F H :=
  ⟨by rw [b.1, a.1], fun q => (b.2 q).trans (a.2 q)⟩

/-! ### States -/

theorem Posts.refl (s : State) : Posts s s := ⟨rfl, fun _ => FnPosts.refl _⟩

theorem Posts.trans {s t u : State} (a : Posts s t) (b : Posts t u) : Posts s u :=
  ⟨by rw [b.1, a.1], fun f => (a.2 f).trans (b.2 f)⟩

theorem Posts.reports {s t : State} (h : Posts s t) : Reports s t := ⟨by rw [h.1], fun f => (h.2 f).reports⟩

theorem Reports.refl (s : State) : Reports s s := ⟨rfl, fun _ => FnReports.refl _⟩

theorem Reports.trans {s t u : State} (a : Reports s t) (b : Reports t u) : Reports s u :=
  ⟨by rw [b.1, a.1], fun f => (a.2 f).trans (b.2 f)⟩

theorem Reports.time {s t : State} (h : Reports s t) : t.time = s.time := by rw [h.1]
theorem Reports.ticks {s t : State} (h : Reports s t) : t.ticks = s.ticks := by rw [h.1]
theorem Reports.free {s t : State} (h : Reports s t) : t.free = s.free := by rw [h.1]
theorem Reports.pending {s t : State} (h : Reports s t) : t.pending = s.pending := by rw [h.1]
theorem Reports.inbox {s t : State} (h : Reports s t) : t.inbox = s.inbox := by rw [h.1]
theorem Reports.unitErrs {s t : State} (h : Reports s t) : t.unitErrs = s.unitErrs := by rw [h.1]
theorem Reports.quarters {s t : State} (h : Reports s t) : t.quarters = s.quarters := by rw [h.1]
theorem Reports.stk {s t : State} (h : Reports s t) : t.stk = s.stk := by rw [h.1]
theorem Reports.hbm {s t : State} (h : Reports s t) : t.hbm = s.hbm := by rw [h.1]
theorem Reports.sec {s t : State} (h : Reports s t) : t.sec = s.sec := by rw [h.1]
theorem Reports.pwr {s t : State} (h : Reports s t) : t.pwr = s.pwr := by rw [h.1]
theorem Reports.boot {s t : State} (h : Reports s t) : t.boot = s.boot := by rw [h.1]
theorem Reports.pins {s t : State} (h : Reports s t) : t.pins = s.pins := by rw [h.1]
theorem Reports.loads {s t : State} (h : Reports s t) : t.loads = s.loads := by rw [h.1]
theorem Reports.tickMeter {s t : State} (h : Reports s t) : t.tickMeter = s.tickMeter := by rw [h.1]
theorem Reports.finjPermit {s t : State} (h : Reports s t) : t.finjPermit = s.finjPermit := by rw [h.1]
theorem Reports.fmodeDenied {s t : State} (h : Reports s t) : t.fmodeDenied = s.fmodeDenied := by rw [h.1]
theorem Reports.nextId {s t : State} (h : Reports s t) : t.nextId = s.nextId := by rw [h.1]
theorem Reports.linkUp {s t : State} (h : Reports s t) : t.host.linkUp = s.host.linkUp := by rw [h.1]
theorem Reports.assists {s t : State} (h : Reports s t) : t.host.assists = s.host.assists := by rw [h.1]
theorem Reports.regVal {s t : State} (h : Reports s t) : t.regs.val = s.regs.val := by rw [h.1]
theorem Reports.staged {s t : State} (h : Reports s t) : t.regs.staged = s.regs.staged := by rw [h.1]
theorem Reports.snap {s t : State} (h : Reports s t) : t.regs.snap = s.regs.snap := by rw [h.1]
theorem Reports.reg {s t : State} (h : Reports s t) (c q o : Nat) : t.reg c q o = s.reg c q o := by unfold State.reg; rw [h.regVal]
theorem Reports.qtr {s t : State} (h : Reports s t) (q : Nat) : t.qtr q = s.qtr q := by unfold State.qtr; rw [h.quarters]
theorem Reports.conn {s t : State} (h : Reports s t) (i : Nat) : t.conn i = s.conn i := by unfold State.conn; rw [h.qtr]
theorem Reports.tenant {s t : State} (h : Reports s t) (n : Nat) : t.tenant n = s.tenant n := by unfold State.tenant; rw [h.sec]
theorem Reports.stack {s t : State} (h : Reports s t) (n : Nat) : t.stack n = s.stack n := by unfold State.stack; rw [h.stk]

theorem Posts.time {s t : State} (h : Posts s t) : t.time = s.time := by rw [h.1]
theorem Posts.ticks {s t : State} (h : Posts s t) : t.ticks = s.ticks := by rw [h.1]
theorem Posts.free {s t : State} (h : Posts s t) : t.free = s.free := by rw [h.1]
theorem Posts.pending {s t : State} (h : Posts s t) : t.pending = s.pending := by rw [h.1]
theorem Posts.inbox {s t : State} (h : Posts s t) : t.inbox = s.inbox := by rw [h.1]
theorem Posts.unitErrs {s t : State} (h : Posts s t) : t.unitErrs = s.unitErrs := by rw [h.1]
theorem Posts.quarters {s t : State} (h : Posts s t) : t.quarters = s.quarters := by rw [h.1]
theorem Posts.stk {s t : State} (h : Posts s t) : t.stk = s.stk := by rw [h.1]
theorem Posts.hbm {s t : State} (h : Posts s t) : t.hbm = s.hbm := by rw [h.1]
theorem Posts.sec {s t : State} (h : Posts s t) : t.sec = s.sec := by rw [h.1]
theorem Posts.pwr {s t : State} (h : Posts s t) : t.pwr = s.pwr := by rw [h.1]
theorem Posts.boot {s t : State} (h : Posts s t) : t.boot = s.boot := by rw [h.1]
theorem Posts.pins {s t : State} (h : Posts s t) : t.pins = s.pins := by rw [h.1]
theorem Posts.loads {s t : State} (h : Posts s t) : t.loads = s.loads := by rw [h.1]
theorem Posts.tickMeter {s t : State} (h : Posts s t) : t.tickMeter = s.tickMeter := by rw [h.1]
theorem Posts.finjPermit {s t : State} (h : Posts s t) : t.finjPermit = s.finjPermit := by rw [h.1]
theorem Posts.fmodeDenied {s t : State} (h : Posts s t) : t.fmodeDenied = s.fmodeDenied := by rw [h.1]
theorem Posts.nextId {s t : State} (h : Posts s t) : t.nextId = s.nextId := by rw [h.1]
theorem Posts.linkUp {s t : State} (h : Posts s t) : t.host.linkUp = s.host.linkUp := by rw [h.1]
theorem Posts.assists {s t : State} (h : Posts s t) : t.host.assists = s.host.assists := by rw [h.1]
theorem Posts.regVal {s t : State} (h : Posts s t) : t.regs.val = s.regs.val := by rw [h.1]
theorem Posts.staged {s t : State} (h : Posts s t) : t.regs.staged = s.regs.staged := by rw [h.1]
theorem Posts.snap {s t : State} (h : Posts s t) : t.regs.snap = s.regs.snap := by rw [h.1]
theorem Posts.reg {s t : State} (h : Posts s t) (c q o : Nat) : t.reg c q o = s.reg c q o := by unfold State.reg; rw [h.regVal]
theorem Posts.qtr {s t : State} (h : Posts s t) (q : Nat) : t.qtr q = s.qtr q := by unfold State.qtr; rw [h.quarters]
theorem Posts.conn {s t : State} (h : Posts s t) (i : Nat) : t.conn i = s.conn i := by unfold State.conn; rw [h.qtr]
theorem Posts.tenant {s t : State} (h : Posts s t) (n : Nat) : t.tenant n = s.tenant n := by unfold State.tenant; rw [h.sec]
theorem Posts.stack {s t : State} (h : Posts s t) (n : Nat) : t.stack n = s.stack n := by unfold State.stack; rw [h.stk]

theorem Posts.mem {s t : State} (h : Posts s t) : t.host.mem = s.host.mem := by rw [h.1]

/-! ### What only posts -/

theorem Posts.setCounter {s₀ s : State} (a : Nat) (c : Counter) (h : Posts s₀ s) : Posts s₀ (s.setCounter a c) :=
  h.trans ⟨rfl, fun _ => FnPosts.refl _⟩

theorem Posts.bumpRaw {s₀ s : State} (a k : Nat) (h : Posts s₀ s) : Posts s₀ (s.bumpRaw a k) := h.setCounter _ _

theorem Posts.updFn {s₀ s : State} (n : Nat) (g : Fn → Fn) (w : FnPosts (s.fn n) (g (s.fn n))) (h : Posts s₀ s) :
    Posts s₀ (s.updFn n g) := by
  refine h.trans ⟨rfl, fun f => ?_⟩
  by_cases e : f = n
  · subst e; simpa using w
  · rw [State.fn_updFn_ne s f n g e]; exact FnPosts.refl _

theorem FnPosts.irqs {F G : Fn} (h : FnPosts F G) (t : Tab Nat) : FnPosts F { G with irqs := t } :=
  h.trans ⟨rfl, fun _ => rfl, fun _ _ h _ => h⟩

/-- The event queue of a function has kind 2. -/
theorem Fn.eq_kind {F : Fn} {qid : Nat} {r : Ring} (h : F.eq = some qid) (g : F.rings.look qid = some r) : r.kind = 2 := by
  unfold Fn.eq at h
  cases e : F.rings.find? (fun e => (F.rings.look e.1).any fun r => r.kind == 2) with
  | none => rw [e] at h; cases h
  | some x =>
    rw [e] at h
    cases h
    have h1 := List.find?_some e
    rw [g] at h1
    simpa using h1

theorem FnPosts.ringPush {F : Fn} {qid : Nat} (h : F.eq = some qid) (item : Bool → RingItem) (now : Nat) :
    FnPosts F (F.ringPush qid item now) := by
  unfold Fn.ringPush
  split
  · exact FnPosts.refl F
  · rename_i r g
    have k := Fn.eq_kind h g
    have h1 : FnPosts F { F with rings := F.rings.put qid (r.push item now) } := by
      refine ⟨rfl, fun q => ?_, fun q r' hq hk => ?_⟩
      · by_cases e : q = qid
        · subst e; simp [Tab.look_put_self, g]; rfl
        · simp [Tab.look_put_ne q qid _ F.rings e]
      · have e : q ≠ qid := by
          intro e; subst e; rw [g] at hq; cases hq; exact hk k
        simpa [Tab.look_put_ne q qid _ F.rings e] using hq
    dsimp only
    split
    · exact h1.irqs _
    · exact h1

theorem FnPosts.ringOut (F : Fn) (b : Nat) : FnPosts F (F.ringOut b) := by
  unfold Fn.ringOut
  dsimp only
  split
  · exact ⟨rfl, fun _ => rfl, fun _ _ h _ => h⟩
  · exact ⟨rfl, fun _ => rfl, fun _ _ h _ => h⟩

theorem Posts.flushLost {s₀ s : State} (f : Nat) (h : Posts s₀ s) : Posts s₀ (s.flushLost f) := by
  unfold State.flushLost
  dsimp only
  split
  · exact h
  · split
    · exact h
    · split
      · refine ((h.updFn _ _ ?_).bumpRaw _ _).bumpRaw _ _
        exact ((FnPosts.ringPush ‹_› _ _).trans (FnPosts.ringOut _ _)).trans ⟨rfl, fun _ => rfl, fun _ _ h _ => h⟩
      · exact h

theorem Posts.postRaw {s₀ s : State} (f : Nat) (e : Ev) (h : Posts s₀ s) : Posts s₀ (s.postRaw f e) := by
  have h1 := h.flushLost f
  have h2 : Posts s₀ (((s.flushLost f).updFn f fun F => { F with lost := F.lost + 1 }).bumpRaw (evtCnt 1) 1) :=
    (h1.updFn _ _ ⟨rfl, fun _ => rfl, fun _ _ h _ => h⟩).bumpRaw _ _
  unfold State.postRaw
  dsimp only
  split
  · exact h2
  · split
    · exact h2
    · split
      · exact h2
      · exact (h1.updFn _ _ (FnPosts.ringPush ‹_› _ _)).bumpRaw _ _

theorem Posts.post {s₀ s : State} (f : Nat) (e : Ev) (h : Posts s₀ s) : Posts s₀ (s.post f e) := by
  have h1 := h.postRaw f e
  have h2 : ∀ b : Bool, Posts s₀ (if b then (s.postRaw f e).postRaw 0 (counterEv bEVT 0 0x4000) else s.postRaw f e) := by
    intro b; split
    · exact h1.postRaw _ _
    · exact h1
  unfold State.post
  dsimp only
  split
  · exact (h2 _).postRaw _ _
  · exact h2 _

theorem Posts.bumpOff {s₀ s : State} (code q off k : Nat) (h : Posts s₀ s) : Posts s₀ (s.bumpOff code q off k) := by
  unfold State.bumpOff
  dsimp only
  split
  · exact ((h.setCounter _ _).post _ _).bumpRaw _ _
  · exact h.setCounter _ _

theorem Posts.count {s₀ s : State} (code q n k : Nat) (h : Posts s₀ s) : Posts s₀ (s.count code q n k) := h.bumpOff _ _ _ _

theorem Posts.countU {s₀ s : State} (code q u n k : Nat) (h : Posts s₀ s) : Posts s₀ (s.countU code q u n k) := h.bumpOff _ _ _ _

theorem Posts.postFor {s₀ s : State} (t f : Nat) (e : Ev) (h : Posts s₀ s) : Posts s₀ (s.postFor t f e) := by
  unfold State.postFor; split
  · exact h.post _ _
  · exact h.post _ _

theorem Posts.postTenant {s₀ s : State} (t : Nat) (e : Ev) (h : Posts s₀ s) : Posts s₀ (s.postTenant t e) := by
  unfold State.postTenant; dsimp only; split
  · exact (h.post _ _).post _ _
  · exact h.post _ _

theorem Posts.postFault {s₀ s : State} (c u a b q : Nat) (h : Posts s₀ s) : Posts s₀ (s.postFault c u a b q) := h.post _ _

theorem Posts.postPower {s₀ s : State} (c u a b : Nat) (h : Posts s₀ s) : Posts s₀ (s.postPower c u a b) := h.post _ _

theorem Posts.badDoorbell {s₀ s : State} (f qid kind value : Nat) (h : Posts s₀ s) :
    Posts s₀ (badDoorbell s f qid kind value) := (h.count _ _ _ _).post _ _

/-! ### What only reports -/

theorem Reports.posts {s₀ s t : State} (h : Reports s₀ s) (p : Posts s t) : Reports s₀ t := h.trans p.reports

theorem Reports.updFn {s₀ s : State} (n : Nat) (g : Fn → Fn) (w : FnReports (s.fn n) (g (s.fn n))) (h : Reports s₀ s) :
    Reports s₀ (s.updFn n g) := by
  refine h.trans ⟨rfl, fun f => ?_⟩
  by_cases e : f = n
  · subst e; simpa using w
  · rw [State.fn_updFn_ne s f n g e]; exact FnReports.refl _

/-- Replacing a ring by one with the same fixed part. -/
theorem FnReports.ringPut {F : Fn} {qid : Nat} {r r' : Ring} (h : F.rings.look qid = some r) (e : r'.fixed = r.fixed) :
    FnReports F { F with rings := F.rings.put qid r' } := by
  refine ⟨rfl, fun q => ?_⟩
  by_cases k : q = qid
  · subst k; simp [Tab.look_put_self, h, e]
  · simp [Tab.look_put_ne q qid r' F.rings k]

theorem FnReports.irqs {F G : Fn} (h : FnReports F G) (t : Tab Nat) : FnReports F { G with irqs := t } :=
  h.trans ⟨rfl, fun _ => rfl⟩

theorem FnReports.ringPush (F : Fn) (qid : Nat) (item : Bool → RingItem) (now : Nat) : FnReports F (F.ringPush qid item now) := by
  unfold Fn.ringPush
  split
  · exact FnReports.refl F
  · rename_i r h
    have h1 : FnReports F { F with rings := F.rings.put qid (r.push item now) } := FnReports.ringPut h rfl
    dsimp only
    split
    · exact h1.irqs _
    · exact h1

theorem Reports.count {s₀ s : State} (code q n k : Nat) (h : Reports s₀ s) : Reports s₀ (s.count code q n k) :=
  h.posts ((Posts.refl s).count _ _ _ _)

theorem Reports.post {s₀ s : State} (f : Nat) (e : Ev) (h : Reports s₀ s) : Reports s₀ (s.post f e) :=
  h.posts ((Posts.refl s).post _ _)

theorem Reports.hostWrite {s₀ s : State} (f a : Nat) (b : Bytes) (h : Reports s₀ s) : Reports s₀ (s.hostWrite f a b) :=
  h.trans ⟨rfl, fun _ => FnReports.refl _⟩

theorem Reports.writeResult {s₀ s : State} (c : HostCmd) (r : Bytes) (h : Reports s₀ s) : Reports s₀ (s.writeResult c r).1 := by
  unfold State.writeResult
  dsimp only
  split
  · exact (h.hostWrite _ _ _).post _ _
  · exact h.hostWrite _ _ _

theorem Reports.placeCpl {s₀ s : State} (f sq : Nat) (c : Cpl) (h : Reports s₀ s) : Reports s₀ (s.placeCpl f sq c) := by
  unfold State.placeCpl
  dsimp only
  split
  · exact h
  · split
    · exact h
    · rename_i r hr
      split
      · refine (h.updFn _ _ ?_).count _ _ _ _
        exact (FnReports.ringPush _ _ _ _).trans ⟨rfl, fun _ => rfl⟩
      · exact h.updFn _ _ (FnReports.ringPut hr rfl)

theorem Reports.completeCore {s₀ s : State} (c : HostCmd) (st d : Nat) (r : Bytes) (h : Reports s₀ s) :
    Reports s₀ (s.completeCore c st d r) := by
  have h1 := h.writeResult c r
  unfold State.completeCore
  split
  · dsimp only
    have h2 : ∀ p : Prop, ∀ [Decidable p], Reports s₀ (if p then (s.writeResult c r).1.count bHQ 0 3 else (s.writeResult c r).1) := by
      intro p _; split
      · exact h1.count _ _ _ _
      · exact h1
    refine Reports.placeCpl _ _ _ ?_
    split
    · exact (h2 _).count _ _ _ _
    · exact h2 _
  · split
    · exact h.updFn _ _ ⟨rfl, fun _ => rfl⟩
    · exact h

theorem Reports.foldl {s₀ s : State} {α : Type} {g : State → α → State} {l : List α}
    (hg : ∀ t a, Reports s₀ t → Reports s₀ (g t a)) (h : Reports s₀ s) : Reports s₀ (l.foldl g s) := by
  induction l generalizing s with
  | nil => exact h
  | cons a l ih => exact ih (hg _ _ h)

theorem Reports.endDeletes {s₀ : State} (n : Nat) (s : State) (f : Nat) (h : Reports s₀ s) : Reports s₀ (State.endDeletes n s f) := by
  induction n generalizing s with
  | zero => exact h
  | succ n ih =>
    unfold State.endDeletes
    split
    · exact h
    · refine ih _ (Reports.updFn _ _ ⟨rfl, fun _ => rfl⟩ ?_)
      exact Reports.foldl (fun t a w => w.completeCore _ _ _ _) (h.updFn _ _ ⟨rfl, fun _ => rfl⟩)

/-- Completing a command only reports. -/
theorem Reports.complete {s₀ s : State} (c : HostCmd) (st d : Nat) (r : Bytes) (h : Reports s₀ s) :
    Reports s₀ (s.complete c st d r) := (h.completeCore _ _ _ _).endDeletes _ _ _


/-! ### A completed command (R341) -/

theorem State.writeResult_posts (s : State) (c : HostCmd) (r : Bytes) :
    ∃ m, Posts { s with host := { s.host with mem := m } } (s.writeResult c r).1 := by
  unfold State.writeResult
  dsimp only
  split
  · exact ⟨_, (Posts.refl _).post _ _⟩
  · exact ⟨_, Posts.refl _⟩

/-- `newestCpl` of a state whose CQ has just been written. -/
theorem newestCpl_of {s : State} {f sq : Nat} {S : Sq} {r : Ring} {c : Cpl} (hS : (s.fn f).sqs.look sq = some S)
    (hr : (s.fn f).rings.look S.cq = some r)
    (h : r.waiting.getLast? = some c ∨ (r.waiting = [] ∧ ∃ p, r.items.getLast? = some (.cpl p c))) : newestCpl s f sq = some c := by
  unfold newestCpl
  rw [hS]
  dsimp only
  rw [hr]
  rcases h with h | ⟨h1, p, h2⟩
  · dsimp only; rw [h]
  · dsimp only; rw [h1, h2]; rfl

/-- A completion is placed in its CQ. -/
theorem placeCpl_newest {s : State} {f sq : Nat} {S : Sq} {r : Ring} (c : Cpl) (hS : (s.fn f).sqs.look sq = some S)
    (hr : (s.fn f).rings.look S.cq = some r) (hk : r.kind = 1) : newestCpl (s.placeCpl f sq c) f sq = some c := by
  unfold State.placeCpl
  simp only [hS, hr]
  split
  · rename_i hw
    obtain ⟨hw, -⟩ := hw
    have hp : (s.fn f).ringPush S.cq (fun p => .cpl p c) s.time =
        (let F := { s.fn f with rings := (s.fn f).rings.put S.cq (r.push (fun p => .cpl p c) s.time) }
         if r.fires then F.irq r.vector else F) := by
      unfold Fn.ringPush; rw [hr]
    have hpr : ((s.fn f).ringPush S.cq (fun p => .cpl p c) s.time).rings.look S.cq = some (r.push (fun p => .cpl p c) s.time) := by
      rw [hp]; dsimp only; split
      · simp [Fn.irq, Tab.look_put_self]
      · simp [Tab.look_put_self]
    have hq := ((Posts.refl (s.updFn f fun F =>
      { F.ringPush S.cq (fun p => .cpl p c) s.time with
        sqs := (F.ringPush S.cq (fun p => .cpl p c) s.time).sqs.put sq { S with live := S.live - 1 } })).count bHQ 0 1 1).2 f
    refine newestCpl_of (S := { S with live := S.live - 1 }) (r := r.push (fun p => .cpl p c) s.time) ?_ ?_ ?_
    · rw [hq.sqs]; simp [Tab.look_put_self]
    · refine hq.2.2 _ _ ?_ ?_
      · simpa using hpr
      · show r.kind ≠ 2; omega
    · exact Or.inr ⟨by simpa [Ring.push] using hw, r.phase, by simp [Ring.push]⟩
  · refine newestCpl_of (S := S) (r := { r with waiting := r.waiting ++ [c] }) ?_ ?_ ?_
    · simpa using hS
    · simp [Tab.look_put_self]
    · left; simp

theorem endDeletes_none (n : Nat) (s : State) (f : Nat) (h : ∀ e ∈ (s.fn f).sqs, e.2.deleting = []) : State.endDeletes n s f = s := by
  cases n with
  | zero => rfl
  | succ n =>
    have e : (s.fn f).sqs.find? (fun e => !e.2.deleting.isEmpty && e.2.drained e.1) = none := by
      rw [List.find?_eq_none]; intro x hx; simp [h x hx]
    unfold State.endDeletes
    rw [e]

theorem placeCpl_deleting {s : State} {f sq : Nat} (c : Cpl) (h : ∀ e ∈ (s.fn f).sqs, e.2.deleting = []) :
    ∀ e ∈ ((s.placeCpl f sq c).fn f).sqs, e.2.deleting = [] := by
  unfold State.placeCpl
  dsimp only
  split
  · exact h
  · rename_i S hS
    split
    · exact h
    · split
      · have hq := ((Posts.refl (s.updFn f fun F =>
          { F.ringPush S.cq (fun p => .cpl p c) s.time with
            sqs := (F.ringPush S.cq (fun p => .cpl p c) s.time).sqs.put sq { S with live := S.live - 1 } })).count bHQ 0 1 1).2 f
        intro e he
        rw [hq.sqs] at he
        simp only [State.fn_updFn_self] at he
        rcases Tab.mem_put he with he | he
        · refine h e ?_
          have : ((s.fn f).ringPush S.cq (fun p => .cpl p c) s.time).sqs = (s.fn f).sqs := by
            unfold Fn.ringPush; split
            · rfl
            · dsimp only; split <;> rfl
          rwa [this] at he
        · rw [he]
          exact h (sq, S) (Tab.look_mem hS)
      · intro e he
        simp only [State.fn_updFn_self] at he
        exact h e he

/-- A completed command is answered: its completion is in its CQ and nothing else of the state has changed (R341). -/
theorem complete_answered (s : State) (h : HostCmd) (st d : Nat) (r : Bytes) : Answered s h st d (s.complete h st d r) := by
  refine ⟨(Reports.refl s).complete h st d r, fun ⟨hw, hd, S, q, hS, hq, hk⟩ => ?_⟩
  obtain ⟨m, hm⟩ := State.writeResult_posts s h r
  have key : ∀ b c : Bool, ∃ u, Posts { s with host := { s.host with mem := m } } u ∧
      (if b then (if c then (s.writeResult h r).1.count bHQ 0 3 else (s.writeResult h r).1).count bHQ 0 4
       else if c then (s.writeResult h r).1.count bHQ 0 3 else (s.writeResult h r).1) = u := by
    intro b c
    refine ⟨_, ?_, rfl⟩
    have h1 : Posts { s with host := { s.host with mem := m } }
        (if c then (s.writeResult h r).1.count bHQ 0 3 else (s.writeResult h r).1) := by
      split
      · exact hm.count _ _ _ _
      · exact hm
    split
    · exact h1.count _ _ _ _
    · exact h1
  obtain ⟨u, hu, he⟩ := key (s.writeResult h r).2 (decide (r.length > h.resultLen))
  have hc : s.completeCore h st d r = u.placeCpl h.fn h.sq
      { cid := h.cid, sq := h.sq, sqHead := h.head, status := st, detail := d, bytes := r.length
        trunc := decide (r.length > h.resultLen), resultFault := (s.writeResult h r).2 } := by
    unfold State.completeCore
    rw [if_pos hw]
    rw [← he]
    simp only [decide_eq_true_eq]
  have hf := hu.2 h.fn
  have hS' : (u.fn h.fn).sqs.look h.sq = some S := by rw [hf.sqs]; exact hS
  have hq' : (u.fn h.fn).rings.look S.cq = some q := hf.2.2 _ _ hq (by omega)
  have hd' : ∀ e ∈ (u.fn h.fn).sqs, e.2.deleting = [] := by rw [hf.sqs]; exact hd
  have hn : s.complete h st d r = s.completeCore h st d r := by
    unfold State.complete
    refine endDeletes_none _ _ _ ?_
    rw [hc]
    exact placeCpl_deleting _ hd'
  rw [hn, hc]
  exact ⟨_, placeCpl_newest _ hS' hq' hk, rfl, rfl, rfl⟩

/-- Events posted in between leave a command's completion with its place. -/
theorem Posts.answerable {s u : State} {h : HostCmd} (p : Posts s u) (a : Answerable s h) : Answerable u h := by
  obtain ⟨w, d, S, r, hS, hr, hk⟩ := a
  have F := p.2 h.fn
  refine ⟨?_, by rw [F.sqs]; exact d, S, r, by rw [F.sqs]; exact hS, F.2.2 _ _ hr (by omega), hk⟩
  unfold State.wanted at w ⊢
  rw [F.1]
  exact w

/-- A command answered after events were posted is answered. -/
theorem Posts.answered {s u t : State} {h : HostCmd} {st d : Nat} (p : Posts s u) (a : Answered u h st d t) : Answered s h st d t :=
  ⟨p.reports.trans a.1, fun b => a.2 (p.answerable b)⟩

end Sys2Proof
end

