-- ==== Sys2Proof/WellFormed.lean ====
section
/-!
DEFINITION. Well-formed commands: every operand fits the field that the spec gives it. The node's own checks (a reserved field of a
body, a key with no segment) are the meanings' and not these; `exec` is total and does not ask for them.
-/
namespace Sys2Proof

/-- Why a command is ill-formed. -/
inductive WfError where
  /-- A connection index that no Quarter owns: 4 × 16,384 (R220). -/
  | conn
  /-- A ticket ID beyond its 20 bits (R186). -/
  | ticket
  /-- A queue ID beyond 511 (Table 12-4), or a field of a submission entry beyond its width (Table 12-6). -/
  | hostCmd
  /-- A PSN beyond 24 bits, or a SACK bitmap beyond 64 (Table 8-9). -/
  | psn
  /-- An address that a stack, a BAR or a key space does not have. -/
  | address
  /-- A field of a received frame beyond its width, or an Epcen header that is not 32 bytes (R210). -/
  | frame
  /-- A list of measured or found values that names a Quarter, tenant, slot or entry that does not exist. -/
  | measure
  /-- A management command's DST, SEQ or session field beyond its width (R411, R413). -/
  | mgmt
  /-- A pause time that is not 16 bits, or not one for each of 8 classes (R289). -/
  | pause
  deriving DecidableEq, Repr

/-- The first check that fails. -/
def firstError : List (Bool × WfError) → Option WfError
  | [] => none
  | (ok, e) :: t => if ok then firstError t else some e

/-- A command of a host queue. -/
def HostCmd.fits (h : HostCmd) : Bool :=
  decide (h.sq ≤ 511) && decide (h.cid < 2 ^ 16) && decide (h.head < 2 ^ 14) && decide (h.tenant < 64) &&
    decide (h.resultAddr < 2 ^ 64) && decide (h.resultLen < 2 ^ 32)

/-- An origin names a connection or a host command. -/
def Origin.error (o : Origin) : Option WfError :=
  match o with
  | .wire i => if i < 65536 then none else some .conn
  | .host h => if h.fits then none else some .hostCmd

/-- A management command. -/
def Mgmt.fits (m : Mgmt) : Bool :=
  decide (m.seq < 2 ^ 16) && decide (m.dst < 64) &&
    (match m.ses with
     | none => true
     | some x => decide (x.sid < 256) && decide (x.counter < 2 ^ 64) && decide (x.tag < 2 ^ 256))

/-- Pause times of a PFC frame. -/
def pausesFit (l : List Nat) : Bool := l.length == 8 && l.all fun t => decide (t < 2 ^ 16)

/-- A frame as it arrives. -/
def RxFrame.fits (f : RxFrame) : Bool :=
  decide (f.dstMac < 2 ^ 48) && decide (f.etherOuter < 2 ^ 16) && decide (f.etherInner < 2 ^ 16) && decide (f.vid < 2 ^ 12) &&
    decide (f.pcp < 8) && decide (f.srcAddr < 2 ^ 128) && decide (f.dstAddr < 2 ^ 128) && decide (f.nextHdr < 2 ^ 8) &&
    decide (f.udpDst < 2 ^ 16) && decide (f.udpLen < 2 ^ 16) && f.header.length == 32 &&
    (match f.pause with | none => true | some (en, l) => decide (en < 2 ^ 8) && pausesFit l)

/-- What a tick measures. -/
def TickMeasure.fits (m : TickMeasure) : Bool :=
  decide (m.energyQ.length ≤ 4) && decide (m.bankCycles.length ≤ 64) && decide (m.energyWait.length ≤ 4) &&
    m.badEntries.all fun e => decide (e.1 < 4) && decide (e.2 < 65536)

/-- One condition. -/
def need (ok : Bool) (e : WfError) : Option WfError := if ok then none else some e

/-- The first thing that makes a command ill-formed; none when it is well-formed. -/
def Instr.error (i : Instr) : Option WfError :=
  match i with
  | .managementTick m => need m.fits .measure
  | .shapeDefine h _ | .dmaCopy h _ _ | .frameSpill h _ _ | .frameFill h _ _ | .tableLoad h _ | .tableRelease h _
  | .tenantCreate h _ | .tenantDrain h _ | .keyRotatePageKey h _ | .keyRotateWireEpoch h _ | .queueCreate h _ | .queueDelete h _
  | .funcMode h _ | .assistReply h _ | .snapshot h _ | .attest h _ | .dmaResume h _ _ _ | .dmaAbort h _ _ _ =>
    need h.fits .hostCmd
  | .mapSet h conv _ => firstError [(h.fits, .hostCmd), (decide (conv < 2 ^ 32), .address)]
  | .append o _ | .appendImm o _ | .read o _ | .seal o _ | .retire o _ | .reseatCopy o _ | .reseatPrepare o _ | .reseatCutover o _
  | .reseatCommit o _ | .reseatRelease o _ => o.error
  | .attend o _ errs => match o.error with | some e => some e | none => need (decide (errs.length ≤ 8)) .measure
  | .reseatCopyDone t | .reseatDeadline t | .requestDeadline t => need (decide (t < 2 ^ 20)) .ticket
  | .partialRecv c _ | .notice c _ | .response c _ | .write c _ | .writeImm c _ | .rtoExpiry c | .ackDelayExpiry c | .errHoldExpiry c
  | .idleClose c | .contextFetchDone c | .policedNoticeGapEnd c | .nak c _ _ | .packetSend c _ => need (decide (c < 65536)) .conn
  | .ack c _ a _ sack => firstError [(decide (c < 65536), .conn), (decide (a < 2 ^ 24) && decide (sack < 2 ^ 64), .psn)]
  | .ctxBusyRetry c psn => firstError [(decide (c < 65536), .conn), (decide (psn < 2 ^ 24), .psn)]
  | .jobResume _ _ | .gapHoldExpiry _ _ | .jobAdmit _ | .coreClampPoint _ | .contextSaveDone _ | .clockSwitch _ | .scorerRunDone _ _ _
  | .sequenceRetire _ _ | .fenceComplete _ | .crossingEnter _ _ | .crossingWindowEnd _ _ | .refreshAbort _ _ | .bscChmode _ _ _
  | .modeChangeComplete _ _ | .bscBistStart _ _ | .dmaEngineStart _ _ | .dmaTransferEnd _ _ | .notReadyEnd _ | .hsmWrite _ | .hsmRead _
  | .tableLoadComplete _ | .coderStart _ _ | .coderPageCommit _ _ _ | .recodeSweepStart _ _ | .recodeSweepEnd _ | .connLoad _ | .setCwnd _
  | .contextRegionCopyDone _ | .pfcPauseExpiry _ _ | .pfcRefresh _ | .frameTransmit _ _ | .linkDown _ | .linkUp _ | .gateEntryExpiry _
  | .gclEnable _ | .gclSwap _ | .injectorExpiry _ | .reorderTimeout _ | .drainWorkEnded _ | .drainScrubDone _ | .keyGenRetire _ => none
  | .bscFence _ v => need (decide (v < 2 ^ 16)) .measure
  | .bistComplete _ _ u => need (decide (u < 64)) .measure
  | .dmaFault _ _ cls off _ a => firstError [(decide (1 ≤ cls) && decide (cls ≤ 5), .measure), (decide (off < 2 ^ 32) && decide (a < 2 ^ 64), .address)]
  | .frameScrubDone _ a | .hbmUncorrectable _ a => need (decide (a < 2 ^ 36)) .address
  | .ticketHandoff _ id _ => need (decide (id < 2 ^ 18)) .ticket
  | .poolFailure _ _ ids lost silent => need ((ids ++ lost ++ silent).all fun k => decide (k < 2 ^ 18)) .measure
  | .frameReceive _ f | .helloOpen _ f | .helloAccept _ f | .helloClose _ f | .helloReset _ f => need f.fits .frame
  | .pfcReceive _ _ _ l => need (pausesFit l) .pause
  | .keySweepPage _ _ key frame page =>
    need (decide (key < 2 ^ 72) && decide (frame < 4096) && decide (page < 32)) .address
  | .sessionExpiry sid => need (decide (sid < 256)) .mgmt
  | .sqTailDoorbell _ q v | .cqHeadDoorbell _ q v => firstError [(decide (q ≤ 511), .hostCmd), (decide (v < 2 ^ 32), .measure)]
  | .submissionFetch _ q _ e _ =>
    firstError [(decide (q ≤ 511), .hostCmd), ((match e with | some b => b.length == 64 | none => true), .frame)]
  | .completionPost _ q | .coalTimerExpiry _ q => need (decide (q ≤ 511)) .hostCmd
  | .assistTimeout tag => need (decide (tag < 2 ^ 32)) .measure
  | .ping _ | .fnInfo _ | .agentStatus _ | .mbxAgentAnswer _ | .mbxInTimeout _ | .mbxOutPost _ | .mbxOutAck _ _ | .outboundTaken _
  | .eqDrained _ | .mbxOutTimeout _ | .flr _ | .admQueueCtl _ _ | .tdiLeaveRun _ | .perst => none
  | .pcieLinkTrained rate width => need (decide (rate < 256) && decide (width ≤ 16)) .measure
  | .registerWrite _ a _ _ d => need (decide (a < 2 ^ 26) && decide (1 ≤ d)) .address
  | .counterRead _ a | .counterOvfClear _ a => need (decide (a < 2 ^ 26)) .address
  | .snapshotRegStart _ | .snapshotDone | .fmodeModeWrite _ | .rebalance _ | .sensorInvalidTimeout _ | .qOffExitDone _
  | .stackTrainingDone _ _ | .powerOnReset | .mainPowerGood | .bootWatchdog | .startupPhaseDone | .alleyFrame _ _ => none
  | .sensorReading _ _ deg => need (match deg with | some d => decide (d < 2 ^ 16) | none => true) .measure
  | .setPowerCap m _ | .enum m _ | .sessionOpen m _ | .getStatus m _ | .getTelemetry m _ | .routeSet m _ | .getAttestation m _
  | .armFaultInject m _ | .meterRead m _ | .updateImageStart m _ | .updateImageData m _ | .updateImageFinish m _ | .reset m _
  | .setNodeId m _ => need m.fits .mgmt
  | .dirRebuildDone _ | .dirXlRestore _ | .dirXlRebuild _ | .coreTestStart _ _ | .coreTestDone _ _ | .coreFault _ | .stackFault _
  | .quarterFault _ | .stackDrainDone _ | .squareHeartbeatLoss | .mainEnChange _ | .vsb12Loss | .sysclkLoss | .sysclkReturn
  | .ethRefclkLoss _ | .progEnChange _ | .pcieRefclkLoss | .tdispRequest _ _ => none
  | .vin52Change mv => need (decide (mv ≤ 60000)) .measure

/-- A well-formed command. -/
def Instr.wf (i : Instr) : Bool := i.error.isNone

end Sys2Proof
end

