-- ==== Sys2Proof/Tests/Slice0.lean ====
section
/-!
SUPPORT. Tests of the model on small states: ill-formed commands that the check refuses, and for each claim with hypotheses a state and
operands that meet them, clause by clause, at a boundary value where there is one. Expected results come from the spec's own tables.
-/
namespace Sys2Proof.Tests

open Sys2Proof Sys2Proof.Machine

set_option Elab.async false

/-! ### Well-formedness -/

/-- A host command of F0. -/
def h0 : HostCmd := { fn := 0, sq := 1, cid := 7 }
/-- A host command of F3 for its own tenant. -/
def h3 : HostCmd := { fn := 3, sq := 1, cid := 7, tenant := 3 }
/-- A management command to the node. -/
def mg : Mgmt := { port := 0, seq := 9, dst := 1 }
/-- `n` zero bytes. -/
def zb (n : Nat) : Bytes := List.replicate n 0

theorem test_wf_conn : (Instr.rtoExpiry 65536).error = some .conn ∧ (Instr.rtoExpiry 65535).error = none := by decide +kernel
theorem test_wf_ticket : (Instr.requestDeadline 1048576).error = some .ticket ∧ (Instr.requestDeadline 1048575).error = none := by decide +kernel
theorem test_wf_hostCmd : (Instr.attest { h0 with sq := 512 } []).error = some .hostCmd ∧ (Instr.attest h0 []).error = none := by decide +kernel
theorem test_wf_psn : (Instr.ctxBusyRetry 0 16777216).error = some .psn ∧ (Instr.ctxBusyRetry 0 16777215).error = none := by decide +kernel
theorem test_wf_address : (Instr.hbmUncorrectable 0 (2 ^ 36)).error = some .address := by decide +kernel
theorem test_wf_frame : (Instr.submissionFetch 0 1 0 (some [0]) none).error = some .frame := by decide +kernel
theorem test_wf_measure : (Instr.managementTick { energyQ := [1, 2, 3, 4, 5] }).error = some .measure := by decide +kernel
theorem test_wf_mgmt : (Instr.getStatus { mg with dst := 64 } []).error = some .mgmt ∧ (Instr.getStatus mg []).error = none := by decide +kernel
theorem test_wf_pause : (Instr.pfcReceive 0 0 1 [65536, 0, 0, 0, 0, 0, 0, 0]).error = some .pause := by decide +kernel

/-! ### Queues, mailboxes and functions (ch. 12) -/

/-- A submission queue of 16 entries that completes to queue 2, with one entry to fetch. -/
def sq1 : Sq := { size := 16, cq := 2, tail := 1 }
/-- Its completion queue, with a completion that waits and room for one more. -/
def cpl1 : Cpl := { cid := 7, sq := 1, sqHead := 1, status := 0 }
/-- A completion queue of 16 entries. -/
def cq2 : Ring := { kind := 1, size := 16, vector := 3, coalN := 4, coalUs := 10 }
/-- A Ready node with the queues of F0 and F3, and tenants 0 and 3 active. -/
def live : State :=
  { State.reset with
    host := { State.reset.host with configOk := true, fns := [(0, { sqs := [(1, sq1)], rings := [(2, cq2)] }), (3, { sqs := [(1, sq1)], rings := [(2, cq2)] })] }
    boot := { State.reset.boot with phase := 10, nodeId := some 5, pcieDone := true, image := some {} }
    pins := { State.reset.pins with mainPg := true }
    sec := { State.reset.sec with tenants := [(0, { state := .active, connMax := 9 }), (3, { state := .active, connMax := 9, poolMib := 64, dirMax := 99 })] } }
/-- The same node with a function in place of F0. -/
def liveFn (F : Fn) : State := { live with host := { live.host with fns := [(0, F)] } }

theorem witness_DoorbellsMoveTheRings :
    (live.fn 0).sqs.look 1 = some sq1 ∧ 15 < sq1.size ∧ sq1.deleting = [] ∧ (live.fn 0).sqs.look 9 = none ∧ sq1.size ≤ 16 ∧
    (live.fn 0).rings.look 2 = some cq2 ∧ 15 < cq2.size ∧ ¬ ((15 + cq2.size - cq2.head) % cq2.size = 0 ∧ cq2.items.length = cq2.size) := by decide +kernel

/-- An ATTEST entry in F3's queue: opcode 0x4B, no tenant, a body of 32 bytes. -/
def attestEntry : Bytes := [0x4B] ++ zb 15 ++ [32] ++ zb 47

theorem witness_FetchAcceptsACommand :
    fetchable (live.fn 3) 1 sq1 = true ∧ entryBad attestEntry = false ∧
    mayName (issuerOf (byteAt attestEntry 0)) 3 (byteAt attestEntry 5 % 64) = true ∧ issuerOf (byteAt attestEntry 0) ≠ .f0 ∧
    hostCheck live (entryCmd (live.fn 3) 3 1 1 attestEntry) 0x4B (zb 32) = none := by decide +kernel

theorem witness_RingsPostAndInterrupt :
    let r : Ring := { cq2 with tail := 15, waiting := [cpl1], items := [] }
    let u : Ring := { cq2 with items := [.cpl true cpl1], firstAt := some 4 }
    let s := liveFn { rings := [(2, r)] }
    let v := liveFn { rings := [(2, u)] }
    (s.fn 0).rings.look 2 = some r ∧ r.kind = 1 ∧ r.items.length < r.size ∧ (∀ e ∈ (s.fn 0).sqs, e.2.deleting = []) ∧
    (v.fn 0).rings.look 2 = some u ∧ u.coalN ≠ 0 ∧ u.items ≠ [] := by decide +kernel

/-- A QUEUE_CREATE of queue 5: kind, log2 of its size, its CQ. -/
def createBody (kind cq : Byte) : Bytes := [kind, 0, 5, 0, 4, 0, cq, 0] ++ zb 24

theorem witness_QueuesAreCreatedAndDeleted :
    hostCheck live h0 0x60 (createBody 0 2) = none ∧ queueBad 0 (createBody 0 2) = false ∧ queueClash (live.fn 0) (createBody 0 2) = false ∧
    hostCheck live h0 0x60 (createBody 1 0) = none ∧ queueBad 0 (createBody 1 0) = false ∧ queueClash (live.fn 0) (createBody 1 0) = false ∧
    live.sqsUsed < 4096 ∧ live.cqsUsed < 4096 ∧
    (let s := liveFn { sqs := [(1, sq1)], rings := [(2, cq2), (511, cq2)] }
     hostCheck s h0 0x61 [1, 0, 255, 1] = none ∧ (s.fn 0).rings.look 511 = some cq2 ∧ fieldAt [1, 0, 255, 1] 2 2 = 511 ∧
     (∀ e ∈ (s.fn 0).sqs, e.2.cq ≠ 511)) ∧
    (live.fn 0).sqs.look 511 = none ∧ hostCheck live h0 0x61 [0, 0, 255, 1] = none ∧
    (let s := liveFn { sqs := [(1, sq1), (4, { sq1 with tail := 0 })], rings := [(2, cq2)] }
     hostCheck s h0 0x61 [0, 0, 4, 0] = none ∧ (s.fn 0).sqs.look 4 = some { sq1 with tail := 0 } ∧ h0.sq ≠ 4 ∧
     (∀ e ∈ (s.fn 0).sqs, e.2.deleting = [])) := by decide +kernel

theorem witness_AdministrativePair :
    (let s := live
     bit (((s.fn 0).admRegs.fetch 0x210 0x440).toNat) 0 = false ∧ bit (BitVec.toNat (1 : Word)) 0 = true) ∧
    (let s := liveFn { admRegs := [(0x210, 1)], admRdy := true, sqs := [(0, { size := 16, cq := 0 })], rings := [(0, { kind := 1, size := 16 })] }
     bit (((s.fn 0).admRegs.fetch 0x210 0x440).toNat) 0 = true ∧ bit (BitVec.toNat (0 : Word)) 0 = false ∧
     ((s.fn 0).sqs.look 0).map (·.live) = some 0) := by decide +kernel

/-- F0 with an inbound message of a length, to an agent, of a type. -/
def mailed (len agent type : Nat) : State := liveFn { mbxInCtl := w32 (len + 32 * agent + 256), mbxIn := [(0, w32 type)], mbxInAt := some 3 }

theorem witness_MailboxMessages :
    (∀ x ∈ [(8, 0, 1), (16, 4, 1), (8, 0, 2), (8, 4, 3), (8, 1, 4)],
      let s := mailed x.1 x.2.1 x.2.2
      (s.fn 0).go = true ∧ (s.fn 0).mbxInCtl.toNat % 32 = x.1 ∧ (s.fn 0).agent = x.2.1 ∧ (s.fn 0).msgType = x.2.2 ∧ s.qOff 3 = false) ∧
    (let s := liveFn { outWait := [{ agent := 0, words := [1] }] }
     (s.fn 0).outWait = [{ agent := 0, words := [1] }] ∧ (s.fn 0).full = false) := by decide +kernel

theorem witness_MailboxTimeouts :
    ((mailed 8 0 1).fn 0).go = true ∧ ((mailed 8 0 1).fn 0).mbxInAt = some 3 ∧
    (let s := liveFn { mbxOutCtl := 0x108, mbxOutAt := some 3 }
     (s.fn 0).full = true ∧ (s.fn 0).mbxOutAt = some 3) := by decide +kernel

theorem witness_FunctionResets :
    live.unitErrs = [] ∧ (3 : Fin 64).val ≠ 0 ∧ live.pins.mainPg = true ∧ live.host.assists = [] ∧
    (let s := { live with host := { live.host with fns := [(3, { tdi := 2 })] } }
     (s.fn 3).tdi = 2) := by decide +kernel

theorem witness_HostLinkAndTdi :
    live.pcieMay = true ∧ (live.fn 3).tdi = 0 ∧
    (let s := { live with host := { live.host with fns := [(3, { tdi := 1 })] } }
     (s.fn 3).tdi = 1) := by decide +kernel

/-! ### Registers, assists (ch. 13, R344) -/

theorem witness_RegisterWrites :
    live.unitErrs = [] ∧ (7 : BitVec 4) ≠ 15 ∧ ((regAt bNRG 0).map fun r => r.ws != 0) = some true ∧
    (let s := { live with quarters := [(3, { power := .off })] }
     s.qOff 3 = true) := by decide +kernel

theorem witness_CountersCount :
    (let a := blockBase bXPT 3 + 0x4000
     isCounterOff bXPT 0x4000 = true ∧ placeOf 0 a = .count bXPT 3 0x4000 ∧ placeOf 0 (a + 4) = .count bXPT 3 0x4004 ∧
     (isTenantCounter bXPT 0x4000 && live.sec.conf) = false ∧ live.unitErrs = [] ∧
     (RegPlace.count bXPT 3 0x4004).quarter.any live.qOff = false) := by decide +kernel

theorem witness_Snapshots :
    bits (BitVec.toNat (0x10000 : Word)) 31 16 ≠ bits (live.reg bSNAP 0 0) 31 16 ∧ live.regs.snap.busy = false ∧
    (snapScope (BitVec.toNat (0x10000 : Word))).isSome = true ∧ hostCheck live h0 0x4A [2, 0] = none ∧ (snapScope (fieldAt [2, 0] 0 2)).isSome = true ∧
    bits (fieldAt [2, 0] 0 2) 7 4 = 0 ∧
    (let s := { live with regs := { live.regs with snap := { live.regs.snap with busy := true, byCmd := some h0 } } }
     s.regs.snap.busy = true ∧ s.regs.snap.waiting = [] ∧ bits (s.reg bSNAP 0 0) 31 16 = 0 ∧ hostCheck s h0 0x4A [2, 0] = none) := by decide +kernel

theorem witness_FunctionModesAreStaged :
    (let p : Bytes := [66, 0, 66, 0] ++ zb 12
     hostCheck live h0 0x46 p = none ∧ fieldAt p 0 2 < 2048 ∧ fieldAt p 2 2 < 2048 ∧ zeroRange p 4 16 = true ∧ live.sec.conf = false ∧
     w32 (fieldAt p 0 2) &&& w32 (fieldAt p 2 2) &&& 0x42 ≠ 0 ∧
     (let s := { live with sec := { live.sec with conf := true } }
      hostCheck s h0 0x46 p = none ∧ s.sec.conf = true)) := by decide +kernel

theorem witness_AssistAnswers :
    (let b : Bytes := [1, 0, 0, 0, 0, 0, 0, 0]
     let e : Assist := { tag := 1, posted := 5, index := 0, purpose := .orphan 0 }
     let s := { live with host := { live.host with assists := [e] } }
     live.unitErrs = [] ∧ hostCheck live h0 0x47 b = none ∧ byteAt b 5 = 0 ∧ zeroRange b 6 8 = true ∧ live.assistOf 1 = none ∧
     hostCheck s h0 0x47 b = none ∧ s.assistOf (fieldAt b 0 4) = some e ∧ hostCheck s h0 0x47 (b.set 5 1) = none ∧ byteAt (b.set 5 1) 5 = 1 ∧
     s.wanted h0 = true ∧ h0.resultFault = none ∧ e.data.length ≤ h0.resultLen) := by decide +kernel

/-! ### Shapes, maps, tenants and keys (ch. 02, ch. 11) -/

/-- A segment of tenant 3 with one frame in the plain stack 0, SEALED, of shape 1. -/
def seg3 : Seg := { conv := 2, tenant := 3, shapeId := 1, seg := 0, gen := 1, frames := [{ stack := 0, addr := 0 }], counts := [64] }
/-- Its key. -/
def key3 : Nat := mkKey 3 2 0
/-- The smallest shape: one layer, one KV head, DIM code 0, FP8, G code 0. -/
def shape1 : Shape := { layers := 1, kvh := 1, dim := 0, fmt := 0, g := 0, bscThresh := 0, scale := 0x3F800000 }
/-- The Quarter that is home to the key. -/
def home3 : Nat := homeQ key3
/-- A node that holds the segment in a state, its Quarter's other parts given. -/
def holding (st : SegState) (g : Seg) : State :=
  { live with
    quarters := [(home3, { dir := { slots := [(8, { key := key3, gen := 1, state := st })] }, store := { segs := [(0, g)] } })]
    sec := { live.sec with shapes := [(49, shape1)] } }

theorem witness_ShapesAndMaps :
    (let b : Bytes := [1] ++ zb 31
     hostCheck live h3 0x42 b = none ∧ hostCheck live h3 0x42 [] = none ∧ shapeBad [] = true) ∧
    (let b : Bytes := [1, 0, 0, 0, 0, 0, 0, 0, 0, 0, 128, 63] ++ zb 20
     shapeBad b = false ∧ live.shapeInUse 3 (byteAt b 0 % 16) = false ∧ (holding .opened seg3).shapeInUse 3 (byteAt b 0 % 16) = true ∧
     hostCheck (holding .opened seg3) h3 0x42 b = none) ∧
    hostCheck live h3 0x43 [] = none ∧ mapBad [] = true := by decide +kernel

theorem witness_TenantsComeAndGo :
    (let b : Bytes := [5] ++ zb 87
     let c : Bytes := [5, 1] ++ zb 86 ++ [1] ++ zb 135
     hostCheck live h0 0x40 b = none ∧ tenantBad b = false ∧ tenantBad c = false ∧ bit (byteAt c 1) 0 = true ∧ bit (byteAt b 1) 0 = false ∧
     (live.tenant 5).state = .absent ∧ live.sec.conf = false ∧ hostCheck live h0 0x40 c = none ∧
     (let d : Bytes := [3] ++ zb 87
      hostCheck live h0 0x40 d = none ∧ tenantBad d = false ∧ (live.tenant 3).state = .active) ∧
     (let s := { live with sec := { live.sec with conf := true, tenants := (3, { state := .draining }) :: [] } }
      hostCheck s h0 0x40 b = none ∧ (s.tenant 5).state = .absent ∧ (s.tenant 3).state = .draining ∧ hostCheck s h0 0x41 [3] = none)) ∧
    hostCheck live h0 0x41 [63] = none ∧ (live.tenant 63).state = .absent ∧ hostCheck live h0 0x41 [3] = none ∧ live.quarters = [] ∧
    live.host.assists = [] ∧
    (let s := { live with sec := { live.sec with tenants := [(3, { state := .draining })] } }
     (s.tenant 3).state = .draining ∧ s.drainItems 3 = 0) ∧
    (let s := { live with sec := { live.sec with tenants := [(3, { state := .scrubbing, drainers := [(h0, true)] })] } }
     (s.tenant 3).state = .scrubbing ∧ s.quarters = []) := by decide +kernel

theorem witness_KeysRotate :
    (let b : Bytes := [3, 0, 0, 0, 2] ++ zb 135
     let s := { live with sec := { live.sec with tenants := [(3, { state := .active, prevGen := 1 })] } }
     hostCheck live h0 0x45 b = none ∧ b.length = 140 ∧ zeroRange b 2 4 = true ∧ keyBlockBad (b.drop 4) = false ∧
     (live.tenant (byteAt b 0)).state = .active ∧ (live.tenant 3).prevGen = 0 ∧ hostCheck s h0 0x45 b = none ∧ (s.tenant 3).prevGen ≠ 0) ∧
    (let b : Bytes := [3, 1]
     hostCheck live h0 0x45 b = none ∧ byteAt b 1 = 1 ∧ zeroRange b 2 b.length = true) := by decide +kernel

/-- A page slot's header in HBM: encrypted under generation 1. -/
def oldPage : State :=
  { holding .sealed seg3 with
    hbm := Mem.write [] (hbmAddr home3 0 0) ({ tokens := 1, enc := true, keyGen := 1, kLen := 1, vLen := 1 } : PageHdr).bytes
    sec := { (holding .sealed seg3).sec with tenants := [(3, { state := .active, encrypt := true, curGen := 2, prevGen := 1 })] } }

theorem witness_SweepReencryptsAPage :
    (oldPage.tenant 3).state = .active ∧ (oldPage.tenant 3).prevGen ≠ 0 ∧ oldPage.entryOf home3 key3 = some (8, { key := key3, gen := 1, state := .sealed }) ∧
    oldPage.segOf home3 key3 = some (0, seg3) ∧ oldPage.shape 3 seg3.shapeId = some shape1 ∧
    (oldPage.rawHdr home3 { stack := 0, addr := 0 } 0 shape1).enc = true ∧
    (oldPage.rawHdr home3 { stack := 0, addr := 0 } 0 shape1).keyGen = (oldPage.tenant 3).prevGen ∧ oldPage.qOff home3 = false ∧
    (oldPage.tenant 3).skipped = [] := by decide +kernel

/-- A map of version 1 with one entry, segments 0 to 32767 at node 5, in its 48 bytes. -/
def mapBody : Bytes := [1, 0, 0, 0, 1, 0, 0] ++ zb 25 ++ [0, 0, 255, 127, 5, 0, 255, 255, 255, 255] ++ zb 6

theorem witness_ShapesAndMaps_installed :
    hostCheck live h3 0x43 mapBody = none ∧ mapBad mapBody = false ∧ live.mapOf 3 2 = none ∧
    ((live.qtr (homeQ (mapKey 3 2))).heapPlace (ceilDiv mapBody.length 64)).isSome = true ∧
    (let s := match exec (.mapSet h3 2 mapBody) live with | .next t => t | _ => live
     hostCheck s h3 0x43 mapBody = none ∧ (s.mapOf 3 2).map (·.version) = some (fieldAt mapBody 0 4)) := by decide +kernel

theorem witness_SweepReencryptsAPage_cases :
    (let s := { oldPage with quarters := [(home3, { oldPage.qtr home3 with power := .off })] }
     s.qOff home3 = true ∧ (s.tenant 3).skipped = [] ∧ (s.rawHdr home3 { stack := 0, addr := 0 } 0 shape1).enc = true) ∧
    (let s := { oldPage with stk := [(4 * home3, { st := .ready })] }
     let u := s.updTenant 3 fun T => { T with skipped := T.skipped.filter fun y => !(y == (home3, key3, 0, 0)) }
     (match u.slotStored home3 key3 { stack := 0, addr := 0 } 0 shape1 with | .ok _ => true | .error _ => false) = true ∧
     u.eccIn home3 0 0 shape1.slot = false) := by decide +kernel

theorem witness_PreviousKeyRetires :
    (oldPage.tenant 3).prevGen ≠ 0 ∧ oldPage.oldPages 3 ≠ 0 ∧
    (let s := { oldPage with hbm := [] }
     (s.tenant 3).prevGen ≠ 0 ∧ s.oldPages 3 = 0) := by decide +kernel

theorem witness_AttestReports :
    (let h := { h3 with tenant := 0 }
     hostCheck live h 0x4B (zb 31) = none ∧ hostCheck live h 0x4B (zb 32) = none ∧ live.wanted h = true ∧
     (∀ e ∈ (live.fn 3).sqs, e.2.deleting = []) ∧ h.resultFault = none) := by decide +kernel

/-! ### Conversation operations (ch. 09) -/

/-- A command that has access is admitted with its ticket, and its lookup ends. -/
theorem admits (s : State) (o : Origin) (op : Nat) (b : Bytes) (P : Op → State → State → Bool)
    (ho : (match o with | .host h => hostCheck (s.take o op b).2 h op b == none | .wire _ => true) = true)
    (h : (match (s.take o op b).2.beginOp { origin := o, opcode := op, body := b, arrival := (s.take o op b).1 } with
      | .ok (p, u) => let r := u.lookup p.q p.key p.toInbound; r.1 != .parked && P p u r.2
      | .error _ => false) = true) :
    ∃ p u v, Admitted s o op b p u v ∧ P p u v = true := by
  cases hb : (s.take o op b).2.beginOp { origin := o, opcode := op, body := b, arrival := (s.take o op b).1 } with
  | error e => rw [hb] at h; cases h
  | ok x =>
    obtain ⟨p, u⟩ := x
    rw [hb] at h
    simp only [Bool.and_eq_true, bne_iff_ne, ne_eq] at h
    refine ⟨p, u, (u.lookup p.q p.key p.toInbound).2, ⟨?_, hb, _, h.1, rfl⟩, h.2⟩
    intro c hc
    subst hc
    exact eq_of_beq ho

/-- A conversation request: its key, shape, generation and what follows its 24 bytes. -/
def reqBody (key shape gen : Nat) (rest : Bytes) : Bytes :=
  leBytes 8 77 ++ leBytes 9 key ++ leBytes 1 shape ++ leBytes 2 gen ++ leBytes 3 1000 ++ leBytes 1 0 ++ rest
/-- The parts of a live segment that a claim names, with a check on them. -/
def onSeg (v : State) (p : Op) (f : Nat → Nat → DirEntry → Seg → Bool) : Bool :=
  match v.entryOf p.q p.key, v.segOf p.q p.key with
  | some (a, e), some (d, g) => f a d e g
  | _, _ => false
/-- A node that holds the segment with every stack of its Quarter READY. -/
def stacked (st : SegState) (g : Seg) : State :=
  { holding st g with stk := (List.range 16).map fun n => (n, { st := .ready }) }

theorem witness_ReadAndRetire :
    (∃ p u v, Admitted (stacked .sealed seg3) (.host h3) 0x14 (reqBody key3 1 1 (zb 8 ++ leBytes 4 4096)) p u v ∧
      (!u.opBad p && onSeg v p fun _ _ e g => p.gen == e.gen && e.state != .retired &&
        (match v.shape g.tenant g.shapeId, g.frames[0]? with
         | some sh, some fr => (match v.frameBytes p.q p.key e.gen 0 fr sh 0 4096 with | .ok _ => true | .error _ => false) && decide (4096 ≤ sh.frame)
         | _, _ => false)) = true) ∧
    (∃ p u v, Admitted (stacked .sealed seg3) (.host h3) 0x14 (reqBody key3 1 2 (zb 8 ++ leBytes 4 4096)) p u v ∧
      (!u.opBad p && onSeg v p fun _ _ e _ => p.gen != e.gen) = true) ∧
    (∃ p u v, Admitted (stacked .sealed seg3) (.host h3) 0x19 (reqBody key3 1 1 []) p u v ∧
      (!u.opBad p && onSeg v p fun _ _ e g => p.gen == e.gen && e.state == .sealed && g.chain.queue == []) = true) ∧
    (∃ p u v, Admitted (stacked .sealed seg3) (.host h3) 0x19 (reqBody key3 1 3 []) p u v ∧
      (!u.opBad p && onSeg v p fun _ _ e _ => p.gen != e.gen) = true) :=
  ⟨admits _ _ _ _ _ (by decide +kernel) (by decide +kernel), admits _ _ _ _ _ (by decide +kernel) (by decide +kernel), admits _ _ _ _ _ (by decide +kernel) (by decide +kernel),
    admits _ _ _ _ _ (by decide +kernel) (by decide +kernel)⟩

/-- An OPEN segment whose chain is formed, its next position given. -/
def openSeg (n : Nat) : State := stacked .opened { seg3 with counts := [n], chainOn := true }
/-- An append of one token at a position. -/
def appendBody (first : Nat) : Bytes := reqBody key3 1 1 (leBytes 4 first ++ [1, 0, 0, 0, 0, 0, 0, 0] ++ zb 12 ++ zb 256)
/-- What the claims about appends ask of the operation. -/
def appendable (p : Op) (u v : State) (f : DirEntry → Seg → AppendReq → AppendData → Bool) : Bool :=
  !u.opBad p && !v.cutting p.q p.key && onSeg v p fun _ _ e g =>
    e.state == .opened && p.gen == e.gen && g.shapeId == p.shapeId && g.chainOn &&
    (match v.shape (keyTenant p.key) p.shapeId with
     | some sh => let r := appendReq p.body; v.overlap p.q p.key g r (r.data sh p.body) == some true && f e g r (r.data sh p.body)
     | none => false)

theorem witness_AppendAndSeal :
    (∃ p u v, Admitted (openSeg 0) (.host h3) 0x10 (appendBody 0) p u v ∧ (appendable p u v fun _ g r x =>
      (r.nexts g).all (fun n => n.2 == r.first % 2048) && decide (v.linesToAppend p.q p.key g r x ≤ v.roomLines p.q) && decide (0 < r.count)) = true) ∧
    (∃ p u v, Admitted (openSeg 0) (.host h3) 0x11 (appendBody 0) p u v ∧ (appendable p u v fun _ g r _ =>
      (r.nexts g).all fun n => n.2 == r.first % 2048) = true) ∧
    (∃ p u v, Admitted (openSeg 0) (.host h3) 0x10 (appendBody 1) p u v ∧ (appendable p u v fun _ g r _ =>
      (r.nexts g).any fun n => decide (n.2 < r.first % 2048)) = true) ∧
    (∃ p u v, Admitted (openSeg 64) (.host h3) 0x17 (reqBody key3 1 1 [64, 0]) p u v ∧
      (!u.opBad p && !v.cutting p.q p.key && onSeg v p fun _ _ e g => e.state == .opened && p.gen == e.gen && g.chainOn &&
        g.counts.all (fun c => c == 64) && decide (((v.openPages p.q p.key g).map fun y => v.linesToClose p.q p.key y.1 y.2.1.page y.2.2 shape1).sum ≤ v.roomLines p.q)) = true) :=
  ⟨admits _ _ _ _ _ (by decide +kernel) (by decide +kernel), admits _ _ _ _ _ (by decide +kernel) (by decide +kernel), admits _ _ _ _ _ (by decide +kernel) (by decide +kernel),
    admits _ _ _ _ _ (by decide +kernel) (by decide +kernel)⟩

/-- The state after an append of token 0: the same append finds its token stored. -/
def appended : State := match exec (.append (.host h3) (appendBody 0)) (openSeg 0) with | .next t => t | _ => openSeg 0

theorem witness_AppendAndSeal_duplicate :
    ∃ p u v, Admitted appended (.host h3) 0x10 (appendBody 0) p u v ∧ (appendable p u v fun _ g r _ =>
      (r.nexts g).all fun n => decide (r.first % 2048 + r.count ≤ n.2)) = true :=
  admits _ _ _ _ _ (by decide +kernel) (by decide +kernel)

/-- A connection of tenant 3 that this node opened to node 9. -/
def conn9 : Conn := { state := .opened, opener := true, remoteNode := 9, tenant := 3, cwnd := 100000 }
/-- A node that holds the segment, with that connection as number 0 of the segment's Quarter, and a ticket if one is given. -/
def seating (st : SegState) (g : Seg) (t : Option Ticket) : State :=
  let s := stacked st g
  { s with
    stk := s.stk
    quarters := [(home3, { s.qtr home3 with xpt := { conns := [(0, conn9)] }, tk := { onChip := (t.map fun t => (tkSlot t.id, t)).toList, inUse := (t.map fun t => tkSlot t.id).toList } })] }
/-- The ticket of the source of a reseat: slot 5 of the segment's Quarter. -/
def srcTk : Ticket := { id := home3 * 2 ^ 18 + 5, kind := 3, side := 0, tenant := 3, key := key3, reseatConn := home3 * 16384, origin := .host h3, deadline := 100 }
/-- The ticket of the destination of a reseat. -/
def dstTk : Ticket := { srcTk with side := 1, origin := .wire (home3 * 16384), copyDone := true }
/-- A RESEAT body with a SUB, a PEER and a role. -/
def reseatOf (sub peer role : Nat) (rest : Bytes) : Bytes :=
  leBytes 8 77 ++ leBytes 9 key3 ++ leBytes 1 (1 + 16 * role) ++ leBytes 2 1 ++ leBytes 3 1000 ++ leBytes 1 0 ++ leBytes 1 sub ++ [0] ++ leBytes 2 peer ++ rest

theorem witness_ReseatSource :
    (∃ p u v, Admitted (seating .sealed seg3 none) (.host h3) 0x18 (reseatOf 0 9 0 []) p u v ∧
      (!reseatBad p.body p.role && (v.ticket p.tk).isSome && tkQ p.tk == p.q && decide (p.q < 4) &&
        ((v.qtr p.q).xpt.conns.find? fun x => (x.2.state == .opening || x.2.state == .opened) && x.2.opener && x.2.remoteNode == 9 && x.2.tenant == keyTenant p.key).isSome &&
        onSeg v p fun _ _ e _ => p.gen == e.gen && e.state == .sealed) = true) ∧
    (∃ p u v, Admitted (seating .moving seg3 (some srcTk)) (.host h3) 0x18 (reseatOf 1 0 0 []) p u v ∧
      (!reseatBad p.body p.role && (v.reseatOf p.q p.key 0 == some srcTk) && onSeg v p fun _ _ e _ => p.gen == e.gen && e.state == .moving) = true) ∧
    (∃ p u v, Admitted (seating .moving seg3 (some srcTk)) (.host h3) 0x18 (reseatOf 2 0 0 []) p u v ∧
      (!reseatBad p.body p.role && p.role == 0 && (v.reseatOf p.q p.key 0 == some srcTk) && onSeg v p fun _ _ e _ => p.gen == e.gen && e.state == .moving) = true) ∧
    (let t := { srcTk with prepared := true }
     let s := seating .moving seg3 (some t)
     s.ticket t.id = some t ∧ t.kind = 3 ∧ t.side = 0 ∧ t.prepared = true ∧ t.writesLeft = 0 ∧ t.copyDone = false) :=
  ⟨admits _ _ _ _ _ (by decide +kernel) (by decide +kernel), admits _ _ _ _ _ (by decide +kernel) (by decide +kernel), admits _ _ _ _ _ (by decide +kernel) (by decide +kernel), by decide +kernel⟩

/-- A WRITE to the last two bytes of a frame of that size, frame 0, of the reseat. -/
def writeBody (frame : Nat) (rest : Bytes) : Bytes := leBytes 8 (dstTk.id + (frame - 2) * 2 ^ 33) ++ zb 16 ++ rest
theorem witness_ReseatDestination :
    (let s := seating .incoming seg3 (some dstTk)
     let b := writeBody shape1.frame [1, 2]
     let rem := fieldAt b 0 8
     let q := home3 * 16384 / 16384
     let u := (s.take (.wire (home3 * 16384)) 0x12 b).2
     writeBad false b = false ∧ writeBad true b = false ∧ u.ticket (rem % 2 ^ 20) = some dstTk ∧ dstTk.kind = 3 ∧ dstTk.side = 1 ∧
     tkQ (rem % 2 ^ 20) = q ∧ dstTk.reseatConn = home3 * 16384 ∧ u.entryOf q dstTk.key = some (8, { key := key3, gen := 1, state := .incoming }) ∧
     u.segOf q dstTk.key = some (0, seg3) ∧ u.shape seg3.tenant seg3.shapeId = some shape1 ∧ seg3.frames[bits rem 32 21]? = some { stack := 0, addr := 0 } ∧
     bits rem 20 20 = 0 ∧ bits rem 53 33 + (b.drop 24).length = shape1.frame) ∧
    (∃ p u v, Admitted { seating .sealed seg3 none with quarters := [(home3, { xpt := { conns := [(0, conn9)] } })] } (.wire (home3 * 16384)) 0x18
        (reseatOf 3 9 3 []) p u v ∧
      (!reseatBad p.body p.role && (v.entryOf p.q p.key).isNone &&
        (match v.shape (keyTenant p.key) p.shapeId with
         | some sh => (match v.allocSeg p.q p.key p.shapeId 0 (nextGen (max p.gen 0)) sh .incoming p.toInbound none with
           | .done w => ((w.trimReads p.q).ticket p.tk).isSome
           | _ => false)
         | none => false)) = true) ∧
    (∃ p u v, Admitted (seating .incoming seg3 (some dstTk)) (.wire (home3 * 16384)) 0x18 (reseatOf 4 0 3 (leBytes 4 dstTk.id ++ [1, 0])) p u v ∧
      (!reseatBad p.body p.role && v.destTicket p (fieldAt p.body 28 4) == some dstTk &&
        onSeg v p fun _ _ e g => e.state == .incoming && fieldAt p.body 32 2 == e.gen && (v.shape g.tenant g.shapeId).isSome) = true) ∧
    (seating .incoming seg3 (some dstTk)).ticket dstTk.id = some dstTk :=
  ⟨by decide +kernel, admits _ _ _ _ _ (by decide +kernel) (by decide +kernel), admits _ _ _ _ _ (by decide +kernel) (by decide +kernel), by decide +kernel⟩

/-! ### ATTEND and its work (ch. 04, ch. 09, ch. 10) -/

/-- An ATTEND of one row and head 0 over segment 0, of its first 64 tokens, with a flags byte. -/
def attendBody (first last view flags : Nat) : Bytes :=
  reqBody (mkKey 3 2 0) 1 0 (zb 8 ++ [0, 0] ++ leBytes 8 1 ++ leBytes 2 1 ++ leBytes 2 first ++ leBytes 2 last ++ leBytes 4 view ++ leBytes 1 flags ++ zb 11 ++ zb (4 + 2 * shape1.d))
/-- The segment's node with cores that dispatch, a full energy bucket and the ATTEND taken. -/
def attending : State := match exec (.attend (.host h3) (attendBody 0 0 64 0) []) (stacked .sealed { seg3 with counts := [64] }) with | .next t => t | _ => live

/-- What the claims about ATTEND ask of a command, for a request that fans out or not. -/
def attendable (s : State) (o : Origin) (b : Bytes) (fan : Bool) : Bool :=
  let r0 := s.take o 0x15 b
  match r0.2.beginOp { origin := o, opcode := 0x15, body := b, arrival := r0.1 } with
  | .ok (p, u) =>
    let v := u.meter (keyTenant p.key) 5 1
    (match v.shape (keyTenant p.key) p.shapeId with
     | some sh =>
       let r := p.request sh (v.assisted 6)
       !attendBad sh p.body && r.fanout == fan &&
         (if fan then (match v.ticket p.tk with | some t => t.kind != 2 | none => false) && (v.mapOf (keyTenant p.key) (keyConv p.key)).isNone
          else match findSegs p (reqSegs r.viewEnd [(r.firstSeg, r.lastSeg)]) (v.updTicket p.tk fun t => t.ofRequest r 0) with
            | (some l, w) => l.length == 1 && !laneFits w p.q r l
            | _ => false)
     | none => false)
  | .error _ => false
/-- An ATTEND that fans out, by its map key. -/
def fanBody : Bytes := leBytes 8 77 ++ leBytes 9 (mapKey 3 2) ++ (attendBody 0 0 64 8).drop 17

theorem witness_AttendStarts :
    (let s := stacked .sealed { seg3 with counts := [64] }
     hostCheck (s.take (.host h3) 0x15 (attendBody 0 0 64 0)).2 h3 0x15 (attendBody 0 0 64 0) = none ∧ attendable s (.host h3) (attendBody 0 0 64 0) false = true ∧
     hostCheck (s.take (.host h3) 0x15 fanBody).2 h3 0x15 fanBody = none ∧ attendable s (.host h3) fanBody true = true) := by decide +kernel

/-- A child that was sent to node 9 on connection 0 of the segment's Quarter. -/
def child9 : Child := { idx := 4, group := 0, node := 9, conn := home3 * 16384, first := 0, last := 0, sentAt := 5000 }
/-- The ATTEND's state with a child whose hedges are spent. -/
def parenting : State :=
  let s := attending.updTicket (home3 * 2 ^ 18) fun t => { t with kind := 2 }
  s.updDove home3 fun D => { D with reqs := D.reqs.map fun e => (e.1, { e.2 with children := [child9], groups := [{ idx := 0, first := 0, last := 0, candidates := [], hedges := 2 }] }) }
/-- A body that names the child: its tag, a byte, three bytes, and its length. -/
def toChild (st v n : Nat) : Bytes := leBytes 8 (home3 * 2 ^ 18 + 4 * 2 ^ 20) ++ leBytes 1 st ++ leBytes 3 v ++ zb (n - 12)
/-- A forward that nothing waits for. -/
def fwd7 : Forward := { id := home3 * 2 ^ 18 + 7, opcode := 0x10, body := [] }
/-- The answer to it. -/
def fwdAnswer (op : Nat) : Bytes := leBytes 8 fwd7.id ++ [0] ++ leBytes 1 op ++ [9, 0] ++ zb 20

theorem witness_ChildrenAndForwards :
    (let tk := fieldAt (toChild 0x61 0 32) 0 8 % 2 ^ 20
     let u := (parenting.take (.wire (home3 * 16384)) 0x16 (toChild 0x61 0 32)).2
     let v := (parenting.take (.wire (home3 * 16384)) 0x1B (toChild 0x21 9 16)).2
     fieldAt (toChild 0x21 9 16) 0 8 = fieldAt (toChild 0x61 0 32) 0 8 ∧
     (∀ w ∈ [u, v], (w.ticket tk).map (·.kind) = some 2 ∧
       (w.request tk).map (fun r => (r.children.find? fun c => c.idx == fieldAt (toChild 0x61 0 32) 0 8 / 2 ^ 20, r.groups.map (·.hedges))) = some (some child9, [2])) ∧
     child9.ended = false ∧ child9.willMiss = none ∧ (toChild 0x61 0 32).length = 32 ∧ byteAt (toChild 0x61 0 32) 8 = 0x61 ∧
     (toChild 0x21 9 16).length = 16 ∧ byteAt (toChild 0x21 9 16) 8 = 0x21) ∧
    (∀ op ∈ [0x10, 0x11, 0x17],
     let s := stacked .sealed { seg3 with chain := { outstanding := [fwd7] }, chainOn := true }
     let u := (s.take (.wire (home3 * 16384)) 0x1A (fwdAnswer op)).2
     (fwdAnswer op).length = 32 ∧ byteAt (fwdAnswer op) 8 = 0 ∧ byteAt (fwdAnswer op) 9 = op ∧ u.forwardSeg home3 (fieldAt (fwdAnswer op) 0 8) = some key3 ∧
     (u.segOf home3 key3).map (fun e => (e.2.chain.outstanding.find? fun f => f.id == fieldAt (fwdAnswer op) 0 8, e.2.chain.queue)) = some (some fwd7, []) ∧
     u.unitErrs = []) := by decide +kernel

/-- An operation of 200 µs held for a gap, with the ticket of slot 5. -/
def held5 : Held := { id := 8, key := key3, gen := 1, opcode := 0x10, origin := .host h3, body := appendBody 1, arrival := 0, since := 0, ticket := srcTk.id }
theorem witness_DeadlinesEnd :
    ((((stacked .opened seg3).updStore home3 fun S => { S with holds := [held5] }).qtr home3).store.holds.find? fun h => h.id == 8 && !h.inStore) = some held5 ∧
    (let id := home3 * 2 ^ 18
     (attending.ticket id).map (fun t => (t.opcode, t.kind)) = some (0x15, 1) ∧
     (attending.request id).map (fun r => (r.assist6, r.byDeadline, r.complete)) = some (false, false, false) ∧ attending.host.assists = []) := by decide +kernel

/-- The ATTEND's job. -/
def job1 : Job := match attending.job home3 1 with | some j => j | none => { id := 0, ticket := 0, collect := 0, cls := .decode, head := 0, passNo := 0, rowLo := 0, rowN := 0, firstRun := 0, runs := 0, frames := [], order := 0 }
/-- The state after its job has started on core 0. -/
def folding : State := match exec (.jobAdmit 1) attending with | .next t => t | _ => live

theorem witness_JobsStartAndGoOn :
    (let q : Fin 4 := 1
     let s := attending
     s.firstJob q = some job1 ∧ job1.state = .ready ∧ job1.admitted = false ∧ (s.request job1.ticket).isSome = true ∧
     (match s.request job1.ticket with
      | some r => (match s.resolveSite q r job1 with
        | (some j, w) => let v := w.updJob q j.id fun _ => j
          !v.pwr.clamp && v.fits q j && j.site == 1 && (v.coresIn q).find? (fun k => (v.core q k).idle) == some 0
        | _ => false)
      | none => false) = true) ∧
    (let q := home3
     let s := folding
     (s.core q 0).held = false ∧ (s.core q 0).job = some 1 ∧
     (match s.job q 1 with
      | some j => (match s.request j.ticket with
        | some r => (foldStep s q 0 r j).1.isSome
        | none => false)
      | none => false) = true ∧
     (let t := s.updOne q 0 fun c => { c with held := true }
      (t.core q 0).held = true)) ∧
    (let s := (attending.updJob home3 1 fun j => { j with state := .saved, core := 7 }).updOne home3 7 fun c => { c with saved := [1] }
     (s.firstJob home3).map (fun j => (j.state, j.core)) = some (.saved, 7)) := by decide +kernel

theorem witness_SavesAndClockSwitches :
    (let s := folding.updOne home3 0 fun c => { c with job := none, saving := some 1 }
     (s.core home3 0).saving = some 1 ∧ (s.job home3 1).isSome = true ∧ s.inDispatch home3 0 = true ∧ (s.core home3 0).nextJob = none) ∧
    (let s := live.updQ 1 fun Q => { Q with core := { Q.core with clockPend := some 2, cores := ((List.range 8).map fun k => (k, { held := true })) } }
     (s.qtr 1).core.clockPend = some 2 ∧ ∀ k, k < 8 → ((s.core 1 k).held = true ∨ (s.core 1 k).online = false ∨ (s.core 1 k).faulted = true) ∧ (s.core 1 k).nextJob = none) := by decide +kernel

/-- A sequence of one run of the ATTEND's job on scorer 63 of stack 2. -/
def seqOf (done : Nat) : Sequence := { tag := 9, job := 1, seqNo := 1, pch := 63, frameAddr := 0, slotUnits := 32, firstPage := 0, runs := 1, firstRun := 0, rowN := 1, bank := 2, entry := 0, viewEnd := 64, done := done, frame := { seg := 0, key := key3, gen := 1, frame := 0, stack := 2, addr := 0, spilled := false } }
/-- A node with parts of stack 2 of the job's Quarter. -/
def scoring (B : BscStack) : State := attending.updBank home3 2 fun _ => B

theorem witness_SequencesRun :
    (let s := scoring { seqs := [(63, [seqOf 0])] }
     let c := { s with hbm := Mem.write [] (hbmAddr home3 2 0) ({ tokens := 1, enc := true, kLen := 1, vLen := 1 } : PageHdr).bytes }
     (∀ x ∈ [s, c], (x.bank home3 2).queueOf 63 = [seqOf 0] ∧ (x.bank home3 2).crossing.contains 63 = false ∧ x.job home3 (seqOf 0).job = some job1 ∧
       (x.request job1.ticket).map (·.shape) = some shape1) ∧ (seqOf 0).done < (seqOf 0).runs ∧
     (match s.bankPages home3 2 (seqOf 0).frame shape1 0 8 with | .ok _ => true | .error _ => false) = true ∧
     (match c.bankPages home3 2 (seqOf 0).frame shape1 0 8 with | .ok _ => false | .error e => e == 1) = true) ∧
    (let s := scoring { seqs := [(63, [seqOf 1])] }
     (s.bank home3 2).queueOf 63 = [seqOf 1] ∧ (seqOf 1).runs ≤ (seqOf 1).done ∧ (s.bank home3 2).issuerFence = none ∧
     ((s.updBank home3 2 fun B => { B with issuerFence := some [9] }).bank home3 2).issuerFence.isSome = true) := by decide +kernel

theorem witness_FencesWait :
    (let s := scoring {}
     s.qOff home3 = false ∧ 65535 % 65536 ≠ (s.bank home3 2).doneSeq ∧ ((s.bank home3 2).seqs.flatMap fun e => e.2) = [] ∧
     ((scoring { seqs := [(63, [seqOf 0])] }).bank home3 2).seqs.flatMap (fun e => e.2) ≠ []) ∧
    (let B : BscStack := { fenceSeq := 7, fenceWait := some [9] }
     ((scoring B).bank home3 2).fenceWait = some [9] ∧ ((scoring B).bank home3 2).fenceOver [9] = true ∧ ((scoring B).bank home3 2).issuerFence = none) := by decide +kernel

theorem witness_CrossingsAndRefresh :
    (let B : BscStack := { seqs := [(63, [seqOf 0])], refreshDue := [63] }
     (B.work 63) = true ∧ B.crossing.contains 63 = false ∧ B.queueOf 63 = [seqOf 0] ∧ (seqOf 0).done < (seqOf 0).runs ∧ (seqOf 0).bad = false ∧
     ((scoring B).bank home3 2) = B) ∧
    ((scoring { crossing := [63] }).bank home3 2).crossing.contains 63 = true := by decide +kernel

theorem witness_ChannelModes :
    (let v : Word := 0x7
     let s := scoring { mode := [(1, 1)] }
     s.qOff home3 = false ∧ (∀ i, i < 16 → bits v.toNat (2 * i + 1) (2 * i) = 0 → (s.bank home3 2).mode.fetch i 0 = 0 ∨ ((s.bank home3 2).pendFrom.look i).isSome = true)) ∧
    (let B : BscStack := { mode := [(31, 1)], want := [(31, 1)], pendFrom := [(31, 2)] }
     (((scoring B).bank home3 2).pendFrom.look 31).isSome = true ∧ B.want.fetch 31 0 = B.mode.fetch 31 0 ∧ B.mode.fetch 31 0 ≠ 0 ∧
     (let B : BscStack := { pendFrom := [(31, 2)] }
      (((scoring B).bank home3 2).pendFrom.look 31).isSome = true ∧ B.want.fetch 31 0 = B.mode.fetch 31 0 ∧ B.queueOf 62 = [] ∧ B.queueOf 63 = [])) := by decide +kernel

theorem witness_BuiltInTests :
    (let v : Word := 0x10000 + 0x7E
     let s := scoring {}
     s.qOff home3 = false ∧ bits v.toNat 31 16 ≠ bits (s.reg bBSC home3 0x40) 31 16 ∧ bits v.toNat 7 6 = 1 ∧ bits v.toNat 5 1 = 31 ∧
     (s.bank home3 2).mode.fetch 31 0 = 0 ∧ (s.bank home3 2).pendFrom.look 31 = none ∧ (s.qtr home3).bsc.bistRunning = none ∧
     bits (BitVec.toNat (0x10000 : Word)) 7 6 = 0) ∧
    (let s := (scoring {}).updQ home3 fun Q => { Q with bsc := { Q.bsc with bistRunning := some (2, 31, 1, 5) } }
     (s.qtr home3).bsc.bistRunning = some (2, 31, 1, 5)) := by decide +kernel

/-! ### DMA, frames, tickets, tables and coders (ch. 06, ch. 07) -/

/-- A descriptor's body: OP, LENGTH, the kinds, SRC and DST, then the key, generation and frame of a move. -/
def dmaBody (op len kinds src dst key gen : Nat) : Bytes :=
  leBytes 1 op ++ zb 3 ++ leBytes 4 len ++ leBytes 1 kinds ++ zb 7 ++ leBytes 8 src ++ leBytes 8 dst ++ zb 8 ++ leBytes 9 key ++ leBytes 2 gen ++ zb 13
/-- A COPY of 256 bytes of host memory. -/
def copyBody : Bytes := dmaBody 0 256 5 4096 8192 0 0

theorem witness_DescriptorsAreQueued :
    (let s := stacked .sealed seg3
     let q := home3
     hostCheck s h0 0x50 copyBody = none ∧ dmaReserved copyBody = false ∧ dmaReserved (copyBody.set 11 1) = true ∧
     hostCheck s h0 0x50 (copyBody.set 11 1) = none ∧ s.qOff q = false ∧ (dmaDesc h0 copyBody).op = 0 ∧ copyBad (dmaDesc h0 copyBody) = false ∧
     (dmaDesc h0 copyBody).srcKind = 1 ∧
     (let b := dmaBody 1 0 0 0 0 key3 1
      let d := dmaDesc h0 b
      hostCheck s h0 0x50 b = none ∧ dmaReserved b = false ∧ d.op = 1 ∧ moveBad d = false ∧ s.moveCheck q d true = none ∧ (s.dmaFrame q d).isSome = true) ∧
     (let s := stacked .sealed { seg3 with frames := [{ stack := 0, addr := 4096, spilled := true }] }
      let b := dmaBody 2 0 0 0 0 key3 1
      let d := dmaDesc h0 b
      let v := ((s.take (.host h0) 0x50 b).2).applyAt bPST q 4
      hostCheck s h0 0x50 b = none ∧ dmaReserved b = false ∧ d.op = 2 ∧ moveBad d = false ∧ v.qOff q = false ∧ v.moveCheck q d false = none ∧
      (match v.dmaFrame q d with
       | some (_, _, _, sh) =>
         (takeFrame (v.qtr q).store.allocs ((stackOrder d.place d.frame (bit (v.reg bPST q 4) 4)).filter (v.stackEligible q)) sh.frame).isSome
       | none => false) = true)) := by decide +kernel

/-- A host-to-host COPY of 256 bytes. -/
def copy0 : Dma := { user := .host h0, op := 0, length := 256, srcKind := 1, dstKind := 1, src := 4096, dst := 8192, tag := 65535 }
/-- A node whose engine 3 of Quarter 1 stands in a state with a descriptor, its queue given. -/
def engined (e : Engine) (l : List Dma) : State := (stacked .sealed seg3).updStore home3 fun S => { S with dmaQueue := l, engines := [(3, e)] }
/-- An engine that an error of its class stopped. -/
def stopped : Engine := { state := .faulted, desc := some copy0, done := 128, faultOffset := 128, cls := 3, tag := 65535 }

theorem witness_EnginesMoveAndStop :
    (let s := engined {} [copy0, { copy0 with user := .reseat srcTk.id }]
     (s.eng home3 3).state = .idle ∧ s.qOff home3 = false ∧ (s.qtr home3).store.dmaQueue.find? (fun d => (3 : Nat) < 3 || d.own) = some { copy0 with user := .reseat srcTk.id } ∧
     (s.qtr home3).store.dmaQueue.find? (fun d => (0 : Nat) < 3 || d.own) = some copy0 ∧ (s.eng home3 0).state = .idle ∧ copy0.op = 0) ∧
    (let s := engined { state := .running, desc := some copy0, done := 128 } []
     (s.eng home3 3).state = .running ∧ (s.eng home3 3).desc = some copy0 ∧ copy0.user = .host h0 ∧ copy0.srcKind = 1 ∧ copy0.dstKind = 1 ∧
     s.unitErrs = [] ∧ (s.eng home3 3).done < copy0.length ∧
     (0 < 5 ∧ 5 < 6 ∧ (s.eng home3 3).done ≤ 255 ∧ 255 < copy0.bytes ∧ (s.anyStop home3 copy0 (s.eng home3 3).done).isNone = true ∧ copy0.autoResume = false)) ∧
    (let s := engined stopped []
     hostCheck s h0 0x48 (engParam 3 65535) = none ∧ hostCheck s h0 0x48 (engParam 3 65534) = none ∧ hostCheck s h0 0x49 (engParam 3 65535) = none ∧
     s.qOff home3 = false ∧ (s.eng home3 3) = stopped ∧ stopped.tag = 65535 ∧ s.unitErrs = []) := by decide +kernel

/-- A released frame that waits to be zeroed. -/
def rel0 : Release := { stack := 1, addr := 65536, size := 4096, key := key3, gen := 1, tenant := 3 }
theorem witness_FramesAndSpillMap :
    (let s := (stacked .sealed seg3).updStore home3 fun S => { S with releases := [rel0] }
     (s.qtr home3).store.releases.find? (fun r => r.stack == 1 && r.addr == 65536) = some rel0 ∧ s.frameNamed home3 1 65536 rel0.size = false ∧
     ((s.qtr home3).pcd.coders.any fun c => c.2.key == some rel0.key && c.2.holding) = false ∧ s.qOff home3 = false) ∧
    (let s := engined { state := .waitReady, desc := some copy0 } []
     s.unitErrs = [] ∧ (s.eng home3 3).state = .waitReady ∧ (s.eng home3 3).desc = some copy0 ∧ (s.anyStop home3 copy0 (s.eng home3 3).done).isNone = true ∧
     (∀ i : Fin 4, i ≠ 3 → (s.eng home3 i).state ≠ .waitReady) ∧ (∀ c ∈ (s.qtr home3).store.cache, c.kind ≠ .writeback) ∧
     (∀ h ∈ (s.qtr home3).store.holds, h.inStore = false)) := by decide +kernel

/-- A node with tickets. -/
def ticketed (T : TkPool) : State := live.updTk home3 fun _ => T
theorem witness_TicketsMoveAndFail :
    (let s := ticketed { spill := [(5, { srcTk with ownerSpill := true })], inUse := [5] }
     (s.qtr home3).tk.inUse.contains (tkSlot srcTk.id) = true ∧ (s.qtr home3).tk.onChip.look 5 = none ∧
     (s.qtr home3).tk.spill.look 5 = some { srcTk with ownerSpill := true } ∧ (s.qtr home3).tk.onChip.length < 16384 ∧ s.qOff home3 = false ∧ s.unitErrs = [] ∧
     (∀ i : Fin 4, (s.qtr i).store.cache = []) ∧ ({ srcTk with ownerSpill := true } : Ticket).owns true = true) ∧
    (let s := ticketed { onChip := [(5, srcTk)], inUse := [5], touched := [9, 5], spilling := true }
     (s.qtr home3).tk.onChip.look 5 = some srcTk ∧ (s.qtr home3).tk.touched.find? (fun x => ((s.qtr home3).tk.onChip.look x).isSome) = some 5 ∧
     (s.qtr home3).tk.spill.look 5 = none) := by decide +kernel

/-- A table block: number 7, OP, the Quarters, with codes of one bit for the symbols 0 and 1. -/
def tableBody (op mask : Nat) : Bytes := leBytes 1 7 ++ leBytes 1 op ++ leBytes 1 mask ++ zb 5 ++ (if op % 4 = 1 then zb 128 else [0x11] ++ zb 127)
/-- The loaded table. -/
def table7 : TableSlot := { id := 7, tag := 9, state := .loaded, role := kRole shape1, current := true, lengths := tableLengths ([0x11] ++ zb 127) }
theorem witness_TablesLoadAndRelease :
    (let s := live
     hostCheck s h0 0x44 (tableBody 0x10 8) = none ∧ byteAt (tableBody 0x10 8) 1 % 4 ≠ 1 ∧ tableBad (tableBody 0x10 8) = false ∧
     (maskQuarters 8).any s.qOff = false ∧ (∀ q ∈ maskQuarters 8, s.slotOf q 7 = none ∧ (s.qtr q).pcd.slots.length < 16) ∧
     hostCheck s h0 0x44 (tableBody 0 16) = none ∧ tableBad (tableBody 0 16) = true ∧ hostCheck s h0 0x44 (tableBody 1 16) = none ∧
     tableBad (tableBody 1 16) = true ∧ hostCheck s h0 0x44 (tableBody 1 15) = none ∧ tableBad (tableBody 1 15) = false ∧ (maskQuarters 15).any s.qOff = false) ∧
    (let s := { live.updPcd 3 (fun P => { P with slots := [(0, { table7 with state := .loading, current := false, load := 4 })] }) with
                loads := [{ id := 4, host := h0, quarters := [3], makeCurrent := true, tableId := 7 }] }
     (s.loads.find? (fun l => l.id == 4)).isSome = true ∧ (s.slotOf 3 7).map (fun x => (x.2.state, x.2.load)) = some (.loading, 4)) := by decide +kernel

/-- A node that codes: the K table is current, PCD_CTL enables coding and the sealed segment of one page waits. -/
def coding : State :=
  let s := ((stacked .sealed { seg3 with counts := [1] }).setReg bPCD home3 0 1).updPcd home3 fun P => { P with slots := [(0, table7)], queue := [{ key := key3 }] }
  { s with hbm := Mem.write [] (hbmAddr home3 0 0) ({ tokens := 1, kLen := shape1.kb, vLen := shape1.vb } : PageHdr).bytes }
/-- The same node once coder 1 holds the page. -/
def coded : State := coding.updPcd home3 fun P =>
  { P with coders := [(1, { key := some key3, holding := true, header := ({ tokens := 1, kLen := shape1.kb, vLen := shape1.vb } : PageHdr).bytes, units := zb 2, kLen := 1, tables := [7] })] }
set_option maxRecDepth 1000000 in
theorem witness_CodersAndSweeps :
    (let q := home3
     coding.qOff q = false ∧ coding.assisted 3 = false ∧
     (let w := coding.applyAt bPCD q 0
      let fr : FrameRef := { stack := 0, addr := 0 }
      (coding.coder q 1).key = none ∧ (coding.coder q 1).sweep = false ∧ w.assisted 3 = false ∧ (w.qtr q).pcd.sweepRun = none ∧ bit (w.reg bPCD q 0) 0 = true ∧
      w.startable q = some key3 ∧ w.frameLeft q fr false = false ∧ bit fr.damaged 0 = false ∧ w.inWriteback q key3 0 0 = false ∧
      w.eccIn q fr.stack fr.addr shape1.slot = false ∧
      (match w.codeSeg q key3 false, w.slotStored q key3 fr 0 shape1 with
       | some (_, g, sh), .ok b =>
         g.frames[0]? == some fr && sh == shape1 && !(PageHdr.ofBytes b).damaged && (PageHdr.ofBytes b).tokens != 0 && !(PageHdr.ofBytes b).coded &&
         (match w.openPlain key3 0 0 sh b with
          | some pay => decide ((encodeUnit (w.currentTable q (kRole sh)) (pay.take sh.kb)).1.length +
              (encodeUnit (w.currentTable q (vRole sh)) ((pay.drop sh.kb).take sh.vb)).1.length ≤ sh.kb + sh.vb)
          | none => false)
       | _, _ => false) = true)) ∧
    (let s := coded
     let C := s.coder home3 1
     C.key = some key3 ∧ C.holding = true ∧ C.asked = false ∧ C.coded = true ∧ C.sweep = false ∧
     (match s.codeSeg home3 key3 false with
      | some (_, g, sh) => (match g.frames[C.frame]? with
        | some fr => !fr.spilled && decide (fr.stack < 2) && (match s.slotStored home3 key3 fr C.page sh with
          | .ok b => b.take 64 == C.header && (s.openPlain key3 C.frame C.page sh b).isSome
          | .error _ => false)
        | none => false)
      | none => false) = true ∧ s.tablesGoing home3 C = false) ∧
    (let v : Word := 0x10007
     bits (live.reg bPCD 1 0x10) 31 16 ≠ bits v.toNat 31 16 ∧ (live.qtr 1).pcd.sweepRun = none ∧ v.toNat % 256 ≠ 0 ∧ (BitVec.toNat (0x10000 : Word)) % 256 = 0 ∧
     (let s := live.updPcd 1 fun P => { P with sweepRun := some (1, 7) }
      (s.qtr 1).pcd.sweepRun = some (1, 7) ∧ (s.qtr 1).pcd.sweepKeys = [] ∧ ((s.qtr 1).pcd.coders.any fun e => e.2.sweep) = false)) := by decide +kernel

/-! ### Frames, connections and ports (ch. 08, ch. 10) -/

/-- A node with a connection 7 of Quarter 1, its context at hand, and the port up. -/
def linked (c : Conn) : State :=
  live.updQ 1 fun Q => { Q with port := { Q.port with linkUp := true }, xpt := { conns := [(7, c)], ctx := [(7, {})] } }
/-- Its index. -/
def conn7 : Nat := 16384 + 7
/-- A connection in OPEN with its peer's connection 9, that expects PSN 16777215. -/
def open7 : Conn := { state := .opened, remoteNode := 9, remoteConn := 9, remoteAddr := live.derivedAddr 9 1, remotePort := 1, tenant := 3, ePsn := 16777215, msnRx := 4, cwnd := 100000 }
/-- An Epcen frame from that peer to port 1. -/
def frameOf (h : Hdr) (pay : Bytes) : RxFrame :=
  let h := { h with dstNode := 5, payLen := pay.length }
  { at_ := 100, len := 118 + pay.length, dstMac := live.macOf 1, vid := live.vid 1, pcp := h.tc, srcAddr := live.derivedAddr 9 1, dstAddr := live.derivedAddr 5 1
    udpDst := live.udpPort 1, udpLen := 44 + pay.length, header := h.bytes, payload := pay, trailer := leBytes 4 (crc32c (h.bytes ++ pay)) }
/-- The header of a packet to connection 7. -/
def hdr7 (op psn : Nat) : Hdr := { opcode := op, srcNode := 9, tenant := 3, dstConn := conn7, srcConn := 9, psn := psn, msn := 4, last := true }
/-- The state that takes up a frame's packet. -/
def takenUp (s : State) (f : RxFrame) : State :=
  let v := (s.advance f.at_).count bPORT 1 0
  let t := (Hdr.ofBytes f.header).tenant
  (police (applyPacket v 1 0x600 t) 1 t f.len).2.meter t 3 f.len
/-- Every part of Arrives but the last. -/
def arrives (s : State) (f : RxFrame) : Bool :=
  let v := (s.advance f.at_).count bPORT 1 0
  let t := (Hdr.ofBytes f.header).tenant
  (s.qtr 1).port.linkUp && !s.qOff 1 && f.etherOuter != 0x8808 && (v.portDrop 1 f).isNone && (v.epcenDrop 1 f).isNone &&
    (police (applyPacket v 1 0x600 t) 1 t f.len).1
theorem arrives_of (s : State) (f : RxFrame) (h : arrives s f = true) : Arrives s 1 f (takenUp s f) := by
  simp only [arrives, Bool.and_eq_true, Bool.not_eq_true', bne_iff_ne, ne_eq, Option.isNone_iff_eq_none] at h
  obtain ⟨⟨⟨⟨⟨h1, h2⟩, h3⟩, h4⟩, h5⟩, h6⟩ := h
  exact ⟨by rw [h1]; rfl, h2, h3, h4, h5, h6, rfl⟩
/-- Names, as a check. -/
def names (s : State) (h : Hdr) : Bool :=
  conn7 == h.dstConn % 65536 && !s.qOff 1 && (s.conn conn7).incarn % 256 == h.dstConn / 65536 &&
    ((s.qtr 1).xpt.ctx.look 7).map (·.fetching) == some false && !((s.qtr 1).xpt.miss.any fun m => m.conn == conn7) &&
    h.tenant == (s.conn conn7).tenant && h.tc == (s.conn conn7).tc

theorem witness_FramesAreChecked :
    (let s := linked { open7 with noticeAt := some 0, drops := 1 }
     let f := frameOf (hdr7 0x10 0) (zb 40)
     let bad := { f with fcsOk := false }
     let pfc := { f with dstMac := 0x0180C2000001, etherOuter := 0x8808, pause := some (1, [65535]) }
     let lost := { f with udpSumOk := false }
     let v := (s.advance f.at_).count bPORT 1 0
     ((s.qtr 1).port.linkUp || bit (s.reg bPORT 1 4) 13) = true ∧ s.qOff 1 = false ∧ s.unitErrs = [] ∧ v.portDrop 1 bad = some 2 ∧ v.portDrop 1 pfc = none ∧
     v.portDrop 1 lost = none ∧ v.epcenDrop 1 lost = some 6 ∧ v.portDrop 1 f = none ∧ v.epcenDrop 1 f = none ∧ (s.conn conn7).state = .opened ∧
     (let t := (s.setReg bPORT 1 0x618 1).updPort 1 fun P => { P with pol := [(3, { full := false })] }
      (police (applyPacket ((t.advance f.at_).count bPORT 1 0) 1 0x600 3) 1 3 f.len).1 = false)) := by decide +kernel

/-- The checksum that a frame carries is read back. -/
theorem crc_of_trailer (n : Nat) (hn : n < 4294967296) : fieldAt (leBytes 4 n) 0 4 = n := by
  simp only [fieldAt, leBytes, List.drop_zero, List.take, leNat, BitVec.toNat_ofNat]
  omega
/-- A full packet that is not the last of its message. -/
def longFrame : RxFrame := frameOf { hdr7 0x10 16777215 with last := false } (zb 4096)
set_option maxRecDepth 1000000 in
/-- It arrives: its checksum is right without being computed. -/
theorem longFrame_arrives : arrives (linked open7) longFrame = true := by
  have hc : fieldAt longFrame.trailer 0 4 = crc32c (longFrame.header ++ longFrame.payload) :=
    crc_of_trailer _ (BitVec.isLt _)
  have he : (((linked open7).advance longFrame.at_).count bPORT 1 0).epcenDrop 1 longFrame = none := by
    unfold State.epcenDrop
    simp only [hc, ne_eq, not_true_eq_false, decide_false, Bool.and_false, Bool.false_eq_true, if_false]
    decide
  have hr : ((linked open7).qtr 1).port.linkUp = true ∧ (linked open7).qOff 1 = false ∧ longFrame.etherOuter ≠ 0x8808 ∧
      (((linked open7).advance longFrame.at_).count bPORT 1 0).portDrop 1 longFrame = none ∧
      (police (applyPacket (((linked open7).advance longFrame.at_).count bPORT 1 0) 1 0x600 (Hdr.ofBytes longFrame.header).tenant) 1
        (Hdr.ofBytes longFrame.header).tenant longFrame.len).1 = true := by decide +kernel
  simp only [arrives, he, hr.1, hr.2.1, hr.2.2.2.1, hr.2.2.2.2, Bool.not_false, Option.isNone_none]
  decide

theorem witness_PacketsArriveInOrder :
    (let f := frameOf (hdr7 0x10 16777215) (zb 40)
     let x := frameOf (hdr7 0x10 62) (zb 40)
     let y := frameOf (hdr7 0x10 63) (zb 40)
     let z := frameOf (hdr7 0x10 8388607) (zb 40)
     let s := linked open7
     (∀ e ∈ [f, x, y, z], arrives s e = true ∧ names s (Hdr.ofBytes e.header) = true ∧ (Hdr.ofBytes e.header).prot = false ∧ (Hdr.ofBytes e.header).opcode = 0x10 ∧
       (Hdr.ofBytes e.header).ackValid = false ∧ e.srcAddr = s.derivedAddr open7.remoteNode open7.remotePort) ∧
     s.unitErrs = [] ∧ (s.conn conn7) = open7 ∧ open7.prot = false ∧ (Hdr.ofBytes f.header).psn = open7.ePsn ∧ (Hdr.ofBytes f.header).msn = open7.msnRx ∧
     (Hdr.ofBytes f.header).idx = open7.idxRx ∧ open7.heldRx = [] ∧ open7.rxBad = false ∧ open7.rxPart = [] ∧ (Hdr.ofBytes f.header).last = true ∧
     (let home := if hasKey 0x10 && (zb 40).length ≥ 17 then homeQ (bodyKey (zb 40)) else conn7 / 16384
      s.qOff home = false) ∧
     serialDiff 16777216 (Hdr.ofBytes x.header).psn open7.ePsn = 63 ∧ serialDiff 16777216 (Hdr.ofBytes y.header).psn open7.ePsn = 64 ∧
     serialDiff 16777216 (Hdr.ofBytes z.header).psn open7.ePsn = 8388608) := by decide +kernel
theorem witness_PacketsArriveInOrder_long :
    (let g := longFrame
     let s := linked open7
     let h := Hdr.ofBytes g.header
     names s h = true ∧ h.prot = false ∧ h.opcode = 0x10 ∧ h.ackValid = false ∧ g.srcAddr = s.derivedAddr open7.remoteNode open7.remotePort ∧
     h.last = false ∧ g.payload.length = 4096 ∧ h.psn = open7.ePsn ∧ h.msn = open7.msnRx ∧ h.idx = open7.idxRx) := by decide +kernel

/-- A HELLO body of a kind. -/
def helloBody (kind : Nat) : Bytes := leBytes 1 kind ++ zb 3 ++ leBytes 3 16777215 ++ zb 25
/-- A HELLO to no connection yet. -/
def openFrame (tenant : Nat) : RxFrame := frameOf { hdr7 1 0 with dstConn := 0xFFFFFF, tenant := tenant } (helloBody 0)
theorem witness_HellosOpenAndClose :
    (let s := linked open7
     (∀ t ∈ [0, 3, 4], arrives s (openFrame t) = true ∧ (Hdr.ofBytes (openFrame t).header).opcode = 1 ∧ helloBad (Hdr.ofBytes (openFrame t).header) (openFrame t).payload = false ∧
       (openFrame t).ce = false ∧ isHello (openFrame t) 0 = true ∧ bit (byteAt (openFrame t).payload 0) 2 = false ∧
       ((s.qtr 1).xpt.conns.find? fun e => (e.2.state == .opened || e.2.state == .error || e.2.state == .closing) && e.2.peerOpener &&
          e.2.remoteAddr == (openFrame t).srcAddr && e.2.remoteConn == (Hdr.ofBytes (openFrame t).header).srcConn && e.2.tenant == (Hdr.ofBytes (openFrame t).header).tenant).isNone = true) ∧
     s.unitErrs = [] ∧ (s.tenant 4).state ≠ .active ∧ (s.tenant 3).state = .active ∧ (s.tenant 3).wireProt = false ∧ s.sec.conf = false ∧
     s.connsOf 3 < (s.tenant 3).connMax ∧ s.freeConnIdx 1 = some 16384) ∧
    (∀ kind ∈ [1, 2, 3],
     let f := frameOf (hdr7 1 0) (helloBody kind)
     let s := linked { open7 with state := if kind = 1 then .opening else .opened, prot := kind == 1 }
     arrives s f = true ∧ names s (Hdr.ofBytes f.header) = true ∧ helloBad (Hdr.ofBytes f.header) f.payload = false ∧ isHello f kind = true ∧
     names (linked { open7 with state := .opening }) (Hdr.ofBytes f.header) = true ∧ arrives (linked { open7 with state := .opening }) f = true ∧
     (s.conn conn7).flight = [] ∧ (s.conn conn7).queue = [] ∧ (Hdr.ofBytes f.header).srcConn = (s.conn conn7).remoteConn ∧
     f.srcAddr = s.derivedAddr (s.conn conn7).remoteNode (s.conn conn7).remotePort) := by decide +kernel

/-- A packet of a message in flight. -/
def pkt (psn : Nat) : TxPkt := { psn := psn, opcode := 0x10, msn := 1, idx := 0, last := true, payload := zb 40, sentAt := 5, retryAt := some 900, busy := 62 }
/-- A connection with two packets in flight, round the end of the PSNs, and a message to send. -/
def busy7 (w : Nat) : Conn :=
  { open7 with ackPsn := 16777215, nextPsn := 1, flight := [pkt 16777215, pkt 0], queue := [{ opcode := 0x1A, body := zb 32 }], timerAt := some 1000, rto := 500, retries := 6, cwnd := w, ackDueAt := some 700 }
theorem witness_AcksAndResends :
    (let s := linked (busy7 100000)
     let c := s.conn conn7
     s.qOff 1 = false ∧ s.unitErrs = [] ∧ c = busy7 100000 ∧ c.state = .opened ∧ serialDiff 16777216 1 c.ackPsn = 2 ∧ serialDiff 16777216 c.nextPsn c.ackPsn = 2 ∧
     s.assisted 5 = false ∧ c.decTime = none ∧
     (let b := leBytes 1 sCTXBUSY ++ zb 11
      b.length = 12 ∧ byteAt b 1 = 0 ∧ byteAt b 7 = 0 ∧ zeroRange b 8 12 = true ∧ byteAt b 0 = sCTXBUSY ∧
      (c.flight.find? fun y => y.psn == fieldAt b 4 3 && !y.sacked) = some (pkt 0) ∧ (pkt 0).busy + 1 < 64 ∧
      (let d := (linked { busy7 100000 with flight := [{ pkt 0 with busy := 63 }] }).conn conn7
       (d.flight.find? fun y => y.psn == fieldAt b 4 3 && !y.sacked) = some { pkt 0 with busy := 63 } ∧ d.retries < 7)) ∧
     (leBytes 1 sWINDOW ++ zb 11).length = 12 ∧ byteAt (leBytes 1 sWINDOW ++ zb 11) 0 = sWINDOW ∧
     c.queue ≠ [] ∧ ((s.qtr 1).xpt.ctx.look 7).map (·.fetching) = some false ∧
     (let pay := (zb 32).take 4096
      serialDiff 16777216 c.nextPsn c.ackPsn ≤ 63 ∧ c.outstanding + pay.length + 64 ≤ c.cwnd ∧ s.rtxBytes 1 + pay.length + 64 ≤ 8388608 ∧
      c.outstanding + pay.length + 64 > (busy7 200).cwnd) ∧
     c.timerAt = some 1000 ∧ c.retries < 7 ∧ 7 ≤ ({ busy7 1 with retries := 7 } : Conn).retries ∧ c.ackDueAt = some 700 ∧
     (c.flight.find? fun z => z.psn == 0) = some (pkt 0) ∧ (pkt 0).retryAt = some 900) := by decide +kernel

theorem witness_ConnectionTimersAndRegisters :
    (let s := (linked { open7 with state := .error, noticeAt := some 5 })
     s.qOff 1 = false ∧ (s.conn conn7).state = .error) ∧
    (let s := (linked { open7 with opener := true, drops := 1, noticeAt := some 5 }).setReg bXPT 1 0xC 0x100
     let c := s.conn conn7
     s.qOff 1 = false ∧ c.state = .opened ∧ c.opener = true ∧ bits (s.reg bXPT 1 0xC) 15 8 ≠ 0 ∧ c.flight = [] ∧ c.queue = [] ∧ c.closeSent = false ∧
     c.closeRcvd = false ∧ 0 < c.drops ∧ c.noticeAt = some 5 ∧ s.assisted 5 = false) ∧
    (let s := (linked open7).updQ 1 fun Q => { Q with xpt := { Q.xpt with ctx := [(7, { fetching := true })], copyHost := some true } }
     (s.qtr 1).xpt.ctx.look (conn7 % 16384) = some { fetching := true } ∧ ((s.qtr 1).xpt.miss.any fun m => m.conn == conn7) = false ∧ s.unitErrs = [] ∧
     (s.qtr 1).xpt.copyHost = some true ∧ (s.setReg bFMODE 0 0 32).qOff 1 = false ∧ (s.setReg bFMODE 0 0 32).assisted 5 = true) := by decide +kernel

/-- A frame of 100 bytes of tenant 3. -/
def txf : TxFrame := { conn := conn7, tenant := 3, tc := 5, bytes := 100, opcode := 0x10 }
/-- Port 1 up, with parts of it given. -/
def porting (f : Port → Port) : State := live.updQ 1 fun Q => { Q with port := f { Q.port with linkUp := true } }

theorem witness_PortsSendAndPause :
    (let s := porting fun P => { P with freeAt := 100, classes := [(5, { round := [{ tenant := 3, frames := [txf, txf], deficit := 36 }] })] }
     let P := (s.qtr 1).port
     s.unitErrs = [] ∧ s.qOff 1 = false ∧ P.linkUp = true ∧ s.loops 1 = false ∧ 5 * 19 + 4 < P.freeAt ∧ P.freeAt ≤ 5 * 20 + 4 ∧ P.inj = {} ∧
     s.pfcDue 1 = false ∧ P.gclRun = false ∧ s.regs.staged = [] ∧ s.reg bPORT 1 (0x800 + 8 * 3) % 65536 = 0 ∧ s.classPaused 1 5 = false ∧
     (∀ k : Fin 8, k ≠ 5 → (P.classes.fetch k {}).round = []) ∧ (P.classes.fetch 5 {}).visiting = false ∧
     (P.classes.fetch 5 {}).round = [{ tenant := 3, frames := [txf, txf], deficit := 36 }] ∧ txf.pfc = none ∧ txf.bytes ≤ 36 + s.quantum 1 3 ∧
     (P.classes.fetch 5 {}).pausedUntil = none) ∧
    (let s := (porting fun P => { P with classes := [(5, { xoff := true, xoffAt := 9, pfcDue := true, pausedUntil := some 77 })] }).setReg bPORT 1 0x114 3
     s.pfcDue 1 = true ∧ s.pfcEn 1 5 = true ∧ ((s.qtr 1).port.classes.fetch 5 {}).xoff = true ∧ ((s.qtr 1).port.classes.fetch 5 {}).pausedUntil = some 77 ∧
     (∀ k : Fin 8, k ≠ 5 → s.pfcEn 1 k = false ∨ ((s.qtr 1).port.classes.fetch k {}).xoff = false)) := by decide +kernel

theorem witness_GatesInjectorsAndLinks :
    (let s := porting fun P => P
     s.qOff 1 = false ∧ (s.qtr 1).port.gclRun = false ∧ (s.qtr 1).port.linkUp = true ∧ s.movers 1 = []) ∧
    (let s := porting fun P => { P with gclRun := true, active := { P.active with len := 2 }, swapPend := true }
     (s.qtr 1).port.gclRun = true ∧ (s.qtr 1).port.gclEntry + 1 < (s.qtr 1).port.active.size ∧ s.qOff 1 = false) ∧
    (let s := porting fun P => { P with gclRun := true, swapPend := true }
     (s.qtr 1).port.gclRun = true ∧ (s.qtr 1).port.active.size ≤ (s.qtr 1).port.gclEntry + 1 ∧ (s.qtr 1).port.swapPend = true) ∧
    (let s := porting fun P => { P with inj := { armed := true, endAt := 99, held := some (txf, 3, 7) } }
     (s.qtr 1).port.inj.held = some (txf, 3, 7) ∧ (s.qtr 1).port.inj.armed = true) ∧
    (let s := (porting fun P => { P with linkUp := false }).setReg bPORT 1 4 4096
     (s.qtr 1).port.linkUp = false ∧ s.portMay 1 = true) := by decide +kernel

/-! ### Power, start-up, resets, the Alley and faults (ch. 14 to 16, ch. 18) -/

/-- A node in a phase of its start-up, with parts of that state given. -/
def booting (n : Nat) (f : Boot → Boot) : State := { live with boot := f { live.boot with phase := n } }

theorem witness_PowerFollowsItsRules :
    live.squareRuns = true ∧ live.pins.vsb12 = true ∧ tripsAt 0 919 = false ∧ tripsAt 8 920 = true ∧ live.pwr.lockout = false ∧
    (live.pwr.sensors.fetch 32 {}).valid = false ∧ (live.pwr.sensors.fetch 32 {}).lost = false ∧ live.capEffMw < 2000000000 ∧ 0 ≤ live.capEffMw ∧
    (let s := live.updQ 1 fun Q => { Q with power := .leaving }
     (s.qtr 1).power = .leaving ∧ s.regs.staged = [] ∧ (s.qtr 1).dir.shadowBad = [] ∧ (s.qtr 1).dir.waiting = [] ∧
     (∀ e : Fin 4, (s.eng 1 e).state ≠ .waitReady) ∧ (s.qtr 1).store.cache = [] ∧ (s.qtr 1).store.holds = []) := by decide +kernel

theorem witness_StartUpRunsItsPhases :
    (∀ n ∈ [1, 2, 3, 4, 6, 7, 9], let s := booting n id
     s.boot.started = true ∧ s.pins.vsb12 = true ∧ s.pins.sysclk = true ∧ s.boot.failStop = false ∧ s.unitErrs = [] ∧ s.boot.phase = n ∧ s.pins.mainPg = true ∧
     s.boot.image = some {} ∧ s.boot.pcieDone = true ∧ s.host.configOk = true ∧ s.boot.readyOnce = false ∧ s.image.chModes = []) ∧
    ({ booting 7 id with stk := (List.range 16).map fun n => (n, { st := .ready }) }).trained = true ∧
    (let s := booting 7 id
     (s.stack 15).st = .training ∧ (s.stack 15).off = false ∧ (s.stack 0).st = .training ∧ (s.qtr 0).failed = false ∧ s.boot.trainDone = false) ∧
    (booting 9 fun B => { B with readyOnce := true }).boot.readyOnce = true := by decide +kernel

theorem witness_ResetsAndSupplies :
    (let s := { live with pins := { live.pins with mainPg := false } }
     s.pins.mainPg = false ∧ s.stagesMay = true ∧ s.pwr.lockout = false ∧ ({ s with boot := { s.boot with started := false } }).stagesMay = true ∧
     s.boot.started = true ∧ ({ s with boot := { s.boot with phase := 2 } }).stagesMay = true) ∧
    live.pins.mainEn = true ∧ live.pins.mainPg = true ∧ live.pins.vin52Ok = true ∧ 43999 < 44000 ∧
    ({ live with pins := { live.pins with mainEn := false, sysclk := false, vin52Ok := false } }).pins.sysclk = false := by decide +kernel

/-- An Alley frame to a station, of a command, with its check. -/
def alleyOf (dst cmd : Nat) (b : Bytes) : Bytes := alleyFrameOf dst 0 cmd false false false 9 b
/-- A node at address 1 that takes every command without a session. -/
def managed : State := { live with finjPermit := 18, boot := { live.boot with addr := 1, image := some { openMask := 4095, fabric := [(0, 16383)], finjPorts := 2, finjModes := 16 } } }
theorem witness_AlleyFramesAndSessions :
    (let s := managed
     s.agentUp = true ∧
     (∀ x ∈ [alleyOf 1 3 [], alleyOf 2 3 []], x.length = 8 + (alleyHdr x).len + 4 ∧ fieldAt x (8 + (alleyHdr x).len) 4 = crc32c (x.take (8 + (alleyHdr x).len))) ∧
     (alleyHdr (alleyOf 2 3 [])).dst = 2 ∧ s.boot.addr = 1 ∧
     (let h := alleyHdr (alleyOf 1 3 [])
      h.dst = 1 ∧ h.rsp = false ∧ h.cmd = 3 ∧ byteAt (alleyOf 1 3 []) 0 < 64 ∧ byteAt (alleyOf 1 3 []) 1 < 64 ∧ byteAt (alleyOf 1 3 []) 3 < 4 ∧ h.more = false ∧
      h.session = false ∧ byteAt (alleyOf 1 3 []) 7 < 8 ∧ h.len ≤ 1024) ∧
     fieldAt (alleyOf 1 3 []) 7 4 ≠ crc32c ((alleyOf 1 3 []).take 7) ∧
     (let m := { mg with dst := 63 }
      m.dst = 63 ∧ ([62, 1] : Bytes).length = 2 ∧ 0 < byteAt [62, 0] 0 ∧ byteAt [62, 0] 0 < 63 ∧ byteAt [62, 1] 1 < 2) ∧
     live.agentUp = true ∧ live.cmdOpen 5 = false ∧ mg.ses = none ∧
     ({ live with pins := { live.pins with mainPg := false } }).agentUp = true ∧
     (s.cmdOpen 2 = true ∧ s.pins.mainPg = true ∧ s.noPlane = false ∧ (zb 64).length = 64 ∧ (s.takeCmd 2 mg (zb 64)).freeSid = some 0) ∧
     (let t := { s with sec := { s.sec with sessions := [(3, { key := 0, idle := 60000 })] } }
      (t.sec.sessions.look 3).map (·.idle) = some 60000) ∧
     (let t := { s with sec := { s.sec with sessions := [(3, { key := 0, idle := 59999 })] } }
      (t.sec.sessions.look 3).map (·.idle) = some 59999) ∧
     (let t := { s with pwr := { s.pwr with lockout := true, sensors := [(0, { degX8 := 760, valid := true })] } }
      t.pwr.lockout = true ∧ t.coolEnough = false) ∧ s.pwr.lockout = false) := by decide +kernel

/-- Access without a session, as the claims name it. -/
theorem allowed_open (s : State) (cmd : Nat) (b : Bytes)
    (h : (s.agentUp && (onStandby cmd || (s.pins.mainPg && !s.noPlane)) && s.cmdOpen cmd) = true) : Allowed s cmd mg b (s.takeCmd cmd mg b) := by
  simp only [Bool.and_eq_true, Bool.or_eq_true, Bool.not_eq_true'] at h
  exact ⟨h.1.1, h.1.2, .inl ⟨rfl, h.2, rfl⟩⟩

theorem witness_ManagementCommands :
    (∀ c ∈ [2, 3, 4, 5, 6, 7, 8, 9, 10, 12], ∀ b, ∃ u, Allowed managed c mg b u) ∧
    (7 ≤ managed.boot.phase ∧ (managed.image.fabric.any fun r => r.1 ≤ 16383 && 16383 ≤ r.2) = true ∧ managed.boot.nodeId = some 5 ∧
     ({ managed with boot := { managed.boot with nodeId := none } }).cmdOpen 12 = true) ∧
    managed.pins.mainPg = true ∧ managed.boot.phase ≠ 15 ∧ 600 ≤ fieldAt [64, 6] 0 2 ∧ fieldAt [64, 6] 0 2 = 1600 ∧
    (let b : Bytes := leBytes 2 16383 ++ [1, 0, 15]
     4 ≤ b.length ∧ fieldAt b 2 2 = b.length - 4 ∧ fieldAt b 0 2 + fieldAt b 2 2 = 16384 ∧ (b.drop 4).all (fun x => decide (x.toNat < 16)) = true) ∧
    byteAt [63, 1] 0 + byteAt [63, 1] 1 ≤ 64 ∧
    (let b : Bytes := [1] ++ leBytes 4 1 ++ zb 14 ++ [1, 0]
     let c : Bytes := [0] ++ leBytes 4 1 ++ zb 14 ++ [1, 0]
     armBad b = false ∧ fieldAt b 1 4 % 8 = 1 ∧ byteAt b 0 % 4 = 1 ∧ armBad (zb 21) = false ∧ armBad c = false ∧
     bit managed.finjPermit 1 = true ∧ bit managed.finjPermit (3 + 1) = true ∧ bit managed.finjPermit 0 = false ∧
     (managed.qtr 1).port.inj.armed = false ∧ (managed.qtr 1).port.inj.held = none ∧ (managed.qtr 1).port.inj.release = []) ∧
    managed.pins.progEn = false ∧ fieldAt (zb 4 ++ leBytes 4 slotBytes) 4 4 ≤ slotBytes ∧
    (let s := { managed with boot := { managed.boot with update := some (1, 8) } }
     let b : Bytes := [1, 0, 0, 0, 6, 0, 0, 0, 7, 7]
     s.boot.update = some (1, 8) ∧ byteAt b 0 = 1 ∧ fieldAt b 4 4 + (b.length - 8) ≤ 8 ∧ s.cmdOpen 10 = true) := by
  refine ⟨fun c hc b => ⟨_, allowed_open managed c b ?_⟩, by decide +kernel⟩
  revert c
  decide

theorem witness_CoresAndDirectoryRecover :
    (let s := attending
     (s.core home3 7).faulted = false ∧ s.qOff home3 = false ∧ (s.core home3 7).saved = [] ∧ (s.core home3 7).saving = none ∧ (s.core home3 7).job = none) ∧
    (let s := folding
     (s.core home3 0).faulted = false ∧ (s.core home3 0).saved = [] ∧ (s.core home3 0).saving = none ∧ (s.core home3 0).job = some 1 ∧ 1 < s.nextId) ∧
    (let s := live.setReg bCORE 1 0 0x7F
     let v : Word := 0x10007
     bits (s.reg bDIR 1 0x10) 31 16 ≠ bits v.toNat 31 16 ∧ s.inDispatch 1 7 = false ∧ (s.core 1 7).saved = [] ∧ (s.core 1 7).saving = none ∧
     (s.qtr 1).core.testRunning = none ∧ live.inDispatch 1 7 = true ∧ s.qOff 1 = false) ∧
    (let s := live.updCore 1 fun I => { I with testRunning := some (7, 4) }
     (s.qtr 1).core.testRunning = some (7, 4)) ∧
    (live.qtr 1).dir.rebuilding = false ∧
    (let s := live.updDir 1 fun D => { D with rebuilding := true }
     (s.qtr 1).dir.rebuilding = true ∧ (s.qtr 1).dir.shadowBad = [] ∧ (s.qtr 1).dir.waiting = [] ∧ s.unitErrs = []) := by decide +kernel

theorem witness_StacksAndQuartersFail :
    (let s := stacked .sealed { seg3 with frames := [{ stack := 2, addr := 0 }] }
     s.qOff home3 = false ∧ (s.stack 6).st ≠ .failed ∧ (s.stack 4).st ≠ .failed ∧ 8704 * 31 < stackSize 2 ∧ (s.qtr 1).failed = false ∧
     (s.frameHolding home3 2 (8704 * 31)).isSome = true ∧ 8704 * 31 < shape1.slot * 32 ∧ (s.segOf home3 key3).isSome = true) ∧
    (let s := (stacked .sealed { seg3 with frames := [{ stack := 2, addr := 0 }] }).updStack 6 fun S => { S with st := .draining }
     (s.stack 6).st = .draining ∧ (s.framesOn home3 2).length = 1 ∧
     (match s.framesOn home3 2 with
      | [(_, f, _, sh)] => (match takeFrame (s.qtr home3).store.allocs ((stackOrder 0 f true).filter (s.stackEligible home3)) sh.frame with
        | some (l, _, _) => decide (l < 2)
        | none => false)
      | _ => false) = true) ∧
    (let s := live.updStack 6 fun S => { S with st := .draining }
     (s.stack 6).st = .draining ∧ s.framesOn home3 2 = []) ∧
    live.boot.failStop = false ∧ live.pins.mainPg = true := by decide +kernel

/-! ### The whole node -/

/-- A COPY whose source runs one byte past the 48 GiB of a scoring stack. -/
def past : Dma := { user := .host h0, op := 0, length := 256, srcKind := 0, dstKind := 1, src := 2 * 2 ^ 36 + 48 * 2 ^ 30 - 255 }

theorem witness_StepTakesTheFront : State.reset.pending = [] := rfl
theorem witness_OneTransferAloneFaults :
    (let s := engined { state := .running, desc := some past } []
     (s.eng home3 3).state = .running ∧ (s.eng home3 3).desc = some past ∧ past.own = false ∧ copyBeyond past = true ∧
     copyBeyond { past with src := past.src - 1 } = false) := by decide +kernel
theorem witness_OnlyUpdatesWriteTheNvm :
    (match exec (.clockSwitch 1) live with | .next t => t.boot.nvm == live.boot.nvm | _ => false) = true ∧
    (∀ m b, Instr.clockSwitch 1 ≠ .updateImageStart m b ∧ Instr.clockSwitch 1 ≠ .updateImageData m b ∧ Instr.clockSwitch 1 ≠ .updateImageFinish m b) :=
  ⟨by decide +kernel, fun _ _ => ⟨nofun, nofun, nofun⟩⟩
theorem witness_MemoriesStaySound :
    MemoriesSound State.reset ∧ step State.reset = .next { State.reset with time := 1 } ∧ Runs State.reset { State.reset with time := 1 } :=
  ⟨⟨rfl, rfl, nofun⟩, rfl, .step _ _ _ rfl (.refl _)⟩
theorem witness_HeadersRoundTrip :
    (let h : Hdr := { prot := true, ackReq := true, last := true, opcode := 255, srcNode := 65535, dstNode := 65535, tenant := 63, tc := 7, hint := some 3, psn := 16777215
                      ackPsn := 16777215, ackValid := true, ece := true, msn := 65535, idx := 65535, payLen := 8191 }
     h.opcode < 256 ∧ h.tenant < 64 ∧ h.tc < 8 ∧ (∀ q, h.hint = some q → q < 4) ∧ h.dstConn < 16777216 ∧ h.psn < 16777216 ∧ h.payLen < 8192) := by
  simp

/-! ### Values of the spec's worked examples -/

/-- A shape of 32 layers, 8 KV heads, d = 128 and K8V8. -/
def shapeA : Shape := { layers := 32, kvh := 8, dim := 2, fmt := 0, g := 0, bscThresh := 0, scale := 0x3E000000 }

/-- Table 2-7 and the key's home Quarter (ch. 08). -/
theorem test_key_of_a_token : mkKey 12 0x3A7C0015 488 = 0x300000E9F000540F40 ∧ homeQ (mkKey 12 0x3A7C0015 488) = 1 := by decide +kernel
/-- Table 2-7, ch. 06: slot 9 starts at 154,368, and the frame has 548,864 bytes. -/
theorem test_slots_of_a_frame : 9 * shapeA.slot = 154368 ∧ shapeA.frame = 548864 := by decide +kernel
/-- Ch. 03, one score: 24.0 times SCALE 0.125, times LOG2E. -/
theorem test_score_is_scaled_in_two_steps : fmul (fmul 0x41C00000 0x3E000000) cLOG2E = 0x408A7FAC := by decide +kernel
/-- Table 3-4, steps 3 and 4. -/
theorem test_fold_rescales :
    fE2 (fsub 0x40400000 0x41480000) = 0x3AB504F3 ∧ fmul 0x3FE00000 0x3AB504F3 = 0x3B1E6455 ∧ fmul 0xBE000000 0x3AB504F3 = 0xB93504F3 ∧
    fadd 0x3B1E6455 (toFP32 (87, -6)) = 0x3FAE4F32 ∧ fadd 0xB93504F3 (toFP32 (64 * 64 + 23 * -32, -13)) = 0x3ED1E95F ∧
    fdiv 0x3ED1E95F 0x3FAE4F32 = 0x3E9A24C8 ∧ toBF16 0x3E9A24C8 = 0x3E9A := by decide +kernel
/-- Table 3-5. -/
theorem test_merge_of_two_runs :
    mergeRow { m := 0x41480000, l := 0x3FAE4F32, o := [0x3ED1E95F] } { m := 0x41200000, l := 0x40000000, o := [0xBF800000] } =
      { m := 0x41480000, l := 0x3FDB906F, o := [0x3E6ECDCB] } := by decide +kernel
/-- Table 7-4: the lengths of the table of the example. -/
def lengthsA : List Nat := [1, 3, 4] ++ List.replicate 251 12 ++ [4, 3]
/-- Ch. 07: the Kraft sum, and the first stream bits of the K unit. -/
theorem test_codes_of_a_table :
    kraft lengthsA = 30680 ∧ lengthsBad lengthsA = false ∧
    (encodeBits (codesOf lengthsA) [0, 1, 0, 0, 0xFE]).map (packBits 2) = some [0xC2, 2] := by decide +kernel
/-- Table 8-13: the first sample, and the window after the ECN mark. -/
theorem test_first_sample_of_a_connection :
    (rttSample {} 8000 1000 1000000).srtt = some 8000 ∧ (rttSample {} 8000 1000 1000000).rttvar = 4000 ∧ (rttSample {} 8000 1000 1000000).rto = 24000 := by decide +kernel
/-- Table 10-3, send 1: the head of the list leaves with a deficit of 8,460 and keeps 4,230. -/
theorem test_deficit_of_a_queue :
    (let f : TxFrame := { txf with tenant := 5, tc := 2, bytes := 4230 }
     let s := (porting fun P => { P with classes := [(2, { round := [{ tenant := 5, frames := [f, f] }, { tenant := 9, frames := [f] }] })] }).setReg bPORT 1 0xA14 8460
     match exec (.frameTransmit 1 0) s with
     | .next t => ((t.qtr 1).port.classes.fetch 2 {}).round.map fun x => (x.tenant, x.deficit)
     | _ => []) = [(5, 4230), (9, 0)] := by decide +kernel
/-- Table 15-7: the node that takes ENUM 1 sends ENUM 2 on. -/
theorem test_enum_goes_on :
    (match exec (.enum { mg with dst := 63 } [1, 0]) live with
     | .next t => (t.boot.addr, t.boot.out.map fun x => (x.port, x.bytes.drop 8 |>.take 2))
     | _ => (0, [])) = (1, [(1, [2, 0])]) := by decide +kernel

end Sys2Proof.Tests
end

section
/-!
PROOFS. Family 01: the machine right after reset, and what only keeps the Square's own records (ch. 01, ch. 14).
-/
namespace Sys2Proof.Machine

/-! ### Reset (R21, R397) -/

@[simp] theorem State.tenant_reset (n : Nat) : State.reset.tenant n = {} := rfl
@[simp] theorem State.conn_reset (i : Nat) : State.reset.conn i = {} := rfl
@[simp] theorem State.fn_reset (f : Nat) : State.reset.fn f = {} := rfl
@[simp] theorem State.qtr_reset (q : Nat) : State.reset.qtr q = {} := rfl

/-- No memory lists a byte at reset, so that each has the canonical form. -/
theorem memoriesSound_reset : MemoriesSound State.reset := ⟨rfl, rfl, nofun⟩

/-! ### The Square's records: time, ticks, power, tenants and keys, HBM -/

/-- `t` has the local time, the tick count, the power records, the security state and the HBM bytes of `s`. -/
structure KeepsSquare (s t : State) : Prop where
  time : t.time = s.time
  ticks : t.ticks = s.ticks
  pwr : t.pwr = s.pwr
  sec : t.sec = s.sec
  hbm : t.hbm = s.hbm

namespace KeepsSquare
variable {s₀ s t u : State}

theorem refl (s : State) : KeepsSquare s s := ⟨rfl, rfl, rfl, rfl, rfl⟩

theorem trans (a : KeepsSquare s t) (b : KeepsSquare t u) : KeepsSquare s u :=
  ⟨b.time.trans a.time, b.ticks.trans a.ticks, b.pwr.trans a.pwr, b.sec.trans a.sec, b.hbm.trans a.hbm⟩

theorem posts (h : KeepsSquare s₀ s) (p : Posts s t) : KeepsSquare s₀ t :=
  h.trans ⟨p.time, p.ticks, p.pwr, p.sec, p.hbm⟩

theorem reports (h : KeepsSquare s₀ s) (p : Reports s t) : KeepsSquare s₀ t :=
  h.trans ⟨p.time, p.ticks, p.pwr, p.sec, p.hbm⟩

theorem foldl {α : Type} {g : State → α → State} {l : List α} (h : KeepsSquare s₀ s)
    (hg : ∀ t a, KeepsSquare s₀ t → KeepsSquare s₀ (g t a)) : KeepsSquare s₀ (l.foldl g s) :=
  List.foldlRecOn l g h fun t ht a _ => hg t a ht

theorem ite {c : Prop} [Decidable c] (ht : KeepsSquare s₀ t) (hu : KeepsSquare s₀ u) :
    KeepsSquare s₀ (if c then t else u) := by split <;> assumption

/-- The same change of the power records on both sides. -/
theorem setPwr (h : KeepsSquare s t) (g : Power → Power) :
    KeepsSquare { s with pwr := g s.pwr } { t with pwr := g t.pwr } :=
  ⟨h.time, h.ticks, congrArg g h.pwr, h.sec, h.hbm⟩

theorem count (h : KeepsSquare s₀ s) (c q n k : Nat) : KeepsSquare s₀ (s.count c q n k) :=
  h.posts ((Posts.refl s).count c q n k)

theorem countU (h : KeepsSquare s₀ s) (c q u n k : Nat) : KeepsSquare s₀ (s.countU c q u n k) :=
  h.posts ((Posts.refl s).countU c q u n k)

theorem post (h : KeepsSquare s₀ s) (f : Nat) (e : Ev) : KeepsSquare s₀ (s.post f e) :=
  h.posts ((Posts.refl s).post f e)

theorem updQ (h : KeepsSquare s₀ s) (q : Nat) (f : Quarter → Quarter) : KeepsSquare s₀ (s.updQ q f) :=
  ⟨h.time, h.ticks, h.pwr, h.sec, h.hbm⟩

theorem setReg (h : KeepsSquare s₀ s) (c q o v : Nat) : KeepsSquare s₀ (s.setReg c q o v) :=
  ⟨h.time, h.ticks, h.pwr, h.sec, h.hbm⟩

theorem complete (h : KeepsSquare s₀ s) (c : HostCmd) (st d : Nat) (r : Bytes) : KeepsSquare s₀ (s.complete c st d r) :=
  h.reports ((Reports.refl s).complete c st d r)

/-! The transport's sending side (R228, R231, R244) -/

theorem toPort (h : KeepsSquare s₀ s) (p : Nat) (f : TxFrame) : KeepsSquare s₀ (s.toPort p f) := by
  unfold State.toPort
  exact ite (h.updQ _ _) (h.count _ _ _ _)

theorem sendOn (h : KeepsSquare s₀ s) (i : Nat) (d : Hdr) (b : Bytes) (r : Bool) : KeepsSquare s₀ (s.sendOn i d b r) := by
  have hr : KeepsSquare s₀ (s.newRoutes (i / 16384)) := h.updQ _ _
  have hc (c : Prop) [Decidable c] :
      KeepsSquare s₀ (if c then (s.newRoutes (i / 16384)).count bSEC 0 4 else s.newRoutes (i / 16384)) :=
    ite (hr.count _ _ _ _) hr
  unfold State.sendOn
  dsimp only
  split
  · exact (hc _).updQ _ _
  · exact (((hc _).updQ _ _).toPort _ _).count _ _ _ _

theorem sendAck (h : KeepsSquare s₀ s) (i : Nat) : KeepsSquare s₀ (s.sendAck i) := (h.updQ _ _).sendOn _ _ _ _

theorem transmit (h : KeepsSquare s₀ s) (i : Nat) (p : TxPkt) (r : Bool) : KeepsSquare s₀ (s.transmit i p r) := by
  unfold State.transmit
  exact ite (((h.updQ _ _).sendOn _ _ _ _).count _ _ _ _) ((h.updQ _ _).sendOn _ _ _ _)

theorem resendPkt (h : KeepsSquare s₀ s) (i n : Nat) : KeepsSquare s₀ (s.resendPkt i n) := by
  unfold State.resendPkt
  split
  · exact h
  · exact (h.updQ _ _).transmit _ _ _

theorem hand (h : KeepsSquare s₀ s) (i : Nat) (m : OutMsg) : KeepsSquare s₀ (s.hand i m) := by
  unfold State.hand
  exact ite (h.updQ _ _) (ite ⟨h.time, h.ticks, h.pwr, h.sec, h.hbm⟩ h)

/-! A port that loses its link (R283, R428) -/

theorem migrateAll (h : KeepsSquare s₀ s) (q : Nat) : KeepsSquare s₀ (s.migrateAll q) :=
  ((h.posts ((Posts.refl s).postFault _ _ _ _ _)).foldl fun _ i hi => hi.sendAck i).foldl fun _ i hi =>
    hi.foldl fun _ x hx => hx.resendPkt i x.psn

theorem linkDown (h : KeepsSquare s₀ s) (p : Nat) : KeepsSquare s₀ (linkDown s p) := by
  unfold Machine.linkDown
  exact ite ((((h.updQ _ _).post _ _).count _ _ _ _).migrateAll _) h

theorem trainIf (h : KeepsSquare s₀ s) (p : Nat) : KeepsSquare s₀ (s.trainIf p) := by
  unfold State.trainIf State.trainPort
  exact ite (ite (h.updQ _ _) h) h

/-! WILL_MISS (R127) -/

theorem noticeTo (h : KeepsSquare s₀ s) (o : Origin) (tag kind v : Nat) : KeepsSquare s₀ (s.noticeTo o tag kind v) := by
  cases o with
  | wire i => exact h.hand _ _
  | host c => exact ite (h.post _ _) h

theorem sendMiss (h : KeepsSquare s₀ s) (tk n : Nat) : KeepsSquare s₀ (s.sendMiss tk n) := by
  unfold State.sendMiss
  split
  · exact ite h (((h.updQ _ _).noticeTo _ _ _ _).countU _ _ _ _ _)
  · exact h

theorem checkMiss (h : KeepsSquare s₀ s) (tk : Nat) : KeepsSquare s₀ (s.checkMiss tk) := by
  unfold State.checkMiss
  split
  · exact ite (h.sendMiss _ _) h
  · exact h

theorem checkMisses (h : KeepsSquare s₀ s) : KeepsSquare s₀ s.checkMisses := h.foldl fun _ tk ht => ht.checkMiss tk

/-! The staged values and the ports at a tick (R288, R363) -/

theorem applyAt (h : KeepsSquare s₀ s) (c q o : Nat) : KeepsSquare s₀ (s.applyAt c q o) := by
  unfold State.applyAt
  split
  · exact h
  · exact ⟨h.time, h.ticks, h.pwr, h.sec, h.hbm⟩

theorem applyBoundary (h : KeepsSquare s₀ s) (b : Boundary) (want : Nat → Nat → Bool) :
    KeepsSquare s₀ (s.applyBoundary b want) := by
  refine h.foldl fun t e ht => ?_
  split
  · exact ite (ht.applyAt _ _ _) ht
  · exact ht

theorem portEnable (h : KeepsSquare s₀ s) (p : Nat) (was : Bool) : KeepsSquare s₀ (s.portEnable p was) := by
  unfold State.portEnable
  exact ite ((h.linkDown p).updQ _ _) (ite (h.trainIf p) h)

theorem tickApply (h : KeepsSquare s₀ s) : KeepsSquare s₀ s.tickApply := by
  refine (h.applyBoundary _ _).foldl fun t p ht => portEnable (ht.foldl fun u c hu => ?_) _ _
  exact ite ((hu.updQ _ _).count _ _ _ _) hu

theorem tickModes (h : KeepsSquare s₀ s) (old : Nat) : KeepsSquare s₀ (s.tickModes old) := by
  unfold State.tickModes
  refine foldl ?_ fun t c ht => ht.complete c _ _ _
  have hx : KeepsSquare s₀ (if bit old 1 = s.assisted 1 then s
      else [0, 1, 2, 3].foldl (fun (s : State) q => s.updXpt q fun X => { X with copyHost := some (s.assisted 1) }) s) :=
    ite h (h.foldl fun t q ht => ht.updQ _ _)
  exact ⟨hx.time, hx.ticks, hx.pwr, hx.sec, hx.hbm⟩

theorem pendClock (h : KeepsSquare s₀ s) (q p : Nat) : KeepsSquare s₀ (s.pendClock q p) :=
  (h.updQ _ _).foldl fun _ _ ht => ht.updQ _ _

end KeepsSquare

/-- Settles O56: each field stands at its reset value, and a table that lists nothing reads as its default everywhere. -/
theorem resetIsCold : Obligations.ResetIsCold := by
  unfold Obligations.ResetIsCold
  refine ⟨rfl, rfl, rfl, rfl, rfl, rfl, rfl, fun n => ?tenants, fun i => ?conns, fun f => ?fns, fun q => ?quarters, memoriesSound_reset⟩
  case tenants => rw [State.tenant_reset]
  case conns => rw [State.conn_reset]
  case fns => rw [State.fn_reset]; exact ⟨rfl, rfl, rfl⟩
  case quarters => rw [State.qtr_reset]; exact ⟨rfl, rfl, rfl⟩

end Sys2Proof.Machine
end

section
/-!
PROOFS. Power and the management tick (R24, ch. 14).
-/
namespace Sys2Proof

/-- Four entries amended one after the other: each has had its own change once. -/
theorem Tab.fetch_foldl_amend {α : Type} (d : α) (f : Nat → α → α) (t : Tab α) (b : Nat) (k : Fin 4) :
    ([0, 1, 2, 3].foldl (fun t k => t.amend (b + k) d (f k)) t).fetch (b + k) d = f k (t.fetch (b + k) d) := by
  fin_cases k <;> simp [Tab.fetch_amend_ne]

end Sys2Proof

namespace Sys2Proof.Machine

/-! ### The four Quarters' energy states -/

/-- The state with the energy states of the Quarters replaced. -/
def State.withEnergy (s : State) (T : Tab QEnergy) : State := { s with pwr := { s.pwr with q := T } }

/-- One change of the energy state of every Quarter. -/
theorem State.updQe_each (s : State) (f : Nat → QEnergy → QEnergy) :
    ∃ T, [0, 1, 2, 3].foldl (fun s q => s.updQe q (f q)) s = s.withEnergy T ∧
      ∀ q : Fin 4, Tab.fetch T q {} = f q (s.pwr.q.fetch q {}) := by
  refine ⟨[0, 1, 2, 3].foldl (fun t q => t.amend q {} (f q)) s.pwr.q, List.foldl_hom s.withEnergy fun _ _ => rfl, fun q => ?_⟩
  have hq := Tab.fetch_foldl_amend {} f s.pwr.q 0 q
  simpa only [Nat.zero_add] using hq

/-! ### The management tick (R24, R391, R383) -/

theorem KeepsSquare.tickPstate (s : State) :
    ∃ v, KeepsSquare { s with pwr := { s.pwr with pstate := v } } s.tickPstate := by
  unfold State.tickPstate
  dsimp only
  split
  · exact ⟨s.pwr.pstate, (KeepsSquare.refl s).setReg _ _ _ _⟩
  · split
    · exact ⟨s.pwr.pstate, KeepsSquare.refl s⟩
    · refine ⟨s.reg bPWR 0 0 % 4, ?_⟩
      refine (((KeepsSquare.refl _).posts ((Posts.refl _).postPower 6 0 _ _)).count _ _ _ _).foldl fun t q ht => ?_
      exact .ite (ht.updQ _ _) (ht.pendClock _ _)

theorem KeepsSquare.tickCap (s : State) :
    KeepsSquare { s with pwr := { s.pwr with capW := s.pwr.capNext.getD s.pwr.capW, capNext := none } } s.tickCap := by
  unfold State.tickCap
  split
  case h_1 hn => exact ⟨rfl, rfl, by rw [hn, Option.getD_none, ← hn], rfl, rfl⟩
  case h_2 w hw =>
    rw [hw]
    exact .ite (.refl _) ((KeepsSquare.refl _).posts ((Posts.refl _).postPower 0 0 _ _))

/-- The tick is counted, at its time. -/
def State.tickBegins (s : State) : State := { s.advance ((s.ticks + 1) * 1000000) with ticks := s.ticks + 1 }

/-- The first parts of a tick, up to the new cap. -/
def State.tickHead (s : State) : State := ((s.tickBegins.tickApply.tickModes (s.reg bFMODE 0 0)).tickPstate).tickCap

theorem managementTick_eq {s : State} (h : s.squareRuns = true) (m : TickMeasure) :
    managementTick s m =
      (let w := (s.tickHead.tickBankPower.tickPower.tickHistory.tickCalib m).markBad m.badEntries
       let x := [0, 1, 2, 3].foldl (fun (s : State) q => ((s.tickCongestion q).tickScrub q).tickOrphans q) w
       ((x.tickSweep.tickMetering m).tickCounts m).checkMisses) := by
  unfold managementTick
  rw [h]
  rfl

theorem State.tickHead_spec (s : State) :
    s.tickHead.ticks = s.ticks + 1 ∧ s.tickHead.time = max s.time ((s.ticks + 1) * 1000000) ∧ s.tickHead.pwr.capNext = none ∧
      s.tickHead.pwr.capW = s.pwr.capNext.getD s.pwr.capW := by
  have hm : KeepsSquare s.tickBegins (s.tickBegins.tickApply.tickModes (s.reg bFMODE 0 0)) := (KeepsSquare.refl _).tickApply.tickModes _
  obtain ⟨v, hp⟩ := KeepsSquare.tickPstate (s.tickBegins.tickApply.tickModes (s.reg bFMODE 0 0))
  have hc := KeepsSquare.tickCap (s.tickBegins.tickApply.tickModes (s.reg bFMODE 0 0)).tickPstate
  refine ⟨hc.ticks.trans (hp.ticks.trans hm.ticks), hc.time.trans (hp.time.trans hm.time), congrArg Power.capNext hc.pwr, ?_⟩
  calc s.tickHead.pwr.capW
    _ = (s.tickBegins.tickApply.tickModes (s.reg bFMODE 0 0)).tickPstate.pwr.capNext.getD _ := congrArg Power.capW hc.pwr
    _ = (s.tickBegins.tickApply.tickModes (s.reg bFMODE 0 0)).pwr.capNext.getD _ := by rw [hp.pwr]
    _ = s.pwr.capNext.getD s.pwr.capW := by rw [hm.pwr]; rfl

/-! ### The rebalance (R382, R387) -/

/-- The power clamp is engaged exactly while the package draws more than the cap, and its duty follows the excess. -/
theorem KeepsSquare.clampFor (s : State) (w : Nat) :
    KeepsSquare { s with pwr := { s.pwr with clamp := decide (s.capEffMw < w)
                                             duty := if w ≤ s.capEffMw then 64 else max 1 (64 * s.capEffMw / w) } }
      (s.clampFor w) := by
  unfold State.clampFor
  dsimp only
  split
  case isTrue hw => rw [decide_eq_false (by omega)]; exact .refl _
  case isFalse hw =>
    rw [decide_eq_true (by omega)]
    have he : KeepsSquare s (if s.pwr.clamp then s
        else s.postPower 8 0 (max 1 (64 * s.capEffMw / w)) s.pwr.duty) :=
      .ite (.refl s) ((KeepsSquare.refl s).posts ((Posts.refl s).postPower _ _ _ _))
    exact (he.setPwr fun p => { p with clamp := true, duty := max 1 (64 * s.capEffMw / w) }).count _ _ _ _

theorem State.jobsMw_advance (s : State) (n : Nat) : (s.advance n).jobsMw = s.jobsMw := rfl
theorem State.capEffMw_advance (s : State) (n : Nat) : (s.advance n).capEffMw = s.capEffMw := rfl
theorem State.rateFor_advance (s : State) (n : Nat) : (s.advance n).rateFor = s.rateFor := rfl
theorem State.rateFor_withEnergy (s : State) (T : Tab QEnergy) : (s.withEnergy T).rateFor = s.rateFor := rfl

/-- The buckets of the four Quarters are brought up to date. -/
def State.settleBuckets (s : State) : State := [0, 1, 2, 3].foldl (fun s q => s.settleBucket q) s

theorem State.settleBuckets_eq (s : State) : ∃ T, s.settleBuckets = s.withEnergy T := by
  refine List.foldlRecOn (motive := fun t => ∃ T, t = s.withEnergy T) _ _ ⟨s.pwr.q, rfl⟩ ?_
  rintro _ ⟨T, rfl⟩ q -
  exact ⟨_, rfl⟩

/-- Each Quarter's rate of a list. -/
def State.setRates (s : State) (rates : List Nat) : State :=
  [0, 1, 2, 3].foldl (fun s q => s.updQe q fun e => { e with rateMw := rates.getD q 0 }) s

theorem State.setRates_eq (s : State) (rates : List Nat) :
    ∃ T, s.setRates rates = s.withEnergy T ∧ ∀ q : Fin 4, (Tab.fetch T q {}).rateMw = rates.getD q 0 := by
  obtain ⟨T, hT, hf⟩ := s.updQe_each fun q e => { e with rateMw := rates.getD q 0 }
  exact ⟨T, hT, fun q => by rw [hf]⟩

/-- The powers that a rebalance has found are recorded, and the clamp follows them. -/
def State.putPowers (s : State) (w : Nat) (ung : Rat) : State :=
  let s := { s with pwr := { s.pwr with pkgMw := w, ungatedMw := ung.floor.toNat, rebalAt := s.time } }
  ((s.clampFor w).count bNRG 0 2).checkMisses

theorem KeepsSquare.putPowers (s : State) (w : Nat) (ung : Rat) :
    KeepsSquare { s with pwr := { s.pwr with
        pkgMw := w, ungatedMw := ung.floor.toNat, rebalAt := s.time, clamp := decide (s.capEffMw < w)
        duty := if w ≤ s.capEffMw then 64 else max 1 (64 * s.capEffMw / w) } } (s.putPowers w ung) :=
  ((KeepsSquare.clampFor { s with pwr := { s.pwr with pkgMw := w, ungatedMw := ung.floor.toNat, rebalAt := s.time } } w).count
    _ _ _ _).checkMisses

theorem rebalance_eq {s : State} (h : s.squareRuns = true) (w : Nat) :
    rebalance s w =
      (let a := s.advance (s.pwr.rebalAt + 10000)
       let ung := max 0 ((w : Rat) - a.jobsMw)
       let rates := (List.range 4).map (a.settleBuckets.rateFor (max 0 ((a.capEffMw : Rat) - ung)))
       (a.settleBuckets.setRates rates).putPowers w ung) := by
  unfold rebalance
  rw [h]
  rfl

/-- What a rebalance writes: the measured powers, its own time, a rate for each Quarter and the clamp. -/
theorem rebalance_spec {s : State} (h : s.squareRuns = true) (w : Nat) :
    let ung := max 0 ((w : Rat) - s.jobsMw)
    ∃ T, (∀ q : Fin 4, (Tab.fetch T q {}).rateMw = s.rateFor (max 0 ((s.capEffMw : Rat) - ung)) q) ∧
      KeepsSquare { s with
        time := max s.time (s.pwr.rebalAt + 10000)
        pwr := { s.pwr with
          q := T, pkgMw := w, ungatedMw := ung.floor.toNat, rebalAt := max s.time (s.pwr.rebalAt + 10000)
          clamp := decide (s.capEffMw < w), duty := if w ≤ s.capEffMw then 64 else max 1 (64 * s.capEffMw / w) } }
        (rebalance s w) := by
  intro ung
  rw [rebalance_eq h]
  dsimp only
  rw [State.jobsMw_advance, State.capEffMw_advance]
  obtain ⟨B, hB⟩ := (s.advance (s.pwr.rebalAt + 10000)).settleBuckets_eq
  rw [hB, State.rateFor_withEnergy, State.rateFor_advance]
  obtain ⟨T, hT, hr⟩ := ((s.advance (s.pwr.rebalAt + 10000)).withEnergy B).setRates_eq
    ((List.range 4).map (s.rateFor (max 0 ((s.capEffMw : Rat) - ung))))
  refine ⟨T, fun q => by rw [hr]; simp, ?_⟩
  rw [hT]
  exact KeepsSquare.putPowers (((s.advance (s.pwr.rebalAt + 10000)).withEnergy B).withEnergy T) w ung

/-! ### Sensors (R389, R390) -/

/-- The steps of Table 14-3 write the directory steps and the marks of the scoring stacks, and post. -/
theorem State.stepFor_spec (s : State) (i d : Nat) :
    ∃ D H, Posts { s with pwr := { s.pwr with dirStep := D, hotScoring := H } } (s.stepFor i d) ∧
      ∀ q : Fin 4, Tab.fetch D q 0 = if i = 5 + q then dirStepAt (s.pwr.dirStep.fetch q 0) d else s.pwr.dirStep.fetch q 0 := by
  have same (hi : ¬ (5 ≤ i ∧ i ≤ 8)) (q : Fin 4) :
      s.pwr.dirStep.fetch q 0 = if i = 5 + q then dirStepAt (s.pwr.dirStep.fetch q 0) d else s.pwr.dirStep.fetch q 0 := by
    rw [if_neg (by omega)]
  unfold State.stepFor
  dsimp only
  split
  case isTrue hi =>
    split
    case isTrue hs =>
      refine ⟨_, _, .refl s, fun q => ?_⟩
      split
      case isTrue hq =>
        have e : i - 5 = q := by omega
        rw [e] at hs
        exact hs.symm
      case isFalse => rfl
    case isFalse hs =>
      have hp := (Posts.refl { s with pwr := { s.pwr with
        dirStep := s.pwr.dirStep.put (i - 5) (dirStepAt (s.pwr.dirStep.fetch (i - 5) 0) d) } }).postPower 3 i
          (dirStepAt (s.pwr.dirStep.fetch (i - 5) 0) d) (s.pwr.dirStep.fetch (i - 5) 0)
      refine ⟨s.pwr.dirStep.put (i - 5) (dirStepAt (s.pwr.dirStep.fetch (i - 5) 0) d), s.pwr.hotScoring, ?_, fun q => ?_⟩
      · split
        · exact hp.count _ _ _ _
        · exact hp
      · split
        case isTrue hq =>
          have e : i - 5 = q := by omega
          rw [e, Tab.fetch_put_self]
        case isFalse hq => exact Tab.fetch_put_ne _ _ _ _ _ (by omega)
  case isFalse hi =>
    split
    · split
      · exact ⟨_, _, .refl s, same hi⟩
      · exact ⟨_, _, (Posts.refl _).postPower 3 i _ _, same hi⟩
    · exact ⟨_, _, .refl s, same hi⟩

/-- The sensor's entry after a reading. -/
def State.readEntry (s : State) (i at_ : Nat) (deg : Option Nat) : Sensor :=
  match deg with
  | some d => { degX8 := sat d 2047, valid := true, lastValid := max s.time at_ }
  | none => { s.pwr.sensors.fetch i {} with valid := false, fault := true }

/-- The state with a reading recorded. -/
def State.recorded (s : State) (i at_ : Nat) (deg : Option Nat) : State :=
  { s with
    time := max s.time at_
    pwr := { s.pwr with sensors := s.pwr.sensors.put i (s.readEntry i at_ deg), tickBad := s.pwr.tickBad || deg.isNone } }

/-- The state with a reading recorded and its step taken, before a shutdown (R389). -/
def State.taken (s : State) (i at_ : Nat) (deg : Option Nat) : State :=
  if s.pins.mainPg then (s.recorded i at_ deg).stepFor i (deg.getD 840) else s.recorded i at_ deg

theorem State.taken_spec (s : State) (i at_ : Nat) (deg : Option Nat) :
    ∃ D H, Posts { s.recorded i at_ deg with pwr := { (s.recorded i at_ deg).pwr with dirStep := D, hotScoring := H } }
        (s.taken i at_ deg) ∧
      ∀ q : Fin 4, Tab.fetch D q 0 =
        if s.pins.mainPg = true ∧ i = 5 + q then dirStepAt (s.pwr.dirStep.fetch q 0) (deg.getD 840)
        else s.pwr.dirStep.fetch q 0 := by
  unfold State.taken
  by_cases hm : s.pins.mainPg = true
  · simp only [hm, if_true, true_and]
    exact State.stepFor_spec _ _ _
  · simp only [hm]
    exact ⟨_, _, .refl _, fun _ => rfl⟩

theorem State.taken_sensors (s : State) (i at_ : Nat) (deg : Option Nat) :
    (s.taken i at_ deg).pwr.sensors = s.pwr.sensors.put i (s.readEntry i at_ deg) := by
  obtain ⟨D, H, hp, -⟩ := s.taken_spec i at_ deg
  exact congrArg Power.sensors hp.pwr

theorem State.taken_lockout (s : State) (i at_ : Nat) (deg : Option Nat) :
    (s.taken i at_ deg).pwr.lockout = s.pwr.lockout := by
  obtain ⟨D, H, hp, -⟩ := s.taken_spec i at_ deg
  exact (congrArg Power.lockout hp.pwr :)

theorem sensorReading_some (s : State) (i at_ d : Nat) :
    sensorReading s i at_ (some d) =
      if tripsAt i d && !s.pwr.lockout then (s.taken i at_ (some d)).shutDown i else s.taken i at_ (some d) := by
  rw [← s.taken_lockout i at_ (some d)]
  rfl

theorem sensorReading_none (s : State) (i at_ : Nat) : sensorReading s i at_ none = s.taken i at_ none := rfl

/-- The sensors are read while the standby domain has power. -/
theorem exec_sensorReading {s : State} (h : s.pins.vsb12 = true) (i : Fin 33) (at_ : Nat) (deg : Option Nat) :
    exec (.sensorReading i at_ deg) s = .next (sensorReading s i at_ deg) :=
  congrArg Host.Outcome.next (if_pos h)

theorem State.shutDown_spec (s : State) (i : Nat) :
    (s.shutDown i).pwr.lockout = true ∧ (s.shutDown i).pwr.tripSensor = i ∧ (s.shutDown i).pwr.alert = true ∧
      (s.shutDown i).pins.mainPg = false ∧ (s.shutDown i).quarters = [] ∧ (s.shutDown i).hbm = [] ∧
      (s.shutDown i).boot.nvm = s.boot.nvm := by
  let u : State := { s with pwr := { s.pwr with tripSensor := i, alert := true } }
  have hp : Posts u (if s.pins.mainPg then u.postPower 9 i 1 0 else u) := by
    split
    · exact (Posts.refl u).postPower _ _ _ _
    · exact .refl u
  exact ⟨rfl, congrArg Power.tripSensor hp.pwr, congrArg Power.alert hp.pwr, rfl, rfl, rfl, (congrArg Boot.nvm hp.boot :)⟩

end Sys2Proof.Machine
end

section
/-!
PROOFS. Conservative mode and the end of a Quarter's Q-OFF (R384, R394), and the obligation about power.
-/
namespace Sys2Proof.Machine

/-! ### Conservative mode (R384) -/

/-- Conservative mode stands and its count begins again; when it is entered, every Quarter's factor goes back to 1. -/
theorem State.goConservative_spec (s : State) :
    ∃ T, Posts { s with pwr := { s.pwr with conservative := true, history := 0, q := T } } s.goConservative ∧
      (s.pwr.conservative = false → ∀ q : Fin 4, (Tab.fetch T q {}).calib = 1) := by
  unfold State.goConservative
  dsimp only
  split
  case isTrue hc => exact ⟨s.pwr.q, .refl _, fun hn => absurd hc (by simp [hn])⟩
  case isFalse =>
    obtain ⟨T, hT, hf⟩ := State.updQe_each { s with pwr := { s.pwr with conservative := true, history := 0 } }
      fun _ e => { e with calib := 1 }
    rw [hT]
    exact ⟨T, ((Posts.refl _).postPower 1 0 1 0).count _ _ _ _, fun _ q => by rw [hf]⟩

/-- A sensor that has been without a reading for 10 ms. -/
def Sensor.gone (e : Sensor) : Sensor := { e with fault := true, lost := true }

/-- The state with a sensor noted as lost, at the time at which this is due. -/
def State.loseSensor (s : State) (i : Nat) : State :=
  let e := s.pwr.sensors.fetch i {}
  { s.advance (e.lastValid + 10000000) with pwr := { s.pwr with sensors := s.pwr.sensors.put i e.gone } }

theorem sensorInvalid_eq {s : State} {i : Nat} (hv : (s.pwr.sensors.fetch i {}).valid = false)
    (hl : (s.pwr.sensors.fetch i {}).lost = false) (hs : s.squareRuns = true) :
    sensorInvalid s i = (s.loseSensor i).goConservative := by
  have hr : (s.loseSensor i).squareRuns = true := hs
  have hd : sensorInvalid s i =
      if (s.pwr.sensors.fetch i {}).valid || (s.pwr.sensors.fetch i {}).lost then s
      else if (s.loseSensor i).squareRuns then (s.loseSensor i).goConservative else s.loseSensor i := rfl
  rw [hd, hv, hl, if_neg (by decide), if_pos hr]

/-! ### What the end of Q-OFF leaves alone -/

/-- Quarter q has in `t` the power state and the page store that it has in `s`, and no stack, HBM byte or register has changed. -/
structure KeepsQuarter (q : Nat) (s t : State) : Prop where
  power : (t.qtr q).power = (s.qtr q).power
  store : (t.qtr q).store = (s.qtr q).store
  stk : t.stk = s.stk
  hbm : t.hbm = s.hbm
  staged : t.regs.staged = s.regs.staged
  regVal : t.regs.val = s.regs.val

namespace KeepsQuarter
variable {q : Nat} {s₀ s t : State}

theorem refl (q : Nat) (s : State) : KeepsQuarter q s s := ⟨rfl, rfl, rfl, rfl, rfl, rfl⟩

theorem trans {u : State} (a : KeepsQuarter q s t) (b : KeepsQuarter q t u) : KeepsQuarter q s u :=
  ⟨b.power.trans a.power, b.store.trans a.store, b.stk.trans a.stk, b.hbm.trans a.hbm, b.staged.trans a.staged,
    b.regVal.trans a.regVal⟩

theorem posts (h : KeepsQuarter q s₀ s) (p : Posts s t) : KeepsQuarter q s₀ t :=
  ⟨by rw [p.qtr, h.power], by rw [p.qtr, h.store], p.stk.trans h.stk, p.hbm.trans h.hbm, p.staged.trans h.staged,
    p.regVal.trans h.regVal⟩

theorem count (h : KeepsQuarter q s₀ s) (c p n k : Nat) : KeepsQuarter q s₀ (s.count c p n k) :=
  h.posts ((Posts.refl s).count c p n k)

/-- A change of the Quarter itself that leaves its power state and its page store alone. -/
theorem updQ (h : KeepsQuarter q s₀ s) (f : Quarter → Quarter) (hp : ∀ Q, (f Q).power = Q.power)
    (hs : ∀ Q, (f Q).store = Q.store) : KeepsQuarter q s₀ (s.updQ q f) :=
  ⟨by rw [State.qtr_updQ_self, hp, h.power], by rw [State.qtr_updQ_self, hs, h.store], h.stk, h.hbm, h.staged, h.regVal⟩

theorem updDir (h : KeepsQuarter q s₀ s) (f : Dir → Dir) : KeepsQuarter q s₀ (s.updDir q f) :=
  h.updQ (fun Q => { Q with dir := f Q.dir }) (fun _ => rfl) fun _ => rfl

theorem updCore (h : KeepsQuarter q s₀ s) (f : CoreIsland → CoreIsland) : KeepsQuarter q s₀ (s.updCore q f) :=
  h.updQ (fun Q => { Q with core := f Q.core }) (fun _ => rfl) fun _ => rfl

theorem updPcd (h : KeepsQuarter q s₀ s) (f : Pcd → Pcd) : KeepsQuarter q s₀ (s.updPcd q f) :=
  h.updQ (fun Q => { Q with pcd := f Q.pcd }) (fun _ => rfl) fun _ => rfl

theorem updPort (h : KeepsQuarter q s₀ s) (f : Port → Port) : KeepsQuarter q s₀ (s.updPort q f) :=
  h.updQ (fun Q => { Q with port := f Q.port }) (fun _ => rfl) fun _ => rfl

/-- The same power state given to the Quarter on both sides. -/
theorem setPower (h : KeepsQuarter q s t) (p : QPower) :
    KeepsQuarter q (s.updQ q fun Q => { Q with power := p }) (t.updQ q fun Q => { Q with power := p }) :=
  ⟨by simp, by simp [h.store], h.stk, h.hbm, h.staged, h.regVal⟩

theorem updQe (h : KeepsQuarter q s₀ s) (k : Nat) (f : QEnergy → QEnergy) : KeepsQuarter q s₀ (s.updQe k f) :=
  ⟨h.power, h.store, h.stk, h.hbm, h.staged, h.regVal⟩

theorem trainIf (h : KeepsQuarter q s₀ s) : KeepsQuarter q s₀ (s.trainIf q) := by
  unfold State.trainIf State.trainPort
  split
  · split
    · exact h.updPort _
    · exact h
  · exact h

end KeepsQuarter

/-! ### The directory stands as its shadow gives it (R425) -/

theorem KeepsQuarter.startRebuild (q : Nat) (s : State) : KeepsQuarter q s (s.startRebuild q) := by
  unfold State.startRebuild
  split
  · exact .refl q s
  · exact ((KeepsQuarter.refl q s).updDir _).count _ _ _ _

theorem State.startRebuild_dir (s : State) (q : Nat) :
    ((s.startRebuild q).qtr q).dir = { (s.qtr q).dir with rebuilding := true } := by
  unfold State.startRebuild
  split
  case isTrue hr => rw [← hr]
  case isFalse =>
    rw [((Posts.refl _).count bDIR q 4 1).qtr]
    simp [State.updDir]

/-- A rebuild that loses no entry and for which nothing waits changes the slice alone. -/
theorem KeepsQuarter.dirRebuildDone {q : Nat} {s : State} (hb : (s.qtr q).dir.shadowBad = []) (hw : (s.qtr q).dir.waiting = []) :
    KeepsQuarter q s (dirRebuildDone s q) := by
  unfold Machine.dirRebuildDone
  simp only [hb, hw, List.contains_nil, List.filter_false, List.map_nil, List.filter_nil, List.foldl_nil]
  split
  · exact .refl q s
  · exact ((KeepsQuarter.refl q s).updDir _).count _ _ _ _

/-! ### Nothing waits for a stack of the Quarter (Table 6-6) -/

/-- No engine, page or operation of a page store waits for a stack that is not ready. -/
structure Store.Idle (S : Store) : Prop where
  engines : ∀ e : Fin 4, (S.engines.fetch e {}).state ≠ .waitReady
  pages : ∀ c ∈ S.cache, c.kind ≠ .writeback
  holds : ∀ h ∈ S.holds, h.inStore = false

theorem State.drainWriteback_of_idle {s : State} {q : Nat} (h : (s.qtr q).store.Idle) : s.drainWriteback q = s := by
  have hn : ((s.qtr q).store.cache.filter fun e => e.kind == .writeback) = [] := by simpa using h.pages
  unfold State.drainWriteback
  rw [hn]
  rfl

theorem State.wakeEngine_of_not_waiting {s : State} {q e : Nat} (h : (s.eng q e).state ≠ .waitReady) : s.wakeEngine q e = s := by
  unfold State.wakeEngine
  dsimp only
  split
  case h_1 hw _ => exact absurd hw h
  case h_2 => rfl

theorem State.wakeEngines_of_idle {s : State} {q : Nat} (h : (s.qtr q).store.Idle) :
    (List.range 4).foldl (fun s e => s.wakeEngine q e) s = s := by
  refine List.foldlRecOn (motive := (· = s)) _ _ rfl fun t ht e he => ?_
  rw [ht]
  exact State.wakeEngine_of_not_waiting (h.engines ⟨e, List.mem_range.1 he⟩)

theorem State.recheckWaiting_of_idle {s : State} {q : Nat} (h : (s.qtr q).store.Idle) : s.recheckWaiting q = s := by
  have hn : ((s.qtr q).store.holds.filter fun x => x.inStore) = [] := by simpa using h.holds
  unfold State.recheckWaiting recheckWhere
  rw [hn]
  rfl

/-- The end of a NOT_READY condition for which nothing of the page store waits lets only jobs and coders go on. -/
theorem KeepsQuarter.notReadyEnd {q : Nat} {s₀ s : State} (h : KeepsQuarter q s₀ s) (hi : (s.qtr q).store.Idle) :
    KeepsQuarter q s₀ (notReadyEnd s q) := by
  have hj : KeepsQuarter q s₀ (s.wakeJobs q) := h.updCore _
  unfold Machine.notReadyEnd
  dsimp only
  rw [State.drainWriteback_of_idle hi, State.wakeEngines_of_idle hi, State.recheckWaiting_of_idle]
  · exact hj.updPcd _
  · simpa [State.updPcd, State.wakeJobs, State.updCore] using hi

/-! ### The end of Q-OFF (R394) -/

/-- The stacks of a Quarter leave self-refresh. -/
def State.stacksBack (s : State) (q : Nat) : State :=
  [0, 1, 2, 3].foldl (fun s n => s.updStack (4 * q + n) fun S => { S with selfRefresh := false }) s

theorem State.stacksBack_stack (s : State) (q : Nat) (n : Fin 4) :
    (s.stacksBack q).stack (4 * q + n) = { s.stack (4 * q + n) with selfRefresh := false } :=
  Tab.fetch_foldl_amend {} (fun _ (S : Stack) => { S with selfRefresh := false }) s.stk (4 * q) n

theorem State.applyStaged_nil {s : State} (h : s.regs.staged = []) (q : Nat) : s.applyStaged q = s := by
  unfold State.applyStaged
  rw [h]
  rfl

/-- A Quarter that leaves Q-OFF, with no write staged, its shadow readable and nothing waiting. -/
structure State.Leaves (s : State) (q : Nat) : Prop where
  power : (s.qtr q).power = .leaving
  staged : s.regs.staged = []
  shadow : (s.qtr q).dir.shadowBad = []
  waiting : (s.qtr q).dir.waiting = []
  idle : (s.qtr q).store.Idle

theorem State.qTarget_of_regVal {s t : State} (h : t.regs.val = s.regs.val) (q : Nat) : t.qTarget q = s.qTarget q := by
  unfold State.qTarget State.reg
  rw [h]

/-- A Quarter starts work in a power state, once its stacks and its directory are back. -/
def State.startWork (s : State) (q : Nat) (p : QPower) : State :=
  let s := s.updQ q fun Q => { Q with power := p }
  let s := s.updQe q fun e => { e with at_ := s.time }
  let s := (s.applyStaged q).postPower 4 q (s.qStateCode q) 5
  notReadyEnd (s.trainIf q) q

theorem KeepsQuarter.startWork {s : State} {q : Nat} (hs : s.regs.staged = []) (hi : (s.qtr q).store.Idle) (p : QPower) :
    KeepsQuarter q (s.updQ q fun Q => { Q with power := p }) (s.startWork q p) := by
  let u := s.updQ q fun Q => { Q with power := p }
  let v := u.updQe q fun e => { e with at_ := u.time }
  have hv : KeepsQuarter q u v := (KeepsQuarter.refl q u).updQe _ _
  have hw : KeepsQuarter q u ((v.postPower 4 q (v.qStateCode q) 5).trainIf q) :=
    (hv.posts ((Posts.refl v).postPower _ _ _ _)).trainIf
  show KeepsQuarter q u (Machine.notReadyEnd (((v.applyStaged q).postPower 4 q (v.qStateCode q) 5).trainIf q) q)
  rw [State.applyStaged_nil (s := v) hs]
  refine hw.notReadyEnd ?_
  rw [hw.store]
  simpa [u] using hi

theorem qOffExitDone_eq {s : State} {q : Nat} (h : (s.qtr q).power = .leaving) :
    qOffExitDone s q =
      (let u := dirRebuildDone ((s.stacksBack q).startRebuild q) q
       u.startWork q (if u.qTarget q == 1 then .idle else .on)) := by
  unfold qOffExitDone
  rw [if_neg (not_not.2 h)]
  rfl

/-- The Quarter goes from Q-OFF to its target: its stacks are back, and its page store, HBM and registers stand. -/
theorem qOffExitDone_keeps {s : State} {q : Nat} (h : s.Leaves q) :
    KeepsQuarter q ((s.stacksBack q).updQ q fun Q => { Q with power := if s.qTarget q == 1 then .idle else .on })
      (qOffExitDone s q) := by
  have hd : KeepsQuarter q (s.stacksBack q) (dirRebuildDone ((s.stacksBack q).startRebuild q) q) := by
    have hr := KeepsQuarter.startRebuild q (s.stacksBack q)
    have hdir := (s.stacksBack q).startRebuild_dir q
    exact hr.trans (.dirRebuildDone (by rw [hdir]; exact h.shadow) (by rw [hdir]; exact h.waiting))
  rw [qOffExitDone_eq h.power]
  dsimp only
  rw [State.qTarget_of_regVal hd.regVal]
  exact (hd.setPower _).trans (.startWork (hd.staged.trans h.staged) (by rw [hd.store]; exact h.idle) _)

/-! ### The obligation -/

/-- Settles O48, clause by clause: the tick and the rebalance by what their parts write, a reading by what it records before a shutdown, and
the end of Q-OFF by what each of its parts leaves alone. -/
theorem powerFollowsItsRules : Obligations.PowerFollowsItsRules := by
  unfold Obligations.PowerFollowsItsRules
  intro s
  refine ⟨fun m h => ?tick, fun w h => ?rebalance, fun i at_ d hvsb hd => ⟨fun hno => ?reading, fun htrip hlock => ?shutdown⟩,
    fun i at_ hvsb => ?noReading, fun i hvsb hv hl h => ?conservative, fun q hp hst hsh hw he hc hh => ?leave⟩
  case tick =>
    exact ⟨s.tickHead, congrArg (fun t => Host.Outcome.next (settle t)) (managementTick_eq h m), s.tickHead_spec⟩
  case rebalance =>
    obtain ⟨T, hr, hk⟩ := rebalance_spec h w
    refine ⟨rebalance s w, rfl, by rw [hk.pwr], by rw [hk.pwr], by rw [hk.pwr], fun q => ?_, by rw [hk.pwr], fun hw => ?_,
      fun hw => ?_, hk.hbm, hk.sec⟩
    · rw [hk.pwr]
      exact hr q
    · rw [hk.pwr]
      exact if_pos hw
    · rw [hk.pwr]
      exact if_neg (by omega)
  case reading =>
    obtain ⟨D, H, hp, hD⟩ := s.taken_spec i at_ (some d)
    refine ⟨s.taken i at_ (some d), ?_, ?_, fun j hj => ?_, fun q => ?_, s.taken_lockout _ _ _, hp.pins, hp.quarters, hp.hbm⟩
    · rw [exec_sensorReading hvsb, sensorReading_some, hno]
      rfl
    · rw [s.taken_sensors, Tab.fetch_put_self]
      simp only [State.readEntry, sat, Nat.min_eq_left (Nat.le_of_lt_succ hd)]
    · rw [s.taken_sensors, Tab.fetch_put_ne _ _ _ _ _ hj]
    · rw [hp.pwr]
      exact hD q
  case shutdown =>
    obtain ⟨D, H, hp, -⟩ := s.taken_spec i at_ (some d)
    have hx : exec (.sensorReading i at_ (some d)) s = .next ((s.taken i at_ (some d)).shutDown i) := by
      rw [exec_sensorReading hvsb, sensorReading_some, htrip, hlock]
      rfl
    obtain ⟨hl, hi, ha, hm, hq, hb, hn⟩ := (s.taken i at_ (some d)).shutDown_spec i
    exact ⟨_, hx, hl, hi, ha, hm, hq, hb, hn.trans (congrArg Boot.nvm hp.boot)⟩
  case noReading =>
    obtain ⟨D, H, hp, -⟩ := s.taken_spec i at_ none
    refine ⟨s.taken i at_ none, exec_sensorReading hvsb i at_ none, ?_, s.taken_lockout _ _ _, ?_, hp.pins, hp.hbm⟩
    · rw [s.taken_sensors, Tab.fetch_put_self]
      rfl
    · rw [hp.pwr]
      exact Bool.or_true _
  case conservative =>
    obtain ⟨T, hp, hT⟩ := (s.loseSensor i).goConservative_spec
    have hx : exec (.sensorInvalidTimeout i) s = .next (s.loseSensor i).goConservative := by
      rw [← sensorInvalid_eq hv hl h]
      exact congrArg Host.Outcome.next (if_pos hvsb)
    have hg : (s.loseSensor i).goConservative.pwr.sensors.fetch i {} = (s.pwr.sensors.fetch i {}).gone := by
      rw [hp.pwr]
      exact Tab.fetch_put_self _ _ _ _
    refine ⟨_, hx, by rw [hp.pwr], by rw [hp.pwr], by rw [hg]; rfl, by rw [hg]; rfl, hp.time, fun q hc => ?_, hp.pins, hp.hbm⟩
    rw [hp.pwr]
    exact hT hc q
  case leave =>
    have hk := qOffExitDone_keeps (s := s) (q := q) ⟨hp, hst, hsh, hw, ⟨he, hc, hh⟩⟩
    refine ⟨qOffExitDone s q, rfl, ?_, fun n => ?_, ?_, ?_⟩
    · rw [hk.power]
      simp
    · unfold State.stack
      rw [hk.stk]
      exact congrArg Stack.selfRefresh (s.stacksBack_stack q n)
    · rw [hk.store]
      simp [State.stacksBack]
    · rw [hk.hbm]
      rfl

end Sys2Proof.Machine
end

section
/-!
PROOFS. Shapes and conversation maps: SHAPE_DEFINE and MAP_SET (R28 to R30, R61 to R64).
-/
namespace Sys2Proof

/-- A change of every value of a table that leaves the default alone changes what each key reads. -/
theorem Tab.fetch_map {α : Type} (f : α → α) (d : α) (hd : f d = d) (t : Tab α) (k : Nat) :
    Tab.fetch (t.map fun e => (e.1, f e.2)) k d = f (t.fetch k d) := by
  induction t with
  | nil => exact hd.symm
  | cons e t ih =>
    by_cases h : k = e.1
    · simp [Tab.fetch, Tab.look, h]
    · simpa [Tab.fetch, Tab.look, h] using ih

theorem Reports.shape {s t : Machine.State} (h : Reports s t) (n id : Nat) : t.shape n id = s.shape n id := by
  unfold Machine.State.shape; rw [h.sec]

theorem Reports.mapOf {s t : Machine.State} (h : Reports s t) (n conv : Nat) : t.mapOf n conv = s.mapOf n conv := by
  unfold Machine.State.mapOf; rw [h.qtr]

end Sys2Proof

namespace Sys2Proof.Machine

/-! ### Taking up a command that passes its checks (R340) -/

/-- Taking an accepted message off changes the inbox alone. -/
theorem State.take_changes_inbox (s : State) (o : Origin) (op : Nat) (b : Bytes) :
    ∃ l, (s.take o op b).2 = { s with inbox := l } := by
  unfold State.take
  split
  · exact ⟨s.inbox, rfl⟩
  · exact ⟨_, rfl⟩

section Take
variable (s : State) (o : Origin) (op : Nat) (b : Bytes)

@[simp] theorem State.take_sec : (s.take o op b).2.sec = s.sec := by
  obtain ⟨l, hl⟩ := s.take_changes_inbox o op b; rw [hl]

@[simp] theorem State.take_hbm : (s.take o op b).2.hbm = s.hbm := by
  obtain ⟨l, hl⟩ := s.take_changes_inbox o op b; rw [hl]

@[simp] theorem State.take_qtr (q : Nat) : (s.take o op b).2.qtr q = s.qtr q := by
  obtain ⟨l, hl⟩ := s.take_changes_inbox o op b; rw [hl]; rfl

@[simp] theorem State.take_shape (t id : Nat) : (s.take o op b).2.shape t id = s.shape t id := by
  unfold State.shape; rw [State.take_sec]

@[simp] theorem State.take_mapOf (t conv : Nat) : (s.take o op b).2.mapOf t conv = s.mapOf t conv := by
  unfold State.mapOf; rw [State.take_qtr]

@[simp] theorem State.take_shapeInUse (t id : Nat) : (s.take o op b).2.shapeInUse t id = s.shapeInUse t id := by
  obtain ⟨l, hl⟩ := s.take_changes_inbox o op b; rw [hl]; rfl

@[simp] theorem hostCheck_take (h : HostCmd) (op' : Nat) (b' : Bytes) :
    hostCheck (s.take o op b).2 h op' b' = hostCheck s h op' b' := by
  obtain ⟨l, hl⟩ := s.take_changes_inbox o op b; rw [hl]; rfl

end Take

/-! ### SHAPE_DEFINE (R28 to R30) -/

section Shapes
variable {s : State} {h : HostCmd} {b : Bytes} {t : Nat}

/-- A SHAPE_DEFINE that passes its checks completes with the status of the definition. -/
theorem exec_shapeDefine (hc : hostCheck s h 0x42 b = none) {st : Nat} {v : State}
    (hr : shapeDefine (s.take (.host h) 0x42 b).2 h.tenant b = (st, v)) : exec (.shapeDefine h b) s = .next (v.complete h st) := by
  change execShapeDefine h b s = _
  simp only [execShapeDefine, hostCheck_take, hc, hr]

/-- The state with a shape of a tenant defined. -/
def State.putShape (s : State) (t id : Nat) (sh : Shape) : State :=
  { s with sec := { s.sec with shapes := s.sec.shapes.put (t * 16 + id) sh } }

theorem State.shape_putShape_self (s : State) (t id : Nat) (sh : Shape) : (s.putShape t id sh).shape t id = some sh :=
  Tab.look_put_self _ _ _

/-- The 16 IDs of a tenant keep to themselves, so that a definition reaches no other shape of any tenant. -/
theorem State.shape_putShape_ne (s : State) {t id n i : Nat} (sh : Shape) (hid : id < 16) (hi : i < 16)
    (hne : ¬ (n = t ∧ i = id)) : (s.putShape t id sh).shape n i = s.shape n i :=
  Tab.look_put_ne _ _ _ _ (by omega)

theorem shapeDefine_of_bad (hb : shapeBad b = true) : shapeDefine s t b = (sBAD, s) := by
  simp [shapeDefine, hb]

theorem shapeDefine_of_inUse (hb : shapeBad b = false) (hu : s.shapeInUse t (byteAt b 0 % 16) = true) :
    shapeDefine s t b = (sCONFLICT, s) := by
  simp [shapeDefine, hb, hu]

theorem shapeDefine_of_unused (hb : shapeBad b = false) (hu : s.shapeInUse t (byteAt b 0 % 16) = false) :
    shapeDefine s t b = (sOK, s.putShape t (byteAt b 0 % 16) (shapeOf b)) := by
  simp [shapeDefine, hb, hu, State.putShape]

end Shapes

/-! ### The maps of a Quarter (R61, R64) -/

/-- A map that a newer one of its key replaces; a map of another key stands. -/
def ConvMap.replacedAt (key : Nat) (x : ConvMap) : ConvMap := if x.key = key then { x with current := false } else x

theorem ConvMap.replacedAt_of_ne {key : Nat} {x : ConvMap} (hx : x.key ≠ key) : x.replacedAt key = x := if_neg hx

/-- After a replacement no earlier map of the key is current. -/
theorem ConvMap.replacedAt_not_installed (key : Nat) (x : ConvMap) :
    ((x.replacedAt key).current && (x.replacedAt key).key == key) = false := by
  by_cases hx : x.key = key
  · simp [ConvMap.replacedAt, hx]
  · simp [ConvMap.replacedAt_of_ne hx, hx]

/-- A replacement leaves it as it was which map is the current one of another key. -/
theorem ConvMap.find?_replacedAt_ne {key j : Nat} (hj : j ≠ key) (l : List ConvMap) :
    (l.map (ConvMap.replacedAt key)).find? (fun x => x.current && x.key == j) = l.find? fun x => x.current && x.key == j := by
  induction l with
  | nil => rfl
  | cons x l ih =>
    by_cases hx : x.key = key
    · have hxj : ¬ key = j := Ne.symm hj
      simpa [ConvMap.replacedAt, hx, hxj] using ih
    · rw [List.map_cons, ConvMap.replacedAt_of_ne hx, List.find?_cons, List.find?_cons, ih]

/-- The state in which a map is the last of its home Quarter, and replaces every earlier map of its key. -/
def State.installMap (s : State) (m : ConvMap) : State :=
  s.updQ (homeQ m.key) fun Q => { Q with maps := Q.maps.map (ConvMap.replacedAt m.key) ++ [m] }

theorem State.mapOf_installMap_self (s : State) {m : ConvMap} {t conv : Nat} (hk : m.key = mapKey t conv)
    (hm : m.current = true) : (s.installMap m).mapOf t conv = some m := by
  have hold : ((s.qtr (homeQ m.key)).maps.map (ConvMap.replacedAt m.key)).find? (fun x => x.current && x.key == m.key) = none := by
    simp [ConvMap.replacedAt_not_installed]
  unfold State.mapOf State.installMap
  rw [← hk, State.qtr_updQ_self, List.find?_append, hold]
  simp [hm]

/-- A map installed for one conversation leaves every other conversation's map alone, in its Quarter and in the others. -/
theorem State.mapOf_installMap_ne (s : State) {m : ConvMap} {t conv : Nat} (hne : mapKey t conv ≠ m.key) :
    (s.installMap m).mapOf t conv = s.mapOf t conv := by
  unfold State.mapOf State.installMap
  by_cases hq : homeQ (mapKey t conv) = homeQ m.key
  · rw [hq, State.qtr_updQ_self, List.find?_append, ConvMap.find?_replacedAt_ne hne]
    simp [hne.symm]
  · rw [State.qtr_updQ_ne _ _ _ _ hq]

@[simp] theorem State.qtr_dropMaps (s : State) (q : Nat) :
    s.dropMaps.qtr q = { s.qtr q with maps := (s.qtr q).maps.filter fun m => m.current || s.mapUsed m } :=
  Tab.fetch_map (fun Q : Quarter => { Q with maps := Q.maps.filter fun m => m.current || s.mapUsed m }) {} rfl s.quarters q

/-- A current map is never dropped. -/
@[simp] theorem State.mapOf_dropMaps (s : State) (t conv : Nat) : s.dropMaps.mapOf t conv = s.mapOf t conv := by
  have hp : ∀ m : ConvMap, ((m.current || s.mapUsed m) && (m.current && m.key == mapKey t conv)) =
      (m.current && m.key == mapKey t conv) := by
    intro m
    cases m.current <;> simp
  simp only [State.mapOf, State.qtr_dropMaps, List.find?_filter, Bool.decide_and, Bool.decide_eq_true, hp]

/-! ### MAP_SET (R61 to R64) -/

section Maps
variable {s : State} {h : HostCmd} {b : Bytes} {t conv a : Nat}

/-- A MAP_SET that passes its checks completes with the status of the installation. -/
theorem exec_mapSet (hc : hostCheck s h 0x43 b = none) {st : Nat} {v : State}
    (hr : mapSet (s.take (.host h) 0x43 b).2 h.tenant conv b = (st, v)) : exec (.mapSet h conv b) s = .next (v.complete h st) := by
  change execMapSet h conv b s = _
  simp only [execMapSet, hostCheck_take, hc, hr]

/-- The map that a body of MAP_SET gives a key, at its place in the descriptor heap (Table 2-14). -/
def ConvMap.ofBody (key a : Nat) (b : Bytes) : ConvMap :=
  { key := key, version := fieldAt b 0 4, decode := bit (byteAt b 6) 0, ackAtHome := bit (byteAt b 6) 1
    entries := mapEntries b, addr := a }

theorem mapSet_of_bad (hb : mapBad b = true) : mapSet s t conv b = (sBAD, s) := by
  simp [mapSet, hb]

/-- A good body for a 48-bit conversation gets past the refusal with BAD_DESCRIPTOR. -/
theorem mapSet_accepts (hb : mapBad b = false) (hconv : conv < 2 ^ 48) : ¬ (mapBad b || decide (conv ≥ 2 ^ 48)) = true := by
  rw [hb, decide_eq_false (Nat.not_le.2 hconv)]
  exact Bool.false_ne_true

theorem mapSet_of_not_newer {m : ConvMap} (hb : mapBad b = false) (hconv : conv < 2 ^ 48) (hm : s.mapOf t conv = some m)
    (hv : fieldAt b 0 4 ≤ m.version) : mapSet s t conv b = (sSTALE, s) := by
  unfold mapSet
  rw [if_neg (mapSet_accepts hb hconv), hm, if_pos (decide_eq_true hv)]

theorem mapSet_of_newer (hb : mapBad b = false) (hconv : conv < 2 ^ 48)
    (hv : ∀ m, s.mapOf t conv = some m → m.version < fieldAt b 0 4)
    (ha : (s.qtr (homeQ (mapKey t conv))).heapPlace (ceilDiv b.length 64) = some a) :
    mapSet s t conv b = (sOK, (s.installMap (ConvMap.ofBody (mapKey t conv) a b)).dropMaps) := by
  unfold mapSet
  rw [if_neg (mapSet_accepts hb hconv), ha]
  cases hm : s.mapOf t conv with
  | none => rfl
  | some m => exact if_neg (by simpa using hv m hm)

end Maps

/-! ### The obligation -/

/-- Settles O15, command by command: a refusal answers and changes nothing else, and a definition or a map is read back from the table
or the Quarter that took it. -/
theorem shapesAndMaps : Obligations.ShapesAndMaps := by
  unfold Obligations.ShapesAndMaps
  refine ⟨fun s h b hc => ⟨fun hb => ?badShape, fun hb hu => ?usedShape, fun hb hu => ?newShape⟩,
    fun s h conv b hc hconv => ⟨fun hb => ?badMap, fun hb m hm hv => ?oldMap, fun hb hv a ha => ?newMap⟩⟩
  case badShape => exact ⟨_, exec_shapeDefine hc (shapeDefine_of_bad hb), complete_answered _ _ _ _ _⟩
  case usedShape => exact ⟨_, exec_shapeDefine hc (shapeDefine_of_inUse hb (by rw [State.take_shapeInUse, hu])), complete_answered _ _ _ _ _⟩
  case newShape =>
    have hx := exec_shapeDefine hc (shapeDefine_of_unused hb (by rw [State.take_shapeInUse, hu]))
    have hans := complete_answered ((s.take (.host h) 0x42 b).2.putShape h.tenant (byteAt b 0 % 16) (shapeOf b)) h sOK 0 []
    refine ⟨_, hx, ?_, fun n i hi hne => ?_, ?_⟩
    · rw [hans.1.shape, State.shape_putShape_self]
    · rw [hans.1.shape, State.shape_putShape_ne _ _ (Nat.mod_lt _ (by decide)) hi hne, State.take_shape]
    · rw [hans.1.sec]
      exact hans
  case badMap => exact ⟨_, exec_mapSet hc (mapSet_of_bad hb), complete_answered _ _ _ _ _⟩
  case oldMap =>
    exact ⟨_, exec_mapSet hc (mapSet_of_not_newer hb hconv (by rw [State.take_mapOf, hm]) hv), complete_answered _ _ _ _ _⟩
  case newMap =>
    have hx := exec_mapSet hc (mapSet_of_newer hb hconv (by rwa [State.take_mapOf]) (by rwa [State.take_qtr]))
    have hans := complete_answered
      ((s.take (.host h) 0x43 b).2.installMap (ConvMap.ofBody (mapKey h.tenant conv) a b)).dropMaps h sOK 0 []
    refine ⟨_, ConvMap.ofBody (mapKey h.tenant conv) a b, hx, ?_, rfl, rfl, rfl, rfl, rfl, fun n c hne => ?_, ?_, ?_, _, ?_, hans⟩
    · rw [hans.1.mapOf, State.mapOf_dropMaps, State.mapOf_installMap_self _ rfl rfl]
    · rw [hans.1.mapOf, State.mapOf_dropMaps, State.mapOf_installMap_ne _ hne, State.take_mapOf]
    · exact hans.1.sec.trans (State.take_sec _ _ _ _)
    · exact hans.1.hbm.trans (State.take_hbm _ _ _ _)
    · rfl

end Sys2Proof.Machine
end

section
/-!
PROOFS. Jobs on the cores: how a job starts, goes on and is saved, and how a Quarter's cores take a new clock (R111, R117 to R125, R391).
-/
namespace Sys2Proof

theorem Posts.core {s t : Machine.State} (h : Posts s t) (q k : Nat) : t.core q k = s.core q k := by
  unfold Machine.State.core; rw [h.qtr]

theorem Posts.job {s t : Machine.State} (h : Posts s t) (q id : Nat) : t.job q id = s.job q id := by
  unfold Machine.State.job; rw [h.qtr]

/-- The same power records given to a state and to what it posts. -/
theorem Posts.setPwr {s t : Machine.State} (h : Posts s t) (p : Machine.Power) : Posts { s with pwr := p } { t with pwr := p } :=
  ⟨congrArg (fun u : Machine.State => { u with pwr := p }) h.1, h.2⟩

end Sys2Proof

namespace Sys2Proof.Machine

/-! ### Reading a Quarter's cores and jobs after a change of one of them -/

section Units
variable (s : State) (q k id : Nat)

@[simp] theorem State.qtr_updCore_self (f : CoreIsland → CoreIsland) :
    (s.updCore q f).qtr q = { s.qtr q with core := f (s.qtr q).core } :=
  State.qtr_updQ_self _ _ _

@[simp] theorem State.core_updOne_self (f : Core → Core) : (s.updOne q k f).core q k = f (s.core q k) := by
  simp [State.core, State.updOne]

theorem State.core_updOne_ne {k m : Nat} (f : Core → Core) (h : m ≠ k) : (s.updOne q k f).core q m = s.core q m := by
  simp [State.core, State.updOne, Tab.fetch_amend_ne m k _ _ f _ h]

@[simp] theorem State.job_updOne (f : Core → Core) : (s.updOne q k f).job q id = s.job q id := by
  simp [State.job, State.updOne]

@[simp] theorem State.core_updJob (f : Job → Job) : (s.updJob q id f).core q k = s.core q k := by
  simp [State.core, State.updJob]

/-- A change of one job that keeps its ID changes what that ID reads, and nothing else of what IDs read. -/
theorem State.job_updJob {f : Job → Job} (hf : ∀ j, (f j).id = j.id) (i : Nat) :
    (s.updJob q id f).job q i = (s.job q i).map fun j => if j.id = id then f j else j := by
  have hid : ∀ j : Job, (if j.id = id then f j else j).id = j.id := fun j => by
    split
    · exact hf j
    · rfl
  simp [State.job, State.updJob, List.find?_map, hid]

theorem State.id_of_job {s : State} {q id : Nat} {j : Job} (h : s.job q id = some j) : j.id = id := by
  simpa using List.find?_some h

theorem State.job_updJob_self {f : Job → Job} (hf : ∀ j, (f j).id = j.id) :
    (s.updJob q id f).job q id = (s.job q id).map f := by
  rw [State.job_updJob s q id hf]
  exact Option.map_congr fun j hj => if_pos (State.id_of_job hj)

theorem State.job_updJob_ne {id i : Nat} {f : Job → Job} (hf : ∀ j, (f j).id = j.id) (h : i ≠ id) :
    (s.updJob q id f).job q i = s.job q i := by
  rw [State.job_updJob s q id hf]
  exact (Option.map_congr fun j hj => if_neg (State.id_of_job hj ▸ h)).trans Option.map_id_apply

/-- A change of a core that leaves ONLINE and its fault alone does not take it from dispatch or back (Table 4-7). -/
theorem State.inDispatch_updOne {f : Core → Core} (hon : (f (s.core q k)).online = (s.core q k).online)
    (hfault : (f (s.core q k)).faulted = (s.core q k).faulted) : (s.updOne q k f).inDispatch q k = s.inDispatch q k := by
  simp only [State.inDispatch, State.core_updOne_self, hon, hfault]
  rfl

@[simp] theorem State.inDispatch_updJob (f : Job → Job) : (s.updJob q id f).inDispatch q k = s.inDispatch q k := by
  simp only [State.inDispatch, State.core_updJob]
  rfl

@[simp] theorem State.dove_updOne (f : Core → Core) : ((s.updOne q k f).qtr q).dove = (s.qtr q).dove := by
  simp [State.updOne]

@[simp] theorem State.dove_updJob (f : Job → Job) : ((s.updJob q id f).qtr q).dove = (s.qtr q).dove := by
  simp [State.updJob]

/-- A step of a core with a job: core k and job `id` of Quarter q change. -/
def State.updOn (f : Core → Core) (g : Job → Job) : State := (s.updOne q k f).updJob q id g

variable (f : Core → Core) (g : Job → Job)

theorem State.core_updOn_self : (s.updOn q k id f g).core q k = f (s.core q k) := by
  simp [State.updOn]

theorem State.core_updOn_ne {m : Nat} (h : m ≠ k) : (s.updOn q k id f g).core q m = s.core q m := by
  rw [State.updOn, State.core_updJob, State.core_updOne_ne _ _ _ h]

theorem State.job_updOn_self (hg : ∀ j, (g j).id = j.id) : (s.updOn q k id f g).job q id = (s.job q id).map g := by
  rw [State.updOn, State.job_updJob_self _ _ _ hg, State.job_updOne]

theorem State.job_updOn_ne (hg : ∀ j, (g j).id = j.id) {i : Nat} (h : i ≠ id) :
    (s.updOn q k id f g).job q i = s.job q i := by
  rw [State.updOn, State.job_updJob_ne _ _ hg h, State.job_updOne]

theorem State.dove_updOn : ((s.updOn q k id f g).qtr q).dove = (s.qtr q).dove := by
  simp [State.updOn]

end Units

/-! ### Admission (R111, R122, R123) -/

theorem Core.held_of_idle {c : Core} (h : c.idle = true) : c.held = false := by
  simp only [Core.idle, Bool.and_eq_true, Bool.not_eq_true'] at h
  obtain ⟨⟨_, hheld⟩, _⟩ := h
  exact hheld

section Admission
variable {s : State} {q k : Nat}

/-- A deduction changes the energy records, and counts. -/
theorem State.deduct_posts (s : State) (q : Nat) (j : Job) : ∃ p, Posts { s with pwr := p } (s.deduct q j) := by
  unfold State.deduct
  dsimp only
  split
  · exact ⟨s.pwr, .refl s⟩
  · split
    · exact ⟨_, ((Posts.refl _).count _ _ _ _).count _ _ _ _⟩
    · exact ⟨_, (Posts.refl _).count _ _ _ _⟩

/-- The state with a job admitted: its estimate is deducted, and a job meant for the bank that falls back to a core is counted. -/
def State.admitJob (s : State) (q : Nat) (r : Request) (j : Job) : State :=
  let s := if !j.admitted && execSite r.exec == 2 && j.site == 1 then s.countU bCORE q 8 6 else s
  (s.deduct q j).updJob q j.id fun j => { j with admitted := true }

/-- An admission changes the energy records and the job itself, and counts. -/
theorem State.admitJob_posts (s : State) (q : Nat) (r : Request) (j : Job) :
    ∃ p u, Posts { s with pwr := p } u ∧ s.admitJob q r j = u.updJob q j.id fun j => { j with admitted := true } := by
  unfold State.admitJob
  dsimp only
  split
  · obtain ⟨p, hp⟩ := (s.countU bCORE q 8 6).deduct_posts q j
    exact ⟨p, _, (((Posts.refl s).countU _ _ _ _ _).setPwr p).trans hp, rfl⟩
  · obtain ⟨p, hp⟩ := s.deduct_posts q j
    exact ⟨p, _, hp, rfl⟩

/-- A core that does not hold takes the job that is started on it. -/
theorem State.startJob_of_not_held (h : (s.core q k).held = false) (id : Nat) :
    s.startJob q k id = s.updOn q k id (fun c => { c with job := some id, nextJob := none, mark := none }) fun j =>
      { j with state := .running, core := k, admitted := true } :=
  if_neg (by simp [h])

/-- JOB_ADMIT with a ready first job that has its energy, is for a core and finds one idle. -/
theorem jobAdmit_starts {j0 j : Job} {r : Request} {w : State} (hj : s.firstJob q = some j0) (hst : j0.state = .ready)
    (hr : s.request j0.ticket = some r) (hw : (if j0.admitted then (some j0, s) else s.resolveSite q r j0) = (some j, w))
    (hclamp : (w.updJob q j.id fun _ => j).pwr.clamp = false) (hfits : (w.updJob q j.id fun _ => j).fits q j = true)
    (hsite : j.site = 1)
    (hk : ((w.updJob q j.id fun _ => j).coresIn q).find? (fun k => ((w.updJob q j.id fun _ => j).core q k).idle) = some k) :
    jobAdmit s q = (((w.updJob q j.id fun _ => j).admitJob q r j).startJob q k j.id).checkMisses := by
  unfold jobAdmit
  rw [hj]
  dsimp only
  rw [if_neg (not_not.2 hst), hr]
  dsimp only
  rw [hw]
  dsimp only
  rw [hclamp, hfits, if_neg (by simp), if_neg (by omega), hk]
  rfl

end Admission

/-! ### Clamp points (R79, R116) -/

section Clamp
variable {s : State} {q k : Nat}

theorem coreClampPoint_of_held (h : (s.core q k).held = true) : coreClampPoint s q k = s := if_pos h

/-- A core that does not hold folds a page of its job, unless the job waits for the host. -/
theorem coreClampPoint_folds {id : Nat} {j j' : Job} {r : Request} {v : State} (hh : (s.core q k).held = false)
    (hc : (s.core q k).job = some id) (hj : s.job q id = some j) (hr : s.request j.ticket = some r)
    (hf : foldStep s q k r j = (some j', v)) : coreClampPoint s q k = v.afterFold q k j j' := by
  unfold coreClampPoint
  simp only [hh, hc, hj, hr, hf]
  rfl

end Clamp

/-! ### Contexts (R117 to R119) -/

section Contexts
variable {s : State} {q k : Nat}

/-- A saved job that is first goes on, on the core that holds it. -/
theorem jobResume_goes_on {j : Job} (hj : s.firstJob q = some j) (hst : j.state = .saved) (hk : j.core = k) :
    jobResume s q k j.id =
      (s.updOn q k j.id (fun c => { c with saved := c.saved.filter (fun i => i != j.id), job := some j.id }) fun j =>
        { j with state := .running }).countU bCORE q k 4 := by
  unfold jobResume
  rw [hj]
  exact if_pos ⟨rfl, hst, hk⟩

/-- The end of a save with no job that waits for the core: the context takes a slot and nothing starts. -/
theorem contextSaveDone_frees {id : Nat} (hs : (s.core q k).saving = some id) (hj : (s.job q id).isSome = true)
    (hd : s.inDispatch q k = true) (hn : (s.core q k).nextJob = none) :
    contextSaveDone s q k =
      s.updOn q k id (fun c => { c with saving := none, saved := c.saved ++ [id], nextJob := none
                                        held := (s.qtr q).core.clockPend.isSome }) fun j =>
        { j with state := .saved, core := k } := by
  unfold contextSaveDone
  simp only [hs, hj, hn, if_true]
  rw [if_neg]
  · rfl
  · rw [State.inDispatch_updJob, State.inDispatch_updOne s q k rfl rfl, hd]
    decide

end Contexts

/-! ### Clock switches (R125, R391) -/

/-- A core no longer holds for a clock change. -/
def State.release (s : State) (q k : Nat) : State := s.updOne q k fun c => { c with held := false }

/-- A core goes on after a clock change: the job that it held back starts. -/
def State.goOn (q : Nat) (s : State) (k : Nat) : State :=
  let s := s.release q k
  match (s.core q k).nextJob with
  | some id => if (s.core q k).saving.isNone then s.startJob q k id else s
  | none => s

theorem State.goOn_of_no_next {s : State} {q k : Nat} (h : (s.core q k).nextJob = none) : s.goOn q k = s.release q k := by
  unfold State.goOn State.release
  simp only [State.core_updOne_self, h]

/-- In `t` the first `n` cores of Quarter q no longer hold; all else is as in `s`. -/
structure Released (q n : Nat) (s t : State) : Prop where
  cores : ∀ k, t.core q k = if k < n then { s.core q k with held := false } else s.core q k
  clock : (t.qtr q).core.clock = (s.qtr q).core.clock
  clockPend : (t.qtr q).core.clockPend = (s.qtr q).core.clockPend
  jobs : (t.qtr q).core.jobs = (s.qtr q).core.jobs
  others : ∀ i, i ≠ q → t.qtr i = s.qtr i
  regs : t.regs = s.regs
  hbm : t.hbm = s.hbm

theorem Released.zero (q : Nat) (s : State) : Released q 0 s s := ⟨fun _ => rfl, rfl, rfl, rfl, fun _ _ => rfl, rfl, rfl⟩

/-- Releasing the next core. -/
theorem Released.release {q n : Nat} {s t : State} (h : Released q n s t) : Released q (n + 1) s (t.release q n) := by
  have hq : (t.release q n).qtr q = { t.qtr q with core := { (t.qtr q).core with
      cores := (t.qtr q).core.cores.amend n {} fun c => { c with held := false } } } := State.qtr_updCore_self _ _ _
  refine ⟨fun k => ?_, by rw [hq]; exact h.clock, by rw [hq]; exact h.clockPend, by rw [hq]; exact h.jobs,
    fun i hi => (State.qtr_updQ_ne _ _ _ _ hi).trans (h.others i hi), h.regs, h.hbm⟩
  unfold State.release
  by_cases hk : k = n
  · rw [hk, State.core_updOne_self, h.cores, if_neg (Nat.lt_irrefl n), if_pos (Nat.lt_succ_self n)]
  · rw [State.core_updOne_ne _ _ _ hk, h.cores]
    simp only [show k < n + 1 ↔ k < n by omega]

/-- Cores for which no job waits go on one after the other: none holds any more. -/
theorem State.goOn_each {s : State} {q : Nat} (n : Nat) (h : ∀ k, k < n → (s.core q k).nextJob = none) :
    Released q n s ((List.range n).foldl (State.goOn q) s) := by
  induction n with
  | zero => exact .zero q s
  | succ n ih =>
    have hn := ih fun k hk => h k (by omega)
    rw [List.range_succ, List.foldl_concat, State.goOn_of_no_next]
    · exact hn.release
    · rw [hn.cores, if_neg (Nat.lt_irrefl n)]
      exact h n (Nat.lt_succ_self n)

/-- The island takes the pending clock. -/
def State.takeClock (s : State) (q p : Nat) : State := s.updCore q fun I => { I with clock := p, clockPend := none }

@[simp] theorem State.core_takeClock (s : State) (q p k : Nat) : (s.takeClock q p).core q k = s.core q k := by
  simp [State.core, State.takeClock]

/-- Once every core in use holds, the island switches. -/
theorem clockSwitch_switches {s : State} {q p : Nat} (hp : (s.qtr q).core.clockPend = some p)
    (hk : ∀ k, k < 8 → (s.core q k).held = true ∨ (s.core q k).online = false ∨ (s.core q k).faulted = true) :
    clockSwitch s q = (List.range 8).foldl (State.goOn q) (s.takeClock q p) := by
  unfold clockSwitch
  rw [hp]
  exact if_pos (by simpa [or_assoc] using hk)

/-! ### The obligations -/

/-- Settles O28: an admission changes no core but the one on which the job starts, a clamp point is a fold of one page, and a job that
goes on leaves its slot for its core. -/
theorem jobsStartAndGoOn : Obligations.JobsStartAndGoOn := by
  unfold Obligations.JobsStartAndGoOn
  refine ⟨fun s q j0 j r w k hj hst hr hw => ?start, fun s c id j j' r v => ⟨fun hh => ?hold, fun hh hc hj hr hf => ?fold⟩,
    fun s c j => ?resume⟩
  case start =>
    intro v hclamp hfits hsite hk
    have hx := jobAdmit_starts hj hst hr hw hclamp hfits hsite hk
    obtain ⟨p, u, hu, ha⟩ := v.admitJob_posts q r j
    have hcore : ∀ m, (v.admitJob q r j).core q m = v.core q m := fun m => by
      rw [ha, State.core_updJob]
      exact hu.core q m
    have hheld : ((v.admitJob q r j).core q k).held = false := by
      rw [hcore]
      exact Core.held_of_idle (List.find?_some (p := fun k => (v.core q k).idle) hk)
    refine ⟨_, congrArg Host.Outcome.next hx, ?_⟩
    rw [State.startJob_of_not_held hheld]
    refine ⟨by rw [State.core_updOn_self], by rw [State.core_updOn_self], fun m hm => ?_, ?_, ?_, ?_⟩
    · rw [State.core_updOn_ne _ _ _ _ _ _ hm, hcore]
    · exact (congrArg State.hbm ha).trans hu.hbm
    · exact (congrArg State.sec ha).trans hu.sec
    · rw [State.dove_updOn, ha, State.dove_updJob, hu.qtr]
      rfl
  case hold => exact congrArg Host.Outcome.next (coreClampPoint_of_held hh)
  case fold => exact congrArg Host.Outcome.next (coreClampPoint_folds hh hc hj hr hf)
  case resume =>
    intro q k hj hst hk
    refine ⟨_, congrArg Host.Outcome.next (jobResume_goes_on hj hst hk), ?_⟩
    have hp := fun u : State => (Posts.refl u).countU bCORE q k 4 1
    refine ⟨?_, ?_, fun m hm => ?_, fun i hi => ?_, (hp _).hbm, (hp _).sec⟩
    · rw [(hp _).core, State.core_updOn_self]
    · rw [(hp _).core, State.core_updOn_self]
    · rw [(hp _).core, State.core_updOn_ne _ _ _ _ _ _ hm]
    · rw [(hp _).job, State.job_updOn_ne (h := hi)]
      exact fun _ => rfl

/-- Settles O29: a save that ends changes its core and its job alone, and an island that takes its clock releases its cores one after the
other. -/
theorem savesAndClockSwitches : Obligations.SavesAndClockSwitches := by
  unfold Obligations.SavesAndClockSwitches
  refine ⟨fun s c id => ?save, fun s q p hp hk => ?switch⟩
  case save =>
    intro q k hs hj hd hn
    refine ⟨_, congrArg Host.Outcome.next (contextSaveDone_frees hs hj hd hn), ?_, ?_, fun m hm => ?_, fun i hi => ?_, rfl, rfl, rfl⟩
    · rw [State.core_updOn_self, ← hn]
    · obtain ⟨j, hj⟩ := Option.isSome_iff_exists.1 hj
      rw [State.job_updOn_self, hj]
      · rfl
      · exact fun _ => rfl
    · exact State.core_updOn_ne _ _ _ _ _ _ hm
    · rw [State.job_updOn_ne (h := hi)]
      exact fun _ => rfl
  case switch =>
    have hr : Released q 8 (s.takeClock q p) ((List.range 8).foldl (State.goOn q) (s.takeClock q p)) :=
      State.goOn_each 8 fun k hk8 => by rw [State.core_takeClock]; exact (hk k hk8).2
    have hq : (s.takeClock q p).qtr q = { s.qtr q with core := { (s.qtr q).core with clock := p, clockPend := none } } :=
      State.qtr_updCore_self _ _ _
    refine ⟨_, congrArg Host.Outcome.next (clockSwitch_switches hp fun k hk8 => (hk k hk8).1), ?_, ?_, fun k hk8 => ?_, ?_,
      fun i hi => ?_, hr.regs, hr.hbm⟩
    · rw [hr.clock, hq]
    · rw [hr.clockPend, hq]
    · rw [hr.cores, if_pos hk8, State.core_takeClock]
    · rw [hr.jobs, hq]
    · exact (hr.others i hi).trans (State.qtr_updQ_ne _ _ _ _ hi)

end Sys2Proof.Machine
end

section
/-!
PROOFS. The scoring stacks: how a sequence runs and retires, and how fences wait (R142 to R147).
-/
namespace Sys2Proof

theorem Posts.bank {s t : Machine.State} (h : Posts s t) (q ls : Nat) : t.bank q ls = s.bank q ls := by
  unfold Machine.State.bank; rw [h.qtr]

end Sys2Proof

namespace Sys2Proof.Machine

/-! ### Reading a scoring stack after a change -/

section Rules
variable (s : State) (q ls : Nat)

@[simp] theorem State.qtr_updBsc_self (f : Bsc → Bsc) : (s.updBsc q f).qtr q = { s.qtr q with bsc := f (s.qtr q).bsc } :=
  State.qtr_updQ_self _ _ _

@[simp] theorem State.qtr_updBank_self (f : BscStack → BscStack) :
    (s.updBank q ls f).qtr q =
      { s.qtr q with bsc := { (s.qtr q).bsc with stk := (s.qtr q).bsc.stk.amend ls {} f } } :=
  State.qtr_updBsc_self _ _ _

@[simp] theorem State.bank_updBank_self (f : BscStack → BscStack) : (s.updBank q ls f).bank q ls = f (s.bank q ls) := by
  simp [State.bank]

/-- A change of the Quarter's block that leaves its stacks alone. -/
theorem State.bank_updBsc {f : Bsc → Bsc} (hf : (f (s.qtr q).bsc).stk = (s.qtr q).bsc.stk) :
    (s.updBsc q f).bank q ls = s.bank q ls := by
  unfold State.bank
  rw [State.qtr_updBsc_self, hf]

/-- What a change of a stack does is what it does to the stack as it stands. -/
theorem State.updBank_congr {s : State} {q ls : Nat} {f g : BscStack → BscStack} (h : f (s.bank q ls) = g (s.bank q ls)) :
    s.updBank q ls f = s.updBank q ls g := by
  have hfg : f ((s.quarters.fetch q {}).bsc.stk.fetch ls {}) = g ((s.quarters.fetch q {}).bsc.stk.fetch ls {}) := h
  simp only [State.updBank, State.updBsc, State.updQ, Tab.amend, hfg]

@[simp] theorem State.bank_setReg (c p o v : Nat) : (s.setReg c p o v).bank q ls = s.bank q ls := rfl
@[simp] theorem State.bank_updStack (n : Nat) (f : Stack → Stack) : (s.updStack n f).bank q ls = s.bank q ls := rfl

end Rules

/-! ### The front sequence of a scorer -/

section Front
variable {B : BscStack} {k : Nat} {x : Sequence} {rest : List Sequence}

theorem BscStack.front_of_cons (h : B.queueOf k = x :: rest) (f : Sequence → Sequence) :
    B.front k f = { B with seqs := B.seqs.put k (f x :: rest) } := by
  unfold BscStack.front
  rw [h]

theorem BscStack.queueOf_front (h : B.queueOf k = x :: rest) (f : Sequence → Sequence) :
    (B.front k f).queueOf k = f x :: rest := by
  rw [BscStack.front_of_cons h]
  exact Tab.fetch_put_self _ _ _ _

/-- The stack once a scorer has written the entry of its current run and goes on to the next. -/
def BscStack.endRun (B : BscStack) (k : Nat) (x : Sequence) (status : Nat) (rows : List RowState) : BscStack :=
  (B.putEntry x x.done status rows).front k fun x => { x with done := x.done + 1, bad := false }

theorem BscStack.queueOf_endRun (h : B.queueOf k = x :: rest) (status : Nat) (rows : List RowState) :
    (B.endRun k x status rows).queueOf k = { x with done := x.done + 1, bad := false } :: rest :=
  BscStack.queueOf_front (B := B.putEntry x x.done status rows) h _

theorem BscStack.entry_endRun (h : B.queueOf k = x :: rest) (status : Nat) (rows : List RowState) :
    (B.endRun k x status rows).entries.look (x.slot x.done) =
      some { tag := x.tag, run := x.firstRun + x.done, status := status, rows := rows } := by
  unfold BscStack.endRun
  rw [BscStack.front_of_cons (B := B.putEntry x x.done status rows) h]
  exact Tab.look_put_self _ _ _

end Front

/-! ### The end of a run (R142, R144) -/

/-- Scorer k of a stack is at work on sequence x, of job j, and has runs left. -/
structure State.Scores (s : State) (q ls k : Nat) (x : Sequence) (rest : List Sequence) (j : Job) (r : Request) : Prop where
  queue : (s.bank q ls).queueOf k = x :: rest
  left : x.done < x.runs
  working : (s.bank q ls).crossing.contains k = false
  job : s.job q x.job = some j
  request : s.request j.ticket = some r

section Runs
variable {s : State} {q ls k : Nat} {x : Sequence} {rest : List Sequence} {j : Job} {r : Request}

theorem State.Scores.not_idle (h : s.Scores q ls k x rest j r) :
    ¬ (x.done ≥ x.runs ∨ (s.bank q ls).crossing.contains k = true) := by
  rw [h.working]
  simpa using h.left

theorem scorerRunDone_reads (h : s.Scores q ls k x rest j r) {bl : List VBlk}
    (hp : s.bankPages q ls x.frame r.shape ((x.firstRun + x.done) % 4 * 8) 8 = .ok bl) :
    scorerRunDone s q ls k false =
      (s.updBank q ls fun B => B.endRun k x 0 (foldPage r { j with rows := [] } bl)).countU bBSC q (ls - 2) 1 := by
  unfold scorerRunDone
  simp only [h.queue, if_neg h.not_idle, h.job, h.request, Option.bind_some, Option.map_some, hp]
  rfl

theorem scorerRunDone_redirects (h : s.Scores q ls k x rest j r)
    (hp : s.bankPages q ls x.frame r.shape ((x.firstRun + x.done) % 4 * 8) 8 = .error 1) :
    scorerRunDone s q ls k false = (s.updBank q ls fun B => B.endRun k x 1 []).countU bBSC q (ls - 2) 2 := by
  unfold scorerRunDone
  simp only [h.queue, if_neg h.not_idle, h.job, h.request, Option.bind_some, Option.map_some, hp]
  rfl

end Runs

/-! ### Retirement (R145, R147) -/

/-- The stack once the front sequence of a scorer has left it. -/
def BscStack.retire (B : BscStack) (k : Nat) (x : Sequence) (rest : List Sequence) : BscStack :=
  { B with
    seqs := if rest.isEmpty then B.seqs.del k else B.seqs.put k rest
    notices := B.notices ++ [{ x with retired := true }]
    restarts := B.restarts.del k }

theorem BscStack.queueOf_retire (B : BscStack) (k : Nat) (x : Sequence) (rest : List Sequence) :
    (B.retire k x rest).queueOf k = rest := by
  cases rest with
  | nil => exact Tab.fetch_del_self _ _ _
  | cons y l => exact Tab.fetch_put_self _ _ _ _

theorem BscStack.startIssuer_of_busy {B : BscStack} (h : B.issuerFence.isSome = true) : B.startIssuer = B := by
  unfold BscStack.startIssuer
  rw [h, Bool.or_true, if_pos rfl]

theorem BscStack.startIssuer_of_free {B : BscStack} (hn : B.notices ≠ []) (h : B.issuerFence = none) :
    B.startIssuer =
      { B with issuerFence := some (B.seqs.flatMap fun e => e.2.map fun x => x.tag), fenced := B.notices, notices := [] } := by
  unfold BscStack.startIssuer
  rw [h, if_neg (by simpa using hn)]

/-- The issuer's fence touches no scorer's queue. -/
theorem BscStack.queueOf_startIssuer (B : BscStack) (k : Nat) : B.startIssuer.queueOf k = B.queueOf k := by
  unfold BscStack.startIssuer
  split <;> rfl

theorem sequenceRetire_of_done {s : State} {q ls k : Nat} {x : Sequence} {rest : List Sequence}
    (h : (s.bank q ls).queueOf k = x :: rest) (hd : x.runs ≤ x.done) :
    sequenceRetire s q ls k = s.updBank q ls fun B => (B.retire k x rest).startIssuer := by
  unfold sequenceRetire
  rw [h]
  exact if_neg (Nat.not_lt.2 hd)

/-- Settles O30: a run ends by its entry and a step of the front sequence, and a sequence leaves by its notice. -/
theorem sequencesRun : Obligations.SequencesRun := by
  unfold Obligations.SequencesRun
  intro s n k x rest q ls hls hq
  refine ⟨fun j r hleft hwork hj hr => ⟨fun bl hp => ?done, fun hp => ?redirect⟩, fun hd => ?retire⟩
  case done =>
    have ht := scorerRunDone_reads ⟨hq, hleft, hwork, hj, hr⟩ hp
    have hc := fun u : State => (Posts.refl u).countU bBSC q (ls - 2) 1 1
    refine ⟨_, congrArg Host.Outcome.next ((if_pos hls).trans ht), ?_, ?_, (hc _).hbm, (hc _).sec, ?_⟩
    · rw [(hc _).bank, State.bank_updBank_self, BscStack.entry_endRun hq]
    · rw [(hc _).bank, State.bank_updBank_self, BscStack.queueOf_endRun hq]
    · rw [(hc _).qtr, State.qtr_updBank_self]
  case redirect =>
    have ht := scorerRunDone_redirects ⟨hq, hleft, hwork, hj, hr⟩ hp
    have hc := fun u : State => (Posts.refl u).countU bBSC q (ls - 2) 2 1
    refine ⟨_, congrArg Host.Outcome.next ((if_pos hls).trans ht), ?_, ?_, (hc _).hbm⟩
    · rw [(hc _).bank, State.bank_updBank_self, BscStack.entry_endRun hq]
    · rw [(hc _).bank, State.bank_updBank_self, BscStack.queueOf_endRun hq]
  case retire =>
    have ht := sequenceRetire_of_done hq hd
    refine ⟨_, congrArg Host.Outcome.next ((if_pos hls).trans ht), ?_, fun hb => ?_, fun hf => ?_, rfl, rfl, rfl, ?_⟩
    · rw [State.bank_updBank_self, BscStack.queueOf_startIssuer, BscStack.queueOf_retire]
    · rw [State.bank_updBank_self, BscStack.startIssuer_of_busy (B := (s.bank q ls).retire k x rest) hb]
      rfl
    · rw [State.bank_updBank_self, BscStack.startIssuer_of_free (B := (s.bank q ls).retire k x rest) (List.concat_ne_nil _ _) hf]
      exact ⟨rfl, rfl, rfl⟩
    · rw [State.qtr_updBank_self]

/-! ### Fences (R146) -/

/-- The sequences that a stack's scorers hold, in the order of the scorers. -/
def BscStack.issued (B : BscStack) : List Sequence := B.seqs.flatMap fun e => e.2

theorem BscStack.tags_eq (B : BscStack) : (B.seqs.flatMap fun e => e.2.map fun x => x.tag) = B.issued.map fun x => x.tag :=
  (List.map_flatMap ..).symm

section Fences
variable {s : State} {q ls v : Nat}

theorem bscFence_of_none (hv : v % 65536 ≠ (s.bank q ls).doneSeq) (hn : (s.bank q ls).issued = []) :
    bscFence s q ls v = (s.setReg bBSC q (if ls = 2 then 4 else 8) (v % 65536)).updBank q ls fun B =>
      { B with fenceSeq := v % 65536, doneSeq := v % 65536, fenceWait := none } := by
  unfold bscFence
  simp only [State.bank_setReg, if_neg hv, BscStack.tags_eq, hn]
  rfl

theorem bscFence_of_some (hv : v % 65536 ≠ (s.bank q ls).doneSeq) (hn : (s.bank q ls).issued ≠ []) :
    bscFence s q ls v = (s.setReg bBSC q (if ls = 2 then 4 else 8) (v % 65536)).updBank q ls fun B =>
      { B with fenceSeq := v % 65536, fenceWait := some ((s.bank q ls).issued.map fun x => x.tag) } := by
  unfold bscFence
  simp only [State.bank_setReg, if_neg hv, BscStack.tags_eq]
  exact if_neg (by simpa using hn)

/-- A software fence alone, over sequences of which none is left. -/
theorem fenceComplete_of_over {tags : List Nat} (hw : (s.bank q ls).fenceWait = some tags)
    (ho : (s.bank q ls).fenceOver tags = true) (hi : (s.bank q ls).issuerFence = none) :
    fenceComplete s q ls = s.updBank q ls fun B => { B with fenceWait := none, doneSeq := B.fenceSeq } := by
  unfold fenceComplete
  simp only [State.bank_updBank_self, hw, ho, if_true, hi]
  exact State.updBank_congr (by simp only [hw, ho, if_true])

end Fences

/-- Settles O31: a fence is set done, or waits, by whether the stack's scorers hold a sequence. -/
theorem fencesWait : Obligations.FencesWait := by
  unfold Obligations.FencesWait
  intro s n v q ls hls
  refine ⟨fun hoff hv => ?fence, fun tags hw ho hi => ?ended⟩
  case fence =>
    have hx : exec (.bscFence n v) s = .next (bscFence s q ls v) :=
      congrArg Host.Outcome.next ((if_neg (Nat.not_lt.2 hls)).trans (if_neg (Bool.eq_false_iff.1 hoff)))
    have hreg : (s.setReg bBSC q (if ls = 2 then 4 else 8) (v % 65536)).reg bBSC q (if ls = 2 then 4 else 8) = v % 65536 :=
      (State.reg_setReg_self ..).trans (Nat.mod_eq_of_lt (by omega))
    by_cases hn : (s.bank q ls).issued = []
    · rw [bscFence_of_none hv hn] at hx
      refine ⟨_, hx, ?_, fun _ => ⟨?_, ?_⟩, fun h => absurd hn h, ?_, hreg, rfl, rfl⟩ <;>
        rw [State.bank_updBank_self]
      rfl
    · rw [bscFence_of_some hv hn, ← BscStack.tags_eq] at hx
      refine ⟨_, hx, ?_, fun h => absurd h hn, fun _ => ⟨?_, ?_⟩, ?_, hreg, rfl, rfl⟩ <;>
        rw [State.bank_updBank_self] <;> rfl
  case ended =>
    have ht := fenceComplete_of_over hw ho hi
    refine ⟨_, congrArg Host.Outcome.next ((if_pos hls).trans ht), ?_, ?_, ?_, rfl, rfl, rfl⟩ <;>
      rw [State.bank_updBank_self]

end Sys2Proof.Machine
end

section
/-!
PROOFS. The scoring stacks: crossings, early refresh, channel modes and built-in tests (R149 to R160).
-/
namespace Sys2Proof.Machine

/-! ### The accesses that wait in a stack (R151, R152) -/

/-- Accesses that are performed change HBM alone. -/
theorem State.perform_each (s : State) (q ls : Nat) (l : List (Bool × ChAccess)) :
    ∃ m, l.foldl (fun s e => s.perform q ls e.2) s = { s with hbm := m } := by
  refine List.foldlRecOn (motive := fun t => ∃ m : Mem, t = { s with hbm := m }) l _ ⟨s.hbm, rfl⟩ ?_
  rintro _ ⟨m, rfl⟩ e -
  unfold State.perform
  split
  · exact ⟨_, rfl⟩
  · exact ⟨m, rfl⟩

/-- Serving a pseudo-channel changes HBM and what waits in the stack, and no refresh of the pseudo-channel is due afterwards. -/
theorem State.serve_eq (s : State) (q ls k n : Nat) :
    ∃ m h a, s.serve q ls k n = { s with hbm := m }.updBank q ls fun B =>
      { B with refreshDue := B.refreshDue.filter fun x => x != k, held := h, accesses := a } := by
  unfold State.serve
  dsimp only
  obtain ⟨m, hm⟩ := s.perform_each q ls
    (((((s.bank q ls).held.fetch k []).map (fun a => (true, a)) ++ ((s.bank q ls).accesses.fetch k []).map fun a => (false, a)).filter
      fun e => !(s.bank q ls).covered e.2).take n)
  rw [hm]
  exact ⟨m, _, _, State.updBank_congr rfl⟩

/-- In `t` other refreshes and accesses wait in a stack than in `s`, and HBM may have been written; all else is as in `s`. -/
structure Served (q ls : Nat) (s t : State) : Prop where
  bank : ∃ r h a, t.bank q ls = { s.bank q ls with refreshDue := r, held := h, accesses := a }
  time : t.time = s.time
  regs : t.regs = s.regs
  sec : t.sec = s.sec

theorem Served.refl (q ls : Nat) (s : State) : Served q ls s s := ⟨⟨_, _, _, rfl⟩, rfl, rfl, rfl⟩

theorem Served.trans {q ls : Nat} {s t u : State} (a : Served q ls s t) (b : Served q ls t u) : Served q ls s u := by
  obtain ⟨_, _, _, ha⟩ := a.bank
  obtain ⟨r, h, l, hb⟩ := b.bank
  exact ⟨⟨r, h, l, by rw [hb, ha]⟩, b.time.trans a.time, b.regs.trans a.regs, b.sec.trans a.sec⟩

theorem Served.serve (s : State) (q ls k n : Nat) : Served q ls s (s.serve q ls k n) := by
  obtain ⟨m, h, a, hs⟩ := s.serve_eq q ls k n
  rw [hs]
  exact ⟨⟨_, h, a, State.bank_updBank_self _ _ _ _⟩, rfl, rfl, rfl⟩

theorem State.refreshDue_serve (s : State) (q ls k n : Nat) :
    ((s.serve q ls k n).bank q ls).refreshDue.contains k = false := by
  obtain ⟨m, h, a, hs⟩ := s.serve_eq q ls k n
  rw [hs, State.bank_updBank_self]
  simp

/-! ### Crossings (R151, R154) -/

section Crossings
variable {s : State} {q ls k : Nat}

/-- The bank cycles from one crossing of a pseudo-channel to the next (R154, R157). -/
def State.interval (s : State) (q ls k : Nat) : Nat := if 0 < (s.bank q ls).restarts.fetch k 0 then 32 else s.xingInterval q

/-- The state at the crossing that is due, some of what waits being served. -/
def State.cross (s : State) (q ls k : Nat) : State :=
  let d := (s.advance ((s.bank q ls).lastXing.fetch k 0 + s.interval q ls k)).drawFree
  d.2.serve q ls k (d.1 % 256)

theorem crossingEnter_of_work (hw : (s.bank q ls).work k = true) (hc : (s.bank q ls).crossing.contains k = false)
    (hq : (s.bank q ls).queueOf k ≠ []) :
    crossingEnter s q ls k =
      ((s.cross q ls k).countU bBSC q (ls - 2) 5).updBank q ls fun B => { B with crossing := B.crossing ++ [k] } := by
  unfold crossingEnter
  rw [if_neg (by rw [hw, hc]; decide), if_neg hq]
  rfl

theorem crossingWindowEnd_of_crossing (h : (s.bank q ls).crossing.contains k = true) :
    crossingWindowEnd s q ls k = s.updBank q ls fun B =>
      { B with crossing := B.crossing.filter (fun x => x != k), lastXing := B.lastXing.put k s.time } :=
  if_pos h

/-! ### An early refresh (R156, R157) -/

/-- The stack once the run that a scorer was folding has been abandoned. -/
def BscStack.abandon (B : BscStack) (k : Nat) : BscStack :=
  { (B.front k fun x => { x with bad := true }) with
    restarts := B.restarts.put k 1, refreshDue := B.refreshDue.filter fun y => y != k }

theorem BscStack.entries_abandon {B : BscStack} {x : Sequence} {rest : List Sequence} (h : B.queueOf k = x :: rest) :
    (B.abandon k).entries = B.entries := by
  unfold BscStack.abandon
  rw [BscStack.front_of_cons h]

theorem refreshAbort_abandons {x : Sequence} {rest : List Sequence} (h : (s.bank q ls).queueOf k = x :: rest)
    (hd : x.done < x.runs) (hb : x.bad = false) :
    refreshAbort s q ls k = (s.updBank q ls fun B => B.abandon k).countU bBSC q (ls - 2) 3 := by
  unfold refreshAbort
  rw [h]
  exact if_neg (by simp [hd, hb])

end Crossings

/-- Settles O32: a crossing serves the stack and marks the scorer, its end clears the mark, and an early refresh marks the front
sequence. -/
theorem crossingsAndRefresh : Obligations.CrossingsAndRefresh := by
  unfold Obligations.CrossingsAndRefresh
  intro s n k q ls hls
  refine ⟨fun hw hc hq => ?enter, fun hc => ?leave, fun x rest hq hd hb => ?refresh⟩
  case enter =>
    have ht := crossingEnter_of_work hw hc hq
    have hp := (Posts.refl (s.cross q ls k)).countU bBSC q (ls - 2) 5 1
    have hs : Served q ls _ (s.cross q ls k) := Served.serve _ _ _ _ _
    obtain ⟨r, h, a, hbank⟩ := hs.bank
    refine ⟨_, congrArg Host.Outcome.next ((if_pos hls).trans ht), ?_, hp.time.trans hs.time, ?_, ?_, hp.sec.trans hs.sec⟩
    · rw [State.bank_updBank_self, hp.bank, hbank]
      rfl
    · rw [State.bank_updBank_self, hp.bank, hbank]
      rfl
    · rw [State.bank_updBank_self, hp.bank]
      exact State.refreshDue_serve _ _ _ _ _
  case leave =>
    have ht := crossingWindowEnd_of_crossing hc
    refine ⟨_, congrArg Host.Outcome.next ((if_pos hls).trans ht), ?_, ?_, ?_, rfl, rfl, rfl⟩
    · rw [State.bank_updBank_self]
      simp
    · rw [State.bank_updBank_self]
      exact Tab.look_put_self _ _ _
    · rw [State.bank_updBank_self]
  case refresh =>
    have ht := refreshAbort_abandons hq hd hb
    have hp := (Posts.refl (s.updBank q ls fun B => B.abandon k)).countU bBSC q (ls - 2) 3 1
    have hbank := (hp.bank q ls).trans (State.bank_updBank_self _ _ _ _)
    refine ⟨_, congrArg Host.Outcome.next ((if_pos hls).trans ht), ?_, ?_, ?_, ?_, hp.hbm, hp.sec⟩
    · rw [hbank]
      exact BscStack.queueOf_front hq _
    · rw [hbank]
      simp [BscStack.abandon]
    · rw [hbank]
      simp [BscStack.abandon]
    · rw [hbank, BscStack.entries_abandon hq]

/-! ### One channel's mode (R149, R150) -/

/-- What a stack keeps of a channel's mode: the mode in effect, the latest code written, and the mode that a pending change leaves. -/
structure ChanState where
  mode : Nat
  want : Option Nat
  pendFrom : Option Nat

/-- A channel of a stack. -/
def BscStack.chan (B : BscStack) (c : Nat) : ChanState := ⟨B.mode.fetch c 0, B.want.look c, B.pendFrom.look c⟩

/-- A change of a channel to a mode begins; a change from MEM to SHARED is over at once (Table 5-7). -/
def ChanState.change (x : ChanState) (v : Nat) : ChanState :=
  ⟨v, x.want, if v = x.mode ∨ (x.mode = 0 ∧ v = 1) then none else some x.mode⟩

/-- A code other than 3 is written to a channel (R150). -/
def ChanState.write (x : ChanState) (v : Nat) : ChanState :=
  if x.pendFrom.isSome then { x with want := some v } else { x with want := some v }.change v

theorem ChanState.write_of_pending {x : ChanState} (h : x.pendFrom.isSome = true) (v : Nat) : x.write v = { x with want := some v } :=
  if_pos h

theorem ChanState.write_of_settled {x : ChanState} (h : ¬ x.pendFrom.isSome = true) (v : Nat) :
    x.write v = { x with want := some v }.change v :=
  if_neg h

theorem ChanState.mode_write (x : ChanState) (v : Nat) : (x.write v).mode = if x.pendFrom.isSome then x.mode else v := by
  unfold ChanState.write
  split <;> rfl

theorem ChanState.want_write (x : ChanState) (v : Nat) : (x.write v).want = some v := by
  unfold ChanState.write
  split <;> rfl

/-- Channel c of a stack is now `x`, and the other channels, the sequences and all that is outside the Quarter's block are as in `s`. -/
structure ChanIs (q ls c : Nat) (x : ChanState) (s t : State) : Prop where
  self : (t.bank q ls).chan c = x
  others : ∀ d, d ≠ c → (t.bank q ls).chan d = (s.bank q ls).chan d
  seqs : (t.bank q ls).seqs = (s.bank q ls).seqs
  badMode : (t.qtr q).bsc.badMode = (s.qtr q).bsc.badMode
  hbm : t.hbm = s.hbm
  regs : t.regs = s.regs
  host : t.host = s.host

section Modes
variable {s : State} {q ls c v : Nat}

/-- A change of the stack that sets the channel. -/
theorem ChanIs.updBank {x : ChanState} {f : BscStack → BscStack} (hself : (f (s.bank q ls)).chan c = x)
    (hothers : ∀ d, d ≠ c → (f (s.bank q ls)).chan d = (s.bank q ls).chan d) (hseqs : (f (s.bank q ls)).seqs = (s.bank q ls).seqs) :
    ChanIs q ls c x s (s.updBank q ls f) := by
  refine ⟨?_, fun d hd => ?_, ?_, ?_, rfl, rfl, rfl⟩
  · rw [State.bank_updBank_self, hself]
  · rw [State.bank_updBank_self, hothers d hd]
  · rw [State.bank_updBank_self, hseqs]
  · rw [State.qtr_updBank_self]

theorem ChanIs.trans {x y : ChanState} {t u : State} (a : ChanIs q ls c x s t) (b : ChanIs q ls c y t u) : ChanIs q ls c y s u :=
  ⟨b.self, fun d hd => (b.others d hd).trans (a.others d hd), b.seqs.trans a.seqs, b.badMode.trans a.badMode, b.hbm.trans a.hbm,
    b.regs.trans a.regs, b.host.trans a.host⟩

/-- A change to the mode that the channel has is over at once. -/
theorem State.startMode_same (h : (s.bank q ls).mode.fetch c 0 = v) :
    s.startMode q ls c v = s.updBank q ls fun B => { B with pendFrom := B.pendFrom.del c } :=
  if_pos h

/-- The start of a change that is not one to MEM. -/
theorem ChanIs.startMode (hv : v = 0 → (s.bank q ls).mode.fetch c 0 = 0) :
    ChanIs q ls c (((s.bank q ls).chan c).change v) s (s.startMode q ls c v) := by
  by_cases hsame : (s.bank q ls).mode.fetch c 0 = v
  · rw [State.startMode_same hsame]
    refine .updBank ?_ (fun d hd => ?_) rfl
    · simp [BscStack.chan, ChanState.change, hsame, Tab.look_del_self]
    · simp [BscStack.chan, Tab.look_del_ne _ _ _ hd]
  · have hv0 : v ≠ 0 := fun h0 => hsame ((hv h0).trans h0.symm)
    have hset : ChanIs q ls c (((s.bank q ls).chan c).change v) s (s.updBank q ls fun B => { B with
        mode := B.mode.put c v
        pendFrom := if (s.bank q ls).mode.fetch c 0 = 0 ∧ v = 1 then B.pendFrom.del c
          else B.pendFrom.put c ((s.bank q ls).mode.fetch c 0) }) := by
      refine .updBank ?_ (fun d hd => ?_) rfl
      · by_cases h1 : (s.bank q ls).mode.fetch c 0 = 0 ∧ v = 1
        · simp [BscStack.chan, ChanState.change, h1, Tab.look_del_self]
        · simp [BscStack.chan, ChanState.change, h1, Ne.symm hsame, Tab.look_put_self]
      · by_cases h1 : (s.bank q ls).mode.fetch c 0 = 0 ∧ v = 1
        · simp [BscStack.chan, h1, Tab.look_del_ne _ _ _ hd, Tab.fetch_put_ne _ _ _ _ _ hd]
        · simp [BscStack.chan, h1, Tab.look_put_ne _ _ _ _ hd, Tab.fetch_put_ne _ _ _ _ _ hd]
    unfold State.startMode
    dsimp only
    rw [if_neg hsame, if_neg hv0]
    split
    · exact hset.trans (.updBank hset.self (fun _ _ => rfl) rfl)
    · exact hset

/-- A write of a code other than 3 that does not begin a change to MEM. -/
theorem ChanIs.chanMode (h3 : v ≠ 3)
    (hv : v = 0 → (s.bank q ls).mode.fetch c 0 = 0 ∨ ((s.bank q ls).pendFrom.look c).isSome = true) :
    ChanIs q ls c (((s.bank q ls).chan c).write v) s (s.chanMode q ls c v) := by
  have hwant : ChanIs q ls c { (s.bank q ls).chan c with want := some v } s
      (s.updBank q ls fun B => { B with want := B.want.put c v }) := by
    refine .updBank ?_ (fun d hd => ?_) rfl
    · simp [BscStack.chan, Tab.look_put_self]
    · simp [BscStack.chan, Tab.look_put_ne _ _ _ _ hd]
  unfold State.chanMode
  rw [if_neg h3]
  dsimp only
  rw [State.bank_updBank_self]
  by_cases hp : ((s.bank q ls).pendFrom.look c).isSome = true
  · rw [if_pos hp, ChanState.write_of_pending (x := (s.bank q ls).chan c) hp]
    exact hwant
  · rw [if_neg hp, ChanState.write_of_settled (x := (s.bank q ls).chan c) hp, ← hwant.self]
    refine hwant.trans (.startMode fun h0 => ?_)
    rw [State.bank_updBank_self]
    exact (hv h0).resolve_right hp

theorem State.chanMode_three : s.chanMode q ls c 3 = s.updBsc q fun b => { b with badMode := true } := rfl

end Modes

/-! ### A write of sixteen channel modes (R149, R150) -/

/-- The first `n` codes of a write that begins with channel `lo` have been taken, code 3 only by BAD_MODE. -/
structure ModesWritten (q ls lo : Nat) (code : Nat → Nat) (n : Nat) (s t : State) : Prop where
  chan : ∀ i, (t.bank q ls).chan (i + lo) =
    if i < n ∧ code i ≠ 3 then ((s.bank q ls).chan (i + lo)).write (code i) else (s.bank q ls).chan (i + lo)
  badMode : (t.qtr q).bsc.badMode = true ↔ (s.qtr q).bsc.badMode = true ∨ ∃ i, i < n ∧ code i = 3
  seqs : (t.bank q ls).seqs = (s.bank q ls).seqs
  hbm : t.hbm = s.hbm
  regs : t.regs = s.regs
  host : t.host = s.host

section Write
variable {s t : State} {q ls lo n : Nat} {code : Nat → Nat}

theorem ModesWritten.zero (q ls lo : Nat) (code : Nat → Nat) (s : State) : ModesWritten q ls lo code 0 s s :=
  ⟨fun i => by simp, by simp, rfl, rfl, rfl, rfl⟩

/-- The next code is 3. -/
theorem ModesWritten.bad (h : ModesWritten q ls lo code n s t) (h3 : code n = 3) :
    ModesWritten q ls lo code (n + 1) s (t.updBsc q fun b => { b with badMode := true }) := by
  have hbank : (t.updBsc q fun b => { b with badMode := true }).bank q ls = t.bank q ls := State.bank_updBsc _ _ _ rfl
  refine ⟨fun i => ?_, ?_, ?_, h.hbm, h.regs, h.host⟩
  · have hi : (i < n + 1 ∧ code i ≠ 3) ↔ (i < n ∧ code i ≠ 3) := by
      refine and_congr_left fun hne => ?_
      have : i ≠ n := fun e => hne (e ▸ h3)
      omega
    rw [hbank, h.chan]
    simp only [hi]
  · rw [State.qtr_updBsc_self]
    exact ⟨fun _ => .inr ⟨n, Nat.lt_succ_self n, h3⟩, fun _ => rfl⟩
  · rw [hbank, h.seqs]

/-- The next code is another one. -/
theorem ModesWritten.good (h : ModesWritten q ls lo code n s t) (h3 : code n ≠ 3) {u : State}
    (hu : ChanIs q ls (n + lo) (((s.bank q ls).chan (n + lo)).write (code n)) t u) : ModesWritten q ls lo code (n + 1) s u := by
  refine ⟨fun i => ?_, ?_, hu.seqs.trans h.seqs, hu.hbm.trans h.hbm, hu.regs.trans h.regs, hu.host.trans h.host⟩
  · by_cases hi : i = n
    · rw [hi, hu.self, if_pos ⟨Nat.lt_succ_self n, h3⟩]
    · have hlt : i < n + 1 ↔ i < n := by omega
      rw [hu.others _ (by omega), h.chan]
      simp only [hlt]
  · rw [hu.badMode, h.badMode]
    refine or_congr_right (exists_congr fun i => and_congr_left fun hi3 => ?_)
    have : i ≠ n := fun e => h3 (e ▸ hi3)
    omega

/-- Codes are taken one after the other, none of which begins a change to MEM. -/
theorem ModesWritten.foldl (n : Nat) (h : ∀ i, i < n → code i = 0 → (s.bank q ls).mode.fetch (i + lo) 0 = 0 ∨
      ((s.bank q ls).pendFrom.look (i + lo)).isSome = true) :
    ModesWritten q ls lo code n s ((List.range n).foldl (fun s i => s.chanMode q ls (i + lo) (code i)) s) := by
  induction n with
  | zero => exact .zero q ls lo code s
  | succ n ih =>
    have hn := ih fun i hi => h i (by omega)
    rw [List.range_succ, List.foldl_concat]
    by_cases h3 : code n = 3
    · rw [h3, State.chanMode_three]
      exact hn.bad h3
    · have hc := hn.chan n
      rw [if_neg (by omega)] at hc
      have hnext := h n (Nat.lt_succ_self n)
      obtain ⟨hmode, -, hpend⟩ := (ChanState.mk.injEq ..).mp hc
      rw [← hmode, ← hpend] at hnext
      refine hn.good h3 ?_
      rw [← hc]
      exact .chanMode h3 hnext

end Write

/-! ### The end of a change (Table 5-7) -/

/-- A pending change ends once no sequence is left on a channel that goes to MEM: what waits is served, and the mode wanted last is
taken up. -/
theorem modeChangeComplete_serves {s : State} {q ls c : Nat} (hp : ((s.bank q ls).pendFrom.look c).isSome = true)
    (hq : (s.bank q ls).mode.fetch c 0 = 0 → (s.bank q ls).queueOf (2 * c) = [] ∧ (s.bank q ls).queueOf (2 * c + 1) = []) :
    ∃ t, Served q ls s t ∧ modeChangeComplete s q ls c =
      (t.updBank q ls fun B => { B with pendFrom := B.pendFrom.del c }).startMode q ls c ((t.bank q ls).want.fetch c 0) := by
  obtain ⟨m, hm⟩ := Option.isSome_iff_exists.1 hp
  have hno : ¬ ((pchsOf c).any fun k => (s.bank q ls).mode.fetch c 0 = 0 ∧ (s.bank q ls).queueOf k ≠ []) = true := by
    simpa [pchsOf, imp_and] using hq
  unfold modeChangeComplete
  simp only [hm, if_neg hno, State.bank_updBank_self]
  refine ⟨_, List.foldlRecOn (motive := Served q ls s) _ _ (.refl q ls s) fun t ht k _ => ?_, rfl⟩
  split
  · exact ht.trans ⟨⟨_, _, _, State.bank_updBank_self _ _ _ _⟩, rfl, rfl, rfl⟩
  · split
    · exact ht.trans (.serve t q ls k _)
    · exact ht.trans (.serve t q ls k _)

/-- Settles O33: each code of a write changes its own channel, and a change that ends with nothing newer wanted only leaves the pending
state. -/
theorem channelModes : Obligations.ChannelModes := by
  unfold Obligations.ChannelModes
  intro s n q ls B hls
  refine ⟨fun hi v hoff => ?write, fun c hp hw hq => ?complete⟩
  case write =>
    intro c code hmem
    have hx : exec (.bscChmode n hi v) s = .next (bscChmode s q ls hi v.toNat) :=
      congrArg Host.Outcome.next ((if_neg (Nat.not_lt.2 hls)).trans (if_neg (Bool.eq_false_iff.1 hoff)))
    have ht : ModesWritten q ls (if hi then 16 else 0) code 16 s (bscChmode s q ls hi v.toNat) := .foldl 16 hmem
    have hgood : ∀ i, i < 16 → code i ≠ 3 →
        ((bscChmode s q ls hi v.toNat).bank q ls).chan (c i) = (B.chan (c i)).write (code i) :=
      fun i hlt h3 => (ht.chan i).trans (if_pos ⟨hlt, h3⟩)
    refine ⟨_, hx, ht.badMode, fun i hlt => ?_, fun i hlt h3 => ?_, fun i hlt h3 hp => ?_, ht.seqs, ht.hbm, ht.regs, ht.host⟩
    · by_cases h3 : code i = 3
      · rw [if_pos (.inl h3)]
        exact congrArg ChanState.mode ((ht.chan i).trans (if_neg fun h => h.2 h3))
      · simp only [h3, false_or]
        exact (congrArg ChanState.mode (hgood i hlt h3)).trans (ChanState.mode_write _ _)
    · exact (congrArg ChanState.want (hgood i hlt h3)).trans (ChanState.want_write _ _)
    · have hs : ¬ (B.chan (c i)).pendFrom.isSome = true := by simp [BscStack.chan, hp]
      have hc := hgood i hlt h3
      rw [ChanState.write_of_settled hs] at hc
      exact congrArg ChanState.pendFrom hc
  case complete =>
    obtain ⟨t, ht, hx⟩ := modeChangeComplete_serves hp hq
    obtain ⟨r, h, a, hbank⟩ := ht.bank
    rw [State.startMode_same] at hx
    · refine ⟨_, congrArg Host.Outcome.next ((if_pos hls).trans hx), ?_, ?_, ?_, ht.regs, ht.sec⟩
      · rw [State.bank_updBank_self]
        exact Tab.look_del_self _ _
      · rw [State.bank_updBank_self, State.bank_updBank_self, hbank]
      · rw [State.bank_updBank_self, State.bank_updBank_self, hbank]
    · rw [State.bank_updBank_self, hbank]
      exact hw.symm

/-! ### Built-in tests of a channel (R159, R160) -/

section Bist
variable {s : State} {q v : Nat}

@[simp] theorem State.qtr_setReg (s : State) (c p o v q : Nat) : (s.setReg c p o v).qtr q = s.qtr q := rfl

/-- The state with a value written to BSC_BIST_CTL. -/
def State.writeBistCtl (s : State) (q v : Nat) : State := s.setReg bBSC q 0x40 (w32 v &&& 0xFFFF00FF).toNat

/-- The channel that a write of BSC_BIST_CTL names can be tested as the write asks (R159). -/
def State.bistFree (s : State) (q v : Nat) : Prop :=
  (s.bank q (2 + v % 2)).mode.fetch (bits v 5 1) 0 = 0 ∧ (s.bank q (2 + v % 2)).pendFrom.look (bits v 5 1) = none ∧
    (s.qtr q).bsc.bistRunning = none ∧ (bits v 7 6 = 1 ∨ bits v 7 6 = 2)

theorem bscBistStart_of_free (hseq : bits v 31 16 ≠ bits (s.reg bBSC q 0x40) 31 16) (h : s.bistFree q v) :
    ∃ T, bscBistStart s q v = { (s.writeBistCtl q v).updBsc q fun b =>
      { b with bistRunning := some (2 + v % 2, bits v 5 1, bits v 7 6, bits v 31 16) } with stk := T } := by
  unfold State.bistFree at h
  unfold bscBistStart
  simp only [State.bank_setReg, State.qtr_setReg, if_neg hseq.symm, Option.isNone_iff_eq_none]
  rw [if_pos h]
  split
  · exact ⟨_, rfl⟩
  · exact ⟨_, rfl⟩

theorem bscBistStart_of_not_free (hseq : bits v 31 16 ≠ bits (s.reg bBSC q 0x40) 31 16) (h : ¬ s.bistFree q v) :
    bscBistStart s q v = (s.writeBistCtl q v).updBsc q fun b => { b with bistSeq := bits v 31 16, bistResult := 3 } := by
  unfold bscBistStart
  simp only [State.bank_setReg, State.qtr_setReg, if_neg hseq.symm, Option.isNone_iff_eq_none]
  exact if_neg h

/-- The state with the result of a test shown. -/
def State.bistEnds (s : State) (q ls no : Nat) (pass : Bool) (unit : Nat) : State :=
  (s.updBsc q fun b =>
    { b with bistRunning := none, bistSeq := no, bistResult := if pass then 1 else 2
             bistUnit := if pass then b.bistUnit else unit % 64 }).updStack (4 * q + ls) fun S => { S with bistBank := none }

theorem State.qtr_bistEnds (s : State) (q ls no : Nat) (pass : Bool) (unit : Nat) :
    (s.bistEnds q ls no pass unit).qtr q = { s.qtr q with bsc := { (s.qtr q).bsc with
      bistRunning := none, bistSeq := no, bistResult := if pass then 1 else 2
      bistUnit := if pass then (s.qtr q).bsc.bistUnit else unit % 64 } } := by
  unfold State.bistEnds
  rw [State.qtr_updStack, State.qtr_updBsc_self]

theorem State.bank_bistEnds (s : State) (q ls no : Nat) (pass : Bool) (unit : Nat) :
    (s.bistEnds q ls no pass unit).bank q ls = s.bank q ls := by
  unfold State.bistEnds
  rw [State.bank_updStack, State.bank_updBsc _ _ _ rfl]

/-- The stack with a channel barred from scoring. -/
def BscStack.bar (B : BscStack) (c : Nat) : BscStack :=
  { B with chFail := if B.chFail.contains c then B.chFail else B.chFail ++ [c] }

theorem BscStack.chFail_bar (B : BscStack) (c : Nat) : (B.bar c).chFail.contains c = true := by
  unfold BscStack.bar
  dsimp only
  split
  · assumption
  · simp

theorem bistComplete_passes {ls c kind no : Nat} (unit : Nat) (h : (s.qtr q).bsc.bistRunning = some (ls, c, kind, no)) :
    bistComplete s q true unit = s.bistEnds q ls no true unit := by
  unfold bistComplete
  rw [h]
  rfl

theorem bistComplete_fails {ls c no : Nat} (unit : Nat) (h : (s.qtr q).bsc.bistRunning = some (ls, c, 1, no)) :
    bistComplete s q false unit = (s.bistEnds q ls no false unit).updBank q ls fun B => B.bar c := by
  unfold bistComplete
  rw [h]
  rfl

end Bist

/-- Settles O34: a test starts or ends by the Quarter's own record of it, and a failed SCORER test bars its channel besides. -/
theorem builtInTests : Obligations.BuiltInTests := by
  unfold Obligations.BuiltInTests
  refine ⟨fun s q v hoff hseq => ?write, fun s q ls c kind no unit pass hrun hpass => ?complete⟩
  case write =>
    have hx : exec (.bscBistStart q v) s = .next (bscBistStart s q v.toNat) :=
      congrArg Host.Outcome.next (if_neg (Bool.eq_false_iff.1 hoff))
    refine ⟨fun hfree => ?_, fun hfree => ?_⟩
    · obtain ⟨T, ht⟩ := bscBistStart_of_free hseq hfree
      have hq := (s.writeBistCtl q v.toNat).qtr_updBsc_self q fun b =>
        { b with bistRunning := some (2 + v.toNat % 2, bits v.toNat 5 1, bits v.toNat 7 6, bits v.toNat 31 16) }
      exact ⟨_, hx.trans (congrArg _ ht), congrArg (fun Q => Q.bsc.bistRunning) hq, congrArg (fun Q => Q.bsc.bistSeq) hq, rfl, rfl⟩
    · have ht := bscBistStart_of_not_free hseq hfree
      refine ⟨_, hx.trans (congrArg _ ht), ?_, ?_, ?_, rfl, rfl, rfl⟩ <;> rw [State.qtr_updBsc_self]
      rfl
  case complete =>
    cases pass with
    | true =>
      have ht := bistComplete_passes unit hrun
      refine ⟨_, congrArg Host.Outcome.next ht, ?_, ?_, ?_, nofun, ?_, rfl, rfl, rfl⟩
      · rw [State.qtr_bistEnds]
      · rw [State.qtr_bistEnds]
      · rw [State.qtr_bistEnds]
      · rw [State.bank_bistEnds, Bool.not_true, Bool.or_false]
    | false =>
      obtain rfl : kind = 1 := hpass.resolve_left Bool.false_ne_true
      have ht := bistComplete_fails unit hrun
      refine ⟨_, congrArg Host.Outcome.next ht, ?_, ?_, ?_, fun _ => ?_, ?_, rfl, rfl, rfl⟩
      · rw [State.qtr_updBank_self, State.qtr_bistEnds]
      · rw [State.qtr_updBank_self, State.qtr_bistEnds]
      · rw [State.qtr_updBank_self, State.qtr_bistEnds]
      · rw [State.qtr_updBank_self, State.qtr_bistEnds]
        rfl
      · rw [State.bank_updBank_self, BscStack.chFail_bar, Bool.not_false, Bool.or_true]

end Sys2Proof.Machine
end

section
/-!
PROOFS. DMA descriptors and the engines that carry them: how they are queued, taken, moved, stopped, resumed and aborted (R176 to R183).
-/
namespace Sys2Proof

theorem Posts.eng {s t : Machine.State} (h : Posts s t) (q e : Nat) : t.eng q e = s.eng q e := by
  unfold Machine.State.eng; rw [h.qtr]

theorem Posts.hostMem {s t : Machine.State} (h : Posts s t) (f : Nat) : t.hostMem f = s.hostMem f := by
  unfold Machine.State.hostMem; rw [h.mem]

theorem Reports.eng {s t : Machine.State} (h : Reports s t) (q e : Nat) : t.eng q e = s.eng q e := by
  unfold Machine.State.eng; rw [h.qtr]

end Sys2Proof

namespace Sys2Proof.Machine

/-- No message has failed: nothing is left for a unit to act on. -/
theorem settle_of_no_errors {s : State} (h : s.unitErrs = []) : settle s = s := by
  have hn (n : Nat) : settleFrom n s = s := by
    cases n with
    | zero => rfl
    | succ n => unfold settleFrom; rw [h]
  exact hn _

/-! ### Reading a page store and its engines after a change -/

section Units
variable (s : State) (q e : Nat)

@[simp] theorem State.qtr_updStore_self (f : Store → Store) :
    (s.updStore q f).qtr q = { s.qtr q with store := f (s.qtr q).store } :=
  State.qtr_updQ_self _ _ _

/-- A change of the page store that leaves its engines alone. -/
theorem State.eng_updStore {f : Store → Store} (hf : (f (s.qtr q).store).engines = (s.qtr q).store.engines) :
    (s.updStore q f).eng q e = s.eng q e := by
  unfold State.eng
  rw [State.qtr_updStore_self, hf]

@[simp] theorem State.qtr_updEng_self (f : Engine → Engine) :
    (s.updEng q e f).qtr q =
      { s.qtr q with store := { (s.qtr q).store with engines := (s.qtr q).store.engines.amend e {} f } } :=
  State.qtr_updStore_self _ _ _

@[simp] theorem State.eng_updEng_self (f : Engine → Engine) : (s.updEng q e f).eng q e = f (s.eng q e) := by
  simp [State.eng]

theorem State.eng_updEng_ne {e i : Nat} (f : Engine → Engine) (h : i ≠ e) : (s.updEng q e f).eng q i = s.eng q i := by
  simp [State.eng, Tab.fetch_amend_ne i e _ _ f _ h]

variable (o : Origin) (op : Nat) (b : Bytes)

@[simp] theorem State.take_eng : (s.take o op b).2.eng q e = s.eng q e := by
  unfold State.eng; rw [State.take_qtr]

@[simp] theorem State.take_qOff : (s.take o op b).2.qOff q = s.qOff q := by
  unfold State.qOff; rw [State.take_qtr]

@[simp] theorem State.take_unitErrs : (s.take o op b).2.unitErrs = s.unitErrs := by
  obtain ⟨l, hl⟩ := s.take_changes_inbox o op b; rw [hl]

@[simp] theorem State.take_host : (s.take o op b).2.host = s.host := by
  obtain ⟨l, hl⟩ := s.take_changes_inbox o op b; rw [hl]

@[simp] theorem State.take_dmaFrame (d : Dma) : (s.take o op b).2.dmaFrame q d = s.dmaFrame q d := by
  obtain ⟨l, hl⟩ := s.take_changes_inbox o op b; rw [hl]; rfl

@[simp] theorem State.take_moveCheck (d : Dma) (spill : Bool) : (s.take o op b).2.moveCheck q d spill = s.moveCheck q d spill := by
  obtain ⟨l, hl⟩ := s.take_changes_inbox o op b; rw [hl]; rfl

end Units

/-! ### Submitting (R176, R178, R180) -/

section Submit
variable {s : State} {h : HostCmd} {q : Fin 4} {b : Bytes}

theorem exec_dmaCopy (hc : hostCheck s h 0x50 b = none) (hop : (dmaDesc h b).op = 0) :
    exec (.dmaCopy h q b) s = .next (dmaCopy (s.take (.host h) 0x50 b).2 h q b) := by
  have hb : byteAt b 0 % 16 = 0 := hop
  change execDmaCopy h q b s = _
  simp [execDmaCopy, hb, hc]

theorem exec_frameSpill (hc : hostCheck s h 0x50 b = none) (hop : (dmaDesc h b).op = 1) :
    exec (.frameSpill h q b) s = .next (frameSpill (s.take (.host h) 0x50 b).2 h q b) := by
  have hb : byteAt b 0 % 16 = 1 := hop
  change execFrameSpill h q b s = _
  simp [execFrameSpill, hb, hc]

theorem exec_frameFill (hc : hostCheck s h 0x50 b = none) (hop : (dmaDesc h b).op = 2) :
    exec (.frameFill h q b) s = .next (frameFill (s.take (.host h) 0x50 b).2 h q b) := by
  have hb : byteAt b 0 % 16 = 2 := hop
  change execFrameFill h q b s = _
  simp [execFrameFill, hb, hc]

theorem dmaCopy_of_reserved (hr : dmaReserved b = true) : dmaCopy s h q b = s.complete h sBAD := by
  unfold dmaCopy
  simp [hr]

theorem dmaCopy_of_good (hr : dmaReserved b = false) (hb : copyBad (dmaDesc h b) = false) (hoff : s.qOff q = false)
    (hin : ¬ (s.sec.conf = true ∧ (dmaDesc h b).srcKind = 0 ∧ frameChunks ((dmaDesc h b).src / 2 ^ 36 % 4) * 67108864 <
      (dmaDesc h b).src % 2 ^ 36 + (dmaDesc h b).length)) :
    dmaCopy s h q b = s.queueDma q (dmaDesc h b) := by
  unfold dmaCopy
  simp only [hr, hb, hoff, Bool.or_self, Bool.false_eq_true, if_false]
  exact if_neg hin

theorem frameSpill_of_good {e : DirEntry} {g : Seg} {fr : FrameRef} {sh : Shape} (hr : dmaReserved b = false)
    (hb : moveBad (dmaDesc h b) = false) (hoff : s.qOff q = false) (hm : s.moveCheck q (dmaDesc h b) true = none)
    (hf : s.dmaFrame q (dmaDesc h b) = some (e, g, fr, sh)) :
    frameSpill s h q b = s.queueDma q { dmaDesc h b with length := sh.frame, newStack := fr.stack, newAddr := fr.addr } := by
  unfold frameSpill
  simp [hr, hb, hoff, hm, hf]

/-- A FRAME_FILL is checked in the state in which a staged PST_ALLOC_CTL has taken effect (R178). -/
theorem frameFill_of_good {v : State} (hv : s.applyAt bPST q 4 = v) {e : DirEntry} {g : Seg} {fr : FrameRef} {sh : Shape}
    {ls a : Nat} {A : Tab Alloc} (hr : dmaReserved b = false) (hb : moveBad (dmaDesc h b) = false) (hoff : v.qOff q = false)
    (hm : v.moveCheck q (dmaDesc h b) false = none) (hf : v.dmaFrame q (dmaDesc h b) = some (e, g, fr, sh))
    (ht : takeFrame (v.qtr q).store.allocs ((stackOrder (dmaDesc h b).place (dmaDesc h b).frame
      (bit (v.reg bPST q 4) 4)).filter (v.stackEligible q)) sh.frame = some (ls, a, A)) :
    frameFill s h q b = (v.updStore q fun S => { S with allocs := A }).queueDma q
      { dmaDesc h b with length := sh.frame, newStack := ls, newAddr := a, spillOff := fr.addr / 256 } := by
  unfold frameFill
  simp [hv, hr, hb, hoff, hm, hf, ht]

end Submit

/-- Settles O35: a good descriptor passes the checks of its row one after the other, up to the queue; a reserved field fails the first. -/
theorem descriptorsAreQueued : Obligations.DescriptorsAreQueued := by
  unfold Obligations.DescriptorsAreQueued
  intro s h q b hc
  refine ⟨fun hop hr => ?reserved, fun hr hoff => ⟨fun hop hb hin => ?copy, fun e g fr sh hop hb hm hf => ?spill,
    fun e g fr sh ls a A hop hb hoffv hm hf ht => ?fill⟩⟩
  case reserved =>
    refine ⟨_, exec_dmaCopy hc hop, ?_⟩
    rw [dmaCopy_of_reserved hr]
    exact complete_answered _ h sBAD 0 []
  case copy =>
    rw [exec_dmaCopy hc hop, dmaCopy_of_good hr hb]
    · simpa using hoff
    · simpa using hin
  case spill =>
    rw [exec_frameSpill hc hop, frameSpill_of_good hr hb] <;> simpa
  case fill =>
    rw [exec_frameFill hc hop, frameFill_of_good rfl hr hb hoffv hm hf ht]

/-! ### What a transfer leaves alone (R182) -/

/-- Quarter q has in `t` the page store that it has in `s`, and the same messages have failed. -/
structure KeepsStore (q : Nat) (s t : State) : Prop where
  store : (t.qtr q).store = (s.qtr q).store
  unitErrs : t.unitErrs = s.unitErrs

namespace KeepsStore
variable {q : Nat} {s₀ s t : State}

theorem refl (q : Nat) (s : State) : KeepsStore q s s := ⟨rfl, rfl⟩

theorem posts (h : KeepsStore q s₀ s) (p : Posts s t) : KeepsStore q s₀ t := ⟨by rw [p.qtr, h.store], p.unitErrs.trans h.unitErrs⟩

theorem eng (h : KeepsStore q s t) (e : Nat) : t.eng q e = s.eng q e := by
  unfold State.eng; rw [h.store]

theorem updBank (h : KeepsStore q s₀ s) (ls : Nat) (f : BscStack → BscStack) : KeepsStore q s₀ (s.updBank q ls f) :=
  ⟨by rw [State.qtr_updBank_self, h.store], h.unitErrs⟩

theorem stackWrite (h : KeepsStore q s₀ s) (ls a n : Nat) (c : Mem) : KeepsStore q s₀ (s.stackWrite q ls a n c) := by
  have now : KeepsStore q s₀ { s with hbm := Mem.paste s.hbm (hbmAddr q ls a) n c } := ⟨h.store, h.unitErrs⟩
  unfold State.stackWrite
  dsimp only
  split
  case isTrue => exact now
  case isFalse =>
    split
    case isTrue => exact now
    case isFalse =>
      split
      case isTrue => exact h.updBank _ _
      case isFalse => exact (h.updBank _ _).posts ((Posts.refl _).countU _ _ _ _ _)

theorem copyImage (h : KeepsStore q s₀ s) (ls a n : Nat) : KeepsStore q s₀ (s.copyImage q ls a n).2 := by
  unfold State.copyImage
  split
  · exact ⟨h.store, h.unitErrs⟩
  · exact h

theorem hostPaste (h : KeepsStore q s₀ s) (f a n : Nat) (c : Mem) : KeepsStore q s₀ (s.hostPaste f a n c) :=
  ⟨h.store, h.unitErrs⟩

theorem dmaMove (h : KeepsStore q s₀ s) (d : Dma) (lo hi : Nat) : KeepsStore q s₀ (s.dmaMove q d lo hi) := by
  unfold State.dmaMove
  split
  case isTrue => exact h
  case isFalse =>
    dsimp only
    split
    case h_1 =>
      split
      · exact h
      · split
        · exact (h.copyImage _ _ _).hostPaste _ _ _ _
        · exact h.hostPaste _ _ _ _
    case h_2 =>
      split
      · exact h.hostPaste _ _ _ _
      · exact h
    case h_3 =>
      split
      · exact h.stackWrite _ _ _ _
      · exact h

theorem anyMove (h : KeepsStore q s₀ s) (d : Dma) (lo hi : Nat) : KeepsStore q s₀ (s.anyMove q d lo hi) := by
  unfold State.anyMove
  split
  · exact h
  · exact h.dmaMove _ _ _

end KeepsStore

/-! ### The end of a descriptor of software's (R181, R183) -/

section Software
variable {s : State} {q : Nat} {d : Dma} {h : HostCmd}

/-- A descriptor of software's is counted and reported, and then its command completes. -/
theorem State.dmaAnswer_completes (hu : d.user = .host h) (st : Nat) :
    ∃ w, Posts s w ∧ s.dmaAnswer q d st = w.complete h st := by
  have hp : Posts s (s.count bPST q 8) := (Posts.refl s).count _ _ _ _
  unfold State.dmaAnswer
  dsimp only
  rw [hu]
  dsimp only
  split
  · exact ⟨_, hp.post _ _, rfl⟩
  · exact ⟨_, hp, rfl⟩

/-- A COPY of software's has taken no frame that its failure would give back. -/
theorem State.dmaEndWith_of_copy (hu : d.user = .host h) (hop : d.op = 0) (st : Nat) :
    s.dmaEndWith q d st = s.dmaAnswer q d st := by
  unfold State.dmaEndWith State.dmaFail State.dropNewFrame
  simp [hu, hop]

/-- A COPY that does not go to the port completes OK with its last byte. -/
theorem State.dmaDone_of_copy (hop : d.op = 0) (hk : d.dstKind ≠ 3) : s.dmaDone q d = s.dmaAnswer q d sOK := by
  unfold State.dmaDone
  simp [hop, hk]

/-- A COPY from host to host touches no HBM, and so meets none of the faults that the state holds. -/
theorem State.anyStop_of_hostCopy (hu : d.user = .host h) (hop : d.op = 0) (hsrc : d.srcKind = 1) (hdst : d.dstKind = 1) (lo : Nat) :
    s.anyStop q d lo = none := by
  unfold State.anyStop State.dmaStop
  simp [hu, hop, hsrc, hdst, earlier]

/-- The bytes of a COPY from host to host, from an offset on, have reached their destination. -/
def State.moveHost (s : State) (d : Dma) (lo : Nat) : State :=
  s.hostPaste d.dstFn (d.dst + lo) (d.length - lo) (Mem.slice (s.hostMem d.srcFn) (d.src + lo) (d.length - lo))

theorem State.anyMove_of_hostCopy (hu : d.user = .host h) (hop : d.op = 0) (hsrc : d.srcKind = 1) (hdst : d.dstKind = 1) {lo : Nat}
    (hlt : lo < d.length) : s.anyMove q d lo d.bytes = s.moveHost d lo := by
  unfold State.anyMove State.dmaMove
  simp [hu, hop, hsrc, hdst, Dma.bytes, hlt, State.moveHost]

theorem State.hostMem_hostPaste_self (f a n : Nat) (c : Mem) : (s.hostPaste f a n c).hostMem f = Mem.paste (s.hostMem f) a n c := by
  simp [State.hostMem, State.hostPaste]

theorem State.hostMem_hostPaste_ne {f g : Nat} (a n : Nat) (c : Mem) (hne : g ≠ f) :
    (s.hostPaste f a n c).hostMem g = s.hostMem g := by
  simp [State.hostMem, State.hostPaste, Tab.fetch_amend_ne g f _ _ _ _ hne]

end Software

/-! ### The engines (R179, R182, R183) -/

section Engines
variable {s : State} {d : Dma}

/-- The engine takes a descriptor off the queue and runs it from its first byte. -/
def State.startEng (s : State) (q e : Nat) (d : Dma) : State :=
  (s.updStore q fun S => { S with dmaQueue := dropFirst (fun x => x == d) S.dmaQueue }).updEng q e fun E =>
    { E with state := .running, desc := some d, done := 0 }

theorem dmaEngineStart_of_copy {q e : Nat} (hi : (s.eng q e).state = .idle) (hoff : s.qOff q = false)
    (hd : (s.qtr q).store.dmaQueue.find? (fun d => e < 3 || d.own) = some d) (hop : d.op = 0) :
    dmaEngineStart s q e = s.startEng q e d := by
  unfold dmaEngineStart
  simp only [hi, hoff, hd, hop]
  rfl

theorem exec_dmaTransferEnd {q e : Fin 4} (hr : (s.eng q e).state = .running) (hd : (s.eng q e).desc = some d)
    (hb : copyBeyond d = false) : exec (.dmaTransferEnd q e) s = .next (settle (dmaTransferEnd s q e)) := by
  change execDmaTransferEnd q e s = _
  simp [execDmaTransferEnd, hr, hd, hb]

/-- A COPY from host to host moves to its end, frees its engine and completes OK. -/
theorem dmaTransferEnd_of_hostCopy {q e : Nat} {h : HostCmd} (hr : (s.eng q e).state = .running) (hd : (s.eng q e).desc = some d)
    (hu : d.user = .host h) (hop : d.op = 0) (hsrc : d.srcKind = 1) (hdst : d.dstKind = 1) (hlt : (s.eng q e).done < d.length) :
    dmaTransferEnd s q e = ((s.moveHost d (s.eng q e).done).freeEng q e).dmaAnswer q d sOK := by
  have hs := State.anyStop_of_hostCopy (s := s) (q := q) hu hop hsrc hdst (s.eng q e).done
  have hm := State.anyMove_of_hostCopy (s := s) (q := q) hu hop hsrc hdst hlt
  have hk : d.dstKind ≠ 3 := by omega
  unfold dmaTransferEnd
  simp only [hr, hd, hs, hu, hm, State.dmaDone_of_copy hop hk]

/-- A fault from outside that is the first one stops the engine there. -/
theorem dmaFault_stops {q e cls off addr : Nat} {dst : Bool} (hr : (s.eng q e).state = .running) (hd : (s.eng q e).desc = some d)
    (hc0 : 0 < cls) (hc6 : cls < 6) (hlo : (s.eng q e).done ≤ off) (hhi : off < d.bytes)
    (hs : s.anyStop q d (s.eng q e).done = none) :
    dmaFault s q e cls off dst addr = s.stopAt q e d (s.eng q e).done { off := off, cls := cls, dst := dst, addr := addr } := by
  have hin : ¬ (cls = 0 ∨ cls ≥ 6 ∨ off < (s.eng q e).done ∨ d.bytes ≤ off) := by omega
  unfold dmaFault
  simp only [hr, hd, hs]
  exact if_neg hin

/-- The record of a stop at which an engine does not wait (Table 6-18). -/
def Engine.faultedAt (E : Engine) (d : Dma) (x : DmaStop) : Engine :=
  { E with state := .faulted, done := x.off, faultOffset := x.off, cls := x.cls, dstSide := x.dst, tag := d.tag, addr := x.addr }

/-- A stop without AUTO_RESUME: the bytes below it have moved, and the engine holds the record. -/
theorem State.stopAt_faults {q e lo : Nat} (x : DmaStop) (ha : d.autoResume = false) :
    Posts ((s.anyMove q d lo x.off).updEng q e fun E => E.faultedAt d x) (s.stopAt q e d lo x) := by
  unfold State.stopAt State.engStop
  simp only [ha, Bool.false_and, Bool.false_eq_true, if_false]
  exact ((Posts.refl _).count _ _ _ _).post _ _

theorem exec_dmaResume {h : HostCmd} {q e : Fin 4} {tag : Nat} (hc : hostCheck s h 0x48 (engParam e tag) = none) :
    exec (.dmaResume h q e tag) s = .next (dmaResume (s.take (.host h) 0x48 (engParam e tag)).2 h q e tag) := by
  change execDmaResume h q e tag s = _
  simp [execDmaResume, hc]

theorem exec_dmaAbort {h : HostCmd} {q e : Fin 4} {tag : Nat} (hc : hostCheck s h 0x49 (engParam e tag) = none) :
    exec (.dmaAbort h q e tag) s = .next (settle (dmaAbort (s.take (.host h) 0x49 (engParam e tag)).2 h q e tag)) := by
  change execDmaAbort h q e tag s = _
  simp [execDmaAbort, hc]

variable {h : HostCmd} {q e tag : Nat}

theorem dmaResume_conflicts (hoff : s.qOff q = false) (hn : (s.eng q e).state ≠ .faulted ∨ (s.eng q e).tag ≠ tag) :
    dmaResume s h q e tag = s.complete h sCONFLICT := by
  unfold dmaResume
  rw [hoff]
  exact if_pos hn

theorem dmaResume_goes_on (hoff : s.qOff q = false) (hf : (s.eng q e).state = .faulted) (ht : (s.eng q e).tag = tag) :
    dmaResume s h q e tag = (s.resumeEng q e).complete h sOK := by
  unfold dmaResume
  simp [hoff, hf, ht]

theorem dmaAbort_ends (hoff : s.qOff q = false) (hf : (s.eng q e).state = .faulted) (ht : (s.eng q e).tag = tag)
    (hd : (s.eng q e).desc = some d) :
    dmaAbort s h q e tag = ((s.freeEng q e).dmaEndWith q d (clsStatus (s.eng q e).cls)).complete h sOK := by
  unfold dmaAbort
  simp [hoff, hf, ht, hd]

theorem State.resumeEng_posts (s : State) (q e : Nat) :
    Posts (s.updEng q e fun E => { E with state := .running }) (s.resumeEng q e) := (Posts.refl _).count _ _ _ _

end Engines

/-- Settles O36, clause by clause: an engine's own record says what it does, and a descriptor of software's ends by posts and a
completion. -/
theorem enginesMoveAndStop : Obligations.EnginesMoveAndStop := by
  unfold Obligations.EnginesMoveAndStop
  intro s q e d
  refine ⟨fun hi hoff hd hop => ?start, fun h hr hd hu hop hsrc hdst herr hlt => ?move,
    fun cls off addr dst hr hd herr hc0 hc6 hlo hhi hs ha => ?fault, fun h tag hc hoff => ⟨fun hn => ?conflict, fun hf ht => ?resume⟩,
    fun h h' tag hc hoff hf ht hd hu hop herr => ?abort⟩
  case start =>
    have hx : exec (.dmaEngineStart q e) s = .next (s.startEng q e d) :=
      congrArg Host.Outcome.next (dmaEngineStart_of_copy hi hoff hd hop)
    refine ⟨s.startEng q e d, hx, ?_, ?_, ?_, ?_, fun i hne => ?_, rfl, rfl⟩
    · rw [State.startEng, State.eng_updEng_self]
    · rw [State.startEng, State.eng_updEng_self]
    · rw [State.startEng, State.eng_updEng_self]
    · rw [State.startEng, State.qtr_updEng_self, State.qtr_updStore_self]
    · rw [State.startEng, State.eng_updEng_ne _ _ _ hne]
      exact State.eng_updStore _ _ _ rfl
  case move =>
    have hx := exec_dmaTransferEnd hr hd (by simp [copyBeyond, hsrc])
    rw [dmaTransferEnd_of_hostCopy hr hd hu hop hsrc hdst hlt] at hx
    obtain ⟨w, hw, hdone⟩ :=
      State.dmaAnswer_completes (q := q) (s := (s.moveHost d (s.eng q e).done).freeEng q e) hu sOK
    have ha := complete_answered w h sOK 0 []
    rw [hdone, settle_of_no_errors ((ha.1.unitErrs.trans hw.unitErrs).trans herr)] at hx
    have heng := (ha.1.eng q e).trans ((hw.eng q e).trans (State.eng_updEng_self _ _ _ _))
    refine ⟨_, w, hx, by rw [heng], by rw [heng], ?_, fun f hne => ?_, hw.hbm, ha⟩
    · exact (hw.hostMem _).trans (State.hostMem_hostPaste_self _ _ _ _)
    · exact (hw.hostMem f).trans (State.hostMem_hostPaste_ne _ _ _ hne)
  case fault =>
    have hx : exec (.dmaFault q e cls off dst addr) s = .next (settle (dmaFault s q e cls off dst addr)) := rfl
    have hk := (KeepsStore.refl q s).anyMove d (s.eng q e).done off
    have hp := State.stopAt_faults (s := s) (q := q) (e := e) (lo := (s.eng q e).done)
      { off := off, cls := cls, dst := dst, addr := addr } ha
    rw [dmaFault_stops hr hd hc0 hc6 hlo hhi hs, settle_of_no_errors ((hp.unitErrs.trans hk.unitErrs).trans herr)] at hx
    refine ⟨_, hx, ?_, fun i hne => ?_⟩
    · rw [hp.eng, State.eng_updEng_self, hk.eng, Engine.faultedAt, hd]
    · rw [hp.eng, State.eng_updEng_ne _ _ _ hne, hk.eng]
  case conflict =>
    refine ⟨_, exec_dmaResume hc, ?_⟩
    rw [dmaResume_conflicts (by simpa using hoff) (by simpa using hn)]
    exact complete_answered _ h sCONFLICT 0 []
  case resume =>
    have hx := exec_dmaResume (q := q) hc
    rw [dmaResume_goes_on (by simpa using hoff) (by simpa using hf) (by simpa using ht)] at hx
    have hp := (s.take (.host h) 0x48 (engParam e tag)).2.resumeEng_posts q e
    have ha := complete_answered ((s.take (.host h) 0x48 (engParam e tag)).2.resumeEng q e) h sOK 0 []
    refine ⟨_, _, hx, ha, ?_, ?_, fun i hne => ?_⟩
    · rw [hp.mem]
      exact congrArg HostIf.mem (State.take_host s _ _ _)
    · rw [ha.1.eng, hp.eng, State.eng_updEng_self, State.take_eng]
    · rw [ha.1.eng, hp.eng, State.eng_updEng_ne _ _ _ hne, State.take_eng]
  case abort =>
    have hx := exec_dmaAbort (q := q) hc
    rw [dmaAbort_ends (by simpa using hoff) (by simpa using hf) (by simpa using ht) (by simpa using hd),
      State.dmaEndWith_of_copy hu hop, State.take_eng] at hx
    obtain ⟨w, hw, hend⟩ := State.dmaAnswer_completes (q := q)
      (s := (s.take (.host h) 0x49 (engParam e tag)).2.freeEng q e) hu (clsStatus (s.eng q e).cls)
    have hv := complete_answered w h' (clsStatus (s.eng q e).cls) 0 []
    have ha := complete_answered (w.complete h' (clsStatus (s.eng q e).cls)) h sOK 0 []
    have herr' : (s.take (.host h) 0x49 (engParam e tag)).2.unitErrs = [] := by simpa using herr
    rw [hend, settle_of_no_errors (((ha.1.unitErrs.trans hv.1.unitErrs).trans hw.unitErrs).trans herr')] at hx
    have heng := fun i => (ha.1.eng q i).trans ((hv.1.eng q i).trans (hw.eng q i))
    refine ⟨_, _, w, hx, hv, ha, ?_, ?_, ?_, fun i hne => ?_⟩
    · rw [hw.mem]
      exact congrArg HostIf.mem (State.take_host s _ _ _)
    · rw [heng, State.freeEng, State.eng_updEng_self]
    · rw [heng, State.freeEng, State.eng_updEng_self]
    · rw [heng, State.freeEng, State.eng_updEng_ne _ _ _ hne, State.take_eng]

end Sys2Proof.Machine
end

section
/-!
PROOFS. Frames that are scrubbed, the Host Spill Map window, and the end of a NOT_READY condition (R167, R173, R184, R185, Table 6-16).
-/
namespace Sys2Proof.Machine

/-! ### Scrubbed frames (R167) -/

section Scrub
variable {s : State} {n addr : Nat} {r : Release}

/-- The state once a released frame has been zeroed and has gone back to its free list, before it is counted. -/
def State.scrubFrame (s : State) (n addr : Nat) (r : Release) : State :=
  let s := { s with hbm := Mem.clear s.hbm (hbmAddr (n / 4) (n % 4) addr) r.size }
  let s := s.updStack n fun S => { S with uncorrectable := S.uncorrectable.filter fun x => !(addr ≤ x && x < addr + r.size) }
  s.updStore (n / 4) fun S => { S with
    releases := S.releases.filter fun x => !(x.stack == n % 4 && x.addr == addr)
    allocs := S.allocs.amend (n % 4) {} fun a => a.give addr }

theorem frameScrubDone_of_unnamed
    (hr : (s.qtr (n / 4)).store.releases.find? (fun r => r.stack == n % 4 && r.addr == addr) = some r)
    (hn : s.frameNamed (n / 4) (n % 4) addr r.size = false)
    (hc : ((s.qtr (n / 4)).pcd.coders.any fun c => c.2.key == some r.key && c.2.holding) = false) :
    frameScrubDone s n addr = (s.scrubFrame n addr r).count bPST (n / 4) 3 := by
  unfold frameScrubDone
  simp only [hr, hn, hc]
  rfl

theorem State.store_scrubFrame (s : State) (n addr : Nat) (r : Release) :
    ((s.scrubFrame n addr r).qtr (n / 4)).store =
      { (s.qtr (n / 4)).store with
        releases := (s.qtr (n / 4)).store.releases.filter fun x => !(x.stack == n % 4 && x.addr == addr)
        allocs := (s.qtr (n / 4)).store.allocs.amend (n % 4) {} fun a => a.give addr } := by
  rw [State.scrubFrame, State.qtr_updStore_self]
  rfl

/-- A frame that has been given back is not in use. -/
theorem Alloc.used_give (a : Alloc) (p : Nat) : (a.give p).used.look p = none := Tab.look_del_self _ _

end Scrub

/-! ### The Host Spill Map window (R173, Table 6-16) -/

theorem exec_hsmWrite {s : State} {q : Fin 4} (hoff : s.qOff q = false) : exec (.hsmWrite q) s = .next (hsmPut s q) :=
  congrArg Host.Outcome.next (if_neg (by simp [hoff]))

theorem exec_hsmRead {s : State} {q : Fin 4} (hoff : s.qOff q = false) : exec (.hsmRead q) s = .next (hsmGet s q) :=
  congrArg Host.Outcome.next (if_neg (by simp [hoff]))

/-- After a READ the data words together hold the entry that ENTRY names. -/
theorem hsmGet_data (s : State) (q : Nat) :
    (hsmGet s q).reg bPST q 0x204 + (hsmGet s q).reg bPST q 0x208 * 2 ^ 32 =
      ((s.qtr q).store.hsm.fetch (s.reg bPST q 0x200 % 32768) 0).toNat := by
  have hv := ((s.qtr q).store.hsm.fetch (s.reg bPST q 0x200 % 32768) 0).isLt
  have hne : blockBase bPST q + 0x204 ≠ blockBase bPST q + 0x208 := by omega
  unfold hsmGet
  rw [State.reg_setReg_self, State.reg_setReg_ne _ _ _ _ _ _ _ _ hne, State.reg_setReg_self]
  omega

/-! ### The end of a NOT_READY condition (R184, R185) -/

section Waiting
variable {s : State} {q e : Nat} {d : Dma}

/-- An engine that waited and meets no fault resumes. -/
theorem State.wakeEngine_of_no_stop (hw : (s.eng q e).state = .waitReady) (hd : (s.eng q e).desc = some d)
    (hs : s.anyStop q d (s.eng q e).done = none) : s.wakeEngine q e = s.resumeEng q e := by
  unfold State.wakeEngine
  simp only [hw, hd, hs]

theorem State.eng_resumeEng_self (s : State) (q e : Nat) : (s.resumeEng q e).eng q e = { s.eng q e with state := .running } := by
  rw [(s.resumeEng_posts q e).eng, State.eng_updEng_self]

theorem State.eng_resumeEng_ne (s : State) (q : Nat) {e i : Nat} (h : i ≠ e) : (s.resumeEng q e).eng q i = s.eng q i := by
  rw [(s.resumeEng_posts q e).eng, State.eng_updEng_ne _ _ _ h]

/-- Where only one of the engines waits, waking the first `n` resumes that one as soon as its turn has come. -/
theorem State.wakeEngines_of_one (hw : s.wakeEngine q e = s.resumeEng q e) {n : Nat}
    (ho : ∀ i, i < n → i ≠ e → (s.eng q i).state ≠ .waitReady) :
    (List.range n).foldl (fun s i => s.wakeEngine q i) s = if e < n then s.resumeEng q e else s := by
  induction n with
  | zero => rfl
  | succ n ih =>
    rw [List.range_succ, List.foldl_concat, ih fun i hi => ho i (by omega)]
    rcases Nat.lt_trichotomy e n with hlt | rfl | hgt
    · have hn : n ≠ e := by omega
      rw [if_pos hlt, if_pos (by omega), State.wakeEngine_of_not_waiting]
      rw [State.eng_resumeEng_ne _ _ hn]
      exact ho n (Nat.lt_succ_self n) hn
    · rw [if_neg (Nat.lt_irrefl e), if_pos (Nat.lt_succ_self e), hw]
    · rw [if_neg (by omega), if_neg (by omega), State.wakeEngine_of_not_waiting (ho n (Nat.lt_succ_self n) (by omega))]

/-- With no page and no operation left to wait, the condition's end lets engines, jobs and coders go on, and nothing else. -/
theorem notReadyEnd_of_no_pages {w : State} (hc : ∀ c ∈ (s.qtr q).store.cache, c.kind ≠ .writeback)
    (hw : (List.range 4).foldl (fun s i => s.wakeEngine q i) s = w) (hi : (w.qtr q).store.Idle) :
    ∃ f g, notReadyEnd s q = (w.updCore q f).updPcd q g := by
  have hn : ((s.qtr q).store.cache.filter fun e => e.kind == .writeback) = [] := by simpa using hc
  have hd : s.drainWriteback q = s := by
    unfold State.drainWriteback
    rw [hn]
    rfl
  unfold Machine.notReadyEnd
  dsimp only
  rw [hd, hw, State.recheckWaiting_of_idle]
  · exact ⟨_, _, rfl⟩
  · simpa [State.updPcd, State.wakeJobs, State.updCore] using hi

/-- What the end of a NOT_READY condition leaves of a Quarter in which only one engine waited: that engine runs, and its jobs and coders
may have gone on. -/
theorem notReadyEnd_resumes_one {s : State} {q e : Fin 4} (hw : s.wakeEngine q e = s.resumeEng q e)
    (ho : ∀ i : Fin 4, i ≠ e → (s.eng q i).state ≠ .waitReady) (hc : ∀ c ∈ (s.qtr q).store.cache, c.kind ≠ .writeback)
    (hh : ∀ h ∈ (s.qtr q).store.holds, h.inStore = false) :
    ∃ f g, notReadyEnd s q = ((s.resumeEng q e).updCore q f).updPcd q g := by
  have ho' (i : Nat) (hi : i < 4) (hne : i ≠ e) : (s.eng q i).state ≠ .waitReady :=
    ho ⟨i, hi⟩ fun h => hne (congrArg Fin.val h)
  have hq : (s.resumeEng q e).qtr q = _ := ((s.resumeEng_posts q e).qtr q).trans (State.qtr_updEng_self _ _ _ _)
  refine notReadyEnd_of_no_pages hc ((State.wakeEngines_of_one hw ho').trans (if_pos e.isLt)) ?_
  refine ⟨fun i => ?_, by rw [hq]; exact hc, by rw [hq]; exact hh⟩
  show ((s.resumeEng q e).eng q i).state ≠ .waitReady
  by_cases hne : i = e
  · rw [hne, State.eng_resumeEng_self]
    nofun
  · rw [State.eng_resumeEng_ne _ _ fun h => hne (Fin.ext h)]
    exact ho i hne

end Waiting

/-- Settles O37: a scrub and a WRITE by what they put into the page store, a READ by the two words that it sets, and the end of a condition
by the one engine that it lets run. -/
theorem framesAndSpillMap : Obligations.FramesAndSpillMap := by
  unfold Obligations.FramesAndSpillMap
  refine ⟨fun s n addr r => ?scrub, fun s q hoff => ⟨?write, ?read⟩, fun s q e d herr hw hd hs ho hc hh => ?wake⟩
  case scrub =>
    intro q ls hr hn hc
    have hp : Posts (s.scrubFrame n addr r) ((s.scrubFrame n addr r).count bPST q 3) := (Posts.refl _).count _ _ _ _
    have hst := (congrArg Quarter.store (hp.qtr q)).trans (s.store_scrubFrame n addr r)
    refine ⟨_, congrArg Host.Outcome.next (frameScrubDone_of_unnamed hr hn hc), hp.hbm, ?_, ?_, ?_, hp.sec⟩
    · rw [hst]
    · rw [hst, Tab.fetch_amend_self, Alloc.used_give]
    · rw [hst]
  case write =>
    refine ⟨_, exec_hsmWrite hoff, ?_, fun j hj => ?_, rfl, rfl⟩
    · rw [hsmPut, State.qtr_updStore_self, Tab.fetch_put_self]
    · rw [hsmPut, State.qtr_updStore_self, Tab.fetch_put_ne _ _ _ _ _ hj]
  case read => exact ⟨_, exec_hsmRead hoff, hsmGet_data s q, rfl, rfl⟩
  case wake =>
    obtain ⟨f, g, hx⟩ := notReadyEnd_resumes_one (State.wakeEngine_of_no_stop hw hd hs) ho hc hh
    have hp := s.resumeEng_posts q e
    have hu : (notReadyEnd s q).unitErrs = [] := by rw [hx]; exact hp.unitErrs.trans herr
    have hst : ((notReadyEnd s q).qtr q).store = ((s.resumeEng q e).qtr q).store := by
      rw [hx]
      simp [State.updPcd]
    have heng (i : Nat) : (notReadyEnd s q).eng q i = (s.resumeEng q e).eng q i := congrArg (fun S => S.engines.fetch i {}) hst
    refine ⟨notReadyEnd s q, congrArg Host.Outcome.next (settle_of_no_errors hu), ?_, fun i hne => ?_, ?_, ?_⟩
    · rw [heng, State.eng_resumeEng_self]
    · rw [heng, State.eng_resumeEng_ne _ _ fun h => hne (Fin.ext h)]
    · rw [hx]
      exact hp.hbm
    · rw [hx]
      simp [State.updPcd, hp.qtr]

end Sys2Proof.Machine
end

section
/-!
PROOFS. Tickets that move between the pools, and what becomes of them when a pool fails (R187 to R190).
-/
namespace Sys2Proof.Machine

/-! ### Handoff (R187, R188) -/

section Handoff
variable {s : State} {q k : Nat} {t : Ticket}

@[simp] theorem State.qtr_updTk_self (s : State) (q : Nat) (f : TkPool → TkPool) :
    (s.updTk q f).qtr q = { s.qtr q with tk := f (s.qtr q).tk } :=
  State.qtr_updQ_self _ _ _

/-- The pools once the ticket of a slot has been handed to the on-chip pool. -/
def TkPool.toChip (T : TkPool) (k : Nat) (t : Ticket) : TkPool :=
  { T with
    onChip := T.onChip.put k { t with epoch := (t.epoch + 1) % 65536, ownerSpill := false }
    spill := T.spill.put k { t with epoch := (t.epoch + 1) % 65536, ownerSpill := false, moved := true } }

/-- The pools once the ticket of a slot has been handed to the spill pool. -/
def TkPool.toSpill (T : TkPool) (k : Nat) (t : Ticket) : TkPool :=
  { T with
    onChip := T.onChip.del k
    spill := T.spill.put k { t with epoch := (t.epoch + 1) % 65536, ownerSpill := true } }

/-- A change of the pools, with the level checked again and a counter raised. -/
def State.handoff (s : State) (q : Nat) (f : TkPool → TkPool) (n : Nat) : State := ((s.updTk q f).tkLevel q).count bTKT q n

theorem ticketHandoff_toChip (hu : (s.qtr q).tk.inUse.contains k = true) (hc : (s.qtr q).tk.onChip.look k = none)
    (hs : (s.qtr q).tk.spill.look k = some t) (hm : t.moved = false) (hl : (s.qtr q).tk.onChip.length < 16384) :
    ticketHandoff s q k false = s.handoff q (fun T => T.toChip k t) 3 := by
  have hroom : ¬ (t.moved = true ∨ (s.qtr q).tk.onChip.length ≥ 16384) := by simp [hm, hl]
  unfold ticketHandoff
  simp only [hu, hc, hs, hroom, Bool.not_true, Bool.false_eq_true, if_false]
  rfl

theorem ticketHandoff_toSpill (hu : (s.qtr q).tk.inUse.contains k = true) (hc : (s.qtr q).tk.onChip.look k = some t)
    (hl : (s.qtr q).tk.spilling = true)
    (hf : (s.qtr q).tk.touched.find? (fun x => ((s.qtr q).tk.onChip.look x).isSome) = some k) :
    ticketHandoff s q k true = s.handoff q (fun T => T.toSpill k t) 2 := by
  unfold ticketHandoff
  simp only [hu, hc, hl, hf, Bool.not_true, Bool.false_eq_true, if_false, if_true, and_self]
  rfl

/-- A handoff changes the pools of its Quarter, and whether they are above their level. -/
theorem State.handoff_qtr (s : State) (q : Nat) (f : TkPool → TkPool) (n : Nat) :
    ∃ b, (s.handoff q f n).qtr q = { s.qtr q with tk := { f (s.qtr q).tk with spilling := b } } := by
  have hp : Posts ((s.updTk q f).tkLevel q) (s.handoff q f n) := (Posts.refl _).count _ _ _ _
  refine ⟨(((s.updTk q f).tkLevel q).qtr q).tk.spilling, ?_⟩
  rw [hp.qtr, State.tkLevel, State.qtr_updTk_self, State.qtr_updTk_self]

theorem State.handoff_hbm (s : State) (q : Nat) (f : TkPool → TkPool) (n : Nat) : (s.handoff q f n).hbm = s.hbm :=
  ((Posts.refl ((s.updTk q f).tkLevel q)).count _ _ _ _).hbm

end Handoff

/-! ### A pool that fails (R189, R190) -/

section Failure
variable {s : State} {q k : Nat}

theorem mem_insertUp_self (n : Nat) (l : List Nat) : n ∈ insertUp n l := by
  induction l with
  | nil => exact List.mem_singleton_self n
  | cons a l ih =>
    unfold insertUp
    split
    · exact List.mem_cons_self
    · split
      · rename_i h
        exact h ▸ List.mem_cons_self
      · exact List.mem_cons_of_mem _ ih

/-- The on-chip record of a ticket that the spill pool owns is lost: the spilled record stands. -/
def TkPool.keepSpilled (T : TkPool) (k : Nat) (b : Ticket) : TkPool := { T with onChip := T.onChip.del k, spill := T.spill.put k b }

/-- No record of a ticket can be read: its ID is an orphan. -/
def TkPool.orphan (T : TkPool) (k : Nat) : TkPool :=
  { T with onChip := T.onChip.del k, spill := T.spill.del k, orphans := insertUp k T.orphans }

theorem resolve_of_spill {b : Ticket} (ho : b.owns true = true) : resolve none (some b) = some b := if_pos ho

theorem State.resolveId_of_spill {b : Ticket} (hs : (s.qtr q).tk.spill.look k = some b) (ho : b.owns true = true) :
    s.resolveId q k true false false = (s.updTk q fun T => T.keepSpilled k b).count bTKT q 4 := by
  unfold State.resolveId
  simp only [if_true, Bool.false_eq_true, if_false, hs, resolve_of_spill ho]
  rfl

theorem State.resolveId_of_no_record (hs : (s.qtr q).tk.spill.look k = none) :
    s.resolveId q k true false false = (s.updTk q fun T => { T with onChip := T.onChip.del k, spill := T.spill.del k }).updTk q fun T =>
      { T with orphans := insertUp k T.orphans } := by
  unfold State.resolveId
  simp only [if_true, Bool.false_eq_true, if_false, hs]
  rfl

/-- Quarter q has the ticket pools `T`, no page is cached in any Quarter, and no message has failed. -/
structure State.Holds (s : State) (q : Nat) (T : TkPool) : Prop where
  tk : (s.qtr q).tk = T
  cache : ∀ i : Fin 4, (s.qtr i).store.cache = []
  unitErrs : s.unitErrs = []

variable {T : TkPool}

theorem State.Holds.posts {t : State} (h : s.Holds q T) (p : Posts s t) : t.Holds q T :=
  ⟨by rw [p.qtr, h.tk], fun i => by rw [p.qtr, h.cache], p.unitErrs.trans h.unitErrs⟩

theorem State.Holds.updTk (h : s.Holds q T) (f : TkPool → TkPool) : (s.updTk q f).Holds q (f T) := by
  refine ⟨by rw [State.qtr_updTk_self, h.tk], fun i => ?_, h.unitErrs⟩
  by_cases hi : (i : Nat) = q
  · rw [hi, State.qtr_updTk_self, ← hi]
    exact h.cache i
  · exact (congrArg (fun Q => Q.store.cache) (State.qtr_updQ_ne _ _ _ _ hi)).trans (h.cache i)

/-- With no page cached a sweep finds no held page to drop. -/
theorem State.sweepHeld_of_no_cache (h : (s.qtr k).store.cache = []) :
    s.sweepHeld k = s.updStore k fun S => { S with cache := [] } := by
  unfold State.sweepHeld
  simp only [h]
  rfl

theorem State.Holds.sweepHeld (h : s.Holds q T) (hk4 : k < 4) : (s.sweepHeld k).Holds q T := by
  have hc : (s.qtr k).store.cache = [] := h.cache ⟨k, hk4⟩
  rw [State.sweepHeld_of_no_cache hc]
  refine ⟨?_, fun i => ?_, h.unitErrs⟩
  · rcases eq_or_ne q k with rfl | hk
    · rw [State.qtr_updStore_self]
      exact h.tk
    · exact (congrArg Quarter.tk (State.qtr_updQ_ne _ _ _ _ hk)).trans h.tk
  · by_cases hi : (i : Nat) = k
    · rw [hi, State.qtr_updStore_self]
    · exact (congrArg (fun Q => Q.store.cache) (State.qtr_updQ_ne _ _ _ _ hi)).trans (h.cache i)

/-- The on-chip pool fails with one record lost, and everything else goes on: the outcome is that of its one ID. -/
theorem exec_poolFailure {q : Fin 4} (hoff : s.qOff q = false) (hu : (s.qtr q).tk.inUse.contains k = true)
    (hr : (s.resolveId q k true false false).Holds q T) :
    ∃ t, exec (.poolFailure q true [k] [] []) s = .next t ∧ (t.qtr q).tk = T := by
  have hf : poolFailure s q true [k] [] [] =
      [0, 1, 2, 3].foldl (fun s k => s.sweepHeld k) (s.resolveId q k true false false) := by
    unfold poolFailure
    rw [List.filter_cons_of_pos hu]
    rfl
  have hh : (poolFailure s q true [k] [] []).Holds q T := by
    rw [hf]
    refine List.foldlRecOn (motive := fun t : State => t.Holds q T) _ _ hr fun t ht i hi => ht.sweepHeld ?_
    have hi' : i = 0 ∨ i = 1 ∨ i = 2 ∨ i = 3 := by simpa using hi
    omega
  refine ⟨_, ?_, hh.tk⟩
  change execPoolFailure q true [k] [] [] s = _
  rw [execPoolFailure, hoff, if_neg Bool.false_ne_true, settle_of_no_errors hh.unitErrs]

end Failure

/-- Settles O38: a handoff by the records that it writes into the two pools, and a failed pool by how its one ID is resolved. -/
theorem ticketsMoveAndFail : Obligations.TicketsMoveAndFail := by
  unfold Obligations.TicketsMoveAndFail
  refine ⟨fun s q id t0 => ?moves, fun s q k hoff herr hu hcache => ⟨fun b hs ho => ?survives, fun hs => ?orphaned⟩⟩
  case moves =>
    intro T k hu
    refine ⟨fun hc hs hm hl => ?_, fun hc hl hf => ?_⟩
    · obtain ⟨b, hq⟩ := s.handoff_qtr q (fun T => T.toChip k t0) 3
      refine ⟨_, congrArg Host.Outcome.next (ticketHandoff_toChip hu hc hs hm hl), ?_, ?_, ?_, ?_, s.handoff_hbm _ _ _⟩ <;> rw [hq]
      · exact Tab.look_put_self _ _ _
      · exact Tab.look_put_self _ _ _
      · rfl
    · obtain ⟨b, hq⟩ := s.handoff_qtr q (fun T => T.toSpill k t0) 2
      refine ⟨_, congrArg Host.Outcome.next (ticketHandoff_toSpill hu hc hl hf), ?_, ?_, ?_, ?_, s.handoff_hbm _ _ _⟩ <;> rw [hq]
      · exact Tab.look_del_self _ _
      · exact Tab.look_put_self _ _ _
      · rfl
  case survives =>
    have h0 : s.Holds q (s.qtr q).tk := ⟨rfl, hcache, herr⟩
    obtain ⟨t, hx, htk⟩ := exec_poolFailure (T := (s.qtr q).tk.keepSpilled k b) hoff hu (by
      rw [State.resolveId_of_spill hs ho]
      exact (h0.updTk _).posts ((Posts.refl _).count _ _ _ _))
    refine ⟨t, hx, ?_, ?_, ?_⟩ <;> rw [htk]
    · exact Tab.look_del_self _ _
    · exact Tab.look_put_self _ _ _
    · rfl
  case orphaned =>
    have h0 : s.Holds q (s.qtr q).tk := ⟨rfl, hcache, herr⟩
    obtain ⟨t, hx, htk⟩ := exec_poolFailure (T := (s.qtr q).tk.orphan k) hoff hu (by
      rw [State.resolveId_of_no_record hs]
      exact (h0.updTk _).updTk _)
    refine ⟨t, hx, ?_, ?_⟩ <;> rw [htk]
    · exact Tab.look_del_self _ _
    · exact mem_insertUp_self _ _

end Sys2Proof.Machine
end

section
/-!
PROOFS. Coding tables: how a TABLE_LOAD takes its slots and ends, and how RELEASE gives slots back (R196 to R198).
-/
namespace Sys2Proof.Machine

/-! ### A change of the coding blocks of several Quarters -/

@[simp] theorem State.qtr_updPcd_self (s : State) (q : Nat) (f : Pcd → Pcd) :
    (s.updPcd q f).qtr q = { s.qtr q with pcd := f (s.qtr q).pcd } :=
  State.qtr_updQ_self _ _ _

/-- The coding block of each listed Quarter is changed, one Quarter after the other. -/
def State.eachPcd (s : State) (l : List Nat) (g : Pcd → Pcd) : State := l.foldl (fun s q => s.updPcd q g) s

theorem State.eachPcd_changes_quarters (s : State) (l : List Nat) (g : Pcd → Pcd) :
    ∃ T : Tab Quarter, s.eachPcd l g = { s with quarters := T } := by
  refine List.foldlRecOn (motive := fun t => ∃ T : Tab Quarter, t = { s with quarters := T }) l _ ⟨s.quarters, rfl⟩ ?_
  rintro _ ⟨T, rfl⟩ q -
  exact ⟨_, rfl⟩

section EachPcd
variable (s : State) (l : List Nat) (g : Pcd → Pcd)

@[simp] theorem State.eachPcd_host : (s.eachPcd l g).host = s.host := by
  obtain ⟨T, hT⟩ := s.eachPcd_changes_quarters l g; rw [hT]

@[simp] theorem State.eachPcd_sec : (s.eachPcd l g).sec = s.sec := by
  obtain ⟨T, hT⟩ := s.eachPcd_changes_quarters l g; rw [hT]

@[simp] theorem State.eachPcd_hbm : (s.eachPcd l g).hbm = s.hbm := by
  obtain ⟨T, hT⟩ := s.eachPcd_changes_quarters l g; rw [hT]

@[simp] theorem State.eachPcd_regs : (s.eachPcd l g).regs = s.regs := by
  obtain ⟨T, hT⟩ := s.eachPcd_changes_quarters l g; rw [hT]

@[simp] theorem State.eachPcd_loads : (s.eachPcd l g).loads = s.loads := by
  obtain ⟨T, hT⟩ := s.eachPcd_changes_quarters l g; rw [hT]

variable {s l g}

/-- A Quarter's coding block is changed as often as the list names the Quarter. -/
theorem State.qtr_eachPcd (q : Nat) :
    (s.eachPcd l g).qtr q = { s.qtr q with pcd := g^[l.count q] (s.qtr q).pcd } := by
  induction l generalizing s with
  | nil => rfl
  | cons p l ih =>
    refine (ih (s := s.updPcd p g)).trans ?_
    by_cases h : p = q
    · subst h
      rw [State.qtr_updPcd_self, List.count_cons_self, Function.iterate_succ_apply]
    · rw [State.updPcd, State.qtr_updQ_ne _ _ _ _ (Ne.symm h), List.count_cons_of_ne h]

theorem State.qtr_eachPcd_of_notMem {q : Nat} (h : q ∉ l) : (s.eachPcd l g).qtr q = s.qtr q := by
  rw [State.qtr_eachPcd, List.count_eq_zero_of_not_mem h]
  rfl

theorem State.pcd_eachPcd_of_mem {q : Nat} (hl : l.Nodup) (h : q ∈ l) : ((s.eachPcd l g).qtr q).pcd = g (s.qtr q).pcd := by
  rw [State.qtr_eachPcd, List.count_eq_one_of_mem hl h]
  rfl

end EachPcd

section Take
variable (s : State) (o : Origin) (op : Nat) (b : Bytes)

@[simp] theorem State.take_regs : (s.take o op b).2.regs = s.regs := by
  obtain ⟨l, hl⟩ := s.take_changes_inbox o op b; rw [hl]

@[simp] theorem State.take_loads : (s.take o op b).2.loads = s.loads := by
  obtain ⟨l, hl⟩ := s.take_changes_inbox o op b; rw [hl]

end Take

theorem maskQuarters_nodup (m : Nat) : (maskQuarters m).Nodup := List.nodup_range.filter _

/-- A table block that keeps its layout names a Quarter. -/
theorem maskQuarters_ne_nil {b : Bytes} (hb : tableBad b = false) : maskQuarters (byteAt b 2) ≠ [] := by
  have hm : ∀ m : Fin 16, m ≠ 0 → maskQuarters m ≠ [] := by decide
  have hb' : ((byteAt b 2 == 0) || (byteAt b 2 / 16 != 0)) = false := by
    unfold tableBad at hb
    simp only [Bool.or_eq_false_iff] at hb ⊢
    tauto
  simp only [Bool.or_eq_false_iff, beq_eq_false_iff_ne, bne_eq_false_iff_eq] at hb'
  obtain ⟨h0, h16⟩ := hb'
  exact hm ⟨byteAt b 2, by omega⟩ fun h => h0 (congrArg Fin.val h)

/-! ### TABLE_LOAD (R196, R197) -/

section Load
variable {s : State} {h : HostCmd} {b : Bytes}

/-- A table command that passes the rules of submission is carried out in the state that has taken it up. -/
theorem exec_tableLoad (hc : hostCheck s h 0x44 b = none) (hop : byteAt b 1 % 4 ≠ 1) :
    exec (.tableLoad h b) s = .next (tableLoad (s.take (.host h) 0x44 b).2 h b) := by
  change execTableLoad h b s = _
  simp only [execTableLoad, if_neg hop, hostCheck_take, hc]

theorem tableLoad_of_bad (hb : tableBad b = true) : tableLoad s h b = s.complete h sBAD := if_pos hb

/-- The slot that a LOAD with an identifier gives its table. -/
def TableSlot.ofBody (b : Bytes) (load : Nat) : TableSlot :=
  { id := byteAt b 0, tag := crc32c ((b.drop 8).take 128) % 256, state := .loading, role := bits (byteAt b 1) 3 2
    lengths := tableLengths ((b.drop 8).take 128), load := load }

/-- A coding block in which a table has taken a slot. -/
def Pcd.install (P : Pcd) (t : TableSlot) : Pcd := { P with slots := P.slots.put ((Tab.freeFrom P.slots 16 0).getD 0) t }

/-- The running load of a command. -/
def TableLoad.ofBody (h : HostCmd) (b : Bytes) (load : Nat) : TableLoad :=
  { id := load, host := h, quarters := maskQuarters (byteAt b 2), makeCurrent := bit (byteAt b 1) 4, tableId := byteAt b 0 }

/-- The state in which the named Quarters load a table. -/
def State.startLoad (s : State) (h : HostCmd) (b : Bytes) : State :=
  let v := s.fresh.2.eachPcd (maskQuarters (byteAt b 2)) fun P => P.install (.ofBody b s.nextId)
  { v with loads := v.loads ++ [.ofBody h b s.nextId] }

theorem tableLoad_of_new (hb : tableBad b = false) (hoff : (maskQuarters (byteAt b 2)).any s.qOff = false)
    (hnew : ∀ q ∈ maskQuarters (byteAt b 2), s.slotOf q (byteAt b 0) = none ∧ (s.qtr q).pcd.slots.length < 16) :
    tableLoad s h b = s.startLoad h b := by
  have hslots : (maskQuarters (byteAt b 2)).map (fun q => (q, s.slotOf q (byteAt b 0))) =
      (maskQuarters (byteAt b 2)).map fun q => (q, none) :=
    List.map_congr_left fun q hq => by rw [(hnew q hq).1]
  have hroom : ((maskQuarters (byteAt b 2)).any fun q => decide ((s.qtr q).pcd.slots.length ≥ 16)) = false :=
    List.any_eq_false.2 fun q hq => by simpa using (hnew q hq).2
  have hclash : ((maskQuarters (byteAt b 2)).any fun _ => false) = false := List.any_eq_false.2 fun _ _ => Bool.false_ne_true
  have hone : ((maskQuarters (byteAt b 2)).all fun _ => false) = false := by
    simpa using List.exists_mem_of_ne_nil _ (maskQuarters_ne_nil hb)
  unfold tableLoad
  dsimp only
  rw [hslots]
  simp only [List.any_map, List.all_map, List.foldl_map, Function.comp_def, hb, hoff, hclash, hroom, hone, Option.isSome_none,
    Bool.false_eq_true, if_false]
  rfl

/-- A table that has taken a slot of a block which had none of its number is the one that its number finds. -/
theorem Pcd.find?_install {P : Pcd} {t : TableSlot} (hnew : (P.slots.find? fun e => e.2.id == t.id) = none) :
    ∃ k, ((P.install t).slots.find? fun e => e.2.id == t.id) = some (k, t) := by
  have hold (e : Nat × TableSlot) (he : e ∈ (P.install t).slots) (hid : (e.2.id == t.id) = true) : e.2 = t := by
    rcases Tab.mem_put he with h | h
    · exact absurd hid (List.find?_eq_none.1 hnew e h)
    · rw [h]
  have hmem := Tab.look_mem (Tab.look_put_self ((Tab.freeFrom P.slots 16 0).getD 0) t P.slots)
  have hsome : ((P.install t).slots.find? fun e => e.2.id == t.id).isSome := List.find?_isSome.2 ⟨_, hmem, beq_self_eq_true t.id⟩
  obtain ⟨⟨k, u⟩, hu⟩ := Option.isSome_iff_exists.1 hsome
  have hid := List.find?_some hu
  obtain rfl : u = t := hold _ (List.mem_of_find?_eq_some hu) hid
  exact ⟨k, hu⟩

theorem State.slotOf_startLoad {q : Nat} (hq : q ∈ maskQuarters (byteAt b 2)) (hnew : s.slotOf q (byteAt b 0) = none) :
    ∃ k, (s.startLoad h b).slotOf q (byteAt b 0) = some (k, .ofBody b s.nextId) := by
  obtain ⟨k, hk⟩ := Pcd.find?_install (t := .ofBody b s.nextId) hnew
  have hpcd : ((s.startLoad h b).qtr q).pcd = (s.qtr q).pcd.install (.ofBody b s.nextId) :=
    State.pcd_eachPcd_of_mem (s := s.fresh.2) (maskQuarters_nodup _) hq
  exact ⟨k, by rw [State.slotOf, hpcd]; exact hk⟩

end Load

/-! ### TABLE_LOAD_COMPLETE (R197, R198) -/

section Complete
variable {s : State} {P : Pcd} {l : TableLoad} {id : Nat}

/-- A change of every slot that keeps the tables' numbers is a change of the slot that a number finds. -/
theorem Pcd.find?_mapSlots {f : TableSlot → TableSlot} (hf : ∀ t, (f t).id = t.id) (n : Nat) :
    ((P.mapSlots f).slots.find? fun e => e.2.id == n) = (P.slots.find? fun e => e.2.id == n).map fun e => (e.1, f e.2) := by
  simp only [Pcd.mapSlots, List.find?_map, Function.comp_def, hf]

/-- A slot once a load has reached LOADED. -/
def TableSlot.endLoad (id : Nat) (t : TableSlot) : TableSlot := if t.load = id ∧ t.state = .loading then { t with state := .loaded } else t

/-- A slot once a table has been made current for a role. -/
def TableSlot.makeCurrent (id role : Nat) (t : TableSlot) : TableSlot :=
  if t.id = id then { t with current := true } else if t.role = role then { t with current := false } else t

/-- A coding block once a load has reached LOADED. -/
def Pcd.endLoad (l : TableLoad) (id : Nat) (P : Pcd) : Pcd :=
  match (P.mapSlots (TableSlot.endLoad id)).slots.find? fun e => e.2.id == l.tableId && e.2.state == .loaded with
  | some e =>
    if l.makeCurrent then (P.mapSlots (TableSlot.endLoad id)).mapSlots (TableSlot.makeCurrent l.tableId e.2.role)
    else P.mapSlots (TableSlot.endLoad id)
  | none => P.mapSlots (TableSlot.endLoad id)

theorem tableLoadComplete_of_running (hl : s.loads.find? (fun l => l.id == id) = some l) :
    tableLoadComplete s id =
      ({ s with loads := s.loads.filter fun x => x.id != id }.eachPcd l.quarters (Pcd.endLoad l id)).complete l.host sOK := by
  unfold tableLoadComplete
  rw [hl]
  rfl

theorem TableSlot.endLoad_keeps (t : TableSlot) :
    (t.endLoad id).id = t.id ∧ (t.endLoad id).lengths = t.lengths ∧ (t.endLoad id).role = t.role := by
  unfold TableSlot.endLoad
  split <;> exact ⟨rfl, rfl, rfl⟩

theorem TableSlot.endLoad_loaded {t : TableSlot} (h : t.state = .loaded ∨ t.load = id ∧ t.state = .loading) :
    (t.endLoad id).state = .loaded := by
  unfold TableSlot.endLoad
  rcases h with h | h
  · simp [h]
  · rw [if_pos h]

theorem TableSlot.makeCurrent_id (n role : Nat) (t : TableSlot) : (t.makeCurrent n role).id = t.id := by
  unfold TableSlot.makeCurrent
  split
  · rfl
  · split <;> rfl

/-- After a table has been made current, no other table of the role is. -/
theorem TableSlot.current_makeCurrent {n role : Nat} {t : TableSlot} (hr : (t.makeCurrent n role).role = role)
    (hc : (t.makeCurrent n role).current = true) : t.id = n := by
  by_contra hn
  rw [TableSlot.makeCurrent, if_neg hn] at hr hc
  by_cases hrole : t.role = role
  · rw [if_pos hrole] at hc
    exact Bool.false_ne_true hc
  · rw [if_neg hrole] at hr
    exact hrole hr

/-- The table of a load is LOADED in a block, as slot `x` gave it, and is alone current for its role where the command asked for that. -/
def Pcd.Loaded (P : Pcd) (l : TableLoad) (x : TableSlot) : Prop :=
  ∃ y, (P.slots.find? fun e => e.2.id == l.tableId) = some y ∧ y.2.state = .loaded ∧ y.2.lengths = x.lengths ∧ y.2.role = x.role ∧
    (l.makeCurrent = true → y.2.current = true ∧ ∀ e ∈ P.slots, e.2.role = x.role → e.2.current = true → e.2.id = l.tableId)

/-- The first element that satisfies a test, if it satisfies another as well, is the first that satisfies both. -/
theorem find?_and_of_find? {α : Type} {p r : α → Bool} {l : List α} {a : α} (h : l.find? p = some a) (hr : r a = true) :
    l.find? (fun x => p x && r x) = some a := by
  rw [List.find?_eq_some_iff_append] at h ⊢
  obtain ⟨hp, as, bs, rfl, has⟩ := h
  exact ⟨by rw [hp, hr]; rfl, as, bs, rfl, fun x hx => by simp [has x hx]⟩

theorem Pcd.endLoad_loaded {x : Nat × TableSlot} (hx : (P.slots.find? fun e => e.2.id == l.tableId) = some x)
    (hs : x.2.state = .loaded ∨ x.2.load = id ∧ x.2.state = .loading) : (P.endLoad l id).Loaded l x.2 := by
  obtain ⟨hid, hlen, hrole⟩ := x.2.endLoad_keeps (id := id)
  have hfound : ((P.mapSlots (TableSlot.endLoad id)).slots.find? fun e => e.2.id == l.tableId) = some (x.1, x.2.endLoad id) := by
    rw [Pcd.find?_mapSlots fun t => t.endLoad_keeps.1, hx]
    rfl
  have hloaded := TableSlot.endLoad_loaded hs
  have hboth := find?_and_of_find? (r := fun e => e.2.state == .loaded) hfound (by simp [hloaded])
  unfold Pcd.endLoad
  rw [hboth]
  dsimp only
  split
  case isTrue hc =>
    have hself : (x.2.endLoad id).makeCurrent l.tableId (x.2.endLoad id).role = { x.2.endLoad id with current := true } :=
      if_pos (by simpa using List.find?_some hfound)
    refine ⟨(x.1, { x.2.endLoad id with current := true }), ?_, hloaded, hlen, hrole, fun _ => ⟨rfl, ?_⟩⟩
    · rw [Pcd.find?_mapSlots (TableSlot.makeCurrent_id _ _), hfound, ← hself]
      rfl
    · intro e he hr hcur
      obtain ⟨z, _, rfl⟩ := List.mem_map.1 he
      exact (TableSlot.makeCurrent_id _ _ _).trans (TableSlot.current_makeCurrent (hr.trans hrole.symm) hcur)
  case isFalse hc => exact ⟨_, hfound, hloaded, hlen, hrole, fun h => absurd h hc⟩

/-- Ending the load once more changes nothing of this. -/
theorem Pcd.Loaded.endLoad {x : TableSlot} (h : P.Loaded l x) : (P.endLoad l id).Loaded l x := by
  obtain ⟨y, hy, hloaded, hlen, hrole, -⟩ := h
  obtain ⟨z, hz, hzl, hzlen, hzrole, hzcur⟩ := Pcd.endLoad_loaded (id := id) hy (.inl hloaded)
  rw [hlen] at hzlen
  rw [hrole] at hzrole hzcur
  exact ⟨z, hz, hzl, hzlen, hzrole, hzcur⟩

theorem Pcd.iterate_endLoad_loaded {x : Nat × TableSlot} (hx : (P.slots.find? fun e => e.2.id == l.tableId) = some x)
    (hload : x.2.load = id) (hs : x.2.state = .loading) (n : Nat) : ((Pcd.endLoad l id)^[n + 1] P).Loaded l x.2 := by
  induction n with
  | zero => exact Pcd.endLoad_loaded hx (.inr ⟨hload, hs⟩)
  | succ n ih =>
    rw [Function.iterate_succ_apply']
    exact ih.endLoad

end Complete

/-! ### TABLE_RELEASE (R198) -/

section Release
variable {s : State} {h : HostCmd} {b : Bytes} {P : Pcd} {id : Nat} {e : Nat × TableSlot}

theorem exec_tableRelease (hc : hostCheck s h 0x44 b = none) (hop : byteAt b 1 % 4 = 1) :
    exec (.tableRelease h b) s = .next (tableRelease (s.take (.host h) 0x44 b).2 h b) := by
  change execTableRelease h b s = _
  simp only [execTableRelease, hop, hostCheck_take, hc, ne_eq, not_true_eq_false, if_false]

theorem tableRelease_of_bad (hb : tableBad b = true) : tableRelease s h b = s.complete h sBAD := if_pos hb

/-- A slot after the RELEASE of a table. -/
def TableSlot.release (id : Nat) (t : TableSlot) : TableSlot :=
  if t.id = id ∧ t.state = .loaded then { t with state := .releasing, current := false } else t

/-- A coding block after the RELEASE of a table. -/
def Pcd.release (id : Nat) (P : Pcd) : Pcd := Pcd.freeSlots (P.mapSlots (TableSlot.release id))

theorem tableRelease_of_good (hb : tableBad b = false) (hoff : (maskQuarters (byteAt b 2)).any s.qOff = false) :
    tableRelease s h b = (s.eachPcd (maskQuarters (byteAt b 2)) (Pcd.release (byteAt b 0))).complete h sOK := by
  unfold tableRelease
  simp only [hb, hoff, Bool.false_eq_true, if_false]
  rfl

/-- The slots after a RELEASE: the released ones, but for those that are RELEASING and no unit names. -/
theorem Pcd.mem_release : e ∈ (P.release id).slots ↔
    (∃ x ∈ P.slots, (x.1, x.2.release id) = e) ∧ ¬ (e.2.state = .releasing ∧ P.using e.2.id = 0) := by
  have hu : (P.mapSlots (TableSlot.release id)).using = P.using := rfl
  rw [Pcd.release, Pcd.freeSlots, List.mem_filter, hu, Pcd.mapSlots, List.mem_map]
  exact and_congr_right fun _ => by simp [imp_iff_not_or]

theorem TableSlot.release_not_loaded {t : TableSlot} (ht : (t.release id).id = id) : (t.release id).state ≠ .loaded := by
  unfold TableSlot.release at ht ⊢
  split
  case isTrue => nofun
  case isFalse hn =>
    rw [if_neg hn] at ht
    exact fun hl => hn ⟨ht, hl⟩

/-- A slot of another table that is not RELEASING stays as it is. -/
theorem Pcd.mem_release_of_ne (he : e ∈ P.slots) (hid : e.2.id ≠ id) (hs : e.2.state ≠ .releasing) : e ∈ (P.release id).slots :=
  Pcd.mem_release.2 ⟨⟨e, he, by rw [TableSlot.release, if_neg fun h => hid h.1]⟩, fun h => hs h.1⟩

theorem Pcd.release_not_loaded (he : e ∈ (P.release id).slots) (hid : e.2.id = id) : e.2.state ≠ .loaded := by
  obtain ⟨⟨x, _, rfl⟩, _⟩ := Pcd.mem_release.1 he
  exact TableSlot.release_not_loaded hid

/-- A table that no unit names leaves its slot. -/
theorem Pcd.release_frees (hu : P.using id = 0) (he : e ∈ (P.release id).slots) (hid : e.2.id = id) : e.2.state ≠ .releasing :=
  fun hs => (Pcd.mem_release.1 he).2 ⟨hs, by rw [hid, hu]⟩

/-- A table that some unit names keeps its slot, RELEASING. -/
theorem Pcd.mem_release_of_using (hu : P.using id ≠ 0) (he : e ∈ P.slots) (hid : e.2.id = id) (hs : e.2.state = .loaded) :
    (e.1, { e.2 with state := .releasing, current := false }) ∈ (P.release id).slots :=
  Pcd.mem_release.2 ⟨⟨e, he, by rw [TableSlot.release, if_pos ⟨hid, hs⟩]⟩, fun h => hu (by rw [← hid]; exact h.2)⟩

end Release

/-- Settles O39: a LOAD by the slot that it takes in each named Quarter, the end of a load by the slot that its number finds afterwards,
and a RELEASE by which slots stay. -/
theorem tablesLoadAndRelease : Obligations.TablesLoadAndRelease := by
  unfold Obligations.TablesLoadAndRelease
  refine ⟨fun s h b hc => ⟨fun hop hb => ?badLoad, fun hop hb => ?badRelease, fun hop hb hoff hnew => ?load,
    fun hop hb hoff => ?release⟩, fun s id l hl => ?complete⟩
  case badLoad =>
    refine ⟨_, exec_tableLoad hc hop, ?_⟩
    rw [tableLoad_of_bad hb]
    exact complete_answered _ h sBAD 0 []
  case badRelease =>
    refine ⟨_, exec_tableRelease hc hop, ?_⟩
    rw [tableRelease_of_bad hb]
    exact complete_answered _ h sBAD 0 []
  case load =>
    have hoff' : (maskQuarters (byteAt b 2)).any (s.take (.host h) 0x44 b).2.qOff = false := by simpa using hoff
    have hnew' : ∀ q ∈ maskQuarters (byteAt b 2), (s.take (.host h) 0x44 b).2.slotOf q (byteAt b 0) = none ∧
        ((s.take (.host h) 0x44 b).2.qtr q).pcd.slots.length < 16 := by simpa [State.slotOf] using hnew
    have hx := (exec_tableLoad hc hop).trans (congrArg Host.Outcome.next (tableLoad_of_new hb hoff' hnew'))
    refine ⟨_, .ofBody h b (s.take (.host h) 0x44 b).2.nextId, hx, ?_, rfl, rfl, rfl, rfl, fun q hq => ?_, fun q hq => ?_, ?_, ?_, ?_, ?_⟩
    · exact congrArg (· ++ _) ((State.eachPcd_loads _ _ _).trans (State.take_loads _ _ _ _))
    · obtain ⟨k, hk⟩ := State.slotOf_startLoad hq (hnew' q hq).1
      exact ⟨_, hk, rfl⟩
    · exact (State.qtr_eachPcd_of_notMem hq).trans (State.take_qtr _ _ _ _ _)
    · exact State.eachPcd_host _ _ _
    · exact (State.eachPcd_sec _ _ _).trans (State.take_sec _ _ _ _)
    · exact (State.eachPcd_hbm _ _ _).trans (State.take_hbm _ _ _ _)
    · exact (State.eachPcd_regs _ _ _).trans (State.take_regs _ _ _ _)
  case release =>
    have hoff' : (maskQuarters (byteAt b 2)).any (s.take (.host h) 0x44 b).2.qOff = false := by simpa using hoff
    have hx := (exec_tableRelease hc hop).trans (congrArg Host.Outcome.next (tableRelease_of_good hb hoff'))
    have hans := complete_answered ((s.take (.host h) 0x44 b).2.eachPcd (maskQuarters (byteAt b 2)) (Pcd.release (byteAt b 0))) h sOK 0 []
    refine ⟨_, _, hx, hans, ?_, ?_, ?_, fun q hq => ?_, fun q hq => ?_⟩
    · exact State.eachPcd_host _ _ _
    · rw [State.eachPcd_sec, State.take_sec]
    · rw [State.eachPcd_hbm, State.take_hbm]
    · rw [hans.1.qtr, State.qtr_eachPcd_of_notMem hq, State.take_qtr]
    · rw [hans.1.qtr, State.pcd_eachPcd_of_mem (maskQuarters_nodup _) hq, State.take_qtr]
      exact ⟨fun e he hid hs => Pcd.mem_release_of_ne he hid hs, fun e he hid => Pcd.release_not_loaded he hid,
        fun hu e he hid => Pcd.release_frees hu he hid, fun hu e he hid hs => Pcd.mem_release_of_using hu he hid hs⟩
  case complete =>
    have hans := complete_answered ({ s with loads := s.loads.filter fun x => x.id != id }.eachPcd l.quarters (Pcd.endLoad l id))
      l.host sOK 0 []
    refine ⟨_, _, congrArg Host.Outcome.next (tableLoadComplete_of_running hl), hans, ?_, ?_, ?_, ?_, fun q hq => ?_,
      fun q hq x hx hs hload => ?_⟩
    · exact State.eachPcd_host _ _ _
    · rw [hans.1.sec, State.eachPcd_sec]
    · rw [hans.1.hbm, State.eachPcd_hbm]
    · rw [hans.1.loads, State.eachPcd_loads]
    · rw [hans.1.qtr, State.qtr_eachPcd_of_notMem hq]
      rfl
    · obtain ⟨n, hn⟩ := Nat.exists_eq_succ_of_ne_zero (List.count_pos_iff.2 hq).ne'
      have hloaded := Pcd.iterate_endLoad_loaded hx hload hs n
      unfold State.slotOf
      rw [hans.1.qtr, State.qtr_eachPcd, hn]
      exact hloaded

end Sys2Proof.Machine
end

section
/-!
PROOFS. Coders and the recode sweep: how a coder takes a page and commits it, and how a sweep starts and ends (R199 to R203, Table 7-9).
-/
namespace Sys2Proof.Machine

/-! ### What a change of a coder leaves alone -/

section Units
variable (s : State) (q c : Nat) (f : Coder → Coder)

@[simp] theorem State.coder_updCoder_self : (s.updCoder q c f).coder q c = f (s.coder q c) := by
  unfold State.coder State.updCoder
  rw [State.qtr_updPcd_self]
  exact Tab.fetch_amend_self _ _ _ _

/-- A slot that becomes FREE held no table that is LOADED. -/
@[simp] theorem State.currentTable_updCoder (role : Nat) : (s.updCoder q c f).currentTable q role = s.currentTable q role := by
  unfold State.currentTable State.updCoder
  rw [State.qtr_updPcd_self, Pcd.freeSlots, List.find?_filter]
  congr 2
  funext e
  cases e.2.state <;> simp [beq_eq_decide]

@[simp] theorem State.codeSeg_updCoder (key : Nat) (sweep : Bool) : (s.updCoder q c f).codeSeg q key sweep = s.codeSeg q key sweep := by
  unfold State.codeSeg State.entryOf State.segOf State.updCoder
  rw [State.qtr_updPcd_self]
  rfl

@[simp] theorem State.inWriteback_updCoder (key frame page : Nat) :
    (s.updCoder q c f).inWriteback q key frame page = s.inWriteback q key frame page := by
  unfold State.inWriteback State.cacheOf State.updCoder
  rw [State.qtr_updPcd_self]

@[simp] theorem State.slotStored_updCoder (key : Nat) (fr : FrameRef) (page : Nat) (sh : Shape) :
    (s.updCoder q c f).slotStored q key fr page sh = s.slotStored q key fr page sh := by
  unfold State.slotStored State.spillAt State.notReady State.stackBytes State.bank State.updCoder
  rw [State.qtr_updPcd_self]
  rfl

end Units

theorem State.applyAt_hbm (s : State) (code q off : Nat) : (s.applyAt code q off).hbm = s.hbm := by
  unfold State.applyAt
  split <;> rfl

theorem State.applyAt_host (s : State) (code q off : Nat) : (s.applyAt code q off).host = s.host := by
  unfold State.applyAt
  split <;> rfl

/-! ### A coder takes a segment (R199, R200) -/

section Start
variable {s : State} {q c k frame page : Nat} {e : DirEntry} {g : Seg} {sh : Shape} {fr : FrameRef} {b pay : Bytes}

/-- The units of a plain payload under the current tables of K and of V. -/
def State.unitsOf (s : State) (q : Nat) (sh : Shape) (pay : Bytes) : (Bytes × Bool) × (Bytes × Bool) :=
  (encodeUnit (s.currentTable q (kRole sh)) (pay.take sh.kb), encodeUnit (s.currentTable q (vRole sh)) ((pay.drop sh.kb).take sh.vb))

theorem State.coder_holdPage (s : State) (q c : Nat) (hdr units : Bytes) (kLen : Nat) (tables : List Nat) (coded asked : Bool) :
    (s.holdPage q c hdr units kLen tables coded asked).coder q c =
      { s.coder q c with
        holding := true, asked := asked, coded := coded, header := hdr, units := units, kLen := kLen
        tables := tables.filter fun t => t != 0 } :=
  State.coder_updCoder_self _ _ _ _

/-- Units that do not grow are held. -/
theorem State.formPage_of_fit (hdr : Bytes)
    (hfit : (s.unitsOf q sh pay).1.1.length + (s.unitsOf q sh pay).2.1.length ≤ sh.kb + sh.vb) :
    ∃ tables, s.formPage q c sh hdr pay false =
      (.held, s.holdPage q c hdr ((s.unitsOf q sh pay).1.1 ++ (s.unitsOf q sh pay).2.1) (s.unitsOf q sh pay).1.1.length tables
        true false) :=
  ⟨_, if_pos hfit⟩

/-- A plain page that is readable is formed where function mode 3 is the node's own. -/
theorem State.codePage_of_plain (hmode : s.assisted 3 = false) (hdam : bit fr.damaged page = false)
    (hwb : s.inWriteback q k frame page = false) (hb : s.slotStored q k fr page sh = .ok b)
    (hecc : s.eccIn q fr.stack (fr.addr + page * sh.slot) sh.slot = false) (hd : (PageHdr.ofBytes b).damaged = false)
    (ht : (PageHdr.ofBytes b).tokens ≠ 0) (hc : (PageHdr.ofBytes b).coded = false) (hp : s.openPlain k frame page sh b = some pay) :
    s.codePage q c k fr frame page sh none = s.formPage q c sh (b.take 64) pay false := by
  unfold State.codePage State.takePage
  simp [hmode, hdam, hwb, hb, hecc, hd, ht, hc, hp]

/-- A pass that has just begun stops as soon as it holds the segment's first page. -/
theorem State.runCoder_of_first {v : State} (hmode : s.assisted 3 = false) (hC : s.coder q c = { key := some k })
    (hseg : s.codeSeg q k false = some (e, g, sh)) (hfr : g.frames[0]? = some fr) (hleft : s.frameLeft q fr false = false)
    (hpage : s.codePage q c k fr 0 0 sh none = (.held, v)) : s.runCoder q c = v := by
  change coderRun (_ + 1) s q c = v
  unfold coderRun
  simp [hmode, hC, hseg, hfr, hleft, hpage]

theorem coderStart_of_startable (hoff : s.qOff q = false) (hmode : s.assisted 3 = false) (hidle : (s.coder q c).key = none)
    (hsw : (s.coder q c).sweep = false) (hrun : ((s.applyAt bPCD q 0).qtr q).pcd.sweepRun = none)
    (hen : bit ((s.applyAt bPCD q 0).reg bPCD q 0) 0 = true) (hk : (s.applyAt bPCD q 0).startable q = some k) :
    coderStart s q c = ((s.applyAt bPCD q 0).updCoder q c fun _ => { key := some k }).runCoder q c := by
  unfold coderStart
  simp [hoff, hmode, hidle, hsw, hrun, hen, hk]

end Start

/-! ### A page that a coder holds (R201) -/

/-- Coder c of a pass holds a page whose slot is in a plain stack and is as the coder read it. -/
structure State.PageAtHand (s : State) (q c k : Nat) (e : DirEntry) (g : Seg) (sh : Shape) (fr : FrameRef) (b : Bytes) : Prop where
  off : s.qOff q = false
  key : (s.coder q c).key = some k
  holding : (s.coder q c).holding = true
  asked : (s.coder q c).asked = false
  sweep : (s.coder q c).sweep = false
  seg : s.codeSeg q k false = some (e, g, sh)
  frame : g.frames[(s.coder q c).frame]? = some fr
  spilled : fr.spilled = false
  stack : fr.stack < 2
  stored : s.slotStored q k fr (s.coder q c).page sh = .ok b
  header : b.take 64 = (s.coder q c).header

section Commit
variable {s : State} {q c k : Nat} {e : DirEntry} {g : Seg} {sh : Shape} {fr : FrameRef} {b pay : Bytes}

theorem State.stackWrite_of_plain {ls : Nat} (hls : ls < 2) (a n : Nat) (m : Mem) :
    s.stackWrite q ls a n m = { s with hbm := Mem.paste s.hbm (hbmAddr q ls a) n m } := if_pos hls

/-- The slot that a page of units leaves: its new header, the units, and the payload's rest. -/
def State.codedSlot (s : State) (k : Nat) (C : Coder) (e : DirEntry) (sh : Shape) (b pay : Bytes) : Bytes :=
  s.storedSlot k e.gen C.frame C.page sh
    { tokens := (PageHdr.ofBytes b).tokens, coded := true, kLen := C.kLen, vLen := C.units.length - C.kLen }
    (C.units ++ List.replicate (sh.kb + sh.vb - C.units.length) 0 ++ pay.drop (sh.kb + sh.vb))

theorem State.commitPage_of_units {C : Coder} (hls : fr.stack < 2) (hp : s.openPlain k C.frame C.page sh b = some pay) :
    s.commitPage q k C e fr sh b C.units true C.kLen =
      { s with hbm := Mem.paste s.hbm (hbmAddr q fr.stack (fr.addr + C.page * sh.slot)) sh.slot (memOf (s.codedSlot k C e sh b pay)) } := by
  unfold State.commitPage
  simp only [hp]
  exact State.stackWrite_of_plain hls _ _ _

theorem coderPageCommit_of_match (h : s.PageAtHand q c k e g sh fr b) (hc : (s.coder q c).coded = true)
    (hgo : s.tablesGoing q (s.coder q c) = false) :
    coderPageCommit s q c false =
      (((s.commitPage q k (s.coder q c) e fr sh b (s.coder q c).units true (s.coder q c).kLen).count bPCD q 0).count bPCD q 2
        (2 - (s.coder q c).tables.length)).dropPage q c false := by
  have hls : ¬ 2 ≤ fr.stack := Nat.not_le.2 h.stack
  unfold coderPageCommit
  simp [h.off, h.key, h.holding, h.asked, h.sweep, h.seg, h.frame, h.spilled, hls, h.stored, h.header, hc, hgo]

theorem coderPageCommit_of_mismatch (h : s.PageAtHand q c k e g sh fr b) :
    coderPageCommit s q c true =
      (((s.count bPCD q 3).count bPCD q 1).postFor (keyTenant k) 0 { segEv k 2 0 with quarter := q }).dropPage q c false := by
  have hls : ¬ 2 ≤ fr.stack := Nat.not_le.2 h.stack
  unfold coderPageCommit
  simp [h.off, h.key, h.holding, h.asked, h.sweep, h.seg, h.frame, h.spilled, hls, h.stored, h.header]

end Commit

/-! ### The recode sweep (R203, Table 7-9) -/

section Sweep
variable {s : State} {q : Nat} {value : Word}

/-- The fields of PCD_RECODE that a write sets: RECODE_SEQ and the table number. -/
def recodeFields (value : Nat) : Nat := (w32 value &&& 0xFFFF00FF).toNat

theorem recodeFields_lt (value : Nat) : recodeFields value < 2 ^ 32 := BitVec.isLt _

theorem recodeFields_toNat (value : Word) : recodeFields value.toNat = value.toNat &&& 0xFFFF00FF := by
  simp [recodeFields, w32]

theorem recodeFields_seq (value : Word) : bits (recodeFields value.toNat) 31 16 = bits value.toNat 31 16 := by
  have hmask : value.toNat / 2 ^ 16 &&& 2 ^ 16 - 1 = value.toNat / 2 ^ 16 % 2 ^ 16 := Nat.and_two_pow_sub_one_eq_mod _ _
  rw [recodeFields_toNat, bits, Nat.and_div_two_pow]
  exact (congrArg (· % 2 ^ 16) hmask).trans (Nat.mod_mod _ _)

theorem recodeFields_table (value : Word) : recodeFields value.toNat % 256 = value.toNat % 256 := by
  have hmask : value.toNat % 2 ^ 8 &&& 2 ^ 8 - 1 = value.toNat % 2 ^ 8 % 2 ^ 8 := Nat.and_two_pow_sub_one_eq_mod _ _
  rw [recodeFields_toNat]
  exact (Nat.and_mod_two_pow (n := 8)).trans (hmask.trans (Nat.mod_mod _ _))

theorem exec_recodeSweepStart {q : Fin 4} (hoff : s.qOff q = false) :
    exec (.recodeSweepStart q value) s = .next (recodeStart s q value.toNat) :=
  congrArg Host.Outcome.next (if_neg (by simp [hoff]))

theorem recodeStart_of_running (hne : bits (s.reg bPCD q 0x10) 31 16 ≠ bits value.toNat 31 16)
    (hr : (s.qtr q).pcd.sweepRun.isSome = true) : recodeStart s q value.toNat = s.count bPCD q 11 := by
  rw [← recodeFields_seq] at hne
  exact (if_neg hne).trans (if_pos hr)

theorem State.sweepDone_of_run {r : Nat × Nat} (hr : (s.qtr q).pcd.sweepRun = some r) :
    s.sweepDone q = s.updPcd q fun P => { P with sweepDone := r.1, sweepRun := none, sweepKeys := [] } := by
  unfold State.sweepDone
  rw [hr]

theorem exec_recodeSweepEnd {q : Fin 4} (hr : (s.qtr q).pcd.sweepRun.isSome = true) (hk : (s.qtr q).pcd.sweepKeys = [])
    (hc : ((s.qtr q).pcd.coders.any fun e => e.2.sweep) = false) : exec (.recodeSweepEnd q) s = .next (s.sweepDone q) :=
  congrArg Host.Outcome.next (if_pos (by simp [hr, hk, hc]))

/-- The state in which a sweep has its number, its table and its segments. -/
def State.beginSweep (s : State) (q v : Nat) : State :=
  (s.setReg bPCD q 0x10 v).updPcd q fun P =>
    { P with
      sweepSeq := bits v 31 16, sweepRun := some (bits v 31 16, v % 256), sweepKeys := if v % 256 = 0 then [] else s.sweepList q
      skipped := 0 }

theorem State.sweepDone_beginSweep (s : State) (q v : Nat) :
    (s.beginSweep q v).sweepDone q =
      (s.beginSweep q v).updPcd q fun P => { P with sweepDone := bits v 31 16, sweepRun := none, sweepKeys := [] } :=
  State.sweepDone_of_run (r := (bits v 31 16, v % 256)) (congrArg (fun Q => Q.pcd.sweepRun) (State.qtr_updPcd_self _ _ _))

theorem recodeStart_of_idle (hne : bits (s.reg bPCD q 0x10) 31 16 ≠ bits value.toNat 31 16) (hr : (s.qtr q).pcd.sweepRun = none) :
    recodeStart s q value.toNat =
      if recodeFields value.toNat % 256 = 0 then (s.beginSweep q (recodeFields value.toNat)).sweepDone q
      else s.beginSweep q (recodeFields value.toNat) := by
  rw [← recodeFields_seq] at hne
  exact (if_neg hne).trans (if_neg (by rw [hr]; exact Bool.false_ne_true))

/-- A coding block in which a sweep has begun; one for the table number 0 is at its end. -/
def Pcd.startSweep (P : Pcd) (seqNo id : Nat) (keys : List Nat) : Pcd :=
  if id = 0 then { P with sweepSeq := seqNo, sweepRun := none, sweepKeys := [], skipped := 0, sweepDone := seqNo }
  else { P with sweepSeq := seqNo, sweepRun := some (seqNo, id), sweepKeys := keys, skipped := 0 }

theorem Pcd.startSweep_keeps (P : Pcd) (seqNo id : Nat) (keys : List Nat) :
    (P.startSweep seqNo id keys).skipped = 0 ∧ (P.startSweep seqNo id keys).slots = P.slots ∧
      (P.startSweep seqNo id keys).coders = P.coders := by
  unfold Pcd.startSweep
  split <;> exact ⟨rfl, rfl, rfl⟩

/-- A sweep that starts writes PCD_RECODE and changes the coding block of its Quarter; HBM and the host side stay as they are. -/
theorem recodeStart_spec (hne : bits (s.reg bPCD q 0x10) 31 16 ≠ bits value.toNat 31 16) (hr : (s.qtr q).pcd.sweepRun = none) :
    let t := recodeStart s q value.toNat
    t.regs = (s.setReg bPCD q 0x10 (recodeFields value.toNat)).regs ∧ t.hbm = s.hbm ∧ t.host = s.host ∧
      (t.qtr q).pcd = (s.qtr q).pcd.startSweep (bits value.toNat 31 16) (value.toNat % 256) (s.sweepList q) := by
  rw [recodeStart_of_idle hne hr, ← recodeFields_seq, ← recodeFields_table]
  by_cases hid : recodeFields value.toNat % 256 = 0
  · rw [if_pos hid, State.sweepDone_beginSweep]
    exact ⟨rfl, rfl, rfl, by simp [State.beginSweep, Pcd.startSweep, hid]⟩
  · rw [if_neg hid]
    exact ⟨rfl, rfl, rfl, by simp [State.beginSweep, Pcd.startSweep, hid]⟩

end Sweep

/-- Settles O40: a coder's start, its commit and its mismatch by the checks that the page passes, a sweep's start by the coding block that
it leaves, and its end. -/
theorem codersAndSweeps : Obligations.CodersAndSweeps := by
  unfold Obligations.CodersAndSweeps
  refine ⟨fun s q c hoff hmode => ⟨?start, ?commit⟩, fun s q => ⟨?write, fun r hr hk hc => ?ends⟩⟩
  case start =>
    intro w k e g sh fr b pay hidle hsw hmode' hrun hen hk hseg hfr hleft hdam hwb hb hecc hd ht hcd hp ku vu hfit
    let v := w.updCoder q c fun _ => { key := some k }
    have hC : v.coder q c = { key := some k } := State.coder_updCoder_self _ _ _ _
    have hunits : v.unitsOf q sh pay = (ku, vu) := by simp [State.unitsOf, v, ku, vu]
    obtain ⟨tables, hform⟩ := State.formPage_of_fit (s := v) (c := c) (b.take 64) (by rw [hunits]; exact hfit)
    have hpage := State.codePage_of_plain (s := v) (c := c) hmode' hdam (by simpa [v] using hwb) (by simpa [v] using hb) hecc hd ht hcd hp
    have hheld := State.runCoder_of_first (s := v) hmode' hC (by simpa [v] using hseg) hfr hleft (hpage.trans hform)
    have hx := (coderStart_of_startable hoff hmode hidle hsw hrun hen hk).trans hheld
    rw [hunits] at hx
    have hcoder := State.coder_holdPage v q c (b.take 64) (ku.1 ++ vu.1) ku.1.length tables true false
    rw [hC] at hcoder
    exact ⟨_, congrArg Host.Outcome.next hx, congrArg Coder.key hcoder, congrArg Coder.holding hcoder, congrArg Coder.frame hcoder,
      congrArg Coder.page hcoder, congrArg Coder.header hcoder, congrArg Coder.units hcoder, congrArg Coder.kLen hcoder,
      s.applyAt_hbm bPCD q 0, s.applyAt_host bPCD q 0⟩
  case commit =>
    intro k e g sh fr b pay C a hk hh ha hcd hsw hseg hfr hsp hls hb hhdr hp head rest
    have hat : s.PageAtHand q c k e g sh fr b := ⟨hoff, hk, hh, ha, hsw, hseg, hfr, hsp, hls, hb, hhdr⟩
    exact ⟨fun hgo => ⟨_, congrArg Host.Outcome.next (coderPageCommit_of_match hat hcd hgo), State.commitPage_of_units hls hp⟩,
      congrArg Host.Outcome.next (coderPageCommit_of_mismatch hat)⟩
  case write =>
    intro value hoff seqNo id hne
    refine ⟨fun r hr => ?_, fun hr => ?_⟩
    · rw [exec_recodeSweepStart hoff, recodeStart_of_running hne (by rw [hr]; rfl)]
    · obtain ⟨hregs, hhbm, hhost, hpcd⟩ := recodeStart_spec hne hr
      have hreg : (recodeStart s q value.toNat).reg bPCD q 0x10 = recodeFields value.toNat := by
        unfold State.reg
        rw [hregs]
        exact (State.reg_setReg_self _ _ _ _ _).trans (Nat.mod_eq_of_lt (recodeFields_lt _))
      obtain ⟨hskip, hslots, hcoders⟩ := (s.qtr q).pcd.startSweep_keeps seqNo id (s.sweepList q)
      refine ⟨_, exec_recodeSweepStart hoff, ?_, ?_, ?_, fun hid => ?_, fun hid => ?_, ?_, ?_, hhbm, hhost⟩
      · rw [hreg, recodeFields_seq]
      · rw [hreg, recodeFields_table]
      · exact (congrArg Pcd.skipped hpcd).trans hskip
      · rw [hpcd, Pcd.startSweep, if_pos hid]
        exact ⟨rfl, rfl⟩
      · rw [hpcd, Pcd.startSweep, if_neg hid]
        exact ⟨rfl, rfl, rfl⟩
      · exact (congrArg Pcd.slots hpcd).trans hslots
      · exact (congrArg Pcd.coders hpcd).trans hcoders
  case ends =>
    rw [exec_recodeSweepEnd (by rw [hr]; rfl) hk hc, State.sweepDone_of_run hr]

end Sys2Proof.Machine
end

section
/-!
PROOFS. Little-endian fields in sequence, and the round trip of the Epcen header (R10, R211, Table 8-2).
-/
namespace Sys2Proof

/-! ### Little-endian fields (R10) -/

@[simp] theorem length_leBytes (n v : Nat) : (leBytes n v).length = n := by
  induction n generalizing v with
  | zero => rfl
  | succ n ih => simp [leBytes, ih]

theorem drop_leBytes (d n v : Nat) : (leBytes n v).drop d = leBytes (n - d) (v / 256 ^ d) := by
  induction d generalizing n v with
  | zero => simp
  | succ d ih =>
    cases n with
    | zero => simp [leBytes]
    | succ n => simp [leBytes, ih, Nat.pow_succ', Nat.div_div_eq_div_mul]

theorem take_leBytes {k n : Nat} (h : k ≤ n) (v : Nat) : (leBytes n v).take k = leBytes k v := by
  induction k generalizing n v with
  | zero => simp [leBytes]
  | succ k ih =>
    obtain ⟨n, rfl⟩ : ∃ m, n = m + 1 := ⟨n - 1, by omega⟩
    simp [leBytes, ih (Nat.le_of_succ_le_succ h)]

theorem leNat_leBytes (n v : Nat) : leNat (leBytes n v) = v % 256 ^ n := by
  induction n generalizing v with
  | zero => simp [leBytes, leNat, Nat.mod_one]
  | succ n ih =>
    rw [leBytes, leNat, ih, Nat.pow_succ', Nat.mod_mul, BitVec.toNat_ofNat]

theorem leNat_lt (b : Bytes) : leNat b < 256 ^ b.length := by
  induction b with
  | nil => exact Nat.one_pos
  | cons x b ih =>
    have hx := x.isLt
    rw [leNat, List.length_cons, Nat.pow_succ']
    omega

theorem fieldAt_lt (b : Bytes) (off n : Nat) : fieldAt b off n < 256 ^ n :=
  (leNat_lt _).trans_le (Nat.pow_le_pow_right (by decide) (List.length_take_le _ _))

theorem byteAt_eq_fieldAt (b : Bytes) (i : Nat) : byteAt b i = fieldAt b i 1 := by
  unfold byteAt fieldAt
  induction b generalizing i with
  | nil => simp [leNat]
  | cons x b ih =>
    cases i with
    | zero => simp [leNat]
    | succ i => simpa using ih i

theorem fieldAt_append_right (a b : Bytes) (off k : Nat) : fieldAt (a ++ b) (a.length + off) k = fieldAt b off k := by
  rw [fieldAt, List.drop_length_add_append, ← fieldAt]

/-- Bytes d to d + k - 1 of a field that other bytes follow are those bytes of its value. -/
theorem fieldAt_leBytes_append {n d k : Nat} (h : d + k ≤ n) (v : Nat) (b : Bytes) :
    fieldAt (leBytes n v ++ b) d k = v / 256 ^ d % 256 ^ k := by
  rw [fieldAt, List.drop_append_of_le_length (by simp; omega), drop_leBytes, List.take_append_of_le_length (by simp; omega),
    take_leBytes (by omega), leNat_leBytes]

/-- Values in sequence, each in its width in bytes. -/
def leFields : List Nat → List Nat → Bytes
  | n :: ns, v :: vs => leBytes n v ++ leFields ns vs
  | _, _ => []

/-- Bytes d to d + k - 1 of field j of a sequence are those bytes of its value. -/
theorem fieldAt_leFields {ns vs : List Nat} {j n v d k : Nat} (hn : ns[j]? = some n) (hv : vs[j]? = some v) (hk : d + k ≤ n) :
    fieldAt (leFields ns vs) ((ns.take j).sum + d) k = v / 256 ^ d % 256 ^ k := by
  induction ns generalizing vs j with
  | nil => simp at hn
  | cons n₀ ns ih =>
    cases vs with
    | nil => simp at hv
    | cons v₀ vs =>
      cases j with
      | zero =>
        obtain rfl : n₀ = n := by simpa using hn
        obtain rfl : v₀ = v := by simpa using hv
        rw [leFields, List.take_zero, List.sum_nil, Nat.zero_add]
        exact fieldAt_leBytes_append hk _ _
      | succ j =>
        have hr := fieldAt_append_right (leBytes n₀ v₀) (leFields ns vs) ((ns.take j).sum + d) k
        rw [length_leBytes, ih (by simpa using hn) (by simpa using hv)] at hr
        rw [leFields, List.take_succ_cons, List.sum_cons, Nat.add_assoc, hr]

end Sys2Proof

namespace Sys2Proof.Machine

/-! ### The Epcen header (R211, Table 8-2) -/

/-- Byte 0 of a header: VER, PROT and the flags. -/
def Hdr.flags (h : Hdr) : Nat := 1 + 16 * b2n h.prot + 64 * b2n h.ackReq + 128 * b2n h.last

/-- Byte 7 of a header: the class, and HINT_Q with its valid bit. -/
def Hdr.classByte (h : Hdr) : Nat := h.tc + (match h.hint with | some q => 8 + 16 * q | none => 0)

/-- Bytes 20 to 23 of a header: ACK_PSN, ACK_VALID and ECE. -/
def Hdr.ackWord (h : Hdr) : Nat := h.ackPsn + 2 ^ 24 * b2n h.ackValid + 2 ^ 25 * b2n h.ece

/-- The widths in bytes of the fields of Table 8-2. -/
def Hdr.widths : List Nat := [1, 1, 2, 2, 1, 1, 4, 4, 4, 4, 2, 2, 2, 2]

/-- Their values, in the same order. -/
def Hdr.values (h : Hdr) : List Nat :=
  [h.flags, h.opcode, h.srcNode, h.dstNode, h.tenant, h.classByte, h.dstConn, h.srcConn, h.psn, h.ackWord, h.msn, h.idx, h.payLen, 0]

theorem Hdr.bytes_eq (h : Hdr) : h.bytes = leFields Hdr.widths h.values := by
  simp only [Hdr.bytes, leFields, Hdr.widths, Hdr.values, List.append_nil, List.append_assoc]
  rfl

theorem Hdr.length_bytes (h : Hdr) : h.bytes.length = 32 := by
  simp [h.bytes_eq, leFields, Hdr.widths, Hdr.values]

/-- A header's field is read where Table 8-2 puts it. -/
theorem Hdr.fieldAt_bytes (h : Hdr) (j off : Nat) {n v k : Nat} (hv : h.values[j]? = some v) (hn : Hdr.widths[j]? = some n)
    (ho : (Hdr.widths.take j).sum = off) (hk : k ≤ n) : fieldAt h.bytes off k = v % 256 ^ k := by
  have hf := fieldAt_leFields (d := 0) (k := k) hn hv (by omega)
  rw [Nat.add_zero, Nat.pow_zero, Nat.div_one, ho] at hf
  rw [h.bytes_eq, hf]

theorem Hdr.byteAt_bytes (h : Hdr) (j off : Nat) {n v : Nat} (hv : h.values[j]? = some v) (hn : Hdr.widths[j]? = some n)
    (ho : (Hdr.widths.take j).sum = off) (hk : 1 ≤ n) : byteAt h.bytes off = v % 256 := by
  rw [byteAt_eq_fieldAt, h.fieldAt_bytes j off hv hn ho hk, Nat.pow_one]

/-- The top byte of ACK_PSN's word holds ACK_VALID and ECE. -/
theorem Hdr.byteAt_bytes_23 (h : Hdr) : byteAt h.bytes 23 = h.ackWord / 2 ^ 24 % 256 := by
  rw [byteAt_eq_fieldAt, h.bytes_eq]
  exact fieldAt_leFields (ns := Hdr.widths) (vs := h.values) (j := 9) (d := 3) rfl rfl (by decide)

theorem Hdr.flags_read (h : Hdr) :
    (bits (h.flags % 256) 5 4 == 1) = h.prot ∧ bit (h.flags % 256) 6 = h.ackReq ∧ bit (h.flags % 256) 7 = h.last := by
  unfold Hdr.flags
  cases h.prot <;> cases h.ackReq <;> cases h.last <;> decide

theorem Hdr.class_read {h : Hdr} (ht : h.tc < 8) (hq : ∀ q, h.hint = some q → q < 4) :
    h.classByte % 256 % 8 = h.tc ∧ (if bit (h.classByte % 256) 3 then some (bits (h.classByte % 256) 5 4) else none) = h.hint := by
  unfold Hdr.classByte bit bits
  cases hh : h.hint with
  | none =>
    simp only [decide_eq_true_eq]
    exact ⟨by omega, if_neg (by omega)⟩
  | some q =>
    have := hq q hh
    simp only [decide_eq_true_eq]
    exact ⟨by omega, (if_pos (by omega)).trans (congrArg some (by omega))⟩

theorem Hdr.ackWord_read {h : Hdr} (ha : h.ackPsn < 16777216) :
    h.ackWord % 256 ^ 3 = h.ackPsn ∧ bit (h.ackWord / 2 ^ 24 % 256) 0 = h.ackValid ∧ bit (h.ackWord / 2 ^ 24 % 256) 1 = h.ece := by
  unfold Hdr.ackWord bit
  cases h.ackValid <;> cases h.ece <;> simp only [b2n, decide_eq_true_eq, decide_eq_false_iff_not, if_true, if_false, Bool.false_eq_true] <;>
    omega

/-- Settles O60: each field is read back from the bytes where Table 8-2 puts it. -/
theorem headersRoundTrip : Obligations.HeadersRoundTrip := by
  unfold Obligations.HeadersRoundTrip
  intro h hop hsn hdn htn htc hhint hdc hsc hpsn hack hmsn hidx hpl
  obtain ⟨hprot, hackReq, hlast⟩ := h.flags_read
  obtain ⟨hclass, hhintq⟩ := Hdr.class_read htc hhint
  obtain ⟨hackPsn, hackValid, hece⟩ := Hdr.ackWord_read hack
  refine ⟨h.length_bytes, ?_⟩
  unfold Hdr.ofBytes
  rw [h.byteAt_bytes 0 0 rfl rfl rfl (by decide), h.byteAt_bytes 1 1 rfl rfl rfl (by decide),
    h.fieldAt_bytes 2 2 rfl rfl rfl (by decide), h.fieldAt_bytes 3 4 rfl rfl rfl (by decide),
    h.byteAt_bytes 4 6 rfl rfl rfl (by decide), h.byteAt_bytes 5 7 rfl rfl rfl (by decide),
    h.fieldAt_bytes 6 8 rfl rfl rfl (by decide), h.fieldAt_bytes 7 12 rfl rfl rfl (by decide),
    h.fieldAt_bytes 8 16 rfl rfl rfl (by decide), h.fieldAt_bytes 9 20 rfl rfl rfl (by decide), h.byteAt_bytes_23,
    h.fieldAt_bytes 10 24 rfl rfl rfl (by decide), h.fieldAt_bytes 11 26 rfl rfl rfl (by decide),
    h.fieldAt_bytes 12 28 rfl rfl rfl (by decide), hprot, hackReq, hlast, hclass, hhintq, hackPsn, hackValid, hece]
  congr 1 <;> omega

end Sys2Proof.Machine
end

section
/-!
PROOFS. Connections: reading one after a change, and what the sending side of the transport changes of a node (R220, R225, R228, R231, R244).
-/
namespace Sys2Proof.Machine

/-! ### Reading a connection after a change -/

section Units
variable (s : State) (i : Nat)

@[simp] theorem State.conn_updConn_self (f : Conn → Conn) : (s.updConn i f).conn i = f (s.conn i) := by
  simp [State.conn, State.updConn]

theorem State.conn_updConn_ne {j : Nat} (f : Conn → Conn) (h : j ≠ i) : (s.updConn i f).conn j = s.conn j := by
  unfold State.conn State.updConn
  by_cases hq : j / 16384 = i / 16384
  · have hk : j % 16384 ≠ i % 16384 := by omega
    rw [hq, State.qtr_updQ_self, Tab.fetch_amend_ne _ _ _ _ _ _ hk]
  · rw [State.qtr_updQ_ne _ _ _ _ hq]

/-- A change of a Quarter that leaves its connections alone. -/
theorem State.conn_updQ {q : Nat} {f : Quarter → Quarter} (h : (f (s.qtr q)).xpt.conns = (s.qtr q).xpt.conns) :
    (s.updQ q f).conn i = s.conn i := by
  unfold State.conn
  by_cases hq : i / 16384 = q
  · rw [hq, State.qtr_updQ_self, h]
  · rw [State.qtr_updQ_ne _ _ _ _ hq]

/-- A change of a Quarter that leaves its power state alone. -/
theorem State.qOff_updQ {q : Nat} {f : Quarter → Quarter} (h : (f (s.qtr q)).power = (s.qtr q).power) (p : Nat) :
    (s.updQ q f).qOff p = s.qOff p := by
  unfold State.qOff
  by_cases hq : p = q
  · rw [hq, State.qtr_updQ_self, h]
  · rw [State.qtr_updQ_ne _ _ _ _ hq]

@[simp] theorem State.qOff_updConn (f : Conn → Conn) (p : Nat) : (s.updConn i f).qOff p = s.qOff p := s.qOff_updQ rfl p

@[simp] theorem State.qOff_count (c q n k p : Nat) : (s.count c q n k).qOff p = s.qOff p := by
  unfold State.qOff
  rw [((Posts.refl s).count c q n k).qtr]

@[simp] theorem State.conn_advance (t : Nat) : (s.advance t).conn i = s.conn i := rfl

@[simp] theorem State.conn_count (c q n k : Nat) : (s.count c q n k).conn i = s.conn i := ((Posts.refl s).count c q n k).conn i

@[simp] theorem State.conn_updPort (p : Nat) (f : Port → Port) : (s.updPort p f).conn i = s.conn i := s.conn_updQ i rfl

@[simp] theorem State.conn_toPort (p : Nat) (f : TxFrame) : (s.toPort p f).conn i = s.conn i := by
  unfold State.toPort
  split
  · exact s.conn_updPort i _ _
  · exact s.conn_count i _ _ _ _

/-- New routes leave every connection alone. -/
theorem Xpt.conns_newRoutes (X : Xpt) :
    (match X.routesNew with | some t => { X with routes := t, routesNew := none } | none => X).conns = X.conns := by
  split <;> rfl

@[simp] theorem State.conn_newRoutes (q : Nat) : (s.newRoutes q).conn i = s.conn i := s.conn_updQ i (Xpt.conns_newRoutes _)

/-! ### What sending does to the connection (R228, R231, R244) -/

/-- A frame that leaves moves nothing of its connection but the wire keys. -/
theorem State.sendOn_conn (h : Hdr) (b : Bytes) (r : Bool) : ∃ k, (s.sendOn i h b r).conn i = { s.conn i with keys := k } := by
  have hc (c : Prop) [Decidable c] :
      (if c then (s.newRoutes (i / 16384)).count bSEC 0 4 else s.newRoutes (i / 16384)).conn i = s.conn i := by
    split <;> simp
  unfold State.sendOn
  dsimp only
  split
  · exact ⟨_, by rw [State.conn_updConn_self, hc]⟩
  · exact ⟨_, by rw [State.conn_count, State.conn_toPort, State.conn_updConn_self, hc]⟩

/-- An ACK begins the count of packets to acknowledge again. -/
theorem State.sendAck_conn :
    ∃ k, (s.sendAck i).conn i = { s.conn i with ackRun := 0, ackDueAt := none, ceNew := false, keys := k } := by
  obtain ⟨k, hk⟩ := State.sendOn_conn _ i _ _ _
  exact ⟨k, hk.trans (by rw [State.conn_updConn_self])⟩

/-- A packet that leaves counts as an ACK and as activity. -/
theorem State.transmit_conn (p : TxPkt) (r : Bool) :
    ∃ k, (s.transmit i p r).conn i =
      { s.conn i with ackRun := 0, ackDueAt := none, ceNew := false, lastActive := s.time, keys := k } := by
  obtain ⟨k, hk⟩ := State.sendOn_conn _ i _ _ _
  refine ⟨k, ?_⟩
  unfold State.transmit
  dsimp only
  split
  · rw [State.conn_count, hk, State.conn_updConn_self]
  · rw [hk, State.conn_updConn_self]

/-- A copy that is resent is marked, and waits for no CTX_BUSY (R231). -/
def TxPkt.resentAt (psn : Nat) (x : TxPkt) : TxPkt := if x.psn = psn then { x with resent := true, retryAt := none } else x

@[simp] theorem TxPkt.psn_resentAt (n : Nat) (x : TxPkt) : (x.resentAt n).psn = x.psn := by
  unfold TxPkt.resentAt
  split <;> rfl

/-- A resend marks the copy and otherwise changes the connection as a send does. -/
theorem State.resendPkt_conn {n : Nat} {p : TxPkt} (hf : ((s.conn i).flight.find? fun x => x.psn == n) = some p) :
    ∃ k, (s.resendPkt i n).conn i =
      { s.conn i with flight := (s.conn i).flight.map (TxPkt.resentAt n), ackRun := 0, ackDueAt := none, ceNew := false
                      lastActive := s.time, keys := k } := by
  obtain ⟨k, hk⟩ := State.transmit_conn _ i _ _
  refine ⟨k, ?_⟩
  unfold State.resendPkt
  rw [hf]
  exact hk.trans (by rw [State.conn_updConn_self]; rfl)

theorem State.sendHello_conn (kind status : Nat) : ∃ k, (s.sendHello i kind status).conn i = { s.conn i with keys := k } := by
  have hd (c : Prop) [Decidable c] : (if c then s.drawTrng else (0, s)).2.conn i = s.conn i := by
    split <;> rfl
  unfold State.sendHello
  dsimp only
  obtain ⟨k, hk⟩ := State.sendOn_conn _ i _ _ _
  exact ⟨k, hk.trans (by rw [hd])⟩

end Units

/-! ### What a change of one connection leaves alone -/

/-- `t` has the connections of `s` but for connection i, and its accepted messages, failed messages, HBM bytes and security state. -/
structure KeepsOthers (i : Nat) (s t : State) : Prop where
  others : ∀ j, j ≠ i → t.conn j = s.conn j
  inbox : t.inbox = s.inbox
  unitErrs : t.unitErrs = s.unitErrs
  hbm : t.hbm = s.hbm
  sec : t.sec = s.sec

namespace KeepsOthers
variable {i : Nat} {s₀ s t u : State}

theorem refl (i : Nat) (s : State) : KeepsOthers i s s := ⟨fun _ _ => rfl, rfl, rfl, rfl, rfl⟩

theorem trans (a : KeepsOthers i s t) (b : KeepsOthers i t u) : KeepsOthers i s u :=
  ⟨fun j hj => (b.others j hj).trans (a.others j hj), b.inbox.trans a.inbox, b.unitErrs.trans a.unitErrs, b.hbm.trans a.hbm,
    b.sec.trans a.sec⟩

theorem posts (h : KeepsOthers i s₀ s) (p : Posts s t) : KeepsOthers i s₀ t :=
  h.trans ⟨fun j _ => p.conn j, p.inbox, p.unitErrs, p.hbm, p.sec⟩

theorem count (h : KeepsOthers i s₀ s) (c q n k : Nat) : KeepsOthers i s₀ (s.count c q n k) :=
  h.posts ((Posts.refl s).count c q n k)

theorem ite {c : Prop} [Decidable c] (ht : KeepsOthers i s₀ t) (hu : KeepsOthers i s₀ u) :
    KeepsOthers i s₀ (if c then t else u) := by split <;> assumption

theorem foldl {α : Type} {g : State → α → State} {l : List α} (h : KeepsOthers i s₀ s)
    (hg : ∀ t a, KeepsOthers i s₀ t → KeepsOthers i s₀ (g t a)) : KeepsOthers i s₀ (l.foldl g s) :=
  List.foldlRecOn l g h fun t ht a _ => hg t a ht

theorem updConn (h : KeepsOthers i s₀ s) (f : Conn → Conn) : KeepsOthers i s₀ (s.updConn i f) :=
  h.trans ⟨fun _ hj => s.conn_updConn_ne i f hj, rfl, rfl, rfl, rfl⟩

theorem updQ (h : KeepsOthers i s₀ s) {q : Nat} {f : Quarter → Quarter} (hf : (f (s.qtr q)).xpt.conns = (s.qtr q).xpt.conns) :
    KeepsOthers i s₀ (s.updQ q f) :=
  h.trans ⟨fun j _ => s.conn_updQ j hf, rfl, rfl, rfl, rfl⟩

theorem updPort (h : KeepsOthers i s₀ s) (p : Nat) (f : Port → Port) : KeepsOthers i s₀ (s.updPort p f) := h.updQ rfl

theorem toPort (h : KeepsOthers i s₀ s) (p : Nat) (f : TxFrame) : KeepsOthers i s₀ (s.toPort p f) := by
  unfold State.toPort
  exact ite (h.updPort _ _) (h.count _ _ _ _)

theorem newRoutes (h : KeepsOthers i s₀ s) (q : Nat) : KeepsOthers i s₀ (s.newRoutes q) := h.updQ (Xpt.conns_newRoutes _)

theorem sendOn (h : KeepsOthers i s₀ s) (d : Hdr) (b : Bytes) (r : Bool) : KeepsOthers i s₀ (s.sendOn i d b r) := by
  have hc (c : Prop) [Decidable c] :
      KeepsOthers i s₀ (if c then (s.newRoutes (i / 16384)).count bSEC 0 4 else s.newRoutes (i / 16384)) :=
    ite ((h.newRoutes _).count _ _ _ _) (h.newRoutes _)
  unfold State.sendOn
  dsimp only
  split
  · exact (hc _).updConn _
  · exact (((hc _).updConn _).toPort _ _).count _ _ _ _

theorem sendAck (h : KeepsOthers i s₀ s) : KeepsOthers i s₀ (s.sendAck i) := (h.updConn _).sendOn _ _ _

theorem transmit (h : KeepsOthers i s₀ s) (p : TxPkt) (r : Bool) : KeepsOthers i s₀ (s.transmit i p r) := by
  unfold State.transmit
  exact ite (((h.updConn _).sendOn _ _ _).count _ _ _ _) ((h.updConn _).sendOn _ _ _)

theorem resendPkt (h : KeepsOthers i s₀ s) (n : Nat) : KeepsOthers i s₀ (s.resendPkt i n) := by
  unfold State.resendPkt
  split
  · exact h
  · exact (h.updConn _).transmit _ _

theorem sendHello (h : KeepsOthers i s₀ s) (kind status : Nat) : KeepsOthers i s₀ (s.sendHello i kind status) := by
  have hd : KeepsOthers i s₀ s.drawTrng.2 := ⟨h.others, h.inbox, h.unitErrs, h.hbm, h.sec⟩
  have hc (c : Prop) [Decidable c] : KeepsOthers i s₀ (if c then s.drawTrng else (0, s)).2 := by
    split
    · exact hd
    · exact h
  unfold State.sendHello
  exact (hc _).sendOn _ _ _

theorem freeConn (h : KeepsOthers i s₀ s) : KeepsOthers i s₀ (s.freeConn i) := (h.updConn _).updQ rfl

end KeepsOthers

/-! ### The end of a connection (R220, R233) -/

@[simp] theorem State.freeConn_conn (s : State) (i : Nat) : (s.freeConn i).conn i = { incarn := ((s.conn i).incarn + 1) % 256 } := by
  unfold State.freeConn State.updXpt
  dsimp only
  rw [State.conn_updQ _ _ rfl, State.conn_updConn_self]

/-- A connection that goes to ERROR has lost its copies and its messages, whose units are told, and nothing else has changed. -/
theorem State.connError_spec (s : State) (i st : Nat) :
    let c := s.conn i
    let v := s.connError i st
    (v.conn i).state = .error ∧ (v.conn i).flight = [] ∧ (v.conn i).queue = [] ∧
      v.unitErrs = s.unitErrs ++ (c.owners.map fun o => (o, st)) ++ [(MsgOwner.conn i c.remoteNode c.tenant, st)] ∧
      (∀ j, j ≠ i → v.conn j = s.conn j) ∧ v.hbm = s.hbm := by
  intro c v
  let w := { s with unitErrs := s.unitErrs ++ (c.owners.map fun o => (o, st)) ++ [(MsgOwner.conn i c.remoteNode c.tenant, st)] }
  let x := w.updConn i fun c =>
    { c with state := .error, errAt := s.time, flight := [], queue := [], sentOfHead := 0, heldRx := [], rxPart := []
             idxRx := 0, timerAt := none, ctlTimerAt := none, ackDueAt := none, ackRun := 0 }
  have hv : Posts x v := ((Posts.refl x).count _ _ _ _).postFor _ _ _
  have hx : KeepsOthers i w x := (KeepsOthers.refl i w).updConn _
  have hc : v.conn i = _ := (hv.conn i).trans (State.conn_updConn_self w i _)
  exact ⟨by rw [hc], by rw [hc], by rw [hc], hv.unitErrs, fun j hj => (hv.conn j).trans (hx.others j hj), hv.hbm⟩

end Sys2Proof.Machine
end

section
/-!
PROOFS. Packets that arrive on a connection: the checks that let one through, and its place in PSN order (R215, R216, R222, R226 to R228).
-/
namespace Sys2Proof.Machine

/-! ### The port and the checks of Table 8-7 leave the transport alone -/

/-- `t` has the transport and the power state of every Quarter of `s`, and its accepted messages, failed messages, HBM bytes, image and
security state. -/
structure KeepsXpt (s t : State) : Prop where
  xpt : ∀ q, (t.qtr q).xpt = (s.qtr q).xpt
  power : ∀ q, (t.qtr q).power = (s.qtr q).power
  inbox : t.inbox = s.inbox
  unitErrs : t.unitErrs = s.unitErrs
  hbm : t.hbm = s.hbm
  boot : t.boot = s.boot
  sec : t.sec = s.sec

namespace KeepsXpt
variable {s₀ s t : State}

theorem refl (s : State) : KeepsXpt s s := ⟨fun _ => rfl, fun _ => rfl, rfl, rfl, rfl, rfl, rfl⟩

theorem trans {u : State} (a : KeepsXpt s t) (b : KeepsXpt t u) : KeepsXpt s u :=
  ⟨fun q => (b.xpt q).trans (a.xpt q), fun q => (b.power q).trans (a.power q), b.inbox.trans a.inbox, b.unitErrs.trans a.unitErrs,
    b.hbm.trans a.hbm, b.boot.trans a.boot, b.sec.trans a.sec⟩

theorem posts (h : KeepsXpt s₀ s) (p : Posts s t) : KeepsXpt s₀ t :=
  h.trans ⟨fun q => by rw [p.qtr], fun q => by rw [p.qtr], p.inbox, p.unitErrs, p.hbm, p.boot, p.sec⟩

theorem count (h : KeepsXpt s₀ s) (c q n k : Nat) : KeepsXpt s₀ (s.count c q n k) := h.posts ((Posts.refl s).count c q n k)

theorem updPort (h : KeepsXpt s₀ s) (p : Nat) (f : Port → Port) : KeepsXpt s₀ (s.updPort p f) := by
  have hq (q : Nat) : ((s.updPort p f).qtr q).xpt = (s.qtr q).xpt ∧ ((s.updPort p f).qtr q).power = (s.qtr q).power := by
    unfold State.updPort
    by_cases e : q = p
    · rw [e, State.qtr_updQ_self]
      exact ⟨rfl, rfl⟩
    · rw [State.qtr_updQ_ne _ _ _ _ e]
      exact ⟨rfl, rfl⟩
  exact h.trans ⟨fun q => (hq q).1, fun q => (hq q).2, rfl, rfl, rfl, rfl, rfl⟩

theorem applyAt (h : KeepsXpt s₀ s) (c q o : Nat) : KeepsXpt s₀ (s.applyAt c q o) := by
  unfold State.applyAt
  split
  · exact h
  · exact h.trans ⟨fun _ => rfl, fun _ => rfl, rfl, rfl, rfl, rfl, rfl⟩

theorem applyPacket (h : KeepsXpt s₀ s) (p base n : Nat) : KeepsXpt s₀ (applyPacket s p base n) := by
  have hs (c : Prop) [Decidable c] : KeepsXpt s₀ (if c then s.settlePort p base n else s) := by
    split
    · unfold State.settlePort
      exact h.updPort _ _
    · exact h
  unfold Machine.applyPacket
  exact ((hs _).applyAt _ _ _).applyAt _ _ _

theorem police (h : KeepsXpt s₀ s) (p n len : Nat) : KeepsXpt s₀ (police s p n len).2 := by
  unfold Machine.police
  dsimp only
  split
  · exact h
  · dsimp only
    exact h.updPort _ _

theorem meter (h : KeepsXpt s₀ s) (n m k : Nat) : KeepsXpt s₀ (s.meter n m k) :=
  h.trans ⟨fun _ => rfl, fun _ => rfl, rfl, rfl, rfl, rfl, rfl⟩

theorem conn (h : KeepsXpt s t) (i : Nat) : t.conn i = s.conn i := by
  unfold State.conn
  rw [h.xpt]

theorem qOff (h : KeepsXpt s t) (q : Nat) : t.qOff q = s.qOff q := by
  unfold State.qOff
  rw [h.power]

theorem derivedAddr (h : KeepsXpt s t) (n p : Nat) : t.derivedAddr n p = s.derivedAddr n p := by
  unfold State.derivedAddr State.fabricPfx
  rw [h.boot]

theorem names (h : KeepsXpt s t) {d : Hdr} {i : Nat} (hn : Names s d i) : Names t d i := by
  unfold Names at hn ⊢
  rwa [h.conn, h.qOff, h.xpt]

end KeepsXpt

section Arrive
variable {s u : State} {p : Nat} {f : RxFrame}

/-- A frame that arrives has changed nothing of the transport yet. -/
theorem keepsXpt_of_arrives (h : Arrives s p f u) : KeepsXpt s u := by
  obtain ⟨-, -, -, -, -, -, hu⟩ := h
  have ha : KeepsXpt s (s.advance f.at_) := ⟨fun _ => rfl, fun _ => rfl, rfl, rfl, rfl, rfl, rfl⟩
  rw [hu]
  exact (((ha.count _ _ _ _).applyPacket _ _ _).police _ _ _).meter _ _ _

/-- A frame that passes its port and checks 2 to 6 of Table 8-7, and is no OPEN, comes to check 7. -/
theorem frameReceive_of_arrives (h : Arrives s p f u) (hop : (Hdr.ofBytes f.header).opcode ≠ 1) :
    frameReceive s p f = rxContext u p f (Hdr.ofBytes f.header) := by
  obtain ⟨hlink, hoff, hpause, hport, hepcen, hpolice, hu⟩ := h
  have hx : rxEpcen ((s.advance f.at_).count bPORT p 0) p f = rxContext u p f (Hdr.ofBytes f.header) := by
    unfold rxEpcen
    rw [hepcen]
    dsimp only
    rw [hpolice, if_neg (by decide), if_neg fun hh => hop hh.1, ← hu]
  unfold Machine.frameReceive
  dsimp only
  rw [hlink, hoff, if_neg (by decide), hport]
  cases f.pause with
  | none => exact hx
  | some e => exact (if_neg hpause).trans hx

end Arrive

/-! ### Checks 7 to 11 of Table 8-7 -/

section Checks
variable {s : State} {i : Nat} {h : Hdr} {f : RxFrame}

/-- A packet that names an OPEN connection whose context is at hand goes on to check 8. -/
theorem rxContext_of_names (hn : Names s h i) (hs : (s.conn i).state = .opened) (p : Nat) : rxContext s p f h = rxOnConn s i f h := by
  obtain ⟨rfl, hoff, hinc, hctx, hmiss, -, -⟩ := hn
  obtain ⟨e, he, hf⟩ := Option.map_eq_some_iff.mp hctx
  unfold rxContext
  simp only [hoff, hs, hinc, he, hf, hmiss, Bool.false_eq_true, if_false, reduceCtorEq, ne_eq, not_true_eq_false, or_self, and_false]

/-- A packet from where its connection expects it moves the connection to no other port (R428). -/
theorem migrate_from_home {src : Nat} (hh : isPeer (s.conn i).remoteNode = false ∨
    src = s.derivedAddr (s.conn i).remoteNode (s.conn i).remotePort) : migrate s i src = s := by
  refine if_neg ?_
  rintro ⟨-, hpeer, hp4, hne, hsrc⟩
  rcases hh with hh | hh
  · rw [hh] at hpeer
    cases hpeer
  · unfold State.derivedAddr at hh hsrc
    omega

/-- The counts of a packet that has passed its checks, and its context marked as used (R239). -/
def State.noteRx (s : State) (i : Nat) (ce : Bool) : State :=
  let s := s.count bXPT (i / 16384) 0
  let s := if ce then s.count bXPT (i / 16384) 13 else s
  s.updXpt (i / 16384) fun X =>
    { X with ctx := X.ctx.amend (i % 16384) {} fun e => { e with used := s.time, dirty := true, writeback := false } }

theorem KeepsOthers.noteRx (s : State) (i : Nat) (ce : Bool) : KeepsOthers i s (s.noteRx i ce) := by
  have hc := (KeepsOthers.refl i s).count bXPT (i / 16384) 0 1
  exact (KeepsOthers.ite (hc.count _ _ _ _) hc).updQ rfl

@[simp] theorem State.conn_noteRx (s : State) (i : Nat) (ce : Bool) : (s.noteRx i ce).conn i = s.conn i := by
  unfold State.noteRx State.updXpt
  dsimp only
  rw [State.conn_updQ _ _ rfl]
  split <;> simp

@[simp] theorem State.qOff_noteRx (s : State) (i : Nat) (ce : Bool) (p : Nat) : (s.noteRx i ce).qOff p = s.qOff p := by
  unfold State.noteRx State.updXpt
  dsimp only
  rw [State.qOff_updQ _ rfl]
  split <;> simp

/-- A sequenced packet without protection, for an OPEN connection without protection, whose ACK field is not valid. -/
structure Sequenced (s : State) (h : Hdr) (f : RxFrame) (i : Nat) : Prop where
  opened : (s.conn i).state = .opened
  plain : h.prot = false
  plainConn : (s.conn i).prot = false
  opcode : 0x10 ≤ h.opcode
  noAck : h.ackValid = false
  home : isPeer (s.conn i).remoteNode = false ∨ f.srcAddr = s.derivedAddr (s.conn i).remoteNode (s.conn i).remotePort

theorem KeepsXpt.sequenced {t : State} (k : KeepsXpt s t) (hq : Sequenced s h f i) : Sequenced t h f i := by
  obtain ⟨ho, hp, hc, hop, ha, hh⟩ := hq
  exact ⟨by rw [k.conn, ho], hp, by rw [k.conn, hc], hop, ha, by rw [k.conn, k.derivedAddr]; exact hh⟩

/-- A sequenced packet that passes checks 8 to 10 is put in its place of the PSN order. -/
theorem rxOnConn_of_sequenced (hn : Names s h i) (hq : Sequenced s h f i) :
    rxOnConn s i f h = pfcUpdate (rxSequenced (s.noteRx i f.ce) i h f.payload f.ce f.at_) (i / 16384) := by
  obtain ⟨-, -, -, -, -, htenant, htc⟩ := hn
  obtain ⟨hopened, hplain, hconn, hop, hack, hhome⟩ := hq
  let v := s.count bXPT (i / 16384) 0
  have hv : KeepsXpt s (if f.ce then v.count bXPT (i / 16384) 13 else v) := by
    have h0 := (KeepsXpt.refl s).count bXPT (i / 16384) 0 1
    split
    · exact h0.count _ _ _ _
    · exact h0
  have hm : migrate (if f.ce then v.count bXPT (i / 16384) 13 else v) i f.srcAddr = _ :=
    migrate_from_home (by rw [hv.conn, hv.derivedAddr]; exact hhome)
  have hcarries : ((s.noteRx i f.ce).conn i).carries = true := by
    rw [State.conn_noteRx]
    unfold Conn.carries
    rw [hopened]
    rfl
  have h1 : h.opcode ≠ 1 := by omega
  have h2 : h.opcode ≠ 2 := by omega
  have h3 : h.opcode ≠ 3 := by omega
  unfold rxOnConn
  simp only [htenant, htc, hplain, hconn, hack, Bool.false_and, Bool.and_false, Bool.false_eq_true, if_false, ne_eq, not_true_eq_false,
    or_self, bne_self_eq_false, if_neg h1, if_neg h2, if_neg h3]
  rw [hm]
  exact if_pos hcarries

end Checks

/-! ### A packet that stands next in PSN order (R215, R227) -/

section Deliver
variable {s : State} {i : Nat} {p : RxPkt}

/-- What a change of a connection does follows from what it makes of that connection. -/
theorem State.updConn_congr {f g : Conn → Conn} (h : f (s.conn i) = g (s.conn i)) : s.updConn i f = s.updConn i g := by
  unfold State.conn State.qtr at h
  simp only [State.updConn, State.updQ, Tab.amend, h]

/-- A packet goes on where its connection's message stands, and is full unless it is the last. -/
structure Conn.Expects (c : Conn) (p : RxPkt) : Prop where
  good : c.rxBad = false
  msn : p.msn = c.msnRx
  idx : p.idx = c.idxRx
  room : p.idx < 65536
  start : c.idxRx = 0 → c.rxPart = []
  goesOn : c.idxRx ≠ 0 → p.opcode = c.rxOpcode
  full : p.last = false → p.payload.length = 4096

/-- When the message that a packet belongs to began to arrive (R22). -/
def Conn.arrivalOf (c : Conn) (p : RxPkt) : Nat := if c.idxRx = 0 then p.arrival else c.rxArrival

/-- A connection after a packet that it expects. -/
def Conn.extended (c : Conn) (p : RxPkt) (now : Nat) : Conn :=
  { c with ePsn := (p.psn + 1) % 16777216, lastActive := now
           rxPart := if p.last then [] else c.rxPart ++ p.payload, idxRx := if p.last then 0 else c.idxRx + 1
           rxOpcode := p.opcode, rxArrival := c.arrivalOf p, rxBad := false
           msnRx := if p.last then (c.msnRx + 1) % 65536 else c.msnRx }

theorem deliverPkt_of_expected (h : (s.conn i).Expects p) :
    deliverPkt s i p =
      (let w := s.updConn i fun c => c.extended p s.time
       if p.last then deliverMsg w i p.opcode false ((s.conn i).rxPart ++ p.payload) ((s.conn i).arrivalOf p) else w) := by
  obtain ⟨hgood, hmsn, hidx, hroom, hstart, hon, hfull⟩ := h
  have hfirst : ((s.conn i).rxPart.isEmpty && (s.conn i).idxRx == 0) = decide ((s.conn i).idxRx = 0) := by
    by_cases h0 : (s.conn i).idxRx = 0
    · simp [h0, hstart h0]
    · simp [h0]
  have hop : (if (s.conn i).idxRx = 0 then p.opcode else (s.conn i).rxOpcode) = p.opcode := by
    split
    · rfl
    · exact (hon ‹_›).symm
  have hlast : (!p.last && p.payload.length != 4096) = false := by
    cases hl : p.last with
    | true => rfl
    | false => simp [hfull hl]
  have hbig : ¬ (s.conn i).idxRx ≥ 65536 := by omega
  unfold deliverPkt
  simp only [hfirst, decide_eq_true_eq, hop, hgood, hmsn, hidx, hlast, hbig, decide_false, bne_self_eq_false, Bool.or_self, Bool.and_false]
  have same {v w : State} (hvw : v = w) (b : Bytes) (n : Nat) :
      (if p.last then deliverMsg v i p.opcode false b n else v) = if p.last then deliverMsg w i p.opcode false b n else w := by
    rw [hvw]
  exact same (State.updConn_congr rfl) _ _

/-- A complete message for a Quarter that is on is accepted for its operation. -/
theorem deliverMsg_of_good {op : Nat} {body : Bytes} (hop : op < 0x1C) (hb : 8 ≤ body.length)
    (hoff : s.qOff (if hasKey op && body.length ≥ 17 then homeQ (bodyKey body) else i / 16384) = false) (arrival : Nat) :
    deliverMsg s i op false body arrival =
      { s with inbox := s.inbox ++ [{ origin := .wire i, opcode := op, body := body, arrival := arrival }] } := by
  unfold deliverMsg
  dsimp only
  rw [if_neg (by simp; omega), hoff, if_neg (by decide)]

theorem drainHeld_of_none (h : (s.conn i).heldRx = []) (n : Nat) : drainHeld n s i = s := by
  cases n with
  | zero => rfl
  | succ n => simp [drainHeld, h]

/-- The acknowledgement of a packet: at once, or after the delay (R228). -/
def State.ackOrDelay (s : State) (i : Nat) (now : Bool) : State :=
  let c := s.conn i
  if now || c.heldRx != [] || c.ackRun + 1 ≥ s.ackCoal (i / 16384) then s.sendAck i
  else s.updConn i fun c => { c with
    ackRun := c.ackRun + 1
    ackDueAt := match c.ackDueAt with | some t => some t | none => some (s.time + s.ackDelay (i / 16384)) }

theorem KeepsOthers.ackOrDelay (s : State) (i : Nat) (now : Bool) : KeepsOthers i s (s.ackOrDelay i now) := by
  unfold State.ackOrDelay
  exact .ite (KeepsOthers.refl i s).sendAck ((KeepsOthers.refl i s).updConn _)

theorem State.ackOrDelay_conn (s : State) (i : Nat) (now : Bool) :
    ∃ n d e k, (s.ackOrDelay i now).conn i = { s.conn i with ackRun := n, ackDueAt := d, ceNew := e, keys := k } := by
  unfold State.ackOrDelay
  dsimp only
  split
  · obtain ⟨k, hk⟩ := s.sendAck_conn i
    exact ⟨_, _, _, k, hk⟩
  · exact ⟨_, _, _, _, State.conn_updConn_self _ _ _⟩

end Deliver

/-! ### The place of a packet in PSN order (R226, R228) -/

/-- A packet as the receive buffer holds it. -/
def Hdr.packet (h : Hdr) (pay : Bytes) (ce : Bool) (now : Nat) : RxPkt :=
  { psn := h.psn, opcode := h.opcode, msn := h.msn, idx := h.idx, last := h.last, payload := pay, ce := ce, arrival := now }

theorem serialDiff_self {a : Nat} (h : a < 16777216) : serialDiff 16777216 a a = 0 := by
  rw [serialDiff, Nat.mod_eq_of_lt h]
  omega

/-- A mark of congestion waits for the next ACK (R229). -/
def State.noteCe (s : State) (i : Nat) (ce : Bool) : State := s.updConn i fun c => { c with ceNew := c.ceNew || ce }

section Place
variable {s : State} {i : Nat} {h : Hdr} (pay : Bytes) (ce : Bool) (now : Nat)

theorem State.noteCe_conn (s : State) (i : Nat) (ce : Bool) :
    (s.noteCe i ce).conn i = { s.conn i with ceNew := (s.conn i).ceNew || ce } := State.conn_updConn_self _ _ _

/-- A packet within the window is delivered when it is expected, with the held packets that follow it, and held when it is newer. -/
def State.placePkt (s : State) (i : Nat) (h : Hdr) (pay : Bytes) (ce : Bool) (now : Nat) : State :=
  if serialDiff 16777216 h.psn (s.conn i).ePsn = 0 then drainHeld 64 (deliverPkt (s.noteCe i ce) i (h.packet pay ce now)) i
  else (s.noteCe i ce).updConn i fun c => { c with heldRx := c.heldRx ++ [h.packet pay ce now] }

/-- A packet within the window that is no duplicate takes its place and is acknowledged. -/
theorem rxSequenced_within (hlt : serialDiff 16777216 h.psn (s.conn i).ePsn < 64)
    (hnew : ((s.conn i).heldRx.any fun x => x.psn == h.psn) = false) :
    rxSequenced s i h pay ce now = (s.placePkt i h pay ce now).ackOrDelay i (h.ackReq || (s.conn i).heldRx != []) := by
  have hdup : ¬ (decide (serialDiff 16777216 h.psn (s.conn i).ePsn ≥ 8388608) || (s.conn i).heldRx.any fun x => x.psn == h.psn) = true := by
    rw [hnew, Bool.or_false, decide_eq_true_eq]
    omega
  exact (if_neg hdup).trans ((if_neg (by omega)).trans rfl)

/-- The packet that is expected is delivered. -/
theorem State.placePkt_next (hpsn : h.psn = (s.conn i).ePsn) (hlt : h.psn < 16777216)
    (hstill : ((deliverPkt (s.noteCe i ce) i (h.packet pay ce now)).conn i).heldRx = []) :
    s.placePkt i h pay ce now = deliverPkt (s.noteCe i ce) i (h.packet pay ce now) := by
  unfold State.placePkt
  rw [← hpsn, if_pos (serialDiff_self hlt), drainHeld_of_none hstill]

/-- A duplicate, or a packet beyond the window, is answered and changes nothing else. -/
theorem rxSequenced_dropped (hdrop : 8388608 ≤ serialDiff 16777216 h.psn (s.conn i).ePsn ∨
      ((s.conn i).heldRx.any fun x => x.psn == h.psn) = true ∨ 64 ≤ serialDiff 16777216 h.psn (s.conn i).ePsn) :
    KeepsOthers i s (rxSequenced s i h pay ce now) ∧ ∃ n d e k,
      (rxSequenced s i h pay ce now).conn i = { s.conn i with ackRun := n, ackDueAt := d, ceNew := e, keys := k } := by
  have hk (n : Nat) : KeepsOthers i s (s.count bXPT (i / 16384) n) := (KeepsOthers.refl i s).count _ _ _ _
  unfold rxSequenced
  dsimp only
  split
  case isTrue =>
    refine ⟨(hk 4).sendAck, ?_⟩
    obtain ⟨k, hc⟩ := State.sendAck_conn (s.count bXPT (i / 16384) 4) i
    exact ⟨_, _, _, k, by rw [hc, State.conn_count]⟩
  case isFalse hdup =>
    have hfar : serialDiff 16777216 h.psn (s.conn i).ePsn ≥ 64 := by
      simp only [Bool.or_eq_true, decide_eq_true_eq, not_or] at hdup
      obtain ⟨hold, hheld⟩ := hdup
      rcases hdrop with hd | hd | hd
      · exact absurd hd hold
      · exact absurd hd hheld
      · exact hd
    rw [if_pos hfar]
    refine ⟨(hk 5).sendOn _ _ _, ?_⟩
    obtain ⟨k, hc⟩ := State.sendOn_conn (s.count bXPT (i / 16384) 5) i _ _ _
    exact ⟨_, _, _, k, by rw [hc, State.conn_count]⟩

end Place

/-! ### Pauses follow the receive buffer (R289) -/

theorem KeepsXpt.pfcUpdate (s : State) (q : Nat) : KeepsXpt s (pfcUpdate s q) := by
  refine List.foldlRecOn (motive := fun t => KeepsXpt s t) _ _ (.refl s) fun t ht c _ => ?_
  dsimp only
  split
  · exact ht
  · split
    · exact ht.updPort _ _
    · split
      · exact ht.updPort _ _
      · exact ht

/-- What leaves the whole transport alone leaves every connection alone. -/
theorem KeepsXpt.keepsOthers {s t : State} (h : KeepsXpt s t) (i : Nat) : KeepsOthers i s t :=
  ⟨fun j _ => h.conn j, h.inbox, h.unitErrs, h.hbm, h.sec⟩

/-! ### The obligation -/

section Receive
variable {s u : State} {p : Fin 4} {f : RxFrame} {i : Nat}

/-- The state in which a frame's packet is put in its place has the connections of the node, its messages, HBM bytes and keys. -/
theorem noteRx_of_arrives (ha : Arrives s p f u) (i : Nat) : KeepsOthers i s (u.noteRx i f.ce) :=
  ((keepsXpt_of_arrives ha).keepsOthers i).trans (.noteRx u i f.ce)

theorem noteRx_conn_of_arrives (ha : Arrives s p f u) (i : Nat) : (u.noteRx i f.ce).conn i = s.conn i :=
  (u.conn_noteRx i f.ce).trans ((keepsXpt_of_arrives ha).conn i)

/-- A sequenced packet that arrives is put in its place, and then pauses follow the receive buffer. -/
theorem exec_frameReceive_sequenced (ha : Arrives s p f u) (hn : Names s (Hdr.ofBytes f.header) i)
    (hq : Sequenced s (Hdr.ofBytes f.header) f i) {w : State}
    (hw : rxSequenced (u.noteRx i f.ce) i (Hdr.ofBytes f.header) f.payload f.ce f.at_ = w) (he : w.unitErrs = []) :
    ∃ t, exec (.frameReceive p f) s = .next t ∧ KeepsXpt w t := by
  have hx : frameReceive s p f = pfcUpdate w (i / 16384) := by
    have hop := hq.opcode
    rw [frameReceive_of_arrives ha (by omega), rxContext_of_names ((keepsXpt_of_arrives ha).names hn) ((keepsXpt_of_arrives ha).sequenced hq).opened,
      rxOnConn_of_sequenced ((keepsXpt_of_arrives ha).names hn) ((keepsXpt_of_arrives ha).sequenced hq), hw]
  have hp := KeepsXpt.pfcUpdate w (i / 16384)
  exact ⟨_, congrArg Host.Outcome.next ((congrArg settle hx).trans (settle_of_no_errors (hp.unitErrs.trans he))), hp⟩

/-- The packet that is expected: in `x` the connection is extended by it, and acknowledging it changes no more of the message in
progress than that, whatever message has been accepted (`l`). -/
theorem exec_frameReceive_expected (ha : Arrives s p f u) (hn : Names s (Hdr.ofBytes f.header) i)
    (hq : Sequenced s (Hdr.ofBytes f.header) f i) (he : s.unitErrs = []) (hpsn : (Hdr.ofBytes f.header).psn = (s.conn i).ePsn)
    (hheld : (s.conn i).heldRx = []) (hexp : (s.conn i).Expects ((Hdr.ofBytes f.header).packet f.payload f.ce f.at_)) :
    ∃ (x : State) (b : Bool) (now : Nat), KeepsOthers i s x ∧ (∀ q, x.qOff q = s.qOff q) ∧
      x.conn i = Conn.extended { s.conn i with ceNew := b } ((Hdr.ofBytes f.header).packet f.payload f.ce f.at_) now ∧
      ∀ l, (if (Hdr.ofBytes f.header).last then
          deliverMsg x i (Hdr.ofBytes f.header).opcode false ((s.conn i).rxPart ++ f.payload)
            ((s.conn i).arrivalOf ((Hdr.ofBytes f.header).packet f.payload f.ce f.at_))
        else x) = { x with inbox := l } →
        ∃ t n d e k, exec (.frameReceive p f) s = .next t ∧ KeepsOthers i { x with inbox := l } t ∧
          t.conn i = { x.conn i with ackRun := n, ackDueAt := d, ceNew := e, keys := k } := by
  let v := u.noteRx i f.ce
  let pkt := (Hdr.ofBytes f.header).packet f.payload f.ce f.at_
  let y := v.noteCe i f.ce
  let x := y.updConn i fun c => c.extended pkt y.time
  have hv : v.conn i = s.conn i := noteRx_conn_of_arrives ha i
  have hy : y.conn i = { s.conn i with ceNew := (s.conn i).ceNew || f.ce } := (v.noteCe_conn i f.ce).trans (by rw [hv])
  have hx : x.conn i = Conn.extended { s.conn i with ceNew := (s.conn i).ceNew || f.ce } pkt y.time :=
    (y.conn_updConn_self i _).trans (by rw [hy])
  have hxk : KeepsOthers i s x := ((noteRx_of_arrives ha i).updConn _).updConn _
  have hoff (q : Nat) : x.qOff q = s.qOff q := by
    rw [State.qOff_updConn]
    exact (v.qOff_updConn _ _ q).trans ((u.qOff_noteRx _ _ q).trans ((keepsXpt_of_arrives ha).qOff q))
  refine ⟨x, _, _, hxk, hoff, hx, fun l hl => ?_⟩
  have hexp' : (y.conn i).Expects pkt := by
    obtain ⟨hgood, hmsn, hidx, hroom, hstart, hon, hfull⟩ := hexp
    rw [hy]
    exact ⟨hgood, hmsn, hidx, hroom, hstart, hon, hfull⟩
  have hw : deliverPkt y i pkt = { x with inbox := l } := by
    rw [deliverPkt_of_expected hexp', hy]
    exact hl
  have hlt : (Hdr.ofBytes f.header).psn < 16777216 := fieldAt_lt _ _ 3
  have hd : serialDiff 16777216 (Hdr.ofBytes f.header).psn (v.conn i).ePsn < 64 := by
    rw [hv, ← hpsn, serialDiff_self hlt]
    decide
  have hr := rxSequenced_within (s := v) (h := Hdr.ofBytes f.header) f.payload f.ce f.at_ hd (by rw [hv, hheld]; rfl)
  have hheldx : (x.conn i).heldRx = [] := (congrArg Conn.heldRx hx).trans hheld
  rw [State.placePkt_next _ _ _ (hpsn.trans (congrArg Conn.ePsn hv).symm) hlt ((congrArg (fun w => (State.conn w i).heldRx) hw).trans hheldx),
    hw] at hr
  have hk := KeepsOthers.ackOrDelay { x with inbox := l } i ((Hdr.ofBytes f.header).ackReq || (v.conn i).heldRx != [])
  obtain ⟨n, d, e, k, hconn⟩ := State.ackOrDelay_conn { x with inbox := l } i ((Hdr.ofBytes f.header).ackReq || (v.conn i).heldRx != [])
  obtain ⟨t, ht, hp⟩ := exec_frameReceive_sequenced ha hn hq hr (hk.unitErrs.trans (hxk.unitErrs.trans he))
  exact ⟨t, n, d, e, k, ht, hk.trans (hp.keepsOthers i), (hp.conn i).trans hconn⟩

/-- A packet newer than the one that is expected is held. -/
theorem exec_frameReceive_newer (ha : Arrives s p f u) (hn : Names s (Hdr.ofBytes f.header) i)
    (hq : Sequenced s (Hdr.ofBytes f.header) f i) (he : s.unitErrs = [])
    (hpos : 0 < serialDiff 16777216 (Hdr.ofBytes f.header).psn (s.conn i).ePsn)
    (hlt : serialDiff 16777216 (Hdr.ofBytes f.header).psn (s.conn i).ePsn < 64)
    (hnew : ((s.conn i).heldRx.any fun x => x.psn == (Hdr.ofBytes f.header).psn) = false) :
    ∃ t n d e k, exec (.frameReceive p f) s = .next t ∧ KeepsOthers i s t ∧
      t.conn i = { s.conn i with
        heldRx := (s.conn i).heldRx ++ [(Hdr.ofBytes f.header).packet f.payload f.ce f.at_]
        ackRun := n, ackDueAt := d, ceNew := e, keys := k } := by
  let v := u.noteRx i f.ce
  let w := (v.noteCe i f.ce).updConn i fun c =>
    { c with heldRx := c.heldRx ++ [(Hdr.ofBytes f.header).packet f.payload f.ce f.at_] }
  have hv : v.conn i = s.conn i := noteRx_conn_of_arrives ha i
  have hw : KeepsOthers i s w := ((noteRx_of_arrives ha i).updConn _).updConn _
  have hwc : w.conn i = { s.conn i with
      ceNew := (s.conn i).ceNew || f.ce
      heldRx := (s.conn i).heldRx ++ [(Hdr.ofBytes f.header).packet f.payload f.ce f.at_] } := by
    rw [State.conn_updConn_self, State.noteCe_conn, hv]
  have hr := rxSequenced_within (s := v) (h := Hdr.ofBytes f.header) f.payload f.ce f.at_ (by rw [hv]; exact hlt) (by rw [hv]; exact hnew)
  have hpl : v.placePkt i (Hdr.ofBytes f.header) f.payload f.ce f.at_ = w := if_neg (by rw [hv]; omega)
  rw [hpl] at hr
  have hk := KeepsOthers.ackOrDelay w i ((Hdr.ofBytes f.header).ackReq || (v.conn i).heldRx != [])
  obtain ⟨n, d, e, k, hconn⟩ := State.ackOrDelay_conn w i ((Hdr.ofBytes f.header).ackReq || (v.conn i).heldRx != [])
  obtain ⟨t, ht, hp⟩ := exec_frameReceive_sequenced ha hn hq hr (hk.unitErrs.trans (hw.unitErrs.trans he))
  exact ⟨t, n, d, e, k, ht, (hw.trans hk).trans (hp.keepsOthers i), (hp.conn i).trans (hconn.trans (by rw [hwc]))⟩

/-- A duplicate, or a packet beyond the window, is answered and leaves what has been received. -/
theorem exec_frameReceive_dropped (ha : Arrives s p f u) (hn : Names s (Hdr.ofBytes f.header) i)
    (hq : Sequenced s (Hdr.ofBytes f.header) f i) (he : s.unitErrs = [])
    (hdrop : 8388608 ≤ serialDiff 16777216 (Hdr.ofBytes f.header).psn (s.conn i).ePsn ∨
      ((s.conn i).heldRx.any fun x => x.psn == (Hdr.ofBytes f.header).psn) = true ∨
      64 ≤ serialDiff 16777216 (Hdr.ofBytes f.header).psn (s.conn i).ePsn) :
    ∃ t n d e k, exec (.frameReceive p f) s = .next t ∧ KeepsOthers i s t ∧
      t.conn i = { s.conn i with ackRun := n, ackDueAt := d, ceNew := e, keys := k } := by
  have hv := noteRx_of_arrives ha i
  have hvc := noteRx_conn_of_arrives ha i
  obtain ⟨hk, n, d, e, k, hkc⟩ := rxSequenced_dropped (s := u.noteRx i f.ce) (h := Hdr.ofBytes f.header) f.payload f.ce f.at_
    (by rw [hvc]; exact hdrop)
  obtain ⟨t, ht, hp⟩ := exec_frameReceive_sequenced ha hn hq rfl (hk.unitErrs.trans (hv.unitErrs.trans he))
  exact ⟨t, n, d, e, k, ht, (hv.trans hk).trans (hp.keepsOthers i), (hp.conn i).trans (hkc.trans (by rw [hvc]))⟩

end Receive

/-- Settles O42: the checks let the packet through to its place in PSN order, and what stands there decides. -/
theorem packetsArriveInOrder : Obligations.PacketsArriveInOrder := by
  unfold Obligations.PacketsArriveInOrder
  intro s u p f i h c ha hn he hopened hplain hconn hop hack hhome d
  have hq : Sequenced s h f i := ⟨hopened, hplain, hconn, hop, hack, hhome⟩
  refine ⟨fun hpsn hheld hbad hmsn hidx hroom hstart hon => ⟨fun hlast hop' hlen hoff => ?complete, fun hlast hlen => ?more⟩,
    fun hpos hlt hnew => ?newer, fun hdrop => ?dropped⟩
  case complete =>
    have hexp : c.Expects (h.packet f.payload f.ce f.at_) :=
      ⟨hbad, hmsn, hidx, hroom, hstart, hon, fun hl => absurd (hlast.symm.trans hl) (by decide)⟩
    obtain ⟨x, b, now, hx, hxoff, hxc, hexec⟩ := exec_frameReceive_expected ha hn hq he hpsn hheld hexp
    obtain ⟨t, n, e, b', k, ht, hk, htc⟩ := hexec _ ((if_pos hlast).trans (deliverMsg_of_good hop' hlen ((hxoff _).trans hoff) _))
    rw [hxc] at htc
    refine ⟨t, ht, hk.inbox.trans (congrArg (· ++ _) hx.inbox), ?_, ?_, ?_, ?_, ?_, fun j hj => (hk.others j hj).trans (hx.others j hj),
      hk.hbm.trans hx.hbm, hk.sec.trans hx.sec⟩ <;> rw [htc]
    · exact congrArg (fun n => (n + 1) % 16777216) hpsn
    · exact if_pos hlast
    · exact if_pos hlast
    · exact if_pos hlast
    · exact hopened
  case more =>
    have hnot : ¬ h.last = true := ne_true_of_eq_false hlast
    obtain ⟨x, b, now, hx, -, hxc, hexec⟩ := exec_frameReceive_expected ha hn hq he hpsn hheld
      ⟨hbad, hmsn, hidx, hroom, hstart, hon, fun _ => hlen⟩
    obtain ⟨t, n, e, b', k, ht, hk, htc⟩ := hexec x.inbox (if_neg hnot)
    rw [hxc] at htc
    refine ⟨t, ht, hk.inbox.trans hx.inbox, ?_, ?_, ?_, ?_, fun j hj => (hk.others j hj).trans (hx.others j hj),
      hk.hbm.trans hx.hbm, hk.sec.trans hx.sec⟩ <;> rw [htc]
    · exact congrArg (fun n => (n + 1) % 16777216) hpsn
    · exact if_neg hnot
    · exact if_neg hnot
    · exact if_neg hnot
  case newer =>
    obtain ⟨t, n, e, b, k, ht, hk, htc⟩ := exec_frameReceive_newer ha hn hq he hpos hlt hnew
    exact ⟨t, ht, hk.inbox, by rw [htc], by rw [htc]; rfl, hk.hbm⟩
  case dropped =>
    obtain ⟨t, n, e, b, k, ht, hk, htc⟩ := exec_frameReceive_dropped ha hn hq he hdrop
    exact ⟨t, ht, hk.inbox, by rw [htc], by rw [htc], by rw [htc], hk.hbm⟩

end Sys2Proof.Machine
end

section
/-!
PROOFS. What an ACK without a bitmap does to its connection (R231 to R235).
-/
namespace Sys2Proof.Machine

/-! ### An ACK without a bitmap (R231, R232, R234, R235) -/

theorem newlyAcked_zero (a : Nat) (p : TxPkt) : newlyAcked a 0 p = (psnNewer a p.psn, false) := by
  unfold newlyAcked bit
  simp

theorem fastResends_zero (c : Conn) (now a : Nat) : fastResends c now a 0 = [] := by
  unfold fastResends bit
  simp

/-- `d` is connection `c` after it has taken an ACK of everything before PSN a: its copies, its retry count and ACK_PSN; its messages
and its state stand. -/
structure Conn.AckedTo (a : Nat) (c d : Conn) : Prop where
  ackPsn : d.ackPsn = a
  retries : d.retries = 0
  flight : d.flight = c.flight.filter fun x => !psnNewer a x.psn
  state : d.state = c.state
  queue : d.queue = c.queue

namespace Conn.AckedTo
variable {a : Nat} {c d : Conn}

theorem rttSample (h : AckedTo a c d) (r lo hi : Nat) : AckedTo a c (rttSample d r lo hi) :=
  ⟨h.ackPsn, h.retries, h.flight, h.state, h.queue⟩

theorem ccAck (h : AckedTo a c d) (now b : Nat) (ece : Bool) (sample : Option Nat) (target ai md top : Nat) :
    AckedTo a c (ccAck d now b ece sample target ai md top).1 := by
  have hall (d' : Conn) (x : Conn) (hx : x = { d' with cwnd := x.cwnd, acc := x.acc, decTime := x.decTime }) (hd : AckedTo a c d') :
      AckedTo a c x := by
    rw [hx]
    exact ⟨hd.ackPsn, hd.retries, hd.flight, hd.state, hd.queue⟩
  unfold Machine.ccAck
  dsimp only
  split
  · split
    · split <;> exact hall d _ rfl h
    · split <;> exact hall d _ rfl h
  · exact hall d _ rfl h

end Conn.AckedTo


/-- The copies that an ACK newly acknowledges. -/
def Conn.newly (c : Conn) (a sack : Nat) : List TxPkt :=
  c.flight.filter fun p => !p.sacked && ((newlyAcked a sack p).1 || (newlyAcked a sack p).2)

/-- The RTT sample of an ACK: of the newest of those copies, unless it was resent (R232). -/
def State.ackSample (s : State) (c : Conn) (a sack : Nat) : Option Nat :=
  let newest := (c.newly a sack).foldl (fun (x : Option TxPkt) p => match x with
    | none => some p | some b => if psnNewer p.psn b.psn then some p else some b) none
  match newest with | some p => if p.resent then none else some (s.time - p.sentAt) | none => none

/-- The copies that an ACK leaves (R231). -/
def Conn.copiesAfter (c : Conn) (a sack : Nat) : List TxPkt :=
  (c.flight.filter fun p => !(newlyAcked a sack p).1).map fun p => if (newlyAcked a sack p).2 then { p with sacked := true } else p

/-- A connection after an ACK, before its window follows: `moved` says that the ACK is newer than the one before. -/
def State.ackBase (s : State) (i a sack : Nat) (moved : Bool) : Conn :=
  let c := s.conn i
  let d := { c with flight := c.copiesAfter a sack, ackPsn := if moved then a else c.ackPsn, lastActive := s.time
                    retries := if moved then 0 else c.retries }
  let d := match s.ackSample c a sack with
    | some r => rttSample d r (s.rtoMin (i / 16384) * 1000) (s.rtoMax (i / 16384) * 1000) | none => d
  { d with timerAt := if !((c.copiesAfter a sack).any fun p => !p.sacked) then none else if moved then some (s.time + d.rto) else d.timerAt }

/-- The window of a connection after an ACK, and whether it was decreased (R235, R237). -/
def State.ackWindow (s : State) (q : Nat) (ece : Bool) (c : Conn) (sample : Option Nat) (bytes : Nat) : Conn × Bool :=
  if s.assisted 5 then
    ({ c with assistMark := c.assistMark || ccSignal ece (s.rttTarget q) sample, ccCe := c.ccCe + b2n ece
              ccRtt := max c.ccRtt (sample.getD 0) }, false)
  else ccAck { c with cwnd := min c.cwnd (s.cwndMax q) } s.time bytes ece sample (s.rttTarget q) (s.aiBytes q) (s.mdShift q) (s.cwndMax q)

/-- The end of an ACK: the connection is put back, a decrease counted, and packets shown lost are resent (R234). -/
def State.ackFinish (s : State) (i a sack : Nat) (r : Conn × Bool) : State :=
  let u := s.updConn i fun _ => r.1
  let u := if r.2 then u.count bXPT (i / 16384) 14 else u
  let fast := fastResends r.1 u.time a sack
  let u := u.updConn i fun c => { c with flight := c.flight.map fun p => if fast.contains p.psn then { p with fastAt := some u.time } else p }
  (fast.foldl (fun u p => u.resendPkt i p) u).closeStep i

section Ack
variable {s : State} {i a : Nat}

/-- An ACK that is not beyond what was sent takes its copies, and then the window follows. -/
theorem ackCore_of_sent {sack : Nat} {ece : Bool}
    (h : ¬ (decide (serialDiff 16777216 a (s.conn i).ackPsn > serialDiff 16777216 (s.conn i).nextPsn (s.conn i).ackPsn) &&
      decide (serialDiff 16777216 a (s.conn i).ackPsn < 8388608)) = true) :
    ackCore s i a ece sack = s.ackFinish i a sack (s.ackWindow (i / 16384) ece
      (s.ackBase i a sack (!decide (serialDiff 16777216 a (s.conn i).ackPsn > serialDiff 16777216 (s.conn i).nextPsn (s.conn i).ackPsn) &&
        serialDiff 16777216 a (s.conn i).ackPsn != 0))
      (s.ackSample (s.conn i) a sack) (((s.conn i).newly a sack).map TxPkt.size).sum) := by
  unfold ackCore
  extract_lets
  rw [if_neg h]
  rfl

/-- Without a bitmap, an ACK that moves ACK_PSN takes the copies before it. -/
theorem State.ackBase_acked (s : State) (i a : Nat) : Conn.AckedTo a (s.conn i) (s.ackBase i a 0 true) := by
  have hcopies : (s.conn i).copiesAfter a 0 = (s.conn i).flight.filter fun x => !psnNewer a x.psn := by
    simp [Conn.copiesAfter, newlyAcked_zero]
  unfold State.ackBase
  dsimp only
  split <;> exact ⟨rfl, rfl, hcopies, rfl, rfl⟩

theorem State.ackBase_window (s : State) (i a sack : Nat) (moved : Bool) :
    (s.ackBase i a sack moved).cwnd = (s.conn i).cwnd ∧ (s.ackBase i a sack moved).decTime = (s.conn i).decTime := by
  unfold State.ackBase
  dsimp only
  split <;> exact ⟨rfl, rfl⟩

theorem Conn.AckedTo.ackWindow {c d : Conn} (h : Conn.AckedTo a c d) (s : State) (q : Nat) (ece : Bool) (sample : Option Nat) (bytes : Nat) :
    Conn.AckedTo a c (s.ackWindow q ece d sample bytes).1 := by
  unfold State.ackWindow
  split
  · exact ⟨h.ackPsn, h.retries, h.flight, h.state, h.queue⟩
  · exact Conn.AckedTo.ccAck (d := { d with cwnd := min d.cwnd (s.cwndMax q) }) ⟨h.ackPsn, h.retries, h.flight, h.state, h.queue⟩
      _ _ _ _ _ _ _ _

/-- The first mark of congestion shrinks the window, while the node itself controls congestion. -/
theorem State.ackWindow_ece {d : Conn} {q : Nat} (ha : s.assisted 5 = false) (hd : d.decTime = none) (sample : Option Nat) (bytes : Nat) :
    (s.ackWindow q true d sample bytes).1.cwnd =
      max cwndFloor (min d.cwnd (s.cwndMax q) - min d.cwnd (s.cwndMax q) / 2 ^ s.mdShift q) := by
  unfold State.ackWindow ccAck ccSignal
  simp [ha, hd]

theorem State.closeStep_of_opened (h : (s.conn i).state = .opened) : s.closeStep i = s :=
  if_neg fun hc => absurd (h.symm.trans hc.1) (by decide)

/-- Without a bitmap nothing is shown lost: the connection is put back. -/
theorem State.ackFinish_zero {r : Conn × Bool} (hr : r.1.state = .opened) :
    KeepsOthers i s (s.ackFinish i a 0 r) ∧ (s.ackFinish i a 0 r).conn i = r.1 := by
  let u := s.updConn i fun _ => r.1
  let v := if r.2 then u.count bXPT (i / 16384) 14 else u
  let w := v.updConn i fun c => { c with flight := c.flight.map fun p => p }
  have hu : KeepsOthers i s u := (KeepsOthers.refl i s).updConn _
  have hv : KeepsOthers i s v := .ite (hu.count _ _ _ _) hu
  have hvc : v.conn i = r.1 := by
    have huc : u.conn i = r.1 := State.conn_updConn_self s i _
    simp only [v]
    split
    · rw [State.conn_count, huc]
    · exact huc
  have hwc : w.conn i = r.1 := by
    rw [State.conn_updConn_self, hvc, List.map_id']
  have hw : s.ackFinish i a 0 r = w := by
    have hf : s.ackFinish i a 0 r = w.closeStep i := by
      unfold State.ackFinish
      simp only [fastResends_zero, List.foldl_nil]
      rfl
    rw [hf, State.closeStep_of_opened (by rw [hwc, hr])]
  rw [hw]
  exact ⟨hv.updConn _, hwc⟩

/-- What an ACK within what was sent does, without a bitmap. -/
theorem ackCore_acks (hopen : (s.conn i).state = .opened) (hpos : 0 < serialDiff 16777216 a (s.conn i).ackPsn)
    (hle : serialDiff 16777216 a (s.conn i).ackPsn ≤ serialDiff 16777216 (s.conn i).nextPsn (s.conn i).ackPsn) (ece : Bool) :
    KeepsOthers i s (ackCore s i a ece 0) ∧ Conn.AckedTo a (s.conn i) ((ackCore s i a ece 0).conn i) ∧
      (ece = true → s.assisted 5 = false → (s.conn i).decTime = none → ((ackCore s i a ece 0).conn i).cwnd =
        max cwndFloor (min (s.conn i).cwnd (s.cwndMax (i / 16384)) -
          min (s.conn i).cwnd (s.cwndMax (i / 16384)) / 2 ^ s.mdShift (i / 16384))) := by
  have hstale : decide (serialDiff 16777216 a (s.conn i).ackPsn > serialDiff 16777216 (s.conn i).nextPsn (s.conn i).ackPsn) = false := by
    rw [decide_eq_false_iff_not]
    omega
  have hmoved : (serialDiff 16777216 a (s.conn i).ackPsn != 0) = true := by
    rw [bne_iff_ne]
    omega
  rw [ackCore_of_sent (by rw [hstale]; exact Bool.false_ne_true), hstale, hmoved, Bool.not_false, Bool.and_self]
  have hacked := (s.ackBase_acked i a).ackWindow s (i / 16384) ece (s.ackSample (s.conn i) a 0) (((s.conn i).newly a 0).map TxPkt.size).sum
  obtain ⟨hk, hc⟩ := State.ackFinish_zero (s := s) (i := i) (a := a) (hacked.state.trans hopen)
  obtain ⟨hcwnd, hdec⟩ := s.ackBase_window i a 0 true
  refine ⟨hk, by rw [hc]; exact hacked, fun he ha hd => ?_⟩
  rw [hc, he, State.ackWindow_ece ha (hdec.trans hd), hcwnd]

end Ack

end Sys2Proof.Machine
end

section
/-!
PROOFS. Refusals, expiries and the packets that leave, and the obligation about acknowledgements (R230 to R235).
-/
namespace Sys2Proof.Machine

/-! ### Expiries of the RTO (R232, R233) -/

section Rto
variable {s : State} {i : Nat}

/-- The eighth expiry is an error of the connection. -/
theorem rtoCore_of_spent (h : 7 ≤ (s.conn i).retries) : rtoCore s i = (s.count bXPT (i / 16384) 3).connError i sCONNERR := by
  unfold rtoCore
  exact if_pos h

/-- `d` is connection `c` after an expiry at a time, with the RTO at most `top`: the RTO doubles, the window is one packet, and each
copy is still there. -/
structure Conn.Expired (top now : Nat) (c d : Conn) : Prop where
  rto : d.rto = min (2 * c.rto) top
  retries : d.retries = c.retries + 1
  cwnd : d.cwnd = cwndFloor
  timerAt : d.timerAt = some (now + min (2 * c.rto) top)
  psns : d.flight.map (·.psn) = c.flight.map (·.psn)

/-- An expiry before the eighth resends the oldest copy that is outstanding. -/
theorem rtoCore_of_unspent (h : (s.conn i).retries < 7) :
    KeepsOthers i s (rtoCore s i) ∧ Conn.Expired (s.rtoMax (i / 16384) * 1000) s.time (s.conn i) ((rtoCore s i).conn i) := by
  let u := s.count bXPT (i / 16384) 3
  let v := u.updConn i fun c => { c with rto := min (2 * c.rto) (u.rtoMax (i / 16384) * 1000), retries := c.retries + 1, cwnd := cwndFloor
                                         acc := 0, decTime := some u.time }
  let w := v.updConn i fun c => { c with timerAt := some (v.time + c.rto) }
  have hu : Posts s u := (Posts.refl s).count _ _ _ _
  have hw : KeepsOthers i s w := (((KeepsOthers.refl i s).posts hu).updConn _).updConn _
  have htop : u.rtoMax (i / 16384) = s.rtoMax (i / 16384) := by
    unfold State.rtoMax State.rtoMin
    rw [hu.reg]
  have htime : v.time = s.time := hu.time
  have hwc : w.conn i = { s.conn i with
      rto := min (2 * (s.conn i).rto) (s.rtoMax (i / 16384) * 1000), retries := (s.conn i).retries + 1, cwnd := cwndFloor, acc := 0
      decTime := some s.time, timerAt := some (s.time + min (2 * (s.conn i).rto) (s.rtoMax (i / 16384) * 1000)) } := by
    rw [State.conn_updConn_self, State.conn_updConn_self, hu.conn, htop, htime, hu.time]
  have hr : rtoCore s i = match (s.conn i).flight.find? fun p => !p.sacked with | some p => w.resendPkt i p.psn | none => w := by
    unfold rtoCore
    exact if_neg (by omega)
  rw [hr]
  split
  case h_1 p hp =>
    have hf : ∃ x, (w.conn i).flight.find? (fun x => x.psn == p.psn) = some x := by
      rw [hwc]
      exact Option.isSome_iff_exists.mp (List.find?_isSome.mpr ⟨p, List.mem_of_find?_eq_some hp, beq_self_eq_true _⟩)
    obtain ⟨x, hx⟩ := hf
    obtain ⟨k, hk⟩ := State.resendPkt_conn w i hx
    refine ⟨hw.resendPkt _, ?_⟩
    rw [hk, hwc]
    exact ⟨rfl, rfl, rfl, rfl, by simp⟩
  case h_2 =>
    refine ⟨hw, ?_⟩
    rw [hwc]
    exact ⟨rfl, rfl, rfl, rfl, rfl⟩

end Rto

/-! ### NAK (R230) -/

section Nak
variable {s : State} {i : Nat} {b : Bytes}

/-- A connection in OPEN, in a Quarter that is on, takes NAKs. -/
theorem exec_nak {at_ : Nat} (hopen : (s.conn i).state = .opened) (hoff : s.qOff (i / 16384) = false) {t : State}
    (ht : nakCore (s.advance at_) i b = t) : exec (.nak i at_ b) s = .next (settle t) := by
  have hc : (((s.advance at_).conn i).carries && !(s.advance at_).qOff (i / 16384)) = true := by
    have hq : (s.advance at_).qOff (i / 16384) = false := hoff
    rw [hq, State.conn_advance, Conn.carries, hopen]
    rfl
  rw [← ht]
  exact congrArg Host.Outcome.next (if_pos hc)

/-- The body of a NAK keeps to its layout. -/
structure NakBody (b : Bytes) : Prop where
  length : b.length = 12
  byte1 : byteAt b 1 = 0
  byte7 : byteAt b 7 = 0
  zeros : zeroRange b 8 12 = true

theorem nakCore_of_bad_length (h : b.length ≠ 12) : nakCore s i b = s.count bXPT (i / 16384) 17 := by
  unfold nakCore
  simp [h]

theorem nakCore_window (h : NakBody b) (hst : byteAt b 0 = sWINDOW) : nakCore s i b = s := by
  unfold nakCore
  simp [h.length, h.byte1, h.byte7, h.zeros, hst]

/-- A copy that a CTX_BUSY has refused. -/
def TxPkt.refused (psn busy : Nat) (retry : Option Nat) (x : TxPkt) : TxPkt :=
  if x.psn = psn then { x with busy := busy, retryAt := retry } else x

@[simp] theorem TxPkt.psn_refused (n busy : Nat) (retry : Option Nat) (x : TxPkt) : (x.refused n busy retry).psn = x.psn := by
  unfold TxPkt.refused
  split <;> rfl

/-- The connection with a copy refused. -/
def State.refusePkt (s : State) (i psn busy : Nat) (retry : Option Nat) : State :=
  s.updConn i fun c => { c with flight := c.flight.map (TxPkt.refused psn busy retry) }

theorem State.refusePkt_conn (s : State) (i psn busy : Nat) (retry : Option Nat) :
    (s.refusePkt i psn busy retry).conn i = { s.conn i with flight := (s.conn i).flight.map (TxPkt.refused psn busy retry) } :=
  State.conn_updConn_self _ _ _

/-- A CTX_BUSY for an outstanding copy puts its resend off; the 64th in a row is an expiry. -/
theorem nakCore_busy (h : NakBody b) (hst : byteAt b 0 = sCTXBUSY) {x : TxPkt}
    (hx : ((s.conn i).flight.find? fun y => y.psn == fieldAt b 4 3 && !y.sacked) = some x) :
    nakCore s i b =
      if x.busy + 1 ≥ 64 then rtoCore (s.refusePkt i (fieldAt b 4 3) 0 none) i
      else s.refusePkt i (fieldAt b 4 3) (x.busy + 1) (some (s.time + fieldAt b 2 2 * 1000)) := by
  have hne : ¬ sCTXBUSY = sWINDOW := by decide
  unfold nakCore
  simp only [h.length, h.byte1, h.byte7, h.zeros, hst, hx, hne]
  rfl

end Nak

/-! ### Packets that leave (R231, R235) -/

section Send
variable {s : State} {i : Nat} {m : OutMsg} {rest : List OutMsg}

/-- The next packet of the oldest message of a connection. -/
def State.nextPkt (s : State) (i : Nat) (m : OutMsg) : TxPkt :=
  { psn := (s.conn i).nextPsn, opcode := m.opcode, msn := (s.conn i).msnTx % 65536, idx := (s.conn i).sentOfHead
    last := m.body.length ≤ ((s.conn i).sentOfHead + 1) * 4096
    payload := (m.body.drop ((s.conn i).sentOfHead * 4096)).take 4096, hint := m.hint, owner := m.owner, sentAt := s.time }

/-- A connection after the next packet of its oldest message has left. -/
def Conn.sent (c : Conn) (p : TxPkt) (rest : List OutMsg) (now : Nat) : Conn :=
  { c with nextPsn := (c.nextPsn + 1) % 16777216, flight := c.flight ++ [p], queue := if p.last then rest else c.queue
           sentOfHead := if p.last then 0 else c.sentOfHead + 1, msnTx := if p.last then (c.msnTx + 1) % 65536 else c.msnTx
           timerAt := match c.timerAt with | some t => some t | none => some (now + c.rto) }

/-- A packet that leaves starts the timer, when it does not run. -/
theorem Conn.sent_timerAt (c : Conn) (p : TxPkt) (rest : List OutMsg) (now : Nat) :
    (c.sent p rest now).timerAt = some (match c.timerAt with | some y => y | none => now + c.rto) := by
  unfold Conn.sent
  dsimp only
  cases c.timerAt <;> rfl

/-- An OPEN connection has a message to send, and its context is at hand. -/
structure State.Sends (s : State) (i : Nat) (m : OutMsg) (rest : List OutMsg) : Prop where
  opened : (s.conn i).state = .opened
  queue : (s.conn i).queue = m :: rest
  cached : ((s.qtr (i / 16384)).xpt.ctx.look (i % 16384)).map (·.fetching) = some false

/-- A packet for which the congestion window has no room waits. -/
theorem packetSend_waits (h : s.Sends i m rest)
    (hfull : (s.conn i).outstanding + (s.nextPkt i m).payload.length + 64 > (s.conn i).cwnd) : packetSend s i = s := by
  obtain ⟨hopen, hqueue, hctx⟩ := h
  obtain ⟨e, he, hf⟩ := Option.map_eq_some_iff.mp hctx
  unfold packetSend
  simp only [hqueue, hopen, he, hf]
  rw [if_neg (by simp), if_neg (by simp)]
  split
  · rfl
  · exact if_pos hfull

/-- A packet that every limit allows leaves, and its copy is kept. -/
theorem packetSend_leaves (h : s.Sends i m rest) (hpsn : serialDiff 16777216 (s.conn i).nextPsn (s.conn i).ackPsn ≤ 63)
    (hcwnd : (s.conn i).outstanding + (s.nextPkt i m).payload.length + 64 ≤ (s.conn i).cwnd)
    (hbuf : s.rtxBytes (i / 16384) + (s.nextPkt i m).payload.length + 64 ≤ 8388608) :
    KeepsOthers i s (packetSend s i) ∧ ∃ k, (packetSend s i).conn i =
      { (s.conn i).sent (s.nextPkt i m) rest s.time with ackRun := 0, ackDueAt := none, ceNew := false, lastActive := s.time, keys := k } := by
  obtain ⟨hopen, hqueue, hctx⟩ := h
  obtain ⟨e, he, hf⟩ := Option.map_eq_some_iff.mp hctx
  dsimp only [State.nextPkt] at hcwnd hbuf
  unfold packetSend
  simp only [hqueue, hopen, he, hf]
  rw [if_neg (by simp), if_neg (by simp), if_neg (by omega), if_neg (by omega), if_neg (by omega)]
  refine ⟨((KeepsOthers.refl i s).updConn _).transmit _ _, ?_⟩
  obtain ⟨k, hk⟩ := State.transmit_conn _ i _ _
  refine ⟨k, hk.trans ?_⟩
  simp only [State.conn_updConn_self, Conn.sent, State.nextPkt, decide_eq_true_eq]
  rfl

end Send

/-! ### The obligation -/

section Timers
variable {s : State} {i at_ : Nat}

/-- An OPEN connection in a Quarter that is on takes ACKs. -/
theorem exec_ack (hopen : (s.conn i).state = .opened) (hoff : s.qOff (i / 16384) = false) {a : Nat} (ha : a < 16777216) (ece : Bool)
    (sack : Nat) : exec (.ack i at_ a ece sack) s = .next (ackCore (s.advance at_) i a ece sack) := by
  have hc : (((s.advance at_).conn i).carries && !(s.advance at_).qOff (i / 16384)) = true := by
    have hq : (s.advance at_).qOff (i / 16384) = false := hoff
    rw [hq, State.conn_advance, Conn.carries, hopen]
    rfl
  have hx : exec (.ack i at_ a ece sack) s = .next (ackCore (s.advance at_) i (a % 16777216) ece sack) :=
    congrArg Host.Outcome.next (if_pos hc)
  rw [hx, Nat.mod_eq_of_lt ha]

theorem exec_packetSend (hoff : s.qOff (i / 16384) = false) :
    exec (.packetSend i at_) s = .next (packetSend (s.advance at_) i) :=
  congrArg Host.Outcome.next (if_neg (by rw [hoff]; exact Bool.false_ne_true))

/-- The timer of an OPEN connection is that of its outstanding packets. -/
theorem exec_rtoExpiry (hopen : (s.conn i).state = .opened) (hoff : s.qOff (i / 16384) = false) {y : Nat}
    (hy : (s.conn i).timerAt = some y) : exec (.rtoExpiry i) s = .next (settle (rtoCore (s.advance y) i)) := by
  have hr : rtoExpiry s i = rtoCore (s.advance y) i := by
    unfold rtoExpiry
    simp only [hopen, hy]
  rw [← hr]
  exact congrArg Host.Outcome.next (if_neg (by rw [hoff]; exact Bool.false_ne_true))

theorem exec_ackDelayExpiry (hopen : (s.conn i).state = .opened) (hoff : s.qOff (i / 16384) = false) {y : Nat}
    (hy : (s.conn i).ackDueAt = some y) : exec (.ackDelayExpiry i) s = .next ((s.advance y).sendAck i) := by
  change execAckDelayExpiry i s = _
  simp [execAckDelayExpiry, hy, Conn.carries, hopen, hoff]

theorem exec_ctxBusyRetry (hoff : s.qOff (i / 16384) = false) {psn y : Nat} {x : TxPkt}
    (hx : ((s.conn i).flight.find? fun z => z.psn == psn) = some x) (hy : x.retryAt = some y) :
    exec (.ctxBusyRetry i psn) s = .next ((s.advance y).resendPkt i psn) := by
  change execCtxBusyRetry i psn s = _
  simp [execCtxBusyRetry, hx, hy, hoff]

end Timers

/-- Settles O44, clause by clause: what an ACK, a NAK, a packet that leaves and each timer make of the connection. -/
theorem acksAndResends : Obligations.AcksAndResends := by
  unfold Obligations.AcksAndResends
  intro s i q c hoff he hopen
  refine ⟨?ack, ?nak, ?badNak, ?send, ?expiry, ?ackDelay, ?retry⟩
  case ack =>
    intro at_ a ha adv hpos hle
    have hx (ece : Bool) := exec_ack (at_ := at_) hopen hoff ha ece 0
    have hcore (ece : Bool) := ackCore_acks (s := s.advance at_) hopen hpos hle ece
    refine ⟨fun ece => ?_, fun hassist hdec => ?_⟩
    · obtain ⟨hk, hacked, -⟩ := hcore ece
      exact ⟨_, hx ece, hacked.ackPsn, hacked.retries, congrArg (List.map (·.psn)) hacked.flight, hacked.state.trans hopen, hacked.queue,
        hk.others, hk.inbox, hk.hbm⟩
    · obtain ⟨-, -, hcwnd⟩ := hcore true
      exact ⟨_, hx true, hcwnd rfl hassist hdec⟩
  case nak =>
    intro at_ b hlen h1 h7 hz
    have hb : NakBody b := ⟨hlen, h1, h7, hz⟩
    refine ⟨fun hst => ?_, fun x hst hx hbusy => ?_, fun x hst hx hbusy => ?_⟩
    · rw [exec_nak hopen hoff (nakCore_window hb hst), settle_of_no_errors (s := s.advance at_) he]
    · have hn := nakCore_busy (s := s.advance at_) hb hst hx
      rw [if_neg (by omega)] at hn
      rw [exec_nak hopen hoff hn, settle_of_no_errors (s := (s.advance at_).refusePkt i _ _ _) he]
      rfl
    · have hn := nakCore_busy (s := s.advance at_) hb hst hx
      rw [if_pos (by omega)] at hn
      rw [exec_nak hopen hoff hn]
      let u := (s.advance at_).refusePkt i (fieldAt b 4 3) 0 none
      have hu : KeepsOthers i (s.advance at_) u := (KeepsOthers.refl i _).updConn _
      have huc : u.conn i = { c with flight := c.flight.map (TxPkt.refused (fieldAt b 4 3) 0 none) } := State.refusePkt_conn _ _ _ _ _
      refine ⟨fun hr => ?_, fun hr => ?_⟩
      · obtain ⟨hk, hx⟩ := rtoCore_of_unspent (s := u) (i := i) (by rw [huc]; exact hr)
        have hk := hu.trans hk
        rw [huc] at hx
        refine ⟨_, congrArg Host.Outcome.next (settle_of_no_errors (hk.unitErrs.trans he)), hx.rto, hx.retries, hx.cwnd, hx.timerAt,
          hx.psns.trans (by simp), hk.others, hk.inbox, hk.hbm⟩
      · rw [rtoCore_of_spent (s := u) (by rw [huc]; exact hr)]
        obtain ⟨hstate, hflight, -⟩ := State.connError_spec (u.count bXPT q 3) i sCONNERR
        exact ⟨_, rfl, hstate, hflight⟩
  case badNak =>
    intro at_ b hlen
    rw [exec_nak hopen hoff (nakCore_of_bad_length hlen), settle_of_no_errors (s := (s.advance at_).count _ _ _)
      (((Posts.refl _).count _ _ _ _).unitErrs.trans he)]
  case send =>
    intro at_ m rest hqueue hctx pay last
    have hs : (s.advance at_).Sends i m rest := ⟨hopen, hqueue, hctx⟩
    rw [exec_packetSend hoff]
    refine ⟨fun hfull => by rw [packetSend_waits hs hfull], fun hpsn hcwnd hbuf => ?_⟩
    obtain ⟨hk, k, hc⟩ := packetSend_leaves hs hpsn hcwnd hbuf
    refine ⟨_, (s.advance at_).nextPkt i m, rfl, ?_, rfl, rfl, rfl, rfl, rfl, rfl, rfl, ?_, ?_, ?_, hk.others, hk.inbox, hk.hbm⟩ <;> rw [hc]
    · rfl
    · rfl
    · exact congrArg (ite (last = true) rest) hqueue
    · exact (s.conn i).sent_timerAt ((s.advance at_).nextPkt i m) rest (s.advance at_).time
  case expiry =>
    intro y hy
    rw [exec_rtoExpiry hopen hoff hy]
    refine ⟨fun hr => ?_, fun hr => ?_⟩
    · obtain ⟨hk, hx⟩ := rtoCore_of_unspent (s := s.advance y) (i := i) hr
      exact ⟨_, congrArg Host.Outcome.next (settle_of_no_errors (hk.unitErrs.trans he)), hx.rto, hx.retries, hx.cwnd, hx.timerAt,
        hx.psns, hk.others, hk.inbox, hk.hbm⟩
    · rw [rtoCore_of_spent (s := s.advance y) hr]
      have hp : Posts (s.advance y) ((s.advance y).count bXPT q 3) := (Posts.refl _).count _ _ _ _
      obtain ⟨hstate, hflight, -, herrs, hothers, hhbm⟩ := State.connError_spec ((s.advance y).count bXPT q 3) i sCONNERR
      rw [hp.unitErrs, hp.conn] at herrs
      refine ⟨_, rfl, hstate, hflight, ?_, fun j hj => (hothers j hj).trans (hp.conn j), hhbm.trans hp.hbm⟩
      rw [herrs]
      exact congrArg (fun l => l ++ _ ++ _) he
  case ackDelay =>
    intro y hy
    obtain ⟨k, hk⟩ := (s.advance y).sendAck_conn (i := i)
    exact ⟨_, exec_ackDelayExpiry hopen hoff hy, rfl, by rw [hk], by rw [hk], by rw [hk]; rfl⟩
  case retry =>
    intro psn x y hx hy
    obtain ⟨k, hk⟩ := (s.advance y).resendPkt_conn i hx
    exact ⟨_, exec_ctxBusyRetry hoff hx hy, rfl, by rw [hk]; rfl, by rw [hk]; rfl, by rw [hk]; rfl⟩

end Sys2Proof.Machine
end

section
/-!
PROOFS. Connection timers, the context cache and the connection registers (R221, R225, R237, R238, R240, R241, R287).
-/
namespace Sys2Proof.Machine

/-- A table that pairs the numbers from `a` up with a list looks entries of the list up. -/
theorem Tab.look_zip_range' {α : Type} (l : List α) (n a k : Nat) (hk : k < n) : Tab.look (a + k) ((List.range' a n).zip l) = l[k]? := by
  induction l generalizing n a k with
  | nil => simp [Tab.look]
  | cons x xs ih =>
    obtain _ | n := n
    · omega
    · rw [List.range'_succ, List.zip_cons_cons, Tab.look]
      obtain _ | k := k
      · simp
      · rw [if_neg (by omega), List.getElem?_cons_succ, ← ih n (a + 1) k (by omega)]
        congr 1
        omega

/-- A HELLO takes no time. -/
theorem State.time_sendHello (s : State) (i kind status : Nat) : (s.sendHello i kind status).time = s.time := by
  have hd (c : Prop) [Decidable c] : (if c then s.drawTrng else (0, s)).2.time = s.time := by
    split <;> rfl
  exact (KeepsSquare.sendOn (.refl _) i _ _ _).time.trans (hd _)

section Timers
variable {s : State} {i : Nat}

/-- The end of ERR_HOLD frees a connection in ERROR. -/
theorem exec_errHoldExpiry (hoff : s.qOff (i / 16384) = false) (herr : (s.conn i).state = .error) :
    exec (.errHoldExpiry i) s =
      .next ((s.advance ((s.conn i).errAt + max 1 (bits (s.reg bXPT (i / 16384) 0xC) 7 0) * 1000000)).freeConn i) :=
  congrArg Host.Outcome.next (if_pos ⟨herr, by rw [hoff]; rfl⟩)

/-- The context of a connection that is freed is dropped. -/
theorem State.ctx_freeConn (s : State) (i : Nat) : ((s.freeConn i).qtr (i / 16384)).xpt.ctx.look (i % 16384) = none := by
  unfold State.freeConn State.updXpt
  dsimp only
  rw [State.qtr_updQ_self]
  exact Tab.look_del_self _ _

/-- A connection that begins to close, with nothing of its own outstanding, sends its CLOSE. -/
theorem State.closeStep_of_closing (hc : (s.conn i).state = .closing) (hf : (s.conn i).flight = []) (hq : (s.conn i).queue = [])
    (hs : (s.conn i).closeSent = false) (hr : (s.conn i).closeRcvd = false) :
    s.closeStep i =
      (s.updConn i fun c => { c with closeSent := true, ctlTimerAt := some (s.time + c.rto), ctlRetries := 0 }).sendHello i 2 0 := by
  obtain ⟨k, hk⟩ := State.sendHello_conn
    (s := s.updConn i fun c => { c with closeSent := true, ctlTimerAt := some (s.time + c.rto), ctlRetries := 0 }) i 2 0
  unfold State.closeStep
  simp only [hc, hf, hq, hs, and_self, if_true, Bool.false_eq_true, if_false, hk, State.conn_updConn_self, hr]

/-- An idle connection that the node opened begins to close. -/
theorem exec_idleClose (hoff : s.qOff (i / 16384) = false) (hopen : (s.conn i).state = .opened) (hopener : (s.conn i).opener = true)
    (hms : bits (s.reg bXPT (i / 16384) 0xC) 15 8 ≠ 0) (hf : (s.conn i).flight = []) (hq : (s.conn i).queue = []) :
    exec (.idleClose i) s = .next (((s.advance ((s.conn i).lastActive + bits (s.reg bXPT (i / 16384) 0xC) 15 8 * 1000000)).updConn i
      fun c => { c with state := .closing }).closeStep i) :=
  congrArg Host.Outcome.next (if_pos ⟨hopen, hopener, hms, hf, hq, by rw [hoff]; rfl⟩)

/-- A connection that closes for being idle sends its CLOSE and takes no time. -/
theorem idle_closes (hf : (s.conn i).flight = []) (hq : (s.conn i).queue = []) (hs : (s.conn i).closeSent = false)
    (hr : (s.conn i).closeRcvd = false) :
    let t := (s.updConn i fun c => { c with state := .closing }).closeStep i
    KeepsOthers i s t ∧ t.time = s.time ∧ (t.conn i).state = .closing ∧ (t.conn i).closeSent = true := by
  intro t
  let u := s.updConn i fun c => { c with state := .closing }
  let v := u.updConn i fun c => { c with closeSent := true, ctlTimerAt := some (u.time + c.rto), ctlRetries := 0 }
  have huc : u.conn i = { s.conn i with state := .closing } := State.conn_updConn_self _ _ _
  have hu : KeepsOthers i s u := (KeepsOthers.refl i s).updConn _
  have ht : t = v.sendHello i 2 0 := State.closeStep_of_closing (by rw [huc]) (by rw [huc]; exact hf) (by rw [huc]; exact hq)
    (by rw [huc]; exact hs) (by rw [huc]; exact hr)
  obtain ⟨k, hk⟩ := State.sendHello_conn (s := v) i 2 0
  rw [State.conn_updConn_self, huc] at hk
  rw [ht]
  exact ⟨(hu.updConn _).sendHello _ _, State.time_sendHello v i 2 0, by rw [hk], by rw [hk]⟩

/-- A connection in OPEN takes a message into its queue. -/
theorem State.hand_of_opened (hopen : (s.conn i).state = .opened) (m : OutMsg) :
    s.hand i m = s.updConn i fun c => { c with queue := c.queue ++ [m], lastActive := s.time } := by
  unfold State.hand
  simp only [hopen, if_true]

/-- The notice of a number of policed drops. -/
def policedMsg (drops : Nat) : OutMsg :=
  { opcode := 0x1B, body := leBytes 8 0 ++ leBytes 1 sPOLICED ++ leBytes 3 (sat drops 0xFFFFFF) ++ leBytes 4 0 }

/-- A connection after the notice of its policed drops has been handed to it. -/
def Conn.noticed (c : Conn) (now : Nat) : Conn :=
  { c with drops := 0, noticeAt := some now, lastActive := now
           queue := c.queue ++ [policedMsg c.drops] }

/-- A notice that is due goes out, once 64 µs have passed since the last. -/
theorem policedNotice_due (hopen : (s.conn i).state = .opened) (hd : 0 < (s.conn i).drops) {n : Nat} (hn : (s.conn i).noticeAt = some n)
    (hgap : n + 64000 ≤ s.time) : KeepsOthers i s (policedNotice s i) ∧ (policedNotice s i).conn i = (s.conn i).noticed s.time := by
  let u := s.updConn i fun c => { c with drops := 0, noticeAt := some s.time }
  have hu : u.conn i = { s.conn i with drops := 0, noticeAt := some s.time } := State.conn_updConn_self _ _ _
  have hp : policedNotice s i = u.hand i (policedMsg (s.conn i).drops) := by
    unfold policedNotice
    simp only [hopen, hn, hgap, hd, decide_true, and_self, if_true]
    rfl
  rw [hp, State.hand_of_opened (by rw [hu]; exact hopen)]
  refine ⟨((KeepsOthers.refl i s).updConn _).updConn _, ?_⟩
  rw [State.conn_updConn_self, hu]
  rfl

theorem exec_policedNoticeGapEnd (hoff : s.qOff (i / 16384) = false) (hd : 0 < (s.conn i).drops) {n : Nat}
    (hn : (s.conn i).noticeAt = some n) : exec (.policedNoticeGapEnd i) s = .next (policedNotice (s.advance (n + 64000)) i) := by
  change execPolicedNoticeGapEnd i s = _
  simp [execPolicedNoticeGapEnd, hn, hd, hoff]

/-- A context that arrives, with no packet waiting for it, is cached. -/
theorem contextFetchDone_cached {e : CtxEntry} (he : (s.qtr (i / 16384)).xpt.ctx.look (i % 16384) = some e) (hf : e.fetching = true)
    (hw : ((s.qtr (i / 16384)).xpt.miss.any fun m => m.conn == i) = false) :
    contextFetchDone s i = s.updXpt (i / 16384) fun X =>
      { X with ctx := X.ctx.put (i % 16384) { e with fetching := false }, miss := X.miss.filter fun m => m.conn != i } := by
  have hstart : s.startFetch i = s := by
    unfold State.startFetch
    simp [he]
  have hnone : ((s.qtr (i / 16384)).xpt.miss.filter fun m => m.conn == i) = [] := by
    rw [List.filter_eq_nil_iff]
    exact fun m hm => by simpa using List.any_eq_false.mp hw m hm
  unfold contextFetchDone
  simp only [hstart, he, hf, hnone, Bool.not_true, Bool.false_eq_true, if_false, List.foldl_nil]

theorem exec_contextFetchDone (hoff : s.qOff (i / 16384) = false) {e : CtxEntry}
    (he : (s.qtr (i / 16384)).xpt.ctx.look (i % 16384) = some e) (hf : e.fetching = true) :
    exec (.contextFetchDone i) s = .next (settle (contextFetchDone s i)) := by
  change execContextFetchDone i s = _
  simp [execContextFetchDone, he, hf, hoff]

end Timers

/-! ### The connection registers -/

section Registers
variable {s : State} {q : Fin 4}

theorem length_connWords (s : State) (i : Nat) : (connWords s i).length = 8 := by
  unfold connWords
  cases s.sec.conf <;> rfl

/-- LOAD shows the words of the connection that it names. -/
theorem connLoad_data (s : State) (q k w : Nat) (hw : (connWords s (q * 16384 + s.reg bXPT q 0x40 % 16384))[k]? = some w) :
    ((connLoad s q).qtr q).xpt.data.look k = some (w32 w) := by
  have hk : k < 8 := by
    rw [← length_connWords s (q * 16384 + s.reg bXPT q 0x40 % 16384)]
    exact (List.getElem?_eq_some_iff.mp hw).1
  unfold connLoad State.updXpt
  dsimp only
  rw [State.qtr_setReg, State.qtr_updQ_self]
  dsimp only
  have hz := Tab.look_zip_range' ((connWords s (q * 16384 + s.reg bXPT q 0x40 % 16384)).map w32) 8 0 k hk
  rw [Nat.zero_add, List.getElem?_map, hw] at hz
  rw [List.range_eq_range']
  exact hz

theorem conn_connLoad (s : State) (q j : Nat) : (connLoad s q).conn j = s.conn j :=
  (State.conn_updQ s j (f := fun Q => { Q with xpt := { Q.xpt with
    data := (List.range 8).zip ((connWords s (q * 16384 + s.reg bXPT q 0x40 % 16384)).map w32) } }) rfl :)

end Registers

/-- Settles O45, clause by clause: the four timers of a connection, LOAD, SET_CWND and the copy of the context region. -/
theorem connectionTimersAndRegisters : Obligations.ConnectionTimersAndRegisters := by
  unfold Obligations.ConnectionTimersAndRegisters
  refine ⟨fun s i => ?timers, fun s q hoff => ?registers⟩
  case timers =>
    intro q c hoff
    refine ⟨fun herr => ?errHold, fun hopen hopener hms hf hq hsent hrcvd => ?idle, fun n hopen hd hn => ?notice,
      fun e he hf hw herrs => ?context⟩
    case errHold =>
      have hk := (KeepsOthers.refl i (s.advance (c.errAt + max 1 (bits (s.reg bXPT q 0xC) 7 0) * 1000000))).freeConn
      exact ⟨_, exec_errHoldExpiry hoff herr, State.freeConn_conn _ _, hk.others, State.ctx_freeConn _ _, hk.inbox, hk.hbm⟩
    case idle =>
      have hadv := exec_idleClose hoff hopen hopener hms hf hq
      obtain ⟨hk, ht, hclosing, hclose⟩ :=
        idle_closes (s := s.advance (c.lastActive + bits (s.reg bXPT q 0xC) 15 8 * 1000000)) hf hq hsent hrcvd
      exact ⟨_, hadv, hclosing, hclose, ht ▸ le_max_left _ _, ht ▸ le_max_right _ _, hk.others, hk.inbox, hk.hbm⟩
    case notice =>
      obtain ⟨hk, hc⟩ := policedNotice_due (s := s.advance (n + 64000)) hopen hd hn (le_max_right _ _)
      exact ⟨_, exec_policedNoticeGapEnd hoff hd hn, by rw [hc]; rfl, by rw [hc]; rfl, by rw [hc]; rfl, hk.others⟩
    case context =>
      rw [exec_contextFetchDone hoff he hf, contextFetchDone_cached he hf hw, settle_of_no_errors (s := s.updXpt _ _) herrs]
      refine ⟨_, rfl, ?_, fun j => State.conn_updQ _ j rfl, rfl⟩
      exact (congrArg (fun Q : Quarter => Q.xpt.ctx.look (i % 16384)) (State.qtr_updQ_self s _ _)).trans (Tab.look_put_self _ _ _)
  case registers =>
    intro i
    refine ⟨⟨_, congrArg Host.Outcome.next (if_neg (by simp [hoff])), connLoad_data s q, conn_connLoad s q, rfl⟩,
      fun ha => ?_, fun ha => ?_, fun b hb => ?_⟩
    · refine ⟨_, congrArg Host.Outcome.next ((if_neg (by simp [hoff])).trans (if_pos ha)), State.conn_updConn_self _ _ _,
        fun j hj => State.conn_updConn_ne _ _ _ hj⟩
    · exact congrArg Host.Outcome.next ((if_neg (by simp [hoff])).trans (if_neg (by simp [ha])))
    · refine ⟨s.updXpt q fun X => { X with ctxInHost := b, copyHost := none }, ?_, ?_, ?_, fun j => State.conn_updQ _ j rfl⟩
      · change execContextRegionCopyDone q s = _
        simp [execContextRegionCopyDone, hb, hoff]
      · exact congrArg (fun Q : Quarter => Q.xpt.ctxInHost) (State.qtr_updQ_self s _ _)
      · exact congrArg (fun Q : Quarter => Q.xpt.copyHost) (State.qtr_updQ_self s _ _)

end Sys2Proof.Machine
end

section
/-!
PROOFS. Management commands (Table 15-9): access and answers once, then each command.
-/
namespace Sys2Proof.Machine

/-! ### Access and answers (R411, R414, R324) -/

/-- The state in which a command runs differs in what is waiting to run and in the sessions only. -/
theorem eq_of_allowed {s u : State} {cmd : Nat} {m : Mgmt} {b : Bytes} (h : Allowed s cmd m b u) :
    ∃ I L, u = { s with boot := { s.boot with inbox := I }, sec := { s.sec with sessions := L } } := by
  obtain ⟨-, -, ⟨-, -, rfl⟩ | ⟨x, -, -, rfl⟩⟩ := h
  · exact ⟨_, s.sec.sessions, rfl⟩
  · exact ⟨_, _, rfl⟩

/-- A command with access runs, and its answer leaves. -/
theorem mgmtRun_of_allowed {s u v : State} {cmd st : Nat} {m : Mgmt} {b d : Bytes} {run : State → Nat × Bytes × State}
    (h : Allowed s cmd m b u) (hrun : run u = (st, d, v)) : mgmtRun s cmd m b run = v.respond cmd m st d := by
  obtain ⟨hup, hpower, haccess⟩ := h
  have hoff : (!onStandby cmd && !s.pins.mainPg) = false := by
    rcases hpower with h | ⟨h, -⟩ <;> simp [h]
  have hplane : (!onStandby cmd && s.noPlane) = false := by
    rcases hpower with h | ⟨-, h⟩ <;> simp [h]
  have hoff' : (!onStandby cmd && !(s.takeCmd cmd m b).pins.mainPg) = false := hoff
  unfold mgmtRun
  simp only [hup, Bool.not_true, Bool.false_eq_true, if_false, hoff']
  rcases haccess with ⟨hses, hopen, rfl⟩ | ⟨x, hses, hok, rfl⟩
  · have hopen' : (s.takeCmd cmd m b).cmdOpen cmd = true := hopen
    have hplane' : (!onStandby cmd && (s.takeCmd cmd m b).noPlane) = false := hplane
    simp only [hses, hopen', if_true, hplane', Bool.false_eq_true, if_false, hrun]
  · have hok' : (s.takeCmd cmd m b).sessionOk x b = true := hok
    have hplane' : (!onStandby cmd && ((s.takeCmd cmd m b).useSession x).noPlane) = false := hplane
    simp only [hses, hok', if_true, hplane', Bool.false_eq_true, if_false, hrun]

/-- One frame of an answer. -/
def State.answerFrame (s : State) (cmd : Nat) (m : Mgmt) (status : Nat) (p : Bool × Bytes) : AlleyOut :=
  { port := m.port
    bytes := alleyFrameOf 0 s.boot.addr cmd true p.1 m.ses.isSome m.seq (s.wrapped m (leBytes 1 status ++ p.2)) }

/-- The state with frames sent. -/
def State.sentOut (s : State) (l : List AlleyOut) : State := { s with boot := { s.boot with out := s.boot.out ++ l } }

/-- An answer sends its frames and changes nothing else. -/
theorem State.respond_eq (s : State) (cmd : Nat) (m : Mgmt) (status : Nat) (data : Bytes) :
    s.respond cmd m status data =
      s.sentOut ((alleyParts (if m.ses.isSome then 979 else 1023) data.length data).map (s.answerFrame cmd m status)) := by
  have hfold (l : List (Bool × Bytes)) (l₀ : List AlleyOut) :
      l.foldl (fun t p => t.alleySend m.port
        (alleyFrameOf 0 t.boot.addr cmd true p.1 m.ses.isSome m.seq (t.wrapped m (leBytes 1 status ++ p.2)))) (s.sentOut l₀) =
      s.sentOut (l₀ ++ l.map (s.answerFrame cmd m status)) := by
    induction l generalizing l₀ with
    | nil => simp
    | cons p l ih =>
      have hp : (s.sentOut l₀).alleySend m.port (alleyFrameOf 0 s.boot.addr cmd true p.1 m.ses.isSome m.seq
          (s.wrapped m (leBytes 1 status ++ p.2))) = s.sentOut (l₀ ++ [s.answerFrame cmd m status p]) := by
        simp only [State.sentOut, State.alleySend, State.answerFrame, List.append_assoc]
      rw [List.map_cons, List.append_cons, ← ih]
      exact congrArg (List.foldl _ · l) hp
  have h0 : s.sentOut [] = s := by simp [State.sentOut]
  have hl := hfold (alleyParts (if m.ses.isSome then 979 else 1023) data.length data) []
  rw [h0] at hl
  exact hl

/-- The frames of an answer are the same from a state with the same frames sent, address and sessions. -/
theorem State.out_respond_congr {s t : State} (ho : t.boot.out = s.boot.out) (ha : t.boot.addr = s.boot.addr)
    (hs : t.sec.sessions = s.sec.sessions) (cmd : Nat) (m : Mgmt) (status : Nat) (data : Bytes) :
    (t.respond cmd m status data).boot.out = (s.respond cmd m status data).boot.out := by
  have hf : t.answerFrame cmd m status = s.answerFrame cmd m status := by
    funext p
    unfold State.answerFrame State.wrapped
    rw [ha, hs]
  rw [t.respond_eq, s.respond_eq, hf]
  exact congrArg (· ++ _) ho

/-! ### SET_NODE_ID (R412) -/

/-- From phase 7 the node takes a node ID that its image names, unless it has one. -/
theorem setNodeId_of_named {u : State} {b : Bytes} (hlen : b.length = 2) (hn : fieldAt b 0 2 < 16384) (hphase : 7 ≤ u.boot.phase)
    (himage : (u.image.fabric.any fun r => r.1 ≤ fieldAt b 0 2 && fieldAt b 0 2 ≤ r.2) = true) :
    setNodeId b u = match u.boot.nodeId with
      | some k => (if k = fieldAt b 0 2 then sDUPLICATE else sCONFLICT, [], u)
      | none => (sOK, [], { u with boot := { u.boot with nodeId := some (fieldAt b 0 2) } }) := by
  unfold setNodeId
  simp only [himage]
  rw [if_neg (by omega), if_neg (by omega)]
  rfl

/-! ### ROUTE_SET (R243) -/

theorem byteAt_drop (b : Bytes) (n i : Nat) : byteAt (b.drop n) i = byteAt b (n + i) := by
  unfold byteAt
  simp [List.getD_eq_getElem?_getD]

/-- New routes are those of the command where it names them, and stand elsewhere. -/
theorem fetch_putRoutes (first : Nat) (b : Bytes) (t : Tab Nat) (n : Nat) :
    (putRoutes first b t).fetch n 0 = if first ≤ n ∧ n < first + b.length then byteAt b (n - first) else t.fetch n 0 := by
  have hk (k : Nat) : ((List.range k).foldl (fun t i => t.put (first + i) (byteAt b i)) t).fetch n 0 =
      if first ≤ n ∧ n < first + k then byteAt b (n - first) else t.fetch n 0 := by
    induction k with
    | zero => rw [if_neg (by omega)]; rfl
    | succ k ih =>
      rw [List.range_succ, List.foldl_append, List.foldl_cons, List.foldl_nil]
      by_cases hn : n = first + k
      · subst hn
        rw [Tab.fetch_put_self, if_pos (by omega), Nat.add_sub_cancel_left]
      · rw [Tab.fetch_put_ne _ _ _ _ _ hn, ih]
        exact if_congr (by omega) rfl rfl
  exact hk b.length

/-- One change of the transport of every Quarter. -/
theorem State.updXpt_each (s : State) (f : Xpt → Xpt) :
    ∃ T, [0, 1, 2, 3].foldl (fun s q => s.updXpt q f) s = { s with quarters := T } ∧
      ∀ q : Fin 4, Tab.fetch T q {} = { s.qtr q with xpt := f (s.qtr q).xpt } := by
  refine ⟨[0, 1, 2, 3].foldl (fun t q => t.amend q {} fun Q => { Q with xpt := f Q.xpt }) s.quarters,
    List.foldl_hom (fun T => { s with quarters := T }) fun _ _ => rfl, fun q => ?_⟩
  have hq := Tab.fetch_foldl_amend {} (fun _ (Q : Quarter) => { Q with xpt := f Q.xpt }) s.quarters 0 q
  simp only [Nat.zero_add] at hq
  exact hq

/-- A Quarter's transport with new routes that wait for a packet boundary. -/
def Xpt.withRoutes (first : Nat) (b : Bytes) (X : Xpt) : Xpt := { X with routesNew := some (putRoutes first b (X.routesNew.getD X.routes)) }

/-- The body of a ROUTE_SET names at most 976 of the 16,384 nodes and a port for each. -/
structure RouteBody (b : Bytes) : Prop where
  length : 4 ≤ b.length
  count : fieldAt b 2 2 = b.length - 4
  some : 0 < b.length - 4
  room : b.length - 4 ≤ 976
  nodes : fieldAt b 0 2 + fieldAt b 2 2 ≤ 16384
  ports : (b.drop 4).all (fun x => decide (x.toNat < 16)) = true

theorem routeSet_eq {b : Bytes} (h : RouteBody b) (s : State) :
    routeSet b s = (sOK, [], [0, 1, 2, 3].foldl (fun s q => s.updXpt q (Xpt.withRoutes (fieldAt b 0 2) (b.drop 4))) s) := by
  obtain ⟨-, hcount, hsome, hroom, hnodes, hports⟩ := h
  have hany : (b.drop 4).any (fun x => decide (16 ≤ x.toNat)) = false := by
    simpa using hports
  unfold routeSet
  refine if_neg ?_
  rw [hany, List.length_drop]
  simp only [Bool.false_eq_true, or_false]
  omega

/-! ### ARM_FAULT_INJECT (R296) -/

/-- An injector that the image does not permit is refused. -/
theorem armFaultInject_refused {b : Bytes} {s : State} (hb : armBad b = false) (hm : fieldAt b 1 4 % 8 ≠ 0)
    (hno : (bit s.finjPermit (byteAt b 0 % 4) && bit s.finjPermit (3 + fieldAt b 1 4 % 8)) = false) :
    armFaultInject b s = (sPERM, [], s) := by
  have hor : (!bit s.finjPermit (byteAt b 0 % 4) || !bit s.finjPermit (3 + fieldAt b 1 4 % 8)) = true := by
    rw [← Bool.not_and, hno]
    rfl
  unfold armFaultInject
  simp only [hb, hm, hor, Bool.false_eq_true, if_false, if_true]

/-- An injector armed with its words, its count and its end. -/
def Inject.started (w : List Word) (n e : Nat) : Inject :=
  { armed := true, words := w, nth := n, endAt := e, lfsr := if w.getD 3 0 = 0 then 1 else w.getD 3 0 }

/-- A port whose injector has been told to arm. -/
def Port.arming (w : List Word) (n e : Nat) (P : Port) : Port :=
  let j := { P.inj.free with next := some (w, n, e) }
  { P with inj := if P.inj.armed then j else j.arm }

/-- An injector with nothing held or due takes an arm at once. -/
theorem Port.inj_arming {P : Port} (ha : P.inj.armed = false) (hh : P.inj.held = none) (hr : P.inj.release = []) (w : List Word) (n e : Nat) :
    (P.arming w n e).inj = Inject.started w n e := by
  simp [Port.arming, Inject.started, Inject.free, Inject.arm, ha, hh, hr]

/-- A permitted injector that is not armed and has nothing held or due is armed. -/
theorem armFaultInject_arms {b : Bytes} {s : State} {p : Nat} (hpq : byteAt b 0 % 4 = p) (hb : armBad b = false)
    (hm : fieldAt b 1 4 % 8 ≠ 0) (hp : bit s.finjPermit p = true) (hmode : bit s.finjPermit (3 + fieldAt b 1 4 % 8) = true)
    (ha : (s.qtr p).port.inj.armed = false) (hh : (s.qtr p).port.inj.held = none) (hr : (s.qtr p).port.inj.release = []) :
    ∃ t, armFaultInject b s = (sOK, [], t) ∧
      (t.qtr p).port.inj = Inject.started (armWords b) (fieldAt b 17 2) (s.time + fieldAt b 19 2 * 1000000) ∧
      (∀ q, q ≠ p → t.qtr q = s.qtr q) ∧ t.hbm = s.hbm := by
  let u := s.updPort p (Port.arming (armWords b) (fieldAt b 17 2) (s.time + fieldAt b 19 2 * 1000000))
  have hc : Posts u (u.countU bFINJ 0 p 3) := (Posts.refl u).countU _ _ _ _ _
  have hrun : armFaultInject b s = (sOK, [], u.countU bFINJ 0 p 3) := by
    unfold armFaultInject
    simp only [hpq, hb, hm, hp, hmode, Bool.not_true, Bool.or_self, Bool.false_eq_true, if_false]
    rfl
  refine ⟨_, hrun, ?_, fun q hq => (hc.qtr q).trans (State.qtr_updQ_ne _ _ _ _ hq), hc.hbm⟩
  rw [hc.qtr]
  exact (congrArg (fun Q : Quarter => Q.port.inj) (State.qtr_updQ_self s p _)).trans (Port.inj_arming ha hh hr _ _ _)

/-! ### UPDATE_IMAGE (R416) -/

@[simp] theorem Standby.marked_unmark (r : Standby) (n : Nat) : (r.unmark n).marked n = false := by
  unfold Standby.unmark Standby.marked
  by_cases h : n = 0 <;> simp [h]

section Update
variable {s : State} {b : Bytes} {n len : Nat}

/-- START erases the header of the slot that is not in use. -/
theorem updateStart_eq (hp : s.pins.progEn = false) (hb : b.length = 8)
    (hn : n = if s.imageInUse then 1 - s.boot.slot else byteAt b 1) (h2 : n < 2) (hl : fieldAt b 4 4 ≤ slotBytes) :
    updateStart b s = (sOK, [], { s with boot := { s.boot with
      nvm := Mem.clear s.boot.nvm (slotBase n) 256, update := some (n, fieldAt b 4 4), standby := s.boot.standby.unmark n } }) := by
  unfold updateStart
  rw [← hn, hp]
  simp only [Bool.false_eq_true, if_false]
  rw [if_neg (by omega)]
  rfl

/-- DATA writes its bytes. -/
theorem updateData_eq (hp : s.pins.progEn = false) (hu : s.boot.update = some (n, len)) (h8 : 8 ≤ b.length) (hb : b.length ≤ 1024)
    (hl : fieldAt b 4 4 + (b.length - 8) ≤ len) :
    updateData b s = (sOK, [], { s with boot := { s.boot with nvm := Mem.write s.boot.nvm (slotBase n + fieldAt b 4 4) (b.drop 8) } }) := by
  unfold updateData
  simp only [hp, hu, Bool.false_eq_true, if_false, List.length_drop]
  exact if_neg (by omega)

theorem updateData_of_none (hp : s.pins.progEn = false) (hu : s.boot.update = none) : updateData b s = (sCONFLICT, [], s) := by
  unfold updateData
  simp [hp, hu]

/-- FINISH ends the update; with 52 V an image that verifies stays, and the header of another is erased. -/
theorem updateFinish_spec (hp : s.pins.progEn = false) (hb : byteAt b 0 = 2) (hu : s.boot.update = some (n, len))
    (hm : s.pins.mainPg = true) :
    ∃ t st, updateFinish b s = (st, [], t) ∧
      t.boot = { s.boot with update := none, standby := s.boot.standby.unmark n, nvm := t.boot.nvm } ∧ t.hbm = s.hbm ∧
      t.quarters = s.quarters ∧ t.sec = s.sec ∧
      if (imageFault s.boot.nvm n s.sec.fuseConfLock).isNone then st = 0 ∧ t.boot.nvm = s.boot.nvm
      else st ≠ 0 ∧ t.boot.nvm = Mem.clear s.boot.nvm (slotBase n) 256 := by
  let u := s.countBoot 3
  have hc : Posts s u := by
    have hu : u = s.count bBOOT 0 3 := if_pos hm
    rw [hu]
    exact (Posts.refl s).count _ _ _ _
  let v := { u with boot := { u.boot with update := none, standby := u.boot.standby.unmark n } }
  have hvb : v.boot = { s.boot with update := none, standby := s.boot.standby.unmark n } := by
    simp only [v, hc.boot]
  have hr : updateFinish b s =
      if (imageFault u.boot.nvm n u.sec.fuseConfLock).isNone then (sOK, [], v)
      else (1 + v.drawFree.1 % 255, [], v.drawFree.2.eraseHeader n) := by
    unfold updateFinish
    simp only [hp, hb, hu, Bool.false_eq_true, if_false, ne_eq, not_true_eq_false]
    have hpins : (s.countBoot 3).pins.mainPg = true := by
      rw [hc.pins, hm]
    rw [if_neg (by simp [hpins])]
  rw [hr, hc.boot, hc.sec]
  split
  · exact ⟨v, sOK, rfl, by rw [hvb], hc.hbm, hc.quarters, hc.sec, rfl, by rw [hvb]⟩
  · refine ⟨v.drawFree.2.eraseHeader n, _, rfl, ?_, hc.hbm, hc.quarters, hc.sec, by omega, ?_⟩
    · have he : (v.drawFree.2.eraseHeader n).boot = { v.boot with nvm := (v.drawFree.2.eraseHeader n).boot.nvm } := rfl
      rw [he, hvb]
    · change Mem.clear v.boot.nvm _ _ = _
      rw [hvb]

end Update

/-! ### The obligation -/

/-- A command answers with what its function makes of the state in which it runs. -/
theorem next_mgmtRun {s u v : State} {cmd st : Nat} {m : Mgmt} {b d : Bytes} {run : State → Nat × Bytes × State}
    (h : Allowed s cmd m b u) (hrun : run u = (st, d, v)) :
    (Host.Outcome.next (mgmtRun s cmd m b run) : Host.Outcome State Fault Refusal) = .next (v.respond cmd m st d) :=
  congrArg Host.Outcome.next (mgmtRun_of_allowed h hrun)

/-- Settles O52, command by command. -/
theorem managementCommands : Obligations.ManagementCommands := by
  unfold Obligations.ManagementCommands
  intro s u m b
  refine ⟨fun h hlen hn hphase himage => ?nodeId, fun h hb hpg hphase => ?status, fun h hb hpg => ?telemetry,
    fun h hlen hlo hhi => ?cap, fun h hlen hcount hsome hroom hnodes hports => ?routes, fun h hlen => ?attestation,
    fun h hlen hn => ?meter, fun h hb => ?inject, fun h hprog => ?update⟩
  case nodeId =>
    obtain ⟨I, L, hu⟩ := eq_of_allowed h
    have hset := setNodeId_of_named (u := u) hlen hn (hu ▸ hphase) (by rw [hu]; exact himage)
    have hid : u.boot.nodeId = s.boot.nodeId := by rw [hu]
    rw [hid] at hset
    refine ⟨fun hnone => ?_, fun k hk => ?_⟩
    · rw [hnone] at hset
      exact next_mgmtRun h hset
    · rw [hk] at hset
      exact next_mgmtRun h hset
  case status =>
    obtain ⟨I, L, hu⟩ := eq_of_allowed h
    have hpg' : u.pins.mainPg = true := hu ▸ hpg
    have hphase' : u.boot.phase ≠ 15 := hu ▸ hphase
    refine next_mgmtRun h ?_
    unfold getStatus State.statusWord
    simp [hb, hpg', hphase']
    rfl
  case telemetry =>
    obtain ⟨I, L, hu⟩ := eq_of_allowed h
    have hpg' : u.pins.mainPg = true := hu ▸ hpg
    refine next_mgmtRun h ?_
    unfold getTelemetry
    simp only [hb, hpg', ne_eq, not_true_eq_false, if_false, if_true]
    rfl
  case cap =>
    refine next_mgmtRun h ?_
    unfold setPowerCap
    exact if_neg (by omega)
  case routes =>
    obtain ⟨I, L, hu⟩ := eq_of_allowed h
    have hrun := routeSet_eq ⟨hlen, hcount, hsome, hroom, hnodes, hports⟩ u
    obtain ⟨T, hT, hq⟩ := u.updXpt_each (Xpt.withRoutes (fieldAt b 0 2) (b.drop 4))
    rw [hT] at hrun
    have hqtr (q : Nat) : u.qtr q = s.qtr q := by rw [hu]; rfl
    refine ⟨_, next_mgmtRun h hrun, ?_⟩
    rw [State.respond_eq]
    refine ⟨by rw [hu]; rfl, rfl, fun q => ⟨putRoutes (fieldAt b 0 2) (b.drop 4) ((s.qtr q).xpt.routesNew.getD (s.qtr q).xpt.routes), ?_, ?_,
      fun n => ?_⟩⟩
    · exact (congrArg (fun Q : Quarter => Q.xpt.routesNew) (hq q)).trans (by rw [hqtr]; rfl)
    · exact (congrArg (fun Q : Quarter => Q.xpt.routes) (hq q)).trans (by rw [hqtr]; rfl)
    · rw [fetch_putRoutes, List.length_drop, ← hcount, byteAt_drop]
  case attestation =>
    refine next_mgmtRun h ?_
    unfold getAttestation
    exact if_neg (by omega)
  case meter =>
    refine next_mgmtRun h ?_
    unfold meterRead
    exact if_neg (by omega)
  case inject =>
    obtain ⟨I, L, hu⟩ := eq_of_allowed h
    have hpermit : u.finjPermit = s.finjPermit := by rw [hu]
    have hqtr (q : Nat) : u.qtr q = s.qtr q := by rw [hu]; rfl
    intro p mode
    refine ⟨fun hm => next_mgmtRun h ?_, fun hm hno => next_mgmtRun h ?_, fun hm hp hmode harmed hheld hrel => ?_⟩
    · have hm' : fieldAt b 1 4 % 8 = 0 := hm
      unfold armFaultInject
      simp only [hb, hm', Bool.false_eq_true, if_false, if_true]
      rfl
    · rw [← hpermit] at hno
      exact armFaultInject_refused hb (by omega) hno
    · obtain ⟨t, hrun, hinj, hothers, hhbm⟩ := armFaultInject_arms (s := u) (p := p) rfl hb (by omega : fieldAt b 1 4 % 8 ≠ 0)
        (by rw [hpermit]; exact hp) (by rw [hpermit]; exact hmode) (by rw [hqtr]; exact harmed) (by rw [hqtr]; exact hheld)
        (by rw [hqtr]; exact hrel)
      have hout := t.respond_eq 8 m sOK []
      have hq (q : Nat) : (t.respond 8 m sOK []).qtr q = t.qtr q := by rw [hout]; rfl
      have hp : ((t.respond 8 m sOK []).qtr p).port.inj = _ := (congrArg (fun Q : Quarter => Q.port.inj) (hq p)).trans hinj
      refine ⟨_, next_mgmtRun h hrun, by rw [hp]; rfl, by rw [hp]; rfl, by rw [hp]; rfl, by rw [hp, hu]; rfl, fun q hne => ?_, ?_⟩
      · rw [hq, hothers q hne, hqtr]
      · rw [hout]
        exact hhbm.trans (by rw [hu])
  case update =>
    obtain ⟨I, L, hu⟩ := eq_of_allowed h
    have hprog' : u.pins.progEn = false := hu ▸ hprog
    have hupdate : u.boot.update = s.boot.update := by rw [hu]
    refine ⟨fun n h0 hlen hn h2 hl => ?start, fun n len h1 hup h8 hlen hl => ?dataOp, fun h1 hup => ?noUpdate, fun n len h2 hup hpg => ?finish⟩
    case start =>
      have hrun := updateStart_eq (s := u) hprog' hlen (hn.trans (by rw [hu]; rfl)) h2 hl
      refine ⟨_, (congrArg Host.Outcome.next (if_pos h0)).trans (next_mgmtRun h hrun), ?_⟩
      rw [State.respond_eq]
      exact ⟨rfl, by rw [hu]; rfl, Standby.marked_unmark _ _, by rw [hu]; rfl, by rw [hu]; rfl⟩
    case dataOp =>
      have hrun := updateData_eq (s := u) hprog' (hupdate.trans hup) h8 hlen hl
      refine ⟨_, (congrArg Host.Outcome.next (if_pos h1)).trans (next_mgmtRun h hrun), ?_⟩
      rw [State.respond_eq]
      exact ⟨hupdate.trans hup, by rw [hu]; rfl, by rw [hu]; rfl, by rw [hu]; rfl, by rw [hu]; rfl⟩
    case noUpdate =>
      have hrun := updateData_of_none (s := u) (b := b) hprog' (hupdate.trans hup)
      exact (congrArg Host.Outcome.next (if_pos h1)).trans (next_mgmtRun h hrun)
    case finish =>
      obtain ⟨t, st, hrun, hboot, hhbm, hquarters, hsec, himage⟩ :=
        updateFinish_spec (s := u) hprog' h2 (hupdate.trans hup) (hu ▸ hpg)
      have hout := t.respond_eq 10 m st []
      have hsent : (t.respond 10 m st []).boot.out = (u.respond 10 m st []).boot.out :=
        State.out_respond_congr (by rw [hboot]) (by rw [hboot]) (by rw [hsec]) _ _ _ _
      refine ⟨_, st, (congrArg Host.Outcome.next (if_pos (by omega))).trans (next_mgmtRun h hrun), ?_, ?_, ?_, ?_, hsent, ?_⟩ <;> rw [hout]
      · exact (congrArg Boot.update hboot :)
      · exact (congrArg (fun B : Boot => B.standby.marked n) hboot).trans (Standby.marked_unmark _ _)
      · exact hhbm.trans (by rw [hu])
      · exact hquarters.trans (by rw [hu])
      · rw [hu] at himage
        exact himage

end Sys2Proof.Machine
end

section
/-!
PROOFS. HELLO messages (R224, R225): a state in which an OPEN that the obligation lets through is refused.
-/
namespace Sys2Proof.Machine

/-- A Ready node whose table of Quarters is out of key order: the entry of 5, which names no Quarter, stands before that of Quarter 1.
Tenant 3 may have two connections and has one; its policer at port 1 lets the packet through. -/
def disordered : State :=
  let s : State := { State.reset with
    boot := { State.reset.boot with phase := 10, nodeId := some 5, image := some {} }
    pins := { State.reset.pins with mainPg := true }
    sec := { State.reset.sec with tenants := [(3, { state := .active, connMax := 2 })] }
    quarters := [(5, {}), (1, { port := { linkUp := true }, xpt := { conns := [(7, { state := .opened, tenant := 3 })] } })] }
  s.setReg bPORT 1 0x618 100

/-- The header of a HELLO of tenant 3 to no connection yet. -/
def tenant3Hdr : Hdr :=
  { opcode := 1, srcNode := 9, dstNode := 5, tenant := 3, dstConn := 0xFFFFFF, srcConn := 9, last := true, payLen := 32 }

/-- An OPEN of tenant 3 that reaches port 1. -/
def tenant3Open : RxFrame :=
  let pay := helloBody 0 false 0 16777215 none
  { at_ := 100, len := 150, dstMac := disordered.macOf 1, vid := disordered.vid 1, pcp := 0, srcAddr := disordered.derivedAddr 9 1
    dstAddr := disordered.derivedAddr 5 1, udpDst := disordered.udpPort 1, udpLen := 76, header := tenant3Hdr.bytes, payload := pay
    trailer := leBytes 4 (crc32c (tenant3Hdr.bytes ++ pay)) }

/-- The state that takes up its packet: the policer has put a second entry of Quarter 1 before the others. -/
def disorderedTaken : State :=
  (police (applyPacket ((disordered.advance 100).count bPORT 1 0) 1 0x600 3) 1 3 150).2.meter 3 3 150

theorem hdr_tenant3Open : Hdr.ofBytes tenant3Open.header = tenant3Hdr := by decide +kernel

theorem arrives_tenant3Open : Arrives disordered 1 tenant3Open disorderedTaken := by
  unfold Arrives
  rw [hdr_tenant3Open]
  exact ⟨by decide +kernel, by decide +kernel, by decide, by decide +kernel, by decide +kernel, by decide +kernel, rfl⟩

/-- The connection of tenant 3 counts once before, and twice afterwards. -/
theorem connsOf_disordered : disordered.connsOf 3 = 1 ∧ disorderedTaken.connsOf 3 = 2 := by decide +kernel

/-- So the OPEN is refused for QUOTA, and no connection is opened. -/
theorem helloOpen_disordered {t : State} (h : exec (.helloOpen 1 tenant3Open) disordered = .next t) :
    (t.conn 16384).state = .free := by
  have hfree : (match exec (.helloOpen 1 tenant3Open) disordered with | .next t => (t.conn 16384).state == .free | _ => false) = true := by
    decide +kernel
  rw [h] at hfree
  exact beq_iff_eq.mp hfree

/-- Refutes O43: the count of a tenant's connections sums over the table of Quarters, and the obligation ranges over every state, also one
whose table is out of key order. There the policer's write adds a second entry for the Quarter, the tenant's connections count twice, and
an OPEN that the limit allows is refused for QUOTA. -/
theorem not_hellosOpenAndClose : ¬ Obligations.HellosOpenAndClose := by
  unfold Obligations.HellosOpenAndClose
  intro h
  have hs := h disordered disorderedTaken 1 tenant3Open 16384
  rw [hdr_tenant3Open] at hs
  obtain ⟨hopen, -⟩ := hs arrives_tenant3Open rfl rfl (by decide +kernel) rfl
  obtain ⟨-, hactive⟩ := hopen (by decide +kernel) (by decide +kernel) (by decide +kernel)
  obtain ⟨t, ht, hstate, -⟩ := hactive (by decide) (by decide) rfl
    (by rw [show tenant3Hdr.tenant = 3 from rfl, connsOf_disordered.1]; decide) (by decide +kernel)
  exact absurd (hstate.symm.trans (helloOpen_disordered ht)) (by decide)

end Sys2Proof.Machine
end

section
/-!
PROOFS. What the conversation operations share: an operation that may act, and an entry, a segment, a ticket and a request after they
have been changed (R247, R253, Tables 2-8, 2-13, 6-8).
-/
namespace Sys2Proof

theorem Tab.put_put {α : Type} (k : Nat) (v w : α) (t : Tab α) : (t.put k v).put k w = t.put k w := by
  induction t with
  | nil => simp [Tab.put]
  | cons e t ih =>
    by_cases h : k = e.1
    · simp [Tab.put, h]
    · by_cases g : k < e.1
      · simp [Tab.put, h, g]
      · simp [Tab.put, h, g, ih]

/-- Two changes of one entry are one change. -/
theorem Tab.amend_amend {α : Type} (k : Nat) (d : α) (f g : α → α) (t : Tab α) :
    (t.amend k d f).amend k d g = t.amend k d fun x => g (f x) := by
  simp [Tab.amend, Tab.put_put]

end Sys2Proof

namespace Sys2Proof.Machine

/-! ### An operation that may act (R247, R340) -/

section Begin
variable {s u v w : State} {o : Origin} {op : Nat} {b : Bytes} {p : Op}

/-- What passes the checks of R247 is the accepted message with a ticket. -/
theorem State.op_of_beginOp {e : Inbound} (h : s.beginOp e = .ok (p, u)) : ∃ tk, p = e.toOp tk := by
  unfold State.beginOp at h
  split at h
  · cases h
    exact ⟨_, rfl⟩
  · dsimp only at h
    split at h
    · cases h
    · split at h
      · cases h
      · split at h
        · cases h
        · cases h
          exact ⟨_, rfl⟩

end Begin

end Sys2Proof.Machine

namespace Sys2Proof

open Sys2Proof.Machine

section
variable {s u v : State} {o : Origin} {op : Nat} {b : Bytes} {p : Op}

theorem Admitted.body (h : Admitted s o op b p u v) : p.body = b := by
  obtain ⟨-, hb, -⟩ := h
  obtain ⟨tk, rfl⟩ := State.op_of_beginOp hb
  rfl

theorem Admitted.opcode (h : Admitted s o op b p u v) : p.opcode = op := by
  obtain ⟨-, hb, -⟩ := h
  obtain ⟨tk, rfl⟩ := State.op_of_beginOp hb
  rfl

end

end Sys2Proof

namespace Sys2Proof.Machine

section Run
variable {s u v w : State} {o : Origin} {op : Nat} {b : Bytes} {p : Op}

/-- An operation whose submission rules pass runs with its accepted arrival. -/
theorem State.arrive_of_passed (hc : ∀ h, o = .host h → hostCheck (s.take o op b).2 h op b = none) (run : State → Inbound → State) :
    s.arrive o op b run =
      run (s.take o op b).2 { origin := o, opcode := op, body := b, arrival := (s.take o op b).1 } := by
  unfold State.arrive
  cases o with
  | wire i => rfl
  | host h => simp only [hc h rfl]

theorem State.arrive_segOp (h : Admitted s o op b p u v) (hb : u.opBad p = false) :
    s.arrive o op b (fun s e => segOp s e none) = segRun v p none := by
  obtain ⟨hc, hbegin, f, hf, hl⟩ := h
  rw [State.arrive_of_passed hc]
  unfold segOp
  simp only [hbegin, hb, hl]
  cases f with
  | parked => exact absurd rfl hf
  | hit a e => rfl
  | miss => rfl

/-- The step of a RESEAT operation that its SUB names. -/
def reseatStep (s : State) (p : Op) : State :=
  match reseatSub p.body with
  | 0 => reseatCopy s p
  | 1 => reseatCutover s p
  | 2 => if p.role = 3 then reseatReleased s p else reseatRelease s p
  | 3 => reseatPrepare s p none
  | _ => reseatCommit s p

theorem State.arrive_reseatOp (h : Admitted s o 0x18 b p u v) (hb : reseatBad p.body p.role = false) :
    s.arrive o 0x18 b (fun s e => reseatOp s e none) = reseatStep v p := by
  obtain ⟨hc, hbegin, f, hf, hl⟩ := h
  rw [State.arrive_of_passed hc]
  unfold reseatOp
  simp only [hbegin, hb, hl]
  cases f with
  | parked => exact absurd rfl hf
  | hit a e => rfl
  | miss => rfl

theorem reseatRow_of_admitted (h : Admitted s o 0x18 b p u v) (hb : reseatBad p.body p.role = false) {want : Nat → Bool}
    (hw : want (reseatSub b) = true) : reseatRow s o b want = settle (reseatStep v p) := by
  unfold reseatRow
  rw [if_pos hw, State.arrive_reseatOp h hb]

theorem segRun_of_done (h : segStep v p none = .done w) : segRun v p none = w.recheck p.q p.key := by
  unfold segRun; rw [h]

theorem segRun_of_hold (h : segStep v p none = .hold w) : segRun v p none = w.holdOp p := by
  unfold segRun; rw [h]

theorem segStep_append (h : p.opcode = 0x10 ∨ p.opcode = 0x11) : segStep v p none = appendStep v p none := if_pos h

theorem segStep_read (h : p.opcode = 0x14) : segStep v p none = readStep v p := by simp [segStep, h]

theorem segStep_seal (h : p.opcode = 0x17) : segStep v p none = sealStep v p := by simp [segStep, h]

theorem segStep_retire (h : p.opcode = 0x19) : segStep v p none = retireStep v p := by simp [segStep, h]

/-- An operation of the segment family whose step ends is what its step leaves, with the operations that it lets go. -/
theorem settle_arrive_of_done (ha : Admitted s o op b p u v) (hb : u.opBad p = false) (hw : segStep v p none = .done w) :
    settle (s.arrive o op b fun s e => segOp s e none) = settle (w.recheck p.q p.key) := by
  rw [State.arrive_segOp ha hb, segRun_of_done hw]

end Run

/-- A change of the entries of one key finds, under that key, what was found, changed. -/
theorem find?_map_of_key {α : Type} {k : α → Nat} {f : α → α} (hk : ∀ x, k (f x) = k x) (n : Nat) (l : List α) :
    (l.map fun x => if k x = n then f x else x).find? (fun x => k x == n) = (l.find? fun x => k x == n).map f := by
  induction l with
  | nil => rfl
  | cons x l ih =>
    by_cases h : k x = n
    · simp [h, hk]
    · simpa [h] using ih

/-- Two changes of the entries of one key are one change. -/
theorem map_map_of_key {α : Type} {k : α → Nat} {f : α → α} (hk : ∀ x, k (f x) = k x) (g : α → α) (n : Nat) (l : List α) :
    ((l.map fun x => if k x = n then f x else x).map fun x => if k x = n then g x else x) =
      l.map fun x => if k x = n then g (f x) else x := by
  rw [List.map_map]
  refine List.map_congr_left fun x _ => ?_
  by_cases h : k x = n <;> simp [h, hk]

/-! ### Entries, segments, tickets and requests after a change -/

section Units
variable {s t : State} {q key a d id tk : Nat} {e : DirEntry} {g : Seg}

theorem State.updQ_updQ (f h : Quarter → Quarter) : (s.updQ q f).updQ q h = s.updQ q fun Q => h (f Q) := by
  unfold State.updQ; rw [Tab.amend_amend]

@[simp] theorem State.qtr_updDir_self (f : Dir → Dir) : (s.updDir q f).qtr q = { s.qtr q with dir := f (s.qtr q).dir } :=
  State.qtr_updQ_self _ _ _

@[simp] theorem State.qtr_updDove_self (f : Dove → Dove) : (s.updDove q f).qtr q = { s.qtr q with dove := f (s.qtr q).dove } :=
  State.qtr_updQ_self _ _ _

theorem State.entryOf_congr (h : (t.qtr q).dir = (s.qtr q).dir) : t.entryOf q key = s.entryOf q key := by
  unfold State.entryOf; rw [h]

theorem State.segOf_congr (h : (t.qtr q).store.segs = (s.qtr q).store.segs) : t.segOf q key = s.segOf q key := by
  unfold State.segOf; rw [h]

theorem State.ticket_congr (h : (t.qtr (tkQ id)).tk = (s.qtr (tkQ id)).tk) : t.ticket id = s.ticket id := by
  unfold State.ticket; rw [h]

@[simp] theorem State.qtr_updSegOf_self (f : Seg → Seg) : (s.updSegOf q key f).qtr q = { s.qtr q with
    store := { (s.qtr q).store with segs := (s.qtr q).store.segs.map fun e =>
      (if mkKey e.2.tenant e.2.conv e.2.seg = key then (e.1, f e.2) else e) } } :=
  State.qtr_updStore_self _ _ _

/-- A change of a descriptor that keeps the key it is found by. -/
theorem State.segOf_updSegOf {f : Seg → Seg} (hf : ∀ g, mkKey (f g).tenant (f g).conv (f g).seg = mkKey g.tenant g.conv g.seg) :
    (s.updSegOf q key f).segOf q key = (s.segOf q key).map fun x => (x.1, f x.2) := by
  unfold State.segOf
  rw [State.qtr_updSegOf_self]
  exact find?_map_of_key (k := fun x : Nat × Seg => mkKey x.2.tenant x.2.conv x.2.seg) (f := fun x => (x.1, f x.2))
    (fun x => hf x.2) key _

theorem State.segOf_updChain (f : Chain → Chain) :
    (s.updChain q key f).segOf q key = (s.segOf q key).map fun x => (x.1, { x.2 with chain := f x.2.chain }) := by
  unfold State.updChain
  rw [State.segOf_updSegOf]
  exact fun _ => rfl

theorem State.setEntry_of_entry (h : s.entryOf q key = some (a, e)) (f : DirEntry → DirEntry) :
    s.setEntry q key f = (s.dirPut q a (f e)).updSegOf q key fun g => { g with gen := (f e).gen } := by
  unfold State.setEntry; rw [h]

/-- What changing an entry writes: the slot of its address, with good parity. -/
theorem State.slot_setEntry (h : s.entryOf q key = some (a, e)) (f : DirEntry → DirEntry) :
    ((s.setEntry q key f).qtr q).dir.slots.look a = some { f e with bad := false } := by
  rw [State.setEntry_of_entry h, State.qtr_updSegOf_self]
  unfold State.dirPut
  rw [State.qtr_updDir_self]
  exact Tab.look_put_self _ _ _

theorem State.segOf_setEntry (h : s.entryOf q key = some (a, e)) (f : DirEntry → DirEntry) :
    (s.setEntry q key f).segOf q key = (s.segOf q key).map fun x => (x.1, { x.2 with gen := (f e).gen }) := by
  have hput : (s.dirPut q a (f e)).segOf q key = s.segOf q key := by
    refine State.segOf_congr ?_
    unfold State.dirPut
    rw [State.qtr_updDir_self]
  rw [State.setEntry_of_entry h, State.segOf_updSegOf, hput]
  exact fun _ => rfl

/-- A change of an entry writes the directory and the page store of its Quarter, and nothing else. -/
theorem State.setEntry_changes_quarter (h : s.entryOf q key = some (a, e)) (f : DirEntry → DirEntry) :
    ∃ (D : Dir → Dir) (S : Store → Store), s.setEntry q key f = (s.updDir q D).updStore q S := by
  rw [State.setEntry_of_entry h]
  unfold State.dirPut State.updSegOf
  exact ⟨_, _, rfl⟩

theorem State.ticket_updTicket {x : Ticket} (h : s.ticket id = some x) {f : Ticket → Ticket} (hf : (f x).moved = x.moved) :
    (s.updTicket id f).ticket id = some (f x) := by
  unfold State.ticket at h ⊢
  unfold State.updTicket
  rw [State.qtr_updTk_self]
  dsimp only at h ⊢
  split at h
  · cases h
  · rename_i hu
    cases hc : (s.qtr (tkQ id)).tk.onChip.look (tkSlot id) with
    | some y =>
      rw [hc] at h
      obtain ⟨hm, rfl⟩ : y.moved = false ∧ y = x := by simpa using h
      simp_all [Tab.look_put_self]
    | none =>
      cases hs : (s.qtr (tkQ id)).tk.spill.look (tkSlot id) with
      | none => simp [hc, hs] at h
      | some y =>
        rw [hc, hs] at h
        obtain ⟨hm, rfl⟩ : y.moved = false ∧ y = x := by simpa using h
        simp_all [Tab.look_put_self]

theorem State.request_updReq {r : Request} (h : s.request tk = some r) (f : Request → Request) :
    (s.updReq tk f).request tk = some (f r) := by
  unfold State.request at h ⊢
  unfold State.updReq
  rw [State.qtr_updDove_self]
  simp only [h]
  exact Tab.look_put_self _ _ _

end Units

end Sys2Proof.Machine
end

section
/-!
PROOFS. READ and RETIRE (R263, R265, R53, R166).
-/
namespace Sys2Proof.Machine

section Read
variable {v : State} {p : Op} {a d : Nat} {e : DirEntry} {g : Seg}

theorem readStep_of_other_gen (he : v.entryOf p.q p.key = some (a, e)) (hg : v.segOf p.q p.key = some (d, g)) (hgen : p.gen ≠ e.gen) :
    readStep v p = .done (v.finish p.tk sSTALE) := by
  simp [readStep, he, hg, hgen]

theorem readStep_of_stored {sh : Shape} {fr : FrameRef} {bytes : Bytes} (he : v.entryOf p.q p.key = some (a, e))
    (hg : v.segOf p.q p.key = some (d, g)) (hgen : p.gen = e.gen) (hst : e.state ≠ .retired)
    (hsh : v.shape g.tenant g.shapeId = some sh) (hfr : g.frames[fieldAt p.body 24 2]? = some fr)
    (hin : fieldAt p.body 28 4 + fieldAt p.body 32 4 ≤ sh.frame)
    (hb : v.frameBytes p.q p.key e.gen (fieldAt p.body 24 2) fr sh (fieldAt p.body 28 4) (fieldAt p.body 32 4) = .ok bytes) :
    readStep v p = .done (v.finish p.tk sOK (fieldAt p.body 32 4) 0 bytes) := by
  have hlen : ¬ (p.gen ≠ e.gen ∨ e.state = .retired) := by simp [hgen, hst]
  unfold readStep
  simp only [he, hg, hsh, hfr, hb, if_neg hlen, if_neg (Nat.not_lt.mpr hin)]

end Read

/-! ### The frames of a segment that goes (R166) -/

/-- From `s` to `t` Quarter `q` has given the segment at descriptor `d` up: its HBM frames are releasable, and the directory and every
memory are as before. -/
structure FreesSeg (q key d : Nat) (frames : List FrameRef) (s t : State) : Prop where
  dir : (t.qtr q).dir = (s.qtr q).dir
  gone : (t.qtr q).store.segs.look d = none
  releasable : ∀ fr ∈ frames, fr.spilled = false →
    ∃ r ∈ (t.qtr q).store.releases, r.stack = fr.stack ∧ r.addr = fr.addr ∧ r.key = key
  hbm : t.hbm = s.hbm
  sec : t.sec = s.sec
  mem : t.host.mem = s.host.mem

section Retire
variable {s v : State} {q key a d : Nat} {e : DirEntry} {g : Seg} {p : Op}

theorem State.releaseSeg_frees (hg : s.segOf q key = some (d, g)) : FreesSeg q key d g.frames s (s.releaseSeg q key) := by
  unfold State.releaseSeg
  simp only [hg]
  refine ⟨?dir, ?gone, fun fr hfr hs => ?frames, ?hbm, ?sec, ?mem⟩
  case dir => rw [((Posts.refl _).count _ _ _ _).qtr, State.qtr_updStore_self]
  case gone =>
    rw [((Posts.refl _).count _ _ _ _).qtr, State.qtr_updStore_self]
    exact Tab.look_del_self _ _
  case frames =>
    rw [((Posts.refl _).count _ _ _ _).qtr, State.qtr_updStore_self]
    refine ⟨_, List.mem_append_right _ (List.mem_map_of_mem (List.mem_filter.mpr ⟨hfr, ?_⟩)), rfl, rfl, rfl⟩
    simp [hs]
  case hbm => exact ((Posts.refl _).count _ _ _ _).hbm
  case sec => exact ((Posts.refl _).count _ _ _ _).sec
  case mem => exact ((Posts.refl _).count _ _ _ _).mem

/-- With nothing queued for the successor a chain's record is dropped without an answer. -/
theorem State.dropChain_of_idle (hg : s.segOf q key = some (d, g)) (hq : g.chain.queue = []) :
    s.dropChain q key = (s.updStore q fun S => { S with late := S.late ++ g.chain.outstanding.map fun f => (g.chain.succ, f) }).updChain
      q key fun c => { c with outstanding := [], queue := [] } := by
  unfold State.dropChain
  simp only [hg, hq, List.foldl_nil]

/-- The state in which a segment that retires has left its chain and the coding queue. -/
def State.detach (s : State) (q key : Nat) : State := (s.dropChain q key).leaveCoding q key

theorem State.dir_detach (hg : s.segOf q key = some (d, g)) (hq : g.chain.queue = []) :
    ((s.detach q key).qtr q).dir = (s.qtr q).dir := by
  unfold State.detach State.leaveCoding
  rw [State.dropChain_of_idle hg hq, State.qtr_updPcd_self]
  unfold State.updChain
  rw [State.qtr_updSegOf_self, State.qtr_updStore_self]

theorem State.segOf_detach (hg : s.segOf q key = some (d, g)) (hq : g.chain.queue = []) :
    (s.detach q key).segOf q key = some (d, { g with chain := { g.chain with outstanding := [], queue := [] } }) := by
  have hc : ((s.updStore q fun S => { S with late := S.late ++ g.chain.outstanding.map fun f => (g.chain.succ, f) }).segOf q key) =
      some (d, g) := by
    rw [State.segOf_congr, hg]
    rw [State.qtr_updStore_self]
  have hdrop : (s.dropChain q key).segOf q key = some (d, { g with chain := { g.chain with outstanding := [], queue := [] } }) := by
    rw [State.dropChain_of_idle hg hq, State.segOf_updChain, hc]
    rfl
  refine (State.segOf_congr ?_).trans hdrop
  unfold State.detach State.leaveCoding
  rw [State.qtr_updPcd_self]

theorem State.detach_keeps (hg : s.segOf q key = some (d, g)) (hq : g.chain.queue = []) :
    (s.detach q key).hbm = s.hbm ∧ (s.detach q key).sec = s.sec ∧ (s.detach q key).host = s.host := by
  unfold State.detach
  rw [State.dropChain_of_idle hg hq]
  exact ⟨rfl, rfl, rfl⟩

/-- The entry of a key becomes a tombstone, the youngest of its slice (R51, R53). -/
def State.entomb (s : State) (q key gen : Nat) : State :=
  (s.setEntry q key fun e => { e with state := .retired, gen := gen, tombOrder := (s.qtr q).dir.tombs }).updDir q fun D =>
    { D with tombs := (s.qtr q).dir.tombs + 1 }

theorem State.retireEntry_eq (s : State) (q key gen : Nat) :
    s.retireEntry q key gen = ((s.detach q key).entomb q key gen).releaseSeg q key := rfl

theorem State.slot_entomb (he : s.entryOf q key = some (a, e)) (gen : Nat) :
    ((s.entomb q key gen).qtr q).dir.slots.look a =
      some { e with state := .retired, gen := gen, tombOrder := (s.qtr q).dir.tombs, bad := false } := by
  unfold State.entomb
  rw [State.qtr_updDir_self]
  exact State.slot_setEntry he _

theorem State.segOf_entomb (he : s.entryOf q key = some (a, e)) (hg : s.segOf q key = some (d, g)) (gen : Nat) :
    (s.entomb q key gen).segOf q key = some (d, { g with gen := gen }) := by
  have hset := State.segOf_setEntry he fun e => { e with state := .retired, gen := gen, tombOrder := (s.qtr q).dir.tombs }
  rw [hg] at hset
  refine (State.segOf_congr ?_).trans hset
  unfold State.entomb
  rw [State.qtr_updDir_self]

theorem State.entomb_keeps (he : s.entryOf q key = some (a, e)) (gen : Nat) :
    (s.entomb q key gen).hbm = s.hbm ∧ (s.entomb q key gen).sec = s.sec ∧ (s.entomb q key gen).host = s.host := by
  unfold State.entomb
  rw [State.setEntry_of_entry he]
  exact ⟨rfl, rfl, rfl⟩

/-- What RETIRE leaves (R265, R53): a tombstone in the entry's place, the descriptor free and the HBM frames releasable. -/
theorem State.retireEntry_retires (he : s.entryOf q key = some (a, e)) (hg : s.segOf q key = some (d, g)) (hq : g.chain.queue = [])
    (gen : Nat) :
    ((s.retireEntry q key gen).qtr q).dir.slots.look a =
        some { e with state := .retired, gen := gen, tombOrder := (s.qtr q).dir.tombs, bad := false } ∧
      ((s.retireEntry q key gen).qtr q).store.segs.look d = none ∧ (s.retireEntry q key gen).hbm = s.hbm ∧
      (s.retireEntry q key gen).sec = s.sec ∧ (s.retireEntry q key gen).host.mem = s.host.mem ∧
      ∀ fr ∈ g.frames, fr.spilled = false →
        ∃ r ∈ ((s.retireEntry q key gen).qtr q).store.releases, r.stack = fr.stack ∧ r.addr = fr.addr ∧ r.key = key := by
  have hdir := State.dir_detach hg hq
  have he' : (s.detach q key).entryOf q key = some (a, e) := (State.entryOf_congr hdir).trans he
  obtain ⟨hhbm, hsec, hhost⟩ := State.detach_keeps hg hq
  obtain ⟨hhbm', hsec', hhost'⟩ := State.entomb_keeps he' gen
  have hfree := State.releaseSeg_frees (State.segOf_entomb he' (State.segOf_detach hg hq) gen)
  rw [State.retireEntry_eq]
  refine ⟨?_, hfree.gone, hfree.hbm.trans (hhbm'.trans hhbm), hfree.sec.trans (hsec'.trans hsec),
    hfree.mem.trans (congrArg HostIf.mem (hhost'.trans hhost)), hfree.releasable⟩
  rw [hfree.dir, State.slot_entomb he', hdir]

theorem retireStep_of_other_gen (he : v.entryOf p.q p.key = some (a, e)) (hgen : p.gen ≠ e.gen) :
    retireStep v p = .done (v.finish p.tk sSTALE) := by
  simp [retireStep, he, hgen]

theorem retireStep_of_settled (he : v.entryOf p.q p.key = some (a, e)) (hgen : p.gen = e.gen)
    (hst : e.state = .opened ∨ e.state = .sealed ∨ e.state = .coded) :
    retireStep v p = .done ((v.retireEntry p.q p.key (nextGen e.gen)).finish p.tk sOK) := by
  unfold retireStep
  rcases hst with h | h | h <;> simp [he, hgen, h]

end Retire

/-- Settles O21: a READ by the row of its step that applies; a RETIRE by what retiring the entry leaves. -/
theorem readAndRetire : Obligations.ReadAndRetire := by
  unfold Obligations.ReadAndRetire
  intro s o b p u v a d e g he hg
  refine ⟨fun ha hb => ?read, fun ha hb => ⟨fun hgen => ?stale, fun hgen hst hq => ?retire⟩⟩
  case read =>
    have hrun {w : State} (hw : readStep v p = .done w) : exec (.read o b) s = .next (settle (w.recheck p.q p.key)) :=
      congrArg Host.Outcome.next (settle_arrive_of_done ha hb ((segStep_read ha.opcode).trans hw))
    refine ⟨fun hgen => hrun (readStep_of_other_gen he hg hgen), ?_⟩
    rw [← ha.body]
    intro sh fr bytes hgen hst hsh hfr hin hbytes
    rw [ha.body]
    exact hrun (ha.body ▸ readStep_of_stored he hg hgen hst hsh hfr hin hbytes)
  case stale =>
    exact congrArg Host.Outcome.next
      (settle_arrive_of_done ha hb ((segStep_retire ha.opcode).trans (retireStep_of_other_gen he hgen)))
  case retire =>
    exact ⟨_, congrArg Host.Outcome.next
      (settle_arrive_of_done ha hb ((segStep_retire ha.opcode).trans (retireStep_of_settled he hgen hst))), State.retireEntry_retires he hg hq _⟩

end Sys2Proof.Machine
end

section
/-!
PROOFS. Appends to an OPEN segment and SEAL (R250 to R255, R264, Table 9-13).
-/
namespace Sys2Proof.Machine

/-! ### An append to an OPEN segment (Table 9-13) -/

section Append
variable {v : State} {p : Op} {a d : Nat} {e : DirEntry} {g : Seg} {sh : Shape}

theorem appendStep_of_opened (he : v.entryOf p.q p.key = some (a, e)) (hg : v.segOf p.q p.key = some (d, g))
    (hsh : v.shape (keyTenant p.key) p.shapeId = some sh) (ho : e.state = .opened) (hgen : p.gen = e.gen)
    (hid : g.shapeId = p.shapeId) : appendStep v p none = appendRows v p e g sh := by
  unfold appendStep appendLive
  simp [he, hg, hsh, ho, hgen, hid]

theorem accepts_of_opened (ho : e.state = .opened) (g : Seg) : accepts e g = true := by simp [accepts, ho]

theorem AppendReq.nexts_ne_nil (b : Bytes) (g : Seg) : (appendReq b).nexts g ≠ [] := by
  simp [AppendReq.nexts, appendReq]

/-- The rows of Table 9-13 that are left when an append's segment is OPEN, with its chain formed, no reseat has stopped it, and what it
overlaps is identical. -/
theorem appendRows_of_agreeing (ho : e.state = .opened) (hon : g.chainOn = true) (hcut : v.cutting p.q p.key = false)
    (hov : v.overlap p.q p.key g (appendReq p.body) ((appendReq p.body).data sh p.body) = some true) :
    let r := appendReq p.body
    let x := r.data sh p.body
    let ns := (r.nexts g).map (·.2)
    let w := v.storeAppend p.q p.key e g r x
    appendRows v p e g sh =
      if ns.any (· < r.first % 2048) then .hold v
      else if ns.all (r.first % 2048 + r.count ≤ ·) then .done (v.chainDone p sDUPLICATE (v.appendDetail p))
      else if v.linesToAppend p.q p.key g r x > v.roomLines p.q then .wait v
      else .done (w.chainDone p sOK (w.appendDetail p)) := by
  unfold appendRows
  simp [accepts_of_opened ho, hon, hcut, hov]

/-- An append past the next position of some layer waits (R253). -/
theorem appendRows_of_gap (ho : e.state = .opened) (hon : g.chainOn = true) (hcut : v.cutting p.q p.key = false)
    (hov : v.overlap p.q p.key g (appendReq p.body) ((appendReq p.body).data sh p.body) = some true)
    (hgap : ∃ n ∈ (appendReq p.body).nexts g, n.2 < (appendReq p.body).first % 2048) : appendRows v p e g sh = .hold v :=
  (appendRows_of_agreeing ho hon hcut hov).trans (if_pos (by simpa [List.any_map] using hgap))

/-- An append whose tokens every layer has stored is a duplicate (R254). -/
theorem appendRows_of_stored (ho : e.state = .opened) (hon : g.chainOn = true) (hcut : v.cutting p.q p.key = false)
    (hov : v.overlap p.q p.key g (appendReq p.body) ((appendReq p.body).data sh p.body) = some true)
    (hn : ∀ n ∈ (appendReq p.body).nexts g, (appendReq p.body).first % 2048 + (appendReq p.body).count ≤ n.2) :
    appendRows v p e g sh = .done (v.chainDone p sDUPLICATE (v.appendDetail p)) := by
  have hlow : ¬ ((((appendReq p.body).nexts g).map (·.2)).any (· < (appendReq p.body).first % 2048)) = true := by
    simp only [List.any_map, List.any_eq_true, Function.comp_apply, decide_eq_true_eq, not_exists, not_and]
    intro n hmem
    have hpast := hn n hmem
    omega
  refine (appendRows_of_agreeing ho hon hcut hov).trans ((if_neg hlow).trans (if_pos ?_))
  simp only [List.all_map, List.all_eq_true, Function.comp_apply, decide_eq_true_eq]
  exact hn

/-- An append that is next in every layer, with room for the pages that it fills, is stored (R252, R46). -/
theorem appendRows_of_next (ho : e.state = .opened) (hon : g.chainOn = true) (hcut : v.cutting p.q p.key = false)
    (hov : v.overlap p.q p.key g (appendReq p.body) ((appendReq p.body).data sh p.body) = some true)
    (hn : ∀ n ∈ (appendReq p.body).nexts g, n.2 = (appendReq p.body).first % 2048)
    (hroom : v.linesToAppend p.q p.key g (appendReq p.body) ((appendReq p.body).data sh p.body) ≤ v.roomLines p.q)
    (hpos : 0 < (appendReq p.body).count) :
    let w := v.storeAppend p.q p.key e g (appendReq p.body) ((appendReq p.body).data sh p.body)
    appendRows v p e g sh = .done (w.chainDone p sOK (w.appendDetail p)) := by
  have hlow : ¬ ((((appendReq p.body).nexts g).map (·.2)).any (· < (appendReq p.body).first % 2048)) = true := by
    simp only [List.any_map, List.any_eq_true, Function.comp_apply, decide_eq_true_eq, not_exists, not_and]
    intro n hmem
    exact (hn n hmem).not_lt
  obtain ⟨m, hm⟩ := List.exists_mem_of_ne_nil _ (AppendReq.nexts_ne_nil p.body g)
  have hnew : ¬ ((((appendReq p.body).nexts g).map (·.2)).all
      ((appendReq p.body).first % 2048 + (appendReq p.body).count ≤ ·)) = true := by
    simp only [List.all_map, List.all_eq_true, Function.comp_apply, decide_eq_true_eq, not_forall]
    have hnext := hn m hm
    exact ⟨m, hm, by omega⟩
  exact (appendRows_of_agreeing ho hon hcut hov).trans
    ((if_neg hlow).trans ((if_neg hnew).trans (if_neg (Nat.not_lt.mpr hroom))))

end Append

/-! ### SEAL of an OPEN segment (R264) -/

section Seal
variable {v : State} {p : Op} {q key a d : Nat} {e : DirEntry} {g : Seg} {sh : Shape}

theorem sealStep_of_opened (he : v.entryOf p.q p.key = some (a, e)) (hg : v.segOf p.q p.key = some (d, g))
    (hsh : v.shape g.tenant g.shapeId = some sh) (ho : e.state = .opened) (hgen : p.gen = e.gen)
    (hcut : v.cutting p.q p.key = false) (hn : ∀ c ∈ g.counts, c = fieldAt p.body 24 2 % 4096)
    (hroom : ((v.openPages p.q p.key g).map fun y => v.linesToClose p.q p.key y.1 y.2.1.page y.2.2 sh).sum ≤ v.roomLines p.q) :
    sealStep v p = .done (((v.closeAll p.q p.key e.gen g sh).toSealed p.q p.key).chainDone p sOK (fieldAt p.body 24 2 % 4096)) := by
  have hlive : v.liveEntry p.q p.key = some e := by simp [State.liveEntry, he, ho]
  have hover : g.counts.any (fieldAt p.body 24 2 % 4096 < ·) = false := by
    rw [List.any_eq_false]
    intro c hc
    simp [hn c hc]
  have hunder : g.counts.any (· < fieldAt p.body 24 2 % 4096) = false := by
    rw [List.any_eq_false]
    intro c hc
    simp [hn c hc]
  unfold sealStep
  simp [hlive, hg, hsh, hgen, accepts_of_opened ho, hcut, hover, hunder, Nat.not_lt.mpr hroom]

/-- An OPEN segment that is sealed: its entry is SEALED, and it waits to be coded (Table 2-11, R199). -/
theorem State.toSealed_of_opened {w : State} (he : w.entryOf q key = some (a, e)) (ho : e.state = .opened) :
    ((w.toSealed q key).qtr q).dir.slots.look a = some { e with state := .sealed, bad := false } ∧
      { key := key } ∈ ((w.toSealed q key).qtr q).pcd.queue := by
  have hw : w.toSealed q key = (w.setEntry q key fun e => { e with state := .sealed }).enterCoding q key := by
    simp [State.toSealed, he, ho]
  rw [hw]
  unfold State.enterCoding
  rw [State.qtr_updPcd_self]
  exact ⟨State.slot_setEntry he _, List.mem_append_right _ (List.mem_singleton.mpr rfl)⟩

end Seal

/-- Settles O22: an append by the row of Table 9-13 that its next positions pick; a SEAL by its one outcome at the segment's count. -/
theorem appendAndSeal : Obligations.AppendAndSeal := by
  unfold Obligations.AppendAndSeal
  intro s o b p u v a d e g sh he hg hsh ho hgen hid hon hcut hb
  refine ⟨fun op hop ha => ?append, fun ha hsh' hn hroom => ?close⟩
  case append =>
    obtain rfl := ha.body
    have hstep : segStep v p none = appendRows v p e g sh :=
      (segStep_append (ha.opcode ▸ hop)).trans (appendStep_of_opened he hg hsh ho hgen hid)
    intro r c x hov
    have hexec : exec c s = .next (settle (s.arrive o op p.body fun s e => segOp s e none)) := by
      rcases hop with rfl | rfl <;> rfl
    have hdone {w : State} (hw : appendRows v p e g sh = .done w) : exec c s = .next (settle (w.recheck p.q p.key)) :=
      hexec.trans (congrArg Host.Outcome.next (settle_arrive_of_done ha hb (hstep.trans hw)))
    refine ⟨fun hn hroom hpos => hdone (appendRows_of_next ho hon hcut hov hn hroom hpos),
      fun hn => hdone (appendRows_of_stored ho hon hcut hov hn), fun hgap => ?_⟩
    rw [hexec, State.arrive_segOp ha hb, segRun_of_hold (hstep.trans (appendRows_of_gap ho hon hcut hov hgap))]
  case close =>
    obtain rfl := ha.body
    have hstep := (segStep_seal ha.opcode).trans (sealStep_of_opened he hg hsh' ho hgen hcut hn hroom)
    exact ⟨congrArg Host.Outcome.next (settle_arrive_of_done ha hb hstep), fun e' he' ho' => State.toSealed_of_opened he' ho'⟩

end Sys2Proof.Machine
end

section
/-!
PROOFS. The source of a reseat (R266, R267).
-/
namespace Sys2Proof.Machine

/-! ### The steps of a RESEAT operation -/

section Steps
variable {v : State} {p : Op}

theorem reseatStep_copy (h : reseatSub p.body = 0) : reseatStep v p = reseatCopy v p := by simp [reseatStep, h]

theorem reseatStep_cutover (h : reseatSub p.body = 1) : reseatStep v p = reseatCutover v p := by simp [reseatStep, h]

theorem reseatStep_release (h : reseatSub p.body = 2) (hr : p.role ≠ 3) : reseatStep v p = reseatRelease v p := by
  unfold reseatStep
  rw [h]
  exact if_neg hr

theorem reseatStep_prepare (h : reseatSub p.body = 3) : reseatStep v p = reseatPrepare v p none := by simp [reseatStep, h]

theorem reseatStep_commit (h : reseatSub p.body = 4) : reseatStep v p = reseatCommit v p := by simp [reseatStep, h]

end Steps

/-! ### COPY (R266, step 1) -/

section Copy
variable {s v : State} {p : Op} {q key id a : Nat} {e : DirEntry} {t : Ticket} {st : SegState}

/-- A change of a ticket leaves every directory slice alone. -/
theorem State.dir_updTicket (s : State) (id q : Nat) (f : Ticket → Ticket) : ((s.updTicket id f).qtr q).dir = (s.qtr q).dir := by
  unfold State.updTicket
  by_cases h : q = tkQ id
  · subst h
    rw [State.qtr_updTk_self]
  · exact congrArg Quarter.dir (State.qtr_updQ_ne _ _ _ _ h)

theorem State.peerConn_of_used {node tenant : Nat} {c : Nat × Conn}
    (h : (s.qtr q).xpt.conns.find? (fun x => (x.2.state == .opening || x.2.state == .opened) && x.2.opener &&
      x.2.remoteNode == node && x.2.tenant == tenant) = some c) : s.peerConn q node tenant = (some (q * 16384 + c.1), s) := by
  unfold State.peerConn
  rw [h]

/-- A segment begins to move: its entry is MOVING, its descriptor keeps the state it had as PRIOR, and it leaves the coding queue
(Table 2-11, R199). -/
def State.startMove (s : State) (q key : Nat) (prior : SegState) : State :=
  ((s.setEntry q key fun e => { e with state := .moving }).updSegOf q key fun g => { g with prior := prior, changed := [] }).leaveCoding
    q key

theorem State.slot_startMove (he : s.entryOf q key = some (a, e)) (st : SegState) :
    ((s.startMove q key st).qtr q).dir.slots.look a = some { e with state := .moving, bad := false } := by
  unfold State.startMove State.leaveCoding
  rw [State.qtr_updPcd_self, State.qtr_updSegOf_self]
  exact State.slot_setEntry he _

/-- Beginning to move touches neither the tickets nor the connections of the Quarter, nor any memory. -/
theorem State.startMove_keeps (he : s.entryOf q key = some (a, e)) (st : SegState) :
    ((s.startMove q key st).qtr q).tk = (s.qtr q).tk ∧ ((s.startMove q key st).qtr q).xpt = (s.qtr q).xpt ∧
      (s.startMove q key st).hbm = s.hbm ∧ (s.startMove q key st).host = s.host := by
  obtain ⟨D, S, hset⟩ := State.setEntry_changes_quarter he fun e => { e with state := .moving }
  unfold State.startMove
  rw [hset]
  refine ⟨?_, ?_, rfl, rfl⟩ <;>
    simp only [State.leaveCoding, State.qtr_updPcd_self, State.qtr_updSegOf_self, State.qtr_updStore_self, State.qtr_updDir_self]

/-- The ticket of a COPY becomes the reseat's (Table 9-9). -/
def Ticket.asSource (peer conn : Nat) (t : Ticket) : Ticket :=
  { t with kind := 3, side := 0, phase := 0, peer := peer, reseatConn := conn }

/-- A COPY of a settled segment that finds a connection sends PREPARE on it. -/
theorem reseatCopy_prepares {i : Nat} {w : State} (he : v.entryOf p.q p.key = some (a, e)) (hgen : p.gen = e.gen)
    (hst : e.state = .opened ∨ e.state = .sealed ∨ e.state = .coded)
    (hpeer : (v.startMove p.q p.key e.state).peerConn p.q (fieldAt p.body 26 2) (keyTenant p.key) = (some i, w))
    (ht : (w.updTicket p.tk (Ticket.asSource (fieldAt p.body 26 2) i)).ticket p.tk = some t) :
    reseatCopy v p = (w.updTicket p.tk (Ticket.asSource (fieldAt p.body 26 2) i)).sendReseat t 0 3 0 0 := by
  have hgood : ¬ (p.gen ≠ e.gen ∨ e.state = .retired ∨ e.state = .incoming) := by rcases hst with h | h | h <;> simp [hgen, h]
  have hstill : ¬ e.state = .moving := by rcases hst with h | h | h <;> simp [h]
  unfold State.startMove at hpeer
  unfold Ticket.asSource at ht ⊢
  unfold reseatCopy
  simp only [he, if_neg hgood, if_neg hstill, hpeer, Option.getD_some, ht]

theorem reseatCopy_moves {c : Nat × Conn} (he : v.entryOf p.q p.key = some (a, e)) (hgen : p.gen = e.gen)
    (hst : e.state = .opened ∨ e.state = .sealed ∨ e.state = .coded) (ht : v.ticket p.tk = some t) (hq : tkQ p.tk = p.q)
    (hc : (v.qtr p.q).xpt.conns.find? (fun x => (x.2.state == .opening || x.2.state == .opened) && x.2.opener &&
      x.2.remoteNode == fieldAt p.body 26 2 && x.2.tenant == keyTenant p.key) = some c) :
    let f := Ticket.asSource (fieldAt p.body 26 2) (p.q * 16384 + c.1)
    let w := (v.startMove p.q p.key e.state).updTicket p.tk f
    reseatCopy v p = w.sendReseat (f t) 0 3 0 0 ∧ w.ticket p.tk = some (f t) := by
  intro f w
  obtain ⟨htk, hxpt, -, -⟩ := State.startMove_keeps he e.state
  have ht' : (v.startMove p.q p.key e.state).ticket p.tk = some t := (State.ticket_congr (hq ▸ htk)).trans ht
  have hw : w.ticket p.tk = some (f t) := State.ticket_updTicket ht' rfl
  exact ⟨reseatCopy_prepares he hgen hst (State.peerConn_of_used (hxpt ▸ hc)) hw, hw⟩

end Copy

/-! ### CUTOVER and RELEASE (R266 steps 5 and 6, R267) -/

section Cutover
variable {v : State} {p : Op} {a : Nat} {e : DirEntry} {t : Ticket}

theorem reseatCutover_stops (he : v.entryOf p.q p.key = some (a, e)) (hgen : p.gen = e.gen) (hst : e.state = .moving)
    (ht : v.reseatOf p.q p.key 0 = some t) (hph : t.phase = 0) :
    let w := v.updTicket t.id fun t => { t with phase := 1, cutTicket := some p.tk }
    reseatCutover v p = (if t.prepared then w.queueChanged t else w).tryCommit t.id := by
  unfold reseatCutover
  simp [he, hgen, hst, ht, hph]

theorem reseatRelease_gives_up (he : v.entryOf p.q p.key = some (a, e)) (hgen : p.gen = e.gen) (hst : e.state = .moving)
    (ht : v.reseatOf p.q p.key 0 = some t) : reseatRelease v p = (v.reseatEnd t sABORTED true).finish p.tk sOK := by
  unfold reseatRelease
  simp [he, hgen, hst, ht]

end Cutover

/-! ### The two tickets of a reseat at their deadline (R267) -/

section Deadline
variable {s : State} {id : Nat} {t : Ticket}

theorem reseatDeadline_of_source (ht : s.ticket id = some t) (hk : t.kind = 3) (hs : t.side = 0) :
    reseatDeadline s id = (s.advance (t.arrival + t.deadline * 1000)).reseatEnd t sDEADLINE true := by
  unfold reseatDeadline
  simp [ht, hk, hs]

theorem reseatDeadline_of_destination (ht : s.ticket id = some t) (hk : t.kind = 3) (hs : t.side = 1) :
    reseatDeadline s id = (s.advance (t.arrival + t.deadline * 1000)).dropIncoming t := by
  unfold reseatDeadline
  simp [ht, hk, hs]

end Deadline

/-- Settles O23: each row of the source by the step that its SUB names, in the state that its lookup leaves. -/
theorem reseatSource : Obligations.ReseatSource := by
  unfold Obligations.ReseatSource
  refine ⟨fun s o b p u v a e ha hb he hgen => ?rows, fun s id t ht hk hs => ⟨fun hp hn hd => ?copied, ?deadline⟩⟩
  case rows =>
    obtain rfl := ha.body
    refine ⟨fun t0 c hsub hst ht hq _ hc => ?copy, fun t hsub hst ht hph => ?cutover, fun t hsub hr hst ht => ?release⟩
    case copy =>
      obtain ⟨hcopy, htk⟩ := reseatCopy_moves he hgen hst ht hq hc
      obtain ⟨-, -, hhbm, hhost⟩ := State.startMove_keeps he e.state
      have hrow := reseatRow_of_admitted ha hb (want := fun sub => sub == 0 || sub ≥ 5) (by simp [hsub])
      rw [reseatStep_copy hsub, hcopy] at hrow
      refine ⟨_, _, congrArg Host.Outcome.next hrow, htk, rfl, ?_, hhbm, hhost⟩
      rw [State.dir_updTicket]
      exact State.slot_startMove he _
    case cutover =>
      have hrow := reseatRow_of_admitted ha hb (want := fun sub => sub == 1) (by simp [hsub])
      rw [reseatStep_cutover hsub, reseatCutover_stops he hgen hst ht hph] at hrow
      exact congrArg Host.Outcome.next hrow
    case release =>
      have hrow := reseatRow_of_admitted ha hb (want := fun sub => sub == 2) (by simp [hsub])
      rw [reseatStep_release hsub (by omega), reseatRelease_gives_up he hgen hst ht] at hrow
      exact congrArg Host.Outcome.next hrow
  case copied =>
    have hrun : execReseatCopyDone id s = .next (s.answerCopy t sOK t.framesDone) := by
      simp [execReseatCopyDone, ht, hk, hs, hp, hn, hd]
    exact hrun
  case deadline => exact congrArg (fun x => Host.Outcome.next (settle x)) (reseatDeadline_of_source ht hk hs)

end Sys2Proof.Machine
end

section
/-!
PROOFS. The destination of a reseat: WRITE and WRITE_IMM, PREPARE, COMMIT and the deadline (R262, R266, R267).
-/
namespace Sys2Proof.Machine

/-! ### WRITE and WRITE_IMM (R262) -/

/-- A write within a frame of an INCOMING segment, on the reseat's own connection: its bytes go to the frame, its immediate is posted, and
it is answered OK. -/
theorem reseatWrite_of_incoming {u : State} {conn op : Nat} {b : Bytes} {imm : Bool} {t : Ticket} {a d : Nat} {e : DirEntry} {g : Seg}
    {sh : Shape} {fr : FrameRef} (hop : (op == 0x13) = imm) (hbad : writeBad imm b = false)
    (ht : u.ticket (fieldAt b 0 8 % 2 ^ 20) = some t) (hk : t.kind = 3) (hside : t.side = 1)
    (hq : tkQ (fieldAt b 0 8 % 2 ^ 20) = conn / 16384) (hconn : t.reseatConn = conn)
    (he : u.entryOf (conn / 16384) t.key = some (a, e)) (hst : e.state = .incoming)
    (hg : u.segOf (conn / 16384) t.key = some (d, g)) (hsh : u.shape g.tenant g.shapeId = some sh)
    (hfr : g.frames[bits (fieldAt b 0 8) 32 21]? = some fr) (harea : bits (fieldAt b 0 8) 20 20 = 0)
    (hin : bits (fieldAt b 0 8) 53 33 + (b.drop 24).length ≤ sh.frame) :
    let w := u.stackWrite (conn / 16384) fr.stack (fr.addr + bits (fieldAt b 0 8) 53 33) (b.drop 24).length (memOf (b.drop 24))
    let ev : Ev := { type := 0x04, quarter := conn / 16384, p0 := 0x13, p1 := fieldAt b 8 8, p2 := fieldAt b 0 8 % 2 ^ 20 }
    reseatWrite u conn op b = (if imm then w.post t.tenant ev else w).answerWrite conn op sOK b := by
  have hown : ¬ (t.kind ≠ 3 ∨ t.side ≠ 1 ∨ tkQ (fieldAt b 0 8 % 2 ^ 20) ≠ conn / 16384 ∨ t.reseatConn ≠ conn ∨
      e.state ≠ .incoming) := by
    simp only [hk, hside, hq, hconn, hst, ne_eq, not_true_eq_false, or_self, not_false_eq_true]
  unfold reseatWrite
  simp only [hop, hbad, ht, he, hg, hsh, hfr, harea, if_neg hown, if_true, if_neg (Nat.not_lt.mpr hin), Bool.false_eq_true, if_false]

/-! ### PREPARE (R266, step 2) -/

section Operation
variable {v : State} {p : Op} {a d : Nat} {e : DirEntry} {g : Seg} {sh : Shape} {t : Ticket}

/-- The connection that an operation came on. -/
def Op.inConn (p : Op) : Nat := match p.o with | .wire i => i | .host _ => 0

/-- The ticket of a PREPARE becomes the reseat's at the destination (Table 9-9). -/
def Ticket.asDestination (newGen peer conn : Nat) (t : Ticket) : Ticket :=
  { t with kind := 3, side := 1, newGen := newGen, peer := peer, reseatConn := conn, copyDone := true }

/-- The answer to a PREPARE whose segment has been allocated names the reseat's ticket. -/
def State.answerPrepare (s : State) (p : Op) (t : Ticket) : State :=
  s.answer t.origin p.q (s.withEntry p.q p.key { tag := t.cmd, status := sOK, opcode := 0x18, detail := t.id })

theorem reseatPrepare_of_absent {w : State} (he : v.entryOf p.q p.key = none) (hsh : v.shape (keyTenant p.key) p.shapeId = some sh)
    (halloc : v.allocSeg p.q p.key p.shapeId 0 (nextGen (max p.gen 0)) sh .incoming p.toInbound none = .done w)
    (ht : ((w.trimReads p.q).updTicket p.tk
      (Ticket.asDestination (nextGen (max p.gen 0)) (fieldAt p.body 26 2) p.inConn)).ticket p.tk = some t) :
    reseatPrepare v p none = ((w.trimReads p.q).updTicket p.tk
      (Ticket.asDestination (nextGen (max p.gen 0)) (fieldAt p.body 26 2) p.inConn)).answerPrepare p t := by
  have hanswer (x : State) (hx : x.ticket p.tk = some t) :
      (match x.ticket p.tk with | none => x | some t => x.answerPrepare p t) = x.answerPrepare p t := by rw [hx]
  unfold reseatPrepare
  simp only [he, hsh, halloc]
  exact hanswer _ ht

/-! ### COMMIT (R266, step 7) -/

/-- A state that a committed segment may have. -/
def SegState.Settled (st : SegState) : Prop := st = .opened ∨ st = .sealed ∨ st = .coded

theorem priorChoices_settled (anyOpen closedPart : Bool) (n i : Nat) : ((priorChoices anyOpen closedPart n).getD i .opened).Settled := by
  rw [List.getD_eq_getElem?_getD]
  cases h : (priorChoices anyOpen closedPart n)[i]? with
  | none => exact Or.inl rfl
  | some st =>
    have hmem := List.mem_of_getElem? h
    unfold priorChoices at hmem
    split_ifs at hmem <;> simp only [List.mem_cons, List.not_mem_nil, or_false] at hmem
    · exact Or.inl hmem
    · exact Or.inr hmem
    · exact hmem

/-- An incoming segment is taken over: its open pages settle, its counts are set, and its entry goes to a live state; a SEALED one waits to
be coded. -/
def State.takeOver (s : State) (q key : Nat) (pages : CacheEntry → Option CacheEntry) (counts : List Nat) (st : SegState) : State :=
  let s := s.updStore q fun S => { S with cache := S.cache.filterMap pages }
  let s := (s.updSegOf q key fun g => { g with counts := counts }).setEntry q key fun e => { e with state := st }
  if st = .sealed then s.enterCoding q key else s

theorem State.takeOver_spec {u : State} {q key : Nat} (he : u.entryOf q key = some (a, e)) (pages : CacheEntry → Option CacheEntry)
    (counts : List Nat) (st : SegState) :
    ((u.takeOver q key pages counts st).qtr q).dir.slots.look a = some { e with state := st, bad := false } ∧
      (u.takeOver q key pages counts st).hbm = u.hbm ∧ (u.takeOver q key pages counts st).sec = u.sec := by
  have he' : ((u.updStore q fun S => { S with cache := S.cache.filterMap pages }).updSegOf q key fun g =>
      { g with counts := counts }).entryOf q key = some (a, e) := by
    rw [State.entryOf_congr, he]
    rw [State.qtr_updSegOf_self, State.qtr_updStore_self]
  have hslot := State.slot_setEntry he' fun e => { e with state := st }
  obtain ⟨D, S, hset⟩ := State.setEntry_changes_quarter he' fun e => { e with state := st }
  unfold State.takeOver
  dsimp only
  split
  · unfold State.enterCoding
    rw [State.qtr_updPcd_self]
    refine ⟨hslot, ?_, ?_⟩ <;> rw [hset] <;> rfl
  · refine ⟨hslot, ?_, ?_⟩ <;> rw [hset] <;> rfl

/-- At most one open value is drawn. -/
theorem State.mayDraw (s : State) (c : Prop) [Decidable c] : ∃ n, (if c then s.drawFree.2 else s) = { s with free := n } := by
  split
  · exact ⟨_, rfl⟩
  · exact ⟨s.free, rfl⟩

theorem reseatCommit_of_incoming (ht : v.destTicket p (fieldAt p.body 28 4) = some t) (he : v.entryOf p.q p.key = some (a, e))
    (hg : v.segOf p.q p.key = some (d, g)) (hst : e.state = .incoming) (hgen : fieldAt p.body 32 2 = e.gen)
    (hsh : v.shape g.tenant g.shapeId = some sh) :
    ∃ u pages counts st, (∃ n, u = { v with free := n }) ∧ SegState.Settled st ∧
      reseatCommit v p = ((u.takeOver p.q p.key pages counts st).freeTicket t.id).finish p.tk sOK := by
  have hgood : ¬ (e.state ≠ .incoming ∨ fieldAt p.body 32 2 ≠ e.gen) := by simp [hst, hgen]
  unfold reseatCommit
  simp only [ht, he, hg, hsh, if_neg hgood]
  exact ⟨_, _, _, _, State.mayDraw _ _, priorChoices_settled _ _ _ _, rfl⟩

end Operation

/-- Settles O24: a write by what it puts into the frame, PREPARE and COMMIT by the step that their SUB names. -/
theorem reseatDestination : Obligations.ReseatDestination := by
  unfold Obligations.ReseatDestination
  refine ⟨?write, fun s o b p u v ha hb => ⟨?prepare, ?commit⟩, fun s id t ht hk hs => ?deadline⟩
  case write =>
    intro s conn b imm t a d e g sh fr rem q op u hbad ht hk hside hq hconn he hst hg hsh hfr harea hin w ev
    have hop : (op == 0x13) = imm := by cases imm <;> rfl
    have hw := reseatWrite_of_incoming hop hbad ht hk hside hq hconn he hst hg hsh hfr harea hin
    cases imm with
    | false => exact congrArg Host.Outcome.next hw
    | true => exact congrArg Host.Outcome.next hw
  case prepare =>
    obtain rfl := ha.body
    intro sh w t hsub he hsh halloc x hx
    have hrow := reseatRow_of_admitted ha hb (want := fun sub => sub == 3) (by simp [hsub])
    rw [reseatStep_prepare hsub, reseatPrepare_of_absent he hsh halloc hx] at hrow
    exact congrArg Host.Outcome.next hrow
  case commit =>
    obtain rfl := ha.body
    intro t a d e g sh hsub ht he hg hst hgen hsh
    obtain ⟨u, pages, counts, st, ⟨n, rfl⟩, hst', hcommit⟩ := reseatCommit_of_incoming ht he hg hst hgen hsh
    have hrow := reseatRow_of_admitted ha hb (want := fun sub => sub == 4) (by simp [hsub])
    rw [reseatStep_commit hsub, hcommit] at hrow
    exact ⟨_, st, congrArg Host.Outcome.next hrow, hst', State.takeOver_spec (u := { v with free := n }) he pages counts st⟩
  case deadline => exact congrArg (fun x => Host.Outcome.next (settle x)) (reseatDeadline_of_destination ht hk hs)

end Sys2Proof.Machine
end

section
/-!
PROOFS. ATTEND: how its Dovetail takes it, the answers and notices of its children, and the deadlines that end holds and requests (R128,
R129, R253, R269 to R276).
-/
namespace Sys2Proof.Machine

/-! ### Starting an ATTEND (R269, R273) -/

section Start
variable {s u v w : State} {o : Origin} {b : Bytes} {errs : List Nat} {p : Op} {sh : Shape} {r : Request} {l : List HeldSeg}

/-- A request that its home Quarter's Dovetail takes (R129): it is registered, its jobs are formed, and its ticket counts them; it is
checked at once. -/
def State.collect (w : State) (p : Op) (r : Request) (l : List HeldSeg) : State :=
  let x := formJobs (w.updDove p.q fun D => { D with reqs := D.reqs.put p.tk r }) r false l
  let n := (x.quarters.map fun e => (e.2.core.jobs.filter fun j => j.ticket == p.tk).length).sum +
    (match x.request p.tk with | some r => r.children.length | none => 0)
  ((x.updTicket p.tk fun t => { t with jobs := n }).checkMiss p.tk).checkReq p.tk

/-- A request with the heads that R45 refuses. -/
def Request.withWindow (w : State) (l : List HeldSeg) (r : Request) : Request :=
  { r with outWindow := r.heads.filter fun h => l.any fun x => outOfWindow w r h x }

theorem attendRun_of_one_node (hf : findSegs p (reqSegs r.viewEnd [(r.firstSeg, r.lastSeg)]) v = (some l, w))
    (hlane : laneFits w p.q r l = false) : attendRun v p r none errs = w.collect p (r.withWindow w l) l := by
  unfold attendRun
  simp only [hf, hlane, Bool.false_and, Bool.false_eq_true, if_false]
  rfl

/-- An ATTEND of one node that passes its checks runs over its own segments. -/
theorem State.arrive_attend_of_one_node (hc : ∀ h, o = .host h → hostCheck (s.take o 0x15 b).2 h 0x15 b = none)
    (hbegin : (s.take o 0x15 b).2.beginOp { origin := o, opcode := 0x15, body := b, arrival := (s.take o 0x15 b).1 } = .ok (p, u))
    (hv : v = u.meter (keyTenant p.key) 5 1) (hsh : v.shape (keyTenant p.key) p.shapeId = some sh) (hbad : attendBad sh p.body = false)
    (hr : r = p.request sh (v.assisted 6)) (hone : r.fanout = false) :
    s.arrive o 0x15 b (fun s e => attendOp s e errs) = attendRun (v.updTicket p.tk fun t => t.ofRequest r 0) p r none errs := by
  subst hv hr
  rw [State.arrive_of_passed hc]
  unfold attendOp
  simp only [hbegin, Option.isNone_none, if_true, hsh, hbad, hone, Bool.not_false, Bool.false_eq_true, if_false]

/-- A fan-out whose conversation has no map ends with NO_MAP (R273). -/
theorem State.arrive_attend_of_no_map {t : Ticket} (hc : ∀ h, o = .host h → hostCheck (s.take o 0x15 b).2 h 0x15 b = none)
    (hbegin : (s.take o 0x15 b).2.beginOp { origin := o, opcode := 0x15, body := b, arrival := (s.take o 0x15 b).1 } = .ok (p, u))
    (hv : v = u.meter (keyTenant p.key) 5 1) (hsh : v.shape (keyTenant p.key) p.shapeId = some sh) (hbad : attendBad sh p.body = false)
    (hr : r = p.request sh (v.assisted 6)) (hfan : r.fanout = true) (ht : v.ticket p.tk = some t) (hk : t.kind ≠ 2)
    (hm : v.mapOf (keyTenant p.key) (keyConv p.key) = none) :
    s.arrive o 0x15 b (fun s e => attendOp s e errs) = v.finish p.tk sNOMAP := by
  subst hv hr
  rw [State.arrive_of_passed hc]
  unfold attendOp
  simp only [hbegin, Option.isNone_none, if_true, hsh, hbad, hfan, ht, if_neg hk, hm, Bool.not_true, Bool.false_eq_true, if_false]

end Start

/-- Settles O25: an ATTEND that begins goes by its FANOUT bit to its own Dovetail, or to the map that it does not find. -/
theorem attendStarts : Obligations.AttendStarts := by
  unfold Obligations.AttendStarts
  intro s o b errs p u sh r0 hc hbegin v hsh hbad r
  refine ⟨fun l w hone hf hlane => ?one, fun t hfan ht hk hm => ?noMap⟩
  case one =>
    have hrun := (State.arrive_attend_of_one_node (errs := errs) hc hbegin rfl hsh hbad rfl hone).trans (attendRun_of_one_node hf hlane)
    exact congrArg (fun x => Host.Outcome.next (settle x)) hrun
  case noMap =>
    have hrun := State.arrive_attend_of_no_map (errs := errs) hc hbegin rfl hsh hbad rfl hfan ht hk hm
    exact congrArg (fun x => Host.Outcome.next (settle x)) hrun

/-! ### Children (R275, R276) -/

section Children
variable {s : State} {tk : Nat} {t : Ticket} {r : Request} {c : Child} {g : ChildGroup} {b : Bytes}

/-- With both hedges of its range spent, a child is not hedged any more. -/
theorem State.hedge_of_spent (hr : s.request tk = some r) (hg : r.groups.find? (fun g => g.idx == c.group) = some g)
    (hh : 2 ≤ g.hedges) (cause : Nat) (ranges : List (Nat × Nat)) : s.hedge tk c cause ranges = (false, s) := by
  unfold State.hedge
  simp [hr, hg, hh]

/-- A child's own record is no part of what decides on a hedge. -/
theorem State.hedge_updChild_of_spent (hr : s.request tk = some r) (hg : r.groups.find? (fun g => g.idx == c.group) = some g)
    (hh : 2 ≤ g.hedges) (idx : Nat) (f : Child → Child) (cause : Nat) (ranges : List (Nat × Nat)) :
    (s.updChild tk idx f).hedge tk c cause ranges = (false, s.updChild tk idx f) :=
  State.hedge_of_spent (State.request_updReq hr _) hg hh cause ranges

/-- A PARTIAL of a failing status with no record ends its child, and where both hedges are spent nothing more is sent. -/
theorem partialMsg_of_failed (ht : s.ticket (fieldAt b 0 8 % 2 ^ 20) = some t) (hr : s.request (fieldAt b 0 8 % 2 ^ 20) = some r)
    (hc : r.children.find? (fun c => c.idx == fieldAt b 0 8 / 2 ^ 20) = some c) (hk : t.kind = 2) (hended : c.ended = false)
    (hg : r.groups.find? (fun g => g.idx == c.group) = some g) (hh : 2 ≤ g.hedges) (hlen : b.length = 32)
    (hst : byteAt b 8 = 0x61) :
    partialMsg s b = (s.updChild (fieldAt b 0 8 % 2 ^ 20) c.idx fun c => { c with ended := true }).checkReq
      (fieldAt b 0 8 % 2 ^ 20) := by
  have hgoes : ¬ (t.kind ≠ 2 ∨ c.ended = true) := by simp [hk, hended]
  have hrecs : readRecs (b.length + 1) (b.drop 32) = [] := by
    rw [List.drop_eq_nil_of_le (by omega)]
    rfl
  have hstatus : (if b.length < 32 ∨ (!isStatus (byteAt b 8)) = true then sABORTED else byteAt b 8) = sABORTED := by
    rw [hst]
    split <;> rfl
  have hfails : sABORTED ≠ sOK ∧ sABORTED ≠ sPARTIAL ∧ sABORTED ≠ sDEADLINE := by decide
  unfold partialMsg
  simp only [ht, hr, hc, if_neg hgoes, hrecs, hstatus, List.filterMap_nil, List.length_nil, Nat.sub_self, if_true, List.foldl_nil,
    if_pos hfails, State.hedge_updChild_of_spent hr hg hh]

/-- A NOTICE WILL_MISS of a child that cannot be hedged is noted and passed on to the origin (R127). -/
theorem noticeMsg_of_spent (ht : s.ticket (fieldAt b 0 8 % 2 ^ 20) = some t) (hr : s.request (fieldAt b 0 8 % 2 ^ 20) = some r)
    (hc : r.children.find? (fun c => c.idx == fieldAt b 0 8 / 2 ^ 20) = some c) (hk : t.kind = 2) (hended : c.ended = false)
    (hmiss : c.willMiss = none) (hg : r.groups.find? (fun g => g.idx == c.group) = some g) (hh : 2 ≤ g.hedges)
    (hlen : b.length = 16) (hkind : byteAt b 8 = 0x21) :
    noticeMsg s b = (s.updChild (fieldAt b 0 8 % 2 ^ 20) c.idx fun c => { c with willMiss := some (fieldAt b 9 3) }).sendMiss
      (fieldAt b 0 8 % 2 ^ 20) (sat (fieldAt b 9 3 + ceilDiv (c.sentAt - t.arrival) 1000) 0xFFFFFF) := by
  have hgood : ¬ (b.length ≠ 16 ∨ byteAt b 8 ≠ 0x21) := by simp [hlen, hkind]
  have hgoes : ¬ (t.kind ≠ 2 ∨ c.ended = true ∨ c.willMiss.isSome = true) := by simp [hk, hended, hmiss]
  unfold noticeMsg
  simp only [if_neg hgood, ht, hr, hc, if_neg hgoes, State.hedge_updChild_of_spent hr hg hh, Bool.false_eq_true, if_false]

end Children

/-! ### Forwards (R248, R249, R257) -/

section Forwards
variable {s : State} {q key d : Nat} {g : Seg} {f : Forward}

/-- Two changes of a chain record are one change. -/
theorem State.updChain_updChain (h k : Chain → Chain) : (s.updChain q key h).updChain q key k = s.updChain q key fun c => k (h c) := by
  have hmap (l : Tab Seg) := map_map_of_key (k := fun x : Nat × Seg => mkKey x.2.tenant x.2.conv x.2.seg)
    (f := fun x => (x.1, { x.2 with chain := h x.2.chain })) (fun _ => rfl) (fun x => (x.1, { x.2 with chain := k x.2.chain })) key l
  unfold State.updChain State.updSegOf State.updStore
  rw [State.updQ_updQ]
  simp only [hmap]

/-- An answer of OK to a forward that no operation waits for, with nothing queued behind it, takes it off the chain and records the
successor's generation. -/
theorem State.forwardAnswered_of_ok (hg : s.segOf q key = some (d, g)) {fwd : Nat}
    (hf : g.chain.outstanding.find? (fun f => f.id == fwd) = some f) (hw : f.waiter = none) (hq : g.chain.queue = [])
    (gen copies : Nat) :
    s.forwardAnswered q key fwd sOK gen copies = s.updChain q key fun c =>
      { c with outstanding := c.outstanding.filter (fun x => x.id != fwd), queue := [], succGen := gen } := by
  have hg' := State.segOf_updChain (s := s) (q := q) (key := key) fun c =>
    { c with outstanding := c.outstanding.filter (fun x => x.id != fwd), succGen := gen }
  rw [hg] at hg'
  unfold State.forwardAnswered
  simp only [hg, hf, true_or, if_true]
  unfold State.ackWaiter State.flushForwards
  simp only [hw, hg', Option.map_some, hq, List.foldl_nil, State.updChain_updChain]

theorem responseMsg_of_forward {i : Nat} {b : Bytes} (hlen : 32 ≤ b.length) (hst : byteAt b 8 = 0)
    (hop : byteAt b 9 = 0x10 ∨ byteAt b 9 = 0x11 ∨ byteAt b 9 = 0x17) (hkey : s.forwardSeg (i / 16384) (fieldAt b 0 8) = some key) :
    responseMsg s i b = s.forwardAnswered (i / 16384) key (fieldAt b 0 8) sOK (fieldAt b 10 2) (byteAt b 13) := by
  unfold responseMsg forwardAnswer
  simp only [if_neg (Nat.not_lt.mpr hlen), if_pos hop, hkey, hst]
  rfl

end Forwards

/-- Settles O26: each message by what it does to the child or the forward that it names. -/
theorem childrenAndForwards : Obligations.ChildrenAndForwards := by
  unfold Obligations.ChildrenAndForwards
  refine ⟨?partialAns, ?notice, ?response⟩
  case partialAns =>
    intro s conn b t r c g tk u ht hr hc hk hended hg hh hlen hst
    exact congrArg (fun x => Host.Outcome.next (settle x)) (partialMsg_of_failed ht hr hc hk hended hg hh hlen hst)
  case notice =>
    intro s conn b t r c g tk u ht hr hc hk hended hmiss hg hh hlen hkind v
    exact congrArg (fun x => Host.Outcome.next (settle x)) (noticeMsg_of_spent ht hr hc hk hended hmiss hg hh hlen hkind)
  case response =>
    intro s conn key d b g f q u hlen hst hop hkey hg hf hw hq herr
    have hmsg := (responseMsg_of_forward hlen hst hop hkey).trans
      (State.forwardAnswered_of_ok hg hf hw hq (fieldAt b 10 2) (byteAt b 13))
    exact congrArg Host.Outcome.next ((congrArg settle hmsg).trans (settle_of_no_errors herr))

/-! ### Deadlines (R128, R253, R271) -/

section Deadlines
variable {s : State} {tk : Nat} {t : Ticket} {r : Request}

theorem gapHoldExpiry_of_held {q id : Nat} {h : Held}
    (hh : (s.qtr q).store.holds.find? (fun h => h.id == id && !h.inStore) = some h) :
    let w := (s.advance (min (h.since + 200000) h.op.deadline)).unhold q id
    gapHoldExpiry s q id = w.finish h.ticket sGAP (w.holdDetail h.op) := by
  unfold gapHoldExpiry
  rw [hh]

/-- The request of an ATTEND that is not complete, without BY_DEADLINE, ends with DEADLINE. -/
theorem State.deadlineReq_of_incomplete (hr : s.request tk = some r) (ha : r.assist6 = false) (hb : r.byDeadline = false)
    (hc : r.complete = false) (hm : ∀ a ∈ s.host.assists, a.purpose ≠ .merge tk) :
    s.deadlineReq tk = (s.countU bCORE (tkQ tk) 8 2).closeReq tk sDEADLINE 0 [] 0 := by
  have hp : Posts s (s.countU bCORE (tkQ tk) 8 2) := (Posts.refl s).countU _ _ _ _ _
  have hnone : ((s.countU bCORE (tkQ tk) 8 2).host.assists.any fun a => a.purpose == .merge tk) = false := by
    rw [hp.assists, List.any_eq_false]
    intro a hmem
    simpa using hm a hmem
  unfold State.deadlineReq
  simp [hr, ha, hb, hc, hnone]

theorem requestDeadline_of_request (ht : s.ticket tk = some t) (hop : t.opcode = 0x15) (hk : t.kind ≠ 3)
    (hr : s.request tk = some r) : requestDeadline s tk = (s.advance (t.arrival + t.deadline * 1000)).deadlineReq tk := by
  have hr' : (s.advance (t.arrival + t.deadline * 1000)).request tk = some r := hr
  unfold requestDeadline
  simp [ht, hop, hk, hr']

end Deadlines

/-- Settles O27: both rows move time to their instant; a hold then leaves its store, and a request is closed. -/
theorem deadlinesEnd : Obligations.DeadlinesEnd := by
  unfold Obligations.DeadlinesEnd
  refine ⟨fun s q id h hh => ?hold, fun s id t r ht hop hk hr ha hb hc hm => ?request⟩
  case hold =>
    refine ⟨_, _, congrArg (fun x => Host.Outcome.next (settle x)) (gapHoldExpiry_of_held hh), rfl, ?_, rfl, rfl, ?_⟩
    · unfold State.unhold
      rw [State.qtr_updStore_self]
      rfl
    · unfold State.unhold
      rw [State.qtr_updStore_self]
      rfl
  case request =>
    have hend := (requestDeadline_of_request ht hop hk hr).trans
      (State.deadlineReq_of_incomplete (s := s.advance (t.arrival + t.deadline * 1000)) hr ha hb hc hm)
    have hp := (Posts.refl (s.advance (t.arrival + t.deadline * 1000))).countU bCORE (tkQ id) 8 2 1
    have htime := hp.time
    refine ⟨_, congrArg (fun x => Host.Outcome.next (settle x)) hend, htime, ?_⟩
    rw [htime]
    exact hp

end Sys2Proof.Machine
end

section
/-!
PROOFS. Ports: reading one after a change, what a change of a port leaves alone, and the frames that its checks discard (R222, R285 to R287).
-/
namespace Sys2Proof.Machine

/-! ### Reading a port after a change -/

section Units
variable (s : State) (p : Nat)

@[simp] theorem State.qtr_updPort_self (f : Port → Port) :
    (s.updPort p f).qtr p = { s.qtr p with port := f (s.qtr p).port } :=
  State.qtr_updQ_self _ _ _

theorem State.qtr_updPort_ne {q : Nat} (f : Port → Port) (h : q ≠ p) : (s.updPort p f).qtr q = s.qtr q :=
  State.qtr_updQ_ne _ _ _ _ h

/-- What a change of a port does follows from what it makes of that port. -/
theorem State.updPort_congr {f g : Port → Port} (h : f (s.qtr p).port = g (s.qtr p).port) : s.updPort p f = s.updPort p g := by
  unfold State.qtr at h
  simp only [State.updPort, State.updQ, Tab.amend, h]

end Units

/-! ### What a change of one port leaves alone -/

/-- `t` has the local time, the register values, the other Quarters, the connections, messages and HBM bytes of `s`: only port p, what is
counted and what is metered may differ. -/
structure KeepsButPort (p : Nat) (s t : State) : Prop where
  time : t.time = s.time
  regVal : t.regs.val = s.regs.val
  others : ∀ q, q ≠ p → t.qtr q = s.qtr q
  conn : ∀ i, t.conn i = s.conn i
  inbox : t.inbox = s.inbox
  unitErrs : t.unitErrs = s.unitErrs
  hbm : t.hbm = s.hbm

namespace KeepsButPort
variable {p : Nat} {s₀ s t u : State}

theorem refl (p : Nat) (s : State) : KeepsButPort p s s := ⟨rfl, rfl, fun _ _ => rfl, fun _ => rfl, rfl, rfl, rfl⟩

theorem trans (a : KeepsButPort p s t) (b : KeepsButPort p t u) : KeepsButPort p s u :=
  ⟨b.time.trans a.time, b.regVal.trans a.regVal, fun q hq => (b.others q hq).trans (a.others q hq),
    fun i => (b.conn i).trans (a.conn i), b.inbox.trans a.inbox, b.unitErrs.trans a.unitErrs, b.hbm.trans a.hbm⟩

theorem posts (h : KeepsButPort p s₀ s) (g : Posts s t) : KeepsButPort p s₀ t :=
  h.trans ⟨g.time, g.regVal, fun q _ => g.qtr q, g.conn, g.inbox, g.unitErrs, g.hbm⟩

theorem count (h : KeepsButPort p s₀ s) (c q n k : Nat) : KeepsButPort p s₀ (s.count c q n k) :=
  h.posts ((Posts.refl s).count c q n k)

theorem updPort (h : KeepsButPort p s₀ s) (f : Port → Port) : KeepsButPort p s₀ (s.updPort p f) :=
  h.trans ⟨rfl, rfl, fun _ hq => s.qtr_updPort_ne p f hq, fun i => s.conn_updPort i p f, rfl, rfl, rfl⟩

theorem meter (h : KeepsButPort p s₀ s) (n m k : Nat) : KeepsButPort p s₀ (s.meter n m k) :=
  h.trans ⟨rfl, rfl, fun _ _ => rfl, fun _ => rfl, rfl, rfl, rfl⟩

theorem reg (h : KeepsButPort p s t) (c q o : Nat) : t.reg c q o = s.reg c q o := by
  unfold State.reg
  rw [h.regVal]

theorem pfcEn (h : KeepsButPort p s t) (q c : Nat) : t.pfcEn q c = s.pfcEn q c := by
  unfold State.pfcEn
  rw [h.reg]

theorem loops (h : KeepsButPort p s t) (q : Nat) : t.loops q = s.loops q := by
  unfold State.loops
  rw [h.reg]

theorem quantum (h : KeepsButPort p s t) (q n : Nat) : t.quantum q n = s.quantum q n := by
  unfold State.quantum
  rw [h.reg]

end KeepsButPort

/-! ### PFC frames that are received (R290) -/

/-- A class that a PFC frame pauses for a time, or resumes. -/
def TxClass.pausedFor (k : TxClass) (now time : Nat) : TxClass :=
  { k with pausedUntil := if time = 0 then none else some (now + ceilDiv (time * 64) 100) }

/-- What a PFC frame does to one class. -/
def State.pauseClass (s : State) (p en : Nat) (times : List Nat) (c : Nat) : State :=
  if !bit en c then s
  else if !s.pfcEn p c then s.count bPORT p 11
  else s.updPort p fun P => { P with classes := P.classes.amend c {} fun k => k.pausedFor s.time (times.getD c 0) }

theorem pfcReceive_eq (s : State) (p en : Nat) (times : List Nat) :
    pfcReceive s p en times = (List.range 8).foldl (fun s c => s.pauseClass p en times c) (s.count bPORT p 10) := rfl

/-- A PFC frame has been taken up in the classes below `n`. -/
structure PausedBelow (p en : Nat) (times : List Nat) (n : Nat) (s t : State) : Prop where
  keeps : KeepsButPort p s t
  cls : ∀ c, (t.qtr p).port.classes.fetch c {} =
    if c < n ∧ bit en c = true ∧ s.pfcEn p c = true then ((s.qtr p).port.classes.fetch c {}).pausedFor s.time (times.getD c 0)
    else (s.qtr p).port.classes.fetch c {}

section Pause
variable {s t : State} {p en n : Nat} {times : List Nat}

/-- The next class is one that the frame does not pause. -/
theorem PausedBelow.skip (h : PausedBelow p en times n s t) (hn : ¬ (bit en n = true ∧ s.pfcEn p n = true)) {u : State}
    (hu : Posts t u) : PausedBelow p en times (n + 1) s u := by
  refine ⟨h.keeps.posts hu, fun c => ?_⟩
  have hc : (c < n + 1 ∧ bit en c = true ∧ s.pfcEn p c = true) ↔ (c < n ∧ bit en c = true ∧ s.pfcEn p c = true) := by
    refine and_congr_left fun hb => ?_
    have : c ≠ n := fun e => hn (e ▸ hb)
    omega
  rw [hu.qtr, h.cls]
  simp only [hc]

theorem PausedBelow.succ (h : PausedBelow p en times n s t) : PausedBelow p en times (n + 1) s (t.pauseClass p en times n) := by
  unfold State.pauseClass
  by_cases hb : bit en n = true
  · by_cases he : s.pfcEn p n = true
    · rw [if_neg (by simp [hb]), if_neg (by simp [h.keeps.pfcEn, he])]
      refine ⟨h.keeps.updPort _, fun c => ?_⟩
      rw [State.qtr_updPort_self]
      by_cases hc : c = n
      · subst hc
        have hlt : ¬ (c < c ∧ bit en c = true ∧ s.pfcEn p c = true) := fun hh => Nat.lt_irrefl c hh.1
        rw [if_pos ⟨Nat.lt_succ_self c, hb, he⟩, Tab.fetch_amend_self, h.keeps.time, h.cls, if_neg hlt]
      · have hlt : c < n + 1 ↔ c < n := by omega
        rw [Tab.fetch_amend_ne _ _ _ _ _ _ hc, h.cls]
        simp only [hlt]
    · rw [if_neg (by simp [hb]), if_pos (by simp [h.keeps.pfcEn, he])]
      exact h.skip (fun hh => he hh.2) ((Posts.refl t).count _ _ _ _)
  · rw [if_pos (by simp [hb])]
    exact h.skip (fun hh => hb hh.1) (.refl t)

theorem pausedBelow_pfcReceive (s : State) (p en : Nat) (times : List Nat) : PausedBelow p en times 8 s (pfcReceive s p en times) := by
  have hp := (Posts.refl s).count bPORT p 10 1
  have h0 : PausedBelow p en times 0 s (s.count bPORT p 10) :=
    ⟨(KeepsButPort.refl p s).posts hp, fun c => by rw [hp.qtr, if_neg fun hh => Nat.not_lt_zero c hh.1]⟩
  have hn (n : Nat) :
      PausedBelow p en times n s ((List.range n).foldl (fun s c => s.pauseClass p en times c) (s.count bPORT p 10)) := by
    induction n with
    | zero => exact h0
    | succ n ih =>
      rw [List.range_succ, List.foldl_concat]
      exact ih.succ
  exact hn 8

end Pause

/-! ### The checks of a port (R285, Table 10-2) -/

section Checks
variable {s : State} {p : Nat} {f : RxFrame} (hup : ((s.qtr p).port.linkUp || bit (s.reg bPORT p 4) 13) = true) (hoff : s.qOff p = false)
include hup hoff

theorem frameReceive_of_dropped {n : Nat} (hd : ((s.advance f.at_).count bPORT p 0).portDrop p f = some n) :
    frameReceive s p f = ((s.advance f.at_).count bPORT p 0).count bPORT p n := by
  unfold frameReceive
  simp only [hup, hoff, hd, Bool.not_true, Bool.or_self, Bool.false_eq_true, if_false]

theorem frameReceive_of_pfc {en : Nat} {times : List Nat} (hd : ((s.advance f.at_).count bPORT p 0).portDrop p f = none)
    (ho : f.etherOuter = 0x8808) (hp : f.pause = some (en, times)) :
    frameReceive s p f = pfcReceive ((s.advance f.at_).count bPORT p 0) p en times := by
  unfold frameReceive
  simp only [hup, hoff, hd, hp, ho, Bool.not_true, Bool.or_self, Bool.false_eq_true, if_false, if_true]

theorem frameReceive_of_passed (hd : ((s.advance f.at_).count bPORT p 0).portDrop p f = none) (ho : f.etherOuter ≠ 0x8808) :
    frameReceive s p f = rxEpcen ((s.advance f.at_).count bPORT p 0) p f := by
  unfold frameReceive
  simp only [hup, hoff, hd, Bool.not_true, Bool.or_self, Bool.false_eq_true, if_false]
  cases f.pause with
  | none => rfl
  | some e => exact if_neg ho

end Checks

/-! ### The checks of Table 8-7, and the policer (R222, R286, R287) -/

theorem KeepsSquare.applyPacket {s₀ s : State} (h : KeepsSquare s₀ s) (p base n : Nat) : KeepsSquare s₀ (applyPacket s p base n) := by
  have hs (c : Prop) [Decidable c] : KeepsSquare s₀ (if c then s.settlePort p base n else s) := .ite (h.updQ _ _) h
  unfold Machine.applyPacket
  exact ((hs _).applyAt _ _ _).applyAt _ _ _

theorem KeepsSquare.police {s₀ s : State} (h : KeepsSquare s₀ s) (p n len : Nat) : KeepsSquare s₀ (police s p n len).2 := by
  unfold Machine.police
  dsimp only
  split
  · exact h
  · exact h.updQ _ _

section Epcen
variable {s : State} {p : Nat} {f : RxFrame} {h : Hdr} {i : Nat}

theorem rxEpcen_of_dropped {n : Nat} (hd : s.epcenDrop p f = some n) : rxEpcen s p f = s.count bXPT p n := by
  unfold rxEpcen
  rw [hd]

theorem rxEpcen_of_policed (hd : s.epcenDrop p f = none) (hh : Hdr.ofBytes f.header = h)
    (hr : (police (applyPacket s p 0x600 h.tenant) p h.tenant f.len).1 = false) :
    rxEpcen s p f = policedDrop (police (applyPacket s p 0x600 h.tenant) p h.tenant f.len).2 p h := by
  subst hh
  unfold rxEpcen
  rw [hd]
  simp only [hr, Bool.not_false, if_true]

/-- Within 64 µs of a connection's last POLICED notice none is due. -/
theorem policedNotice_of_recent {n : Nat} (hn : (s.conn i).noticeAt = some n) (ht : s.time < n + 64000) : policedNotice s i = s := by
  have hgap : decide (n + 64000 ≤ s.time) = false := decide_eq_false (by omega)
  unfold policedNotice
  simp only [hn, hgap, Bool.false_eq_true, and_false, if_false]

/-- A policed packet of an OPEN connection that has had its notice is counted, and charged to the connection. -/
theorem policedDrop_of_recent {n : Nat} (hop : h.opcode ≥ 0x10) (hi : i = h.dstConn % 65536) (hopen : (s.conn i).state = .opened)
    (hinc : (s.conn i).incarn % 256 = h.dstConn / 65536) (hten : (s.conn i).tenant = h.tenant) (hn : (s.conn i).noticeAt = some n)
    (ht : s.time < n + 64000) :
    policedDrop s p h = ((s.count bPORT p 8).bumpOff bPORT p (0x5000 + 8 * h.tenant) 1).updConn i fun c =>
      { c with drops := c.drops + 1 } := by
  subst hi
  have hp : Posts s ((s.count bPORT p 8).bumpOff bPORT p (0x5000 + 8 * h.tenant) 1) :=
    ((Posts.refl s).count _ _ _ _).bumpOff _ _ _ _
  have hc := hp.conn (h.dstConn % 65536)
  unfold policedDrop
  dsimp only
  rw [if_pos (by rw [hc]; exact ⟨hop, hopen, hinc, hten⟩)]
  refine policedNotice_of_recent (n := n) ?_ (lt_of_eq_of_lt hp.time ht)
  rw [State.conn_updConn_self, hc]
  exact hn

end Epcen

/-- Settles O41: the first check that fails decides, and what a frame then does leaves no message failed. -/
theorem framesAreChecked : Obligations.FramesAreChecked := by
  unfold Obligations.FramesAreChecked
  intro s p f hup hoff herr v h i r
  have hsq : KeepsSquare (s.advance f.at_) v := (KeepsSquare.refl _).count _ _ _ _
  have hxp : KeepsXpt (s.advance f.at_) v := (KeepsXpt.refl _).count _ _ _ _
  have hexec {t : State} (ht : frameReceive s p f = t) (he : t.unitErrs = v.unitErrs) : exec (.frameReceive p f) s = .next t :=
    congrArg Host.Outcome.next ((congrArg settle ht).trans (settle_of_no_errors (he.trans (hxp.unitErrs.trans herr))))
  refine ⟨fun n hd => ?port, fun en ts hd ho hp => ?pfc,
    fun hd ho => ⟨fun n hd' => ?epcen, fun hd' hr hop hopen hinc hten ⟨n, hn, ht, hat⟩ => ?policed⟩⟩
  case port => exact hexec (frameReceive_of_dropped hup hoff hd) ((Posts.refl v).count _ _ _ _).unitErrs
  case pfc => exact hexec (frameReceive_of_pfc hup hoff hd ho hp) (pausedBelow_pfcReceive v p en ts).keeps.unitErrs
  case epcen =>
    exact hexec ((frameReceive_of_passed hup hoff hd ho).trans (rxEpcen_of_dropped hd')) ((Posts.refl v).count _ _ _ _).unitErrs
  case policed =>
    have hrs : r.2.time = max s.time f.at_ := ((hsq.applyPacket p 0x600 h.tenant).police p h.tenant f.len).time
    have hrx : KeepsXpt v r.2 := ((KeepsXpt.refl v).applyPacket p 0x600 h.tenant).police p h.tenant f.len
    have hc : r.2.conn i = s.conn i := (hrx.conn i).trans (hxp.conn i)
    have hdrop := policedDrop_of_recent (s := r.2) (p := p) hop rfl (by rw [hc]; exact hopen) (by rw [hc]; exact hinc)
      (by rw [hc]; exact hten) (by rw [hc]; exact hn) (by rw [hrs]; exact max_lt ht hat)
    have hp : Posts r.2 ((r.2.count bPORT p 8).bumpOff bPORT p (0x5000 + 8 * h.tenant) 1) :=
      ((Posts.refl r.2).count _ _ _ _).bumpOff _ _ _ _
    have hx := (frameReceive_of_passed hup hoff hd ho).trans ((rxEpcen_of_policed hd' rfl hr).trans hdrop)
    exact hexec hx ((State.updQ_unitErrs _ _ _).trans (hp.unitErrs.trans hrx.unitErrs))

end Sys2Proof.Machine
end

section
/-!
PROOFS. The transmit side of a port: what leaves at a frame boundary, and the pauses that end or are asked for again (R289 to R293).
-/
namespace Sys2Proof

/-- Reading a table whose values have been mapped. -/
theorem Tab.look_mapVal {α : Type} (g : α → α) (k : Nat) (t : Tab α) :
    Tab.look k (t.map fun e => (e.1, g e.2)) = (Tab.look k t).map g := by
  induction t with
  | nil => rfl
  | cons e t ih =>
    by_cases h : k = e.1
    · simp [Tab.look, h]
    · simp [Tab.look, h, ih]

/-- What a change of an entry does follows from what it makes of that entry. -/
theorem Tab.amend_congr {α : Type} {k : Nat} {d : α} {f g : α → α} {t : Tab α} (h : f (t.fetch k d) = g (t.fetch k d)) :
    t.amend k d f = t.amend k d g := congrArg (fun v => Tab.put k v t) h

end Sys2Proof

namespace Sys2Proof.Machine

/-! ### A frame on the wire (R284, R291) -/

section Wire
variable {s : State} {p at_ : Nat} {f : TxFrame}

/-- A port with a frame that has left on the wire, which ends at `ends`. -/
def Port.sending (P : Port) (f : TxFrame) (ends : Nat) : Port :=
  { P with freeAt := ends, inj := P.inj.left, sent := P.sent ++ [f] }

theorem State.putOnWire_of_no_loop (h : s.loops p = false) :
    KeepsButPort p s (s.putOnWire p f) ∧
      ((s.putOnWire p f).qtr p).port = (s.qtr p).port.sending f (s.portNow p + 4 * ceilDiv (f.bytes + 20) 80) := by
  let w := s.count bPORT p 1
  let u := if f.pfc.isSome then w.count bPORT p 9 else w.meter f.tenant 4 f.bytes
  have hw : Posts s w := (Posts.refl s).count _ _ _ _
  have hu : KeepsButPort p s u ∧ u.qtr p = s.qtr p := by
    have hk := (KeepsButPort.refl p s).posts hw
    unfold u
    split
    · exact ⟨hk.count _ _ _ _, (hw.count _ _ _ _).qtr p⟩
    · exact ⟨hk.meter _ _ _, hw.qtr p⟩
  obtain ⟨hk, hq⟩ := hu
  have he : s.putOnWire p f = u.updPort p fun P => P.sending f (s.portNow p + 4 * ceilDiv (f.bytes + 20) 80) :=
    if_neg (ne_true_of_eq_false ((hk.loops p).trans h))
  rw [he, State.qtr_updPort_self, hq]
  exact ⟨hk.updPort _, rfl⟩

theorem frameTransmit_of_busy (h : 5 * at_ + 4 < (s.qtr p).port.freeAt) : frameTransmit s p at_ = s := by
  unfold frameTransmit
  simp [h]

theorem frameTransmit_of_free (h : (s.qtr p).port.freeAt ≤ 5 * at_ + 4) (hoff : s.qOff p = false) (hup : (s.qtr p).port.linkUp = true) :
    frameTransmit s p at_ = sendNext (s.advance at_) p := by
  unfold frameTransmit
  simp [Nat.not_lt.mpr h, hoff, hup]

/-- A port at a frame boundary, where an arm that waited has taken effect (R296). -/
def State.atBoundary (s : State) (p : Nat) : State := s.updPort p fun P => { P with inj := P.inj.arm }

theorem KeepsButPort.atBoundary (s : State) (p : Nat) : KeepsButPort p s (s.atBoundary p) := (KeepsButPort.refl p s).updPort _

/-- With an injector at rest a frame boundary leaves the port as it stands. -/
theorem State.qtr_atBoundary_of_rest (h : (s.qtr p).port.inj = {}) : (s.atBoundary p).qtr p = s.qtr p := by
  have ha : (s.qtr p).port.inj.arm = (s.qtr p).port.inj := by rw [h]; rfl
  unfold State.atBoundary
  rw [State.qtr_updPort_self, ha]

/-- Whether a PFC frame is due is a matter of the port and its registers. -/
theorem KeepsButPort.pfcDue {t : State} (h : KeepsButPort p s t) (hq : t.qtr p = s.qtr p) : t.pfcDue p = s.pfcDue p := by
  unfold State.pfcDue
  simp only [h.pfcEn, hq]

end Wire

/-! ### PFC frames that leave (R289) -/

section Pfc
variable {s : State} {p : Nat}

/-- The PFC frame that tells the state of every class that takes PFC. -/
def State.pfcFrame (s : State) (p : Nat) : TxFrame :=
  let en := (List.range 8).filter fun c => s.pfcEn p c
  { conn := 0, tenant := 0, tc := 0, bytes := 64, opcode := 0
    pfc := some ((en.map fun c => 2 ^ c).sum,
      (List.range 8).map fun c => if s.pfcEn p c && ((s.qtr p).port.classes.fetch c {}).xoff then 0xFFFF else 0) }

/-- A port of which no class has a PFC frame due. -/
def Port.pfcDone (P : Port) : Port :=
  { P with classes := P.classes.map fun (e : Nat × TxClass) => (e.1, { e.2 with pfcDue := false }) }

theorem State.sendPfc_eq (s : State) (p : Nat) : s.sendPfc p = (s.updPort p Port.pfcDone).putOnWire p (s.pfcFrame p) := rfl

theorem Port.pfcDue_pfcDone (P : Port) (c : Nat) : (P.pfcDone.classes.fetch c {}).pfcDue = false := by
  unfold Port.pfcDone Tab.fetch
  dsimp only
  rw [Tab.look_mapVal fun k : TxClass => { k with pfcDue := false }]
  cases Tab.look c P.classes <;> rfl

/-- A PFC frame that is due leaves first. -/
theorem sendNext_of_pfcDue (hdue : s.pfcDue p = true) (hrest : (s.qtr p).port.inj = {}) (hloop : s.loops p = false) :
    ∃ g : TxFrame, g.pfc.isSome = true ∧ g.bytes = 64 ∧ KeepsButPort p s (sendNext s p) ∧
      ((sendNext s p).qtr p).port = (s.qtr p).port.pfcDone.sending g (s.portNow p + 4 * ceilDiv (g.bytes + 20) 80) := by
  have hw := KeepsButPort.atBoundary s p
  have hq := State.qtr_atBoundary_of_rest hrest
  have hv := hw.updPort Port.pfcDone
  have hsend : sendNext s p = ((s.atBoundary p).updPort p Port.pfcDone).putOnWire p ((s.atBoundary p).pfcFrame p) :=
    (if_pos ((hw.pfcDue hq).trans hdue)).trans (State.sendPfc_eq _ _)
  obtain ⟨hk, hport⟩ := State.putOnWire_of_no_loop (f := (s.atBoundary p).pfcFrame p) ((hv.loops p).trans hloop)
  rw [State.portNow, hv.time, State.qtr_updPort_self, hq] at hport
  rw [hsend]
  exact ⟨_, rfl, rfl, hv.trans hk, hport⟩

theorem State.pfcDue_eq_false (h : ∀ c, ((s.qtr p).port.classes.fetch c {}).pfcDue = false) : s.pfcDue p = false := by
  unfold State.pfcDue
  simp [h]

end Pfc

/-! ### A lone queue of a lone class (R291 to R293) -/

section Lone
variable {s t : State} {p c n d : Nat} {f : TxFrame} {fs : List TxFrame}

/-- Class c of port p has one queue, of tenant n, whose head its deficit pays for; the class is not paused, its visit has not begun, and
neither a gate nor a shaper holds it. -/
structure State.LoneQueue (s : State) (p c n d : Nat) (f : TxFrame) (fs : List TxFrame) : Prop where
  ungated : (s.qtr p).port.gclRun = false
  unshaped : s.reg bPORT p (0x800 + 8 * n) % 65536 = 0
  unpaused : s.classPaused p c = false
  fresh : ((s.qtr p).port.classes.fetch c {}).visiting = false
  round : ((s.qtr p).port.classes.fetch c {}).round = [{ tenant := n, frames := f :: fs, deficit := d }]
  paid : f.bytes ≤ d + s.quantum p n

/-- A class of a lone queue after its head has left. -/
def TxClass.headLeft (k : TxClass) (n d : Nat) (fs : List TxFrame) : TxClass :=
  { k with round := if fs = [] then [] else [{ tenant := n, frames := fs, deficit := d }], visiting := fs != [] }

/-- A port whose class has sent the head of its lone queue. -/
def Port.headLeft (P : Port) (c n d : Nat) (fs : List TxFrame) : Port :=
  { P with classes := P.classes.put c ((P.classes.fetch c {}).headLeft n d fs) }

theorem drrServe_of_lone {elig : Nat → Bool} {quant : Nat → Nat} {fits : TxFrame → Bool} {fuel : Nat} {k : TxClass}
    (hr : k.round = [{ tenant := n, frames := f :: fs, deficit := d }]) (hv : k.visiting = false) (he : elig n = true)
    (hd : f.bytes ≤ d + quant n) (hf : fits f = true) :
    drrServe elig quant fits (fuel + 1) k = (k.headLeft n (d + quant n - f.bytes) fs, some f) := by
  unfold drrServe
  simp only [hr, hv, he, hf, Bool.false_eq_true, Bool.not_true, if_false, if_true, if_neg (Nat.not_lt.mpr hd)]
  rfl

theorem State.gateWindow_of_ungated (h : (s.qtr p).port.gclRun = false) : s.gateWindow p c = none := by
  unfold State.gateWindow
  simp [h]

theorem State.eligible_of_unshaped (h : s.reg bPORT p (0x800 + 8 * n) % 65536 = 0) : s.eligible p n = true := by
  unfold State.eligible
  simp [h]

theorem State.serveClass_of_empty (h : ((s.qtr p).port.classes.fetch c {}).round = []) : s.serveClass p c = (none, s) := by
  unfold State.serveClass
  simp [h]

theorem State.LoneQueue.serveClass (h : s.LoneQueue p c n d f fs) :
    s.serveClass p c = (some f, s.updPort p fun P => P.headLeft c n (d + s.quantum p n - f.bytes) fs) := by
  obtain ⟨hgate, hshape, hpause, hfresh, hround, hpaid⟩ := h
  have helig := State.eligible_of_unshaped hshape
  have hfits : s.gateFits p c f = true := by
    unfold State.gateFits
    rw [State.gateWindow_of_ungated hgate]
  have hserve := drrServe_of_lone (fuel := 8191) hround hfresh helig hpaid hfits
  unfold State.serveClass
  dsimp only
  rw [hpause, State.gateWindow_of_ungated hgate, hserve, hround, if_neg (by simp [helig])]
  dsimp only
  rw [State.updPort_congr (g := fun P => P.headLeft c n (d + s.quantum p n - f.bytes) fs) _ _ rfl]

/-- Classes without a frame are passed over. -/
theorem serveFrom_of_lone {l : List Nat} (hc : c ∈ l) (hl : ∀ k ∈ l, k ≠ c → ((s.qtr p).port.classes.fetch k {}).round = [])
    (hs : s.serveClass p c = (some f, t)) : serveFrom p l s = (some f, t) := by
  induction l with
  | nil => cases hc
  | cons k l ih =>
    unfold serveFrom
    by_cases hk : k = c
    · rw [hk, hs]
    · rw [State.serveClass_of_empty (hl k List.mem_cons_self hk)]
      exact ih ((List.mem_cons.1 hc).resolve_left (Ne.symm hk)) fun j hj => hl j (List.mem_cons_of_mem k hj)

/-- With nothing staged no word takes effect at a frame boundary. -/
theorem State.applyTx_of_unstaged (h : s.regs.staged = []) : s.applyTx p = s := by
  have hn (o : Nat) : s.pendingAt bPORT p o = none := by
    unfold State.pendingAt
    rw [h]
    rfl
  have ha (o : Nat) : s.applyAt bPORT p o = s := by
    unfold State.applyAt
    rw [hn]
  refine List.foldlRecOn (motive := (· = s)) _ _ rfl fun u hu n _ => ?_
  rw [hu]
  unfold applyPacket
  simp [hn, ha]

/-- A frame that is charged to a shaper changes nothing else. -/
theorem State.chargeShaper_spec (s : State) (p t len : Nat) :
    KeepsButPort p s (s.chargeShaper p t len) ∧
      ∃ b, ((s.chargeShaper p t len).qtr p).port = { (s.qtr p).port with shp := b } := by
  unfold State.chargeShaper
  split
  · exact ⟨.refl p s, _, rfl⟩
  · have hs : KeepsButPort p s (s.settlePort p 0x800 t) := by
      unfold State.settlePort
      exact (KeepsButPort.refl p s).updPort _
    refine ⟨hs.updPort _, ?_⟩
    rw [State.qtr_updPort_self, State.settlePort, State.qtr_updPort_self]
    exact ⟨_, rfl⟩

theorem State.inject_of_disarmed (h : (s.qtr p).port.inj.armed = false) : s.inject p f = (some f, s) := by
  unfold State.inject
  simp [h]

theorem State.LoneQueue.hasFrame (h : s.LoneQueue p c n d f fs) : (s.qtr p).port.hasFrame = true := by
  have hm : (c, (s.qtr p).port.classes.fetch c {}) ∈ (s.qtr p).port.classes := by
    refine (Tab.fetch_mem _ _ _).resolve_left fun he => ?_
    have hr := h.round
    rw [he] at hr
    cases hr
  unfold Port.hasFrame
  rw [Bool.or_eq_true, List.any_eq_true]
  exact .inl ⟨_, hm, by rw [h.round]; rfl⟩

/-- A frame that a class gives, with nothing staged and nothing that the injector releases or takes, goes on the wire. -/
theorem sendNext_of_served {w x y : State} (hw : s.atBoundary p = w) (hdue : w.pfcDue p = false) (hframe : (w.qtr p).port.hasFrame = true)
    (hstaged : w.regs.staged = []) (hrel : w.released p = none) (hserve : serveFrom p [7, 6, 5, 4, 3, 2, 1, 0] w = (some f, y))
    (hinj : (y.chargeShaper p f.tenant f.bytes).inject p f = (some f, x)) : sendNext s p = x.putOnWire p f := by
  unfold State.atBoundary at hw
  unfold sendNext
  simp only [hw, hdue, hframe, State.applyTx_of_unstaged hstaged, hrel, hserve, hinj, Bool.false_eq_true, Bool.not_true, if_false]

/-- A class with its queue is a matter of the port, its registers and the time. -/
theorem State.LoneQueue.keeps (h : s.LoneQueue p c n d f fs) (hk : KeepsButPort p s t) (hq : t.qtr p = s.qtr p) :
    t.LoneQueue p c n d f fs := by
  obtain ⟨hgate, hshape, hpause, hfresh, hround, hpaid⟩ := h
  have hunpaused : t.classPaused p c = false := by
    unfold State.classPaused at hpause ⊢
    rwa [hq, hk.time]
  refine ⟨?_, (congrArg (· % 65536) (hk.reg _ _ _)).trans hshape, hunpaused, ?_, ?_, hk.quantum p n ▸ hpaid⟩ <;> rwa [hq]

/-- At a frame boundary the head of a lone queue leaves. -/
theorem sendNext_of_lone (hl : s.LoneQueue p c n d f fs) (hc : c < 8)
    (hempty : ∀ k < 8, k ≠ c → ((s.qtr p).port.classes.fetch k {}).round = []) (hdue : s.pfcDue p = false)
    (hstaged : s.regs.staged = []) (hrest : (s.qtr p).port.inj = {}) (hloop : s.loops p = false) :
    KeepsButPort p s (sendNext s p) ∧ ∃ b, ((sendNext s p).qtr p).port =
      { (s.qtr p).port.headLeft c n (d + s.quantum p n - f.bytes) fs with shp := b }.sending f
        (s.portNow p + 4 * ceilDiv (f.bytes + 20) 80) := by
  let w := s.atBoundary p
  let y := w.updPort p fun P => P.headLeft c n (d + s.quantum p n - f.bytes) fs
  have hw : KeepsButPort p s w := .atBoundary s p
  have hq : w.qtr p = s.qtr p := State.qtr_atBoundary_of_rest hrest
  have hlw := hl.keeps hw hq
  have hserve : serveFrom p [7, 6, 5, 4, 3, 2, 1, 0] w = (some f, y) := by
    have hmem (k : Nat) : k ∈ [7, 6, 5, 4, 3, 2, 1, 0] ↔ k < 8 := by simp; omega
    refine serveFrom_of_lone ((hmem c).2 hc) (fun k hk hne => by rw [hq]; exact hempty k ((hmem k).1 hk) hne) (hlw.serveClass.trans ?_)
    rw [hw.quantum]
  have hrel : w.released p = none := by
    unfold State.released
    rw [hq, hrest]
    rfl
  obtain ⟨hx, b, hxp⟩ := y.chargeShaper_spec p f.tenant f.bytes
  have hsx := (hw.updPort fun P => P.headLeft c n (d + s.quantum p n - f.bytes) fs).trans hx
  rw [State.qtr_updPort_self, hq] at hxp
  have hnot : ((y.chargeShaper p f.tenant f.bytes).qtr p).port.inj.armed = false := by
    rw [hxp]
    exact congrArg Inject.armed hrest
  obtain ⟨hk, hport⟩ := State.putOnWire_of_no_loop (f := f) ((hsx.loops p).trans hloop)
  rw [State.portNow, hsx.time, hxp] at hport
  rw [sendNext_of_served rfl ((hw.pfcDue hq).trans hdue) hlw.hasFrame hstaged hrel hserve (State.inject_of_disarmed hnot)]
  exact ⟨hsx.trans hk, b, hport⟩

end Lone

/-! ### The timers of PFC (R289, R290) -/

section Timers
variable {s : State} {p c : Nat}

/-- What a change of a class does follows from what it makes of that class. -/
theorem State.updClass_congr {f g : TxClass → TxClass}
    (h : f ((s.qtr p).port.classes.fetch c {}) = g ((s.qtr p).port.classes.fetch c {})) :
    (s.updPort p fun P => { P with classes := P.classes.amend c {} f }) =
      s.updPort p fun P => { P with classes := P.classes.amend c {} g } := by
  refine State.updPort_congr _ _ ?_
  rw [Tab.amend_congr h]

theorem pfcPauseExpiry_of_paused {u : Nat} (h : ((s.qtr p).port.classes.fetch c {}).pausedUntil = some u) :
    pfcPauseExpiry s p c = (s.advance u).updPort p fun P =>
      { P with classes := P.classes.amend c {} fun k => { k with pausedUntil := none } } := by
  unfold pfcPauseExpiry
  rw [h]

/-- A lone class that stays above XON is told again when its 20 µs have passed. -/
theorem pfcRefresh_of_lone (hc : c < 8) (hen : s.pfcEn p c = true) (hx : ((s.qtr p).port.classes.fetch c {}).xoff = true)
    (hl : ∀ k < 8, k ≠ c → s.pfcEn p k = false ∨ ((s.qtr p).port.classes.fetch k {}).xoff = false) {due : Nat}
    (hd : due = max s.time (((s.qtr p).port.classes.fetch c {}).xoffAt + 20000)) :
    pfcRefresh s p = (s.advance due).updPort p fun P =>
      { P with classes := P.classes.amend c {} fun k => { k with xoffAt := due, pfcDue := true } } := by
  have hon : ((List.range 8).filter fun k => s.pfcEn p k && ((s.qtr p).port.classes.fetch k {}).xoff) = [c] := by
    have hk : ∀ k ∈ List.range 8, (s.pfcEn p k && ((s.qtr p).port.classes.fetch k {}).xoff) = (k == c) := by
      intro k hk
      by_cases h : k = c
      · simp [h, hen, hx]
      · rw [beq_eq_false_iff_ne.2 h, Bool.and_eq_false_iff]
        exact hl k (List.mem_range.1 hk) h
    rw [List.filter_congr hk, List.filter_beq, List.count_eq_one_of_mem List.nodup_range (List.mem_range.2 hc)]
    rfl
  have hle : ((s.qtr p).port.classes.fetch c {}).xoffAt + 20000 ≤ due := hd ▸ Nat.le_max_right _ _
  have htime : (s.advance due).time = due := Nat.max_eq_right (hd ▸ Nat.le_max_left _ _)
  have hadv : s.advance (((s.qtr p).port.classes.fetch c {}).xoffAt + 20000) = s.advance due := by
    unfold State.advance
    rw [hd, ← Nat.max_assoc, Nat.max_self]
  unfold pfcRefresh
  simp only [hon, List.map_cons, List.map_nil, List.min?_singleton, List.foldl_cons, List.foldl_nil, hadv, htime]
  exact State.updClass_congr (if_pos hle)

end Timers

/-- Settles O46: what leaves at a frame boundary goes by whether a frame is on the wire, a PFC frame is due or a lone queue stands; a
pause is set, cleared and asked for again in its own class only. -/
theorem portsSendAndPause : Obligations.PortsSendAndPause := by
  unfold Obligations.PortsSendAndPause
  intro s p herr P
  have hexec {at_ : Nat} (hfree : P.freeAt ≤ 5 * at_ + 4) (hoff : s.qOff p = false) (hup : P.linkUp = true)
      (he : (sendNext (s.advance at_) p).unitErrs = []) : exec (.frameTransmit p at_) s = .next (sendNext (s.advance at_) p) :=
    congrArg Host.Outcome.next ((congrArg settle (frameTransmit_of_free hfree hoff hup)).trans (settle_of_no_errors he))
  refine ⟨fun at_ hoff hup hloop => ⟨fun hbusy => ?busy, fun hfree hrest => ⟨fun hdue => ?pfc,
    fun c n d f fs hdue hgate hstaged hshape hpause hempty hfresh hround _ hpaid huntil => ?lone⟩⟩,
    fun at_ en times => ?receive, fun c u hu => ?expiry, fun c hen hxoff hothers => ?refresh⟩
  case busy =>
    exact congrArg Host.Outcome.next ((congrArg settle (frameTransmit_of_busy hbusy)).trans (settle_of_no_errors herr))
  case pfc =>
    obtain ⟨g, hg, hbytes, hk, hport⟩ := sendNext_of_pfcDue (s := s.advance at_) hdue hrest hloop
    refine ⟨_, g, hexec hfree hoff hup (hk.unitErrs.trans herr), ?_, hg, hbytes, ?_, State.pfcDue_eq_false fun c => ?_⟩ <;> rw [hport]
    · rfl
    · rw [hbytes]
      rfl
    · exact P.pfcDue_pfcDone c
  case lone =>
    have hnow : (s.advance at_).classPaused p c = false := by
      unfold State.classPaused
      split
      case h_1 u hu => exact decide_eq_false (Nat.not_lt.mpr (huntil u hu))
      case h_2 => rfl
    have hl : (s.advance at_).LoneQueue p c n d f fs := ⟨hgate, hshape, hnow, hfresh, hround, hpaid⟩
    have hempty' (k : Nat) (hk : k < 8) (hne : k ≠ c) := hempty ⟨k, hk⟩ (Fin.ne_of_val_ne hne)
    obtain ⟨hk, b, hport⟩ := sendNext_of_lone hl c.isLt hempty' hdue hstaged hrest hloop
    refine ⟨_, hexec hfree hoff hup (hk.unitErrs.trans herr), ?_, ?_, ?_, fun k hne => ?_, hk.conn, hk.inbox, hk.hbm⟩ <;> rw [hport]
    · rfl
    · rfl
    · exact congrArg TxClass.round (Tab.fetch_put_self _ _ _ _)
    · exact Tab.fetch_put_ne _ _ _ _ _ (Fin.val_ne_of_ne hne)
  case receive =>
    obtain ⟨hk, hcls⟩ := pausedBelow_pfcReceive (s.advance at_) p en.toNat times
    refine ⟨_, rfl, fun c => ?_, fun c => ?_, hk.others, hk.hbm⟩
    · rw [hcls]
      have hc : (c.val < 8 ∧ bit en.toNat c = true ∧ (s.advance at_).pfcEn p c = true) ↔ (bit en.toNat c && s.pfcEn p c) = true :=
        (and_iff_right c.isLt).trans (Bool.and_eq_true _ _).symm.to_iff
      simp only [hc]
      split <;> rfl
    · rw [hcls]
      split <;> rfl
  case expiry =>
    refine ⟨_, congrArg Host.Outcome.next (pfcPauseExpiry_of_paused hu), ?_, rfl, fun k hk => ?_,
      fun q hq => State.qtr_updPort_ne _ _ _ hq⟩
    · rw [State.qtr_updPort_self, Tab.fetch_amend_self]
      rfl
    · rw [State.qtr_updPort_self, Tab.fetch_amend_ne _ _ _ _ _ _ (Fin.val_ne_of_ne hk)]
      rfl
  case refresh =>
    have hl (k : Nat) (hk : k < 8) (hne : k ≠ c) := hothers ⟨k, hk⟩ (Fin.ne_of_val_ne hne)
    intro due
    refine ⟨_, congrArg Host.Outcome.next (pfcRefresh_of_lone c.isLt hen hxoff hl rfl), ?_, ?_, fun k hk => ?_,
      fun q hq => State.qtr_updPort_ne _ _ _ hq⟩
    · exact Nat.max_eq_right (Nat.le_max_left _ _)
    · rw [State.qtr_updPort_self, Tab.fetch_amend_self]
      rfl
    · rw [State.qtr_updPort_self, Tab.fetch_amend_ne _ _ _ _ _ _ (Fin.val_ne_of_ne hk)]
      rfl

end Sys2Proof.Machine
end

section
/-!
PROOFS. Gate lists, injectors and links: swaps and entries, frames that an injector gives up, and a link that falls or comes up (R283, R294 to
R298, R428, R450).
-/
namespace Sys2Proof.Machine

/-! ### Several register words of a block -/

section Words
variable {s : State} {c q o : Nat} {g : Nat → Nat}

/-- The first `n` words of an array of a block, set one after the other. -/
def State.setWords (s : State) (c q o : Nat) (g : Nat → Nat) (n : Nat) : State :=
  (List.range n).foldl (fun s e => s.setReg c q (o + 4 * e) (g e)) s

theorem State.setWords_succ (n : Nat) : s.setWords c q o g (n + 1) = (s.setWords c q o g n).setReg c q (o + 4 * n) (g n) := by
  unfold State.setWords
  rw [List.range_succ, List.foldl_concat]

@[simp] theorem State.quarters_setWords (n : Nat) : (s.setWords c q o g n).quarters = s.quarters := by
  induction n with
  | zero => rfl
  | succ n ih => rw [State.setWords_succ]; exact ih

theorem State.reg_setWords {n e : Nat} (he : e < n) : (s.setWords c q o g n).reg c q (o + 4 * e) = g e % 2 ^ 32 := by
  induction n with
  | zero => cases he
  | succ n ih =>
    rw [State.setWords_succ]
    by_cases h : e = n
    · rw [h, State.reg_setReg_self]
    · rw [State.reg_setReg_ne _ _ _ _ _ _ _ _ (by omega), ih (by omega)]

end Words

/-! ### Gate lists (R294, R295) -/

section Gates
variable {s : State} {p : Nat}

/-- A port whose gate lists have changed places. -/
def Port.swapped (P : Port) (fresh : Gcl) : Port :=
  { P with active := fresh, activeBank := !P.activeBank, swapPend := false }

theorem Gcl.word_lt (g : Gcl) (e : Nat) : g.word e < 2 ^ 32 := BitVec.isLt _

theorem State.swapGcl_eq (s : State) (p : Nat) :
    ∃ v, s.swapGcl p = ((s.updPort p fun P => P.swapped (s.shadowGcl p)).setWords bPORT p 0x400 (s.qtr p).port.active.word 64).setReg
      bPORT p 0x200 v := ⟨_, rfl⟩

/-- A swap changes the Quarters only in the two lists. -/
theorem State.qtr_swapGcl (s : State) (p q : Nat) :
    (s.swapGcl p).qtr q = (s.updPort p fun P => P.swapped (s.shadowGcl p)).qtr q := by
  obtain ⟨v, hv⟩ := s.swapGcl_eq p
  rw [hv, State.qtr_setReg]
  unfold State.qtr
  rw [State.quarters_setWords]

/-- After a swap the shadow words hold the list that was in effect. -/
theorem State.reg_swapGcl {e : Nat} (he : e < 64) :
    (s.swapGcl p).reg bPORT p (0x400 + 4 * e) = (s.qtr p).port.active.word e := by
  obtain ⟨v, hv⟩ := s.swapGcl_eq p
  rw [hv, State.reg_setReg_ne _ _ _ _ _ _ _ _ (by omega), State.reg_setWords he]
  exact Nat.mod_eq_of_lt (Gcl.word_lt _ e)

theorem gclEnable_of_stopped (h : (s.qtr p).port.gclRun = false) :
    gclEnable s p = (s.setReg bPORT p 0x200 (s.reg bPORT p 0x200 / 2 * 2 + 1)).updPort p fun P =>
      { P with gclRun := true, gclEntry := 0, gclStart := 5 * s.time + 4 } :=
  if_neg (ne_true_of_eq_false h)

theorem gclSwap_of_stopped (h : (s.qtr p).port.gclRun = false) : gclSwap s p = s.swapGcl p := by
  unfold gclSwap
  rw [h]
  rfl

theorem gclSwap_of_running (h : (s.qtr p).port.gclRun = true) : gclSwap s p = s.updPort p fun P => { P with swapPend := true } := by
  unfold gclSwap
  rw [h]
  rfl

/-- When the entry in effect ends, in fifths of a nanosecond. -/
def Port.gateDue (P : Port) : Nat := P.gclStart + 4 * P.active.cycles P.gclEntry

/-- An entry that is not the last is followed by the next one. -/
theorem gateEntryExpiry_of_more (h : (s.qtr p).port.gclRun = true) (hm : (s.qtr p).port.gclEntry + 1 < (s.qtr p).port.active.size) :
    gateEntryExpiry s p = (s.advance (ceilDiv (s.qtr p).port.gateDue 5)).updPort p fun P =>
      { P with gclEntry := P.gclEntry + 1, gclStart := (s.qtr p).port.gateDue } := by
  unfold gateEntryExpiry
  dsimp only
  rw [h, if_neg (by decide), if_pos hm]
  rfl

/-- At the end of the last entry a swap that waits happens. -/
theorem gateEntryExpiry_of_swap (h : (s.qtr p).port.gclRun = true) (hm : (s.qtr p).port.active.size ≤ (s.qtr p).port.gclEntry + 1)
    (hs : (s.qtr p).port.swapPend = true) :
    gateEntryExpiry s p = ((s.advance (ceilDiv (s.qtr p).port.gateDue 5)).swapGcl p).updPort p fun P =>
      { P with gclEntry := 0, gclStart := (s.qtr p).port.gateDue } := by
  unfold gateEntryExpiry
  dsimp only
  rw [h, if_neg (by decide), if_neg (Nat.not_lt.mpr hm), hs]
  rfl

end Gates

/-! ### Injectors (R296, R298) -/

section Injectors
variable {s : State} {p : Nat}

theorem Inject.free_of_held {j : Inject} {f : TxFrame} {k t : Nat} (h : j.held = some (f, k, t)) :
    j.free = { j with release := j.release ++ [f], held := none } := by
  unfold Inject.free
  rw [h]

theorem Inject.free_of_empty {j : Inject} (h : j.held = none) : j.free = j := by
  unfold Inject.free
  rw [h]

theorem Inject.held_free (j : Inject) : j.free.held = none := by
  cases h : j.held with
  | none => rw [Inject.free_of_empty h, h]
  | some x => rw [Inject.free_of_held h]

theorem reorderTimeout_of_held {f : TxFrame} {k t : Nat} (h : (s.qtr p).port.inj.held = some (f, k, t)) :
    reorderTimeout s p = ((s.advance (t + 10000)).updPort p fun P => { P with
      inj := { P.inj with release := P.inj.release ++ [f], held := none } }).countU bFINJ 0 p 2 := by
  unfold reorderTimeout
  rw [h]
  refine congrArg (State.countU · bFINJ 0 p 2) (State.updPort_congr _ _ ?_)
  rw [Inject.free_of_held (j := ((s.advance (t + 10000)).qtr p).port.inj) h]

/-- A port whose injector's permit has ended; an arm that waits stays. -/
def Port.permitEnded (P : Port) : Port := { P with inj := { P.inj.disarm with next := P.inj.next } }

theorem injectorExpiry_of_armed (h : (s.qtr p).port.inj.armed = true) :
    injectorExpiry s p = ((s.advance (s.qtr p).port.inj.endAt).updPort p Port.permitEnded).countU bFINJ 0 p 4 := by
  unfold injectorExpiry
  dsimp only
  rw [h]
  rfl

end Injectors

/-! ### Links (R283, R428) -/

section Links
variable {s : State} {p : Nat}

/-- With no connection that migrates, migration is only told. -/
theorem migrateAll_posts {s₀ : State} (hs : Posts s₀ s) (h : s.movers p = []) : Posts s₀ (s.migrateAll p) := by
  unfold State.migrateAll
  dsimp only
  rw [h]
  exact hs.postFault _ _ _ _ _

/-- A link that goes down takes the port's frames with it. -/
theorem linkDown_posts (hup : (s.qtr p).port.linkUp = true) (h : s.movers p = []) :
    Posts (s.updPort p fun P => { P.flush with linkUp := false }) (linkDown s p) := by
  have hd : Posts (s.updPort p fun P => { P.flush with linkUp := false }) ((s.dropLink p).count bPORT p 13) :=
    ((Posts.refl _).post _ _).count _ _ _ _
  have hm : ((s.dropLink p).count bPORT p 13).movers p = [] := by
    unfold State.movers at h ⊢
    rwa [hd.qtr, State.qtr_updPort_self]
  unfold linkDown
  rw [if_pos hup]
  exact migrateAll_posts hd hm

end Links

/-- Settles O47: each row by what it does to its port. -/
theorem gatesInjectorsAndLinks : Obligations.GatesInjectorsAndLinks := by
  unfold Obligations.GatesInjectorsAndLinks
  intro s p P
  refine ⟨fun hoff hstop => ⟨?enable, ?swap⟩, fun hrun => ⟨fun hoff => ?request, fun hmore => ?next, fun hlast hpend => ?turn⟩,
    fun f k t0 hheld => ?timeout, fun harmed => ?permit, fun hup hmove => ⟨?down, ?clock⟩, fun hdown hmay => ?up⟩
  case enable =>
    refine ⟨_, congrArg Host.Outcome.next ((if_neg (ne_true_of_eq_false hoff)).trans (gclEnable_of_stopped hstop)), ?_, ?_,
      fun q hq => State.qtr_updPort_ne _ _ _ hq⟩
    · rw [State.qtr_updPort_self]
      rfl
    · have hreg := State.reg_setReg_self s bPORT p 0x200 (s.reg bPORT p 0x200 / 2 * 2 + 1)
      refine (congrArg (bit · 0) hreg).trans ?_
      unfold bit
      rw [decide_eq_true_eq]
      omega
  case swap =>
    refine ⟨_, congrArg Host.Outcome.next ((if_neg (ne_true_of_eq_false hoff)).trans (gclSwap_of_stopped hstop)), ?_,
      fun e => State.reg_swapGcl e.isLt, fun q hq => ?_⟩
    · rw [State.qtr_swapGcl, State.qtr_updPort_self]
      rfl
    · rw [State.qtr_swapGcl, State.qtr_updPort_ne _ _ _ hq]
  case request => exact congrArg Host.Outcome.next ((if_neg (ne_true_of_eq_false hoff)).trans (gclSwap_of_running hrun))
  case next => exact congrArg Host.Outcome.next (gateEntryExpiry_of_more hrun hmore)
  case turn =>
    refine ⟨_, congrArg Host.Outcome.next (gateEntryExpiry_of_swap hrun hlast hpend), ?_⟩
    rw [State.qtr_updPort_self, State.qtr_swapGcl, State.qtr_updPort_self]
    rfl
  case timeout => exact congrArg Host.Outcome.next (reorderTimeout_of_held hheld)
  case permit =>
    have hp := (Posts.refl ((s.advance P.inj.endAt).updPort p Port.permitEnded)).countU bFINJ 0 p 4 1
    have hport : ((((s.advance P.inj.endAt).updPort p Port.permitEnded).countU bFINJ 0 p 4).qtr p).port = P.permitEnded := by
      rw [hp.qtr, State.qtr_updPort_self]
      rfl
    refine ⟨_, congrArg Host.Outcome.next (injectorExpiry_of_armed harmed), ?_, ?_, ?_, ?_, ?_, hp.time,
      fun q hq => (hp.qtr q).trans (State.qtr_updPort_ne _ _ _ hq)⟩ <;> rw [hport]
    · rfl
    · exact P.inj.held_free
    · rfl
    · cases h : P.inj.held with
      | none => exact (congrArg Inject.release (Inject.free_of_empty h)).trans (List.append_nil _).symm
      | some x => exact congrArg Inject.release (Inject.free_of_held h)
    · rfl
  case down =>
    have hp := linkDown_posts hup hmove
    refine ⟨_, rfl, ?_, fun q hq => ?_, hp.hbm⟩ <;> rw [hp.qtr]
    · rw [State.qtr_updPort_self]
    · exact State.qtr_updPort_ne _ _ _ hq
  case clock =>
    have hp := linkDown_posts hup hmove
    refine ⟨_, rfl, ?_, fun q hq => ?_, hp.hbm⟩
    · unfold ethRefclkLoss
      rw [State.qtr_updPort_self, hp.qtr, State.qtr_updPort_self]
    · unfold ethRefclkLoss
      rw [State.qtr_updPort_ne _ _ _ hq, hp.qtr, State.qtr_updPort_ne _ _ _ hq]
  case up => exact congrArg Host.Outcome.next (if_pos (by rw [hdown, hmay]; rfl))

end Sys2Proof.Machine
end

section
/-!
PROOFS. The words that tenants and keys share: what telling a function of its tenant leaves alone, and where a result goes (ch. 11, R341).
-/
namespace Sys2Proof

/-- Filtering by the key keeps what is found at a key that passes. -/
theorem Tab.look_filter_pos {α : Type} {p : Nat × α → Bool} {k : Nat} {t : Tab α} (h : ∀ v, p (k, v) = true) :
    Tab.look k (t.filter p) = Tab.look k t := by
  induction t with
  | nil => rfl
  | cons e t ih =>
    obtain ⟨a, v⟩ := e
    by_cases hk : k = a
    · subst hk
      rw [List.filter_cons_of_pos (h v)]
      simp [Tab.look]
    · cases hp : p (a, v) <;> simp [hp, Tab.look, hk, ih]

/-- Filtering by the key finds nothing at a key that does not pass. -/
theorem Tab.look_filter_neg {α : Type} {p : Nat × α → Bool} {k : Nat} {t : Tab α} (h : ∀ v, p (k, v) = false) :
    Tab.look k (t.filter p) = none := by
  cases hl : Tab.look k (t.filter p) with
  | none => rfl
  | some v =>
    have hv := (List.mem_filter.1 (Tab.look_mem hl)).2
    rw [h v] at hv
    cases hv

end Sys2Proof

namespace Sys2Proof.Machine

/-! ### Telling a function of its tenant (Table 12-12) -/

section Told
variable (s : State) (n : Nat)

@[simp] theorem State.tenantState_sec : (s.tenantState n).sec = s.sec := rfl
@[simp] theorem State.tenantState_quarters : (s.tenantState n).quarters = s.quarters := rfl
@[simp] theorem State.tenantState_hbm : (s.tenantState n).hbm = s.hbm := rfl

@[simp] theorem State.tenantMoved_sec : (s.tenantMoved n).sec = s.sec := rfl
@[simp] theorem State.tenantMoved_quarters : (s.tenantMoved n).quarters = s.quarters := rfl
@[simp] theorem State.tenantMoved_hbm : (s.tenantMoved n).hbm = s.hbm := rfl
@[simp] theorem State.tenantMoved_regs : (s.tenantMoved n).regs = s.regs := rfl
@[simp] theorem State.tenantMoved_unitErrs : (s.tenantMoved n).unitErrs = s.unitErrs := rfl

@[simp] theorem State.tenant_tenantMoved (m : Nat) : (s.tenantMoved n).tenant m = s.tenant m := rfl

/-- A function that is told has one TENANT_STATE more on its way. -/
theorem State.outWait_tenantMoved :
    ∃ m : OutMail, ((s.tenantMoved n).fn n).outWait = (s.fn n).outWait ++ [m] ∧ m.words.head? = some 0x84 := by
  refine ⟨{ agent := 0, words := [0x84, (s.updFn n fun F => F.ringOut 3).tenantWord n, 0, 0, 0, 0, 0, 0] }, ?_, rfl⟩
  have hring : ((s.fn n).ringOut 3).outWait = (s.fn n).outWait := by rw [(FnPosts.ringOut (s.fn n) 3).1]
  simp only [State.tenantMoved, State.tenantState, State.fn_updFn_self, hring]

end Told

section Take
variable (s : State) (o : Origin) (op : Nat) (b : Bytes)

@[simp] theorem State.take_quarters : (s.take o op b).2.quarters = s.quarters := by
  obtain ⟨l, hl⟩ := s.take_changes_inbox o op b; rw [hl]

@[simp] theorem State.take_tenant (n : Nat) : (s.take o op b).2.tenant n = s.tenant n := by
  unfold State.tenant; rw [State.take_sec]

@[simp] theorem State.take_fn (f : Nat) : (s.take o op b).2.fn f = s.fn f := by
  unfold State.fn; rw [State.take_host]

@[simp] theorem State.take_hostMem (f : Nat) : (s.take o op b).2.hostMem f = s.hostMem f := by
  unfold State.hostMem; rw [State.take_host]

@[simp] theorem State.take_report (scope : Option Nat) (nonce : Bytes) (ts : List Nat) :
    (s.take o op b).2.report scope nonce ts = s.report scope nonce ts := by
  obtain ⟨l, hl⟩ := s.take_changes_inbox o op b; rw [hl]; rfl

end Take

/-! ### Where a result goes (R341) -/

section Result
variable {s : State} {h : HostCmd} {r : Bytes}

@[simp] theorem State.hostMem_hostWrite_self (s : State) (f a : Nat) (b : Bytes) :
    (s.hostWrite f a b).hostMem f = Mem.write (s.hostMem f) a b := by
  simp [State.hostMem, State.hostWrite]

/-- Placing a completion writes no host memory. -/
theorem State.hostMem_placeCpl (s : State) (f sq : Nat) (c : Cpl) (g : Nat) : (s.placeCpl f sq c).hostMem g = s.hostMem g := by
  unfold State.placeCpl
  dsimp only
  split
  · rfl
  · split
    · rfl
    · split
      · exact ((Posts.refl _).count _ _ _ _).hostMem g
      · rfl

/-- A result that fits and meets no fault is written whole. -/
theorem State.writeResult_of_fit (hf : h.resultFault = none) (hl : r.length ≤ h.resultLen) :
    s.writeResult h r = (s.hostWrite h.fn h.resultAddr r, false) := by
  simp [State.writeResult, okBytes, hf, Nat.min_eq_left hl]

/-- The result of a command with a place for its completion stands at its result address. -/
theorem State.hostMem_complete (ha : Answerable s h) (hf : h.resultFault = none) (hl : r.length ≤ h.resultLen) (st d : Nat) :
    (s.complete h st d r).hostMem h.fn = Mem.write (s.hostMem h.fn) h.resultAddr r := by
  obtain ⟨hw, hd, -⟩ := ha
  have hc : ∃ c, s.completeCore h st d r = (s.hostWrite h.fn h.resultAddr r).placeCpl h.fn h.sq c := by
    unfold State.completeCore
    rw [if_pos hw, State.writeResult_of_fit hf hl]
    simp only [Nat.not_lt.2 hl, if_false]
    exact ⟨_, rfl⟩
  obtain ⟨c, hc⟩ := hc
  have hn : s.complete h st d r = (s.hostWrite h.fn h.resultAddr r).placeCpl h.fn h.sq c := by
    unfold State.complete
    rw [hc]
    exact endDeletes_none _ _ _ (placeCpl_deleting c hd)
  rw [hn, State.hostMem_placeCpl, State.hostMem_hostWrite_self]

end Result

end Sys2Proof.Machine
end

section
/-!
PROOFS. Attestation, and what no command writes but the update of an image (R323, R402, R416).
-/
namespace Sys2Proof.Machine

/-! ### What only UPDATE_IMAGE writes (R402, R416) -/

/-- Settles O58: what every command keeps, with the NVM set aside, gives the queue and the fuses; without UPDATE_IMAGE it gives the NVM too. -/
theorem onlyUpdatesWriteTheNvm : Obligations.OnlyUpdatesWriteTheNvm := by
  unfold Obligations.OnlyUpdatesWriteTheNvm
  intro c s t hx
  obtain ⟨_, -, hpending, -, ⟨hconf, hjtag, hident⟩, -⟩ := exec_keptButNvm c s t hx
  refine ⟨hpending, hconf, hjtag, hident, fun hc => ?_⟩
  obtain ⟨-, hnvm, -⟩ := exec_kept c s (fun m b => (hc m b).1) (fun m b => (hc m b).2.1) (fun m b => (hc m b).2.2) t hx
  exact hnvm

/-! ### ATTEST (R323) -/

section Attest
variable {s : State} {h : HostCmd} {nonce : Bytes}

theorem exec_attest (hc : hostCheck s h 0x4B nonce = none) :
    exec (.attest h nonce) s = .next (attest (s.take (.host h) 0x4B nonce).2 h nonce) := by
  change execAttest h nonce s = _
  simp only [execAttest, hostCheck_take, hc]

theorem attest_of_bad (hn : nonce.length ≠ 32) : attest s h nonce = s.complete h sBAD := if_pos hn

theorem attest_of_good (hn : nonce.length = 32) :
    attest s h nonce = (s.count bSEC 0 8).complete h sOK 0 (s.report (some h.fn) nonce [h.fn]) := if_neg (not_not.2 hn)

end Attest

/-- Settles O20: the nonce's length decides, and the report is the result of a command that has a place for its completion. -/
theorem attestReports : Obligations.AttestReports := by
  unfold Obligations.AttestReports
  intro s h nonce hc u rep
  refine ⟨fun hn => ?bad, fun hn => ?good⟩
  case bad => exact ⟨_, (exec_attest hc).trans (congrArg _ (attest_of_bad hn)), complete_answered _ _ _ _ _⟩
  case good =>
    have hcount : Posts u (u.count bSEC 0 8) := (Posts.refl u).count _ _ _ _
    refine ⟨_, (exec_attest hc).trans (congrArg _ (attest_of_good hn)), hcount.answered (complete_answered _ _ _ _ _), fun ha hf hl => ?_⟩
    rw [State.take_report, State.hostMem_complete (hcount.answerable ha) hf hl, hcount.hostMem, State.take_hostMem]

end Sys2Proof.Machine
end

section
/-!
PROOFS. Keys: the rotations, the sweep of a page and the end of a generation (R308 to R311, R316).
-/
namespace Sys2Proof.Machine

/-! ### What a change of a tenant leaves alone -/

section Tenant
variable (s : State) (n : Nat) (f : Tenant → Tenant) (q : Nat)

@[simp] theorem State.entryOf_updTenant (key : Nat) : (s.updTenant n f).entryOf q key = s.entryOf q key := rfl
@[simp] theorem State.segOf_updTenant (key : Nat) : (s.updTenant n f).segOf q key = s.segOf q key := rfl
@[simp] theorem State.shape_updTenant (m id : Nat) : (s.updTenant n f).shape m id = s.shape m id := rfl
@[simp] theorem State.qOff_updTenant : (s.updTenant n f).qOff q = s.qOff q := rfl
@[simp] theorem State.rawHdr_updTenant (fr : FrameRef) (page : Nat) (sh : Shape) :
    (s.updTenant n f).rawHdr q fr page sh = s.rawHdr q fr page sh := rfl

end Tenant

/-- Bit 4 of a tenant's word, ROTATING, says whether there is a previous generation (Table 11-17). -/
theorem State.rotating_tenantWord (s : State) (n : Nat) : bit (s.tenantWord n) 4 = ((s.tenant n).prevGen != 0) := by
  have hcode : (s.tenant n).state.code < 4 := by cases (s.tenant n).state <;> decide
  have hflag (b : Bool) : b2n b < 2 := by cases b <;> decide
  have henc := hflag (s.tenant n).encrypt
  have hwire := hflag (s.tenant n).wireProt
  have hword : s.tenantWord n / 2 ^ 4 % 2 = b2n ((s.tenant n).prevGen != 0) := by
    have hrot := hflag ((s.tenant n).prevGen != 0)
    unfold State.tenantWord
    dsimp only
    omega
  unfold bit
  rw [hword]
  cases (s.tenant n).prevGen != 0 <;> rfl

/-! ### A page-key rotation (R308, R309) -/

section Rotate
variable {s : State} {h : HostCmd} {b : Bytes}

theorem exec_keyRotatePageKey (hc : hostCheck s h 0x45 b = none) (hop : byteAt b 1 ≠ 1) {st : Nat} {v : State}
    (hr : rotatePageKey (s.take (.host h) 0x45 b).2 b = (st, v)) : exec (.keyRotatePageKey h b) s = .next (v.complete h st) := by
  change execKeyRotatePageKey h b s = _
  simp only [execKeyRotatePageKey, if_neg hop, hostCheck_take, hc, hr]

/-- The body of a page-key rotation in its layout (Tables 11-4, 11-5). -/
structure RotateBody (b : Bytes) : Prop where
  length : b.length = 140
  tenant : byteAt b 0 < 64
  op : byteAt b 1 = 0
  zeros : zeroRange b 2 4 = true
  block : keyBlockBad (b.drop 4) = false

/-- The tenant's old key is the previous one and a new one is current. -/
def Tenant.rotated (gen key : Nat) (T : Tenant) : Tenant :=
  { T with prevGen := T.curGen, prevKey := T.curKey, curGen := gen, curKey := key }

theorem RotateBody.good (hb : RotateBody b) :
    ¬ (b.length != 140 || decide (byteAt b 0 ≥ 64) || byteAt b 1 != 0 || !zeroRange b 2 4 || keyBlockBad (b.drop 4)) = true := by
  simp [hb.length, hb.tenant, hb.op, hb.zeros, hb.block]

variable (hb : RotateBody b) (ha : (s.tenant (byteAt b 0)).state = .active)
include hb ha

theorem rotatePageKey_of_previous (hp : (s.tenant (byteAt b 0)).prevGen ≠ 0) : rotatePageKey s b = (sCONFLICT, s) := by
  unfold rotatePageKey
  rw [if_neg hb.good, Nat.mod_eq_of_lt hb.tenant, if_neg (not_not.2 ha), if_pos hp]

theorem rotatePageKey_of_failed_key {st : Nat} (hp : (s.tenant (byteAt b 0)).prevGen = 0)
    (hu : unwrapKey (byteAt b 0) (s.tenant (byteAt b 0)).curGen (b.drop 4) = .error st) :
    rotatePageKey s b = (st, s.count bSEC 0 1) := by
  unfold rotatePageKey
  rw [if_neg hb.good, Nat.mod_eq_of_lt hb.tenant, if_neg (not_not.2 ha), if_neg (not_not.2 hp), hu]

theorem rotatePageKey_of_key {key : Nat} (hp : (s.tenant (byteAt b 0)).prevGen = 0)
    (hu : unwrapKey (byteAt b 0) (s.tenant (byteAt b 0)).curGen (b.drop 4) = .ok key) :
    rotatePageKey s b =
      (sOK, ((s.updTenant (byteAt b 0) (Tenant.rotated (byteAt b 4) key)).count bSEC 0 0).tenantState (byteAt b 0)) := by
  unfold rotatePageKey
  rw [if_neg hb.good, Nat.mod_eq_of_lt hb.tenant, if_neg (not_not.2 ha), if_neg (not_not.2 hp), hu]
  rfl

end Rotate

/-! ### A wire rotation (R316) -/

section Wire
variable {s : State} {h : HostCmd} {b : Bytes}

theorem exec_keyRotateWireEpoch (hc : hostCheck s h 0x45 b = none) (hop : byteAt b 1 = 1) {st : Nat} {v : State}
    (hr : rotateWire (s.take (.host h) 0x45 b).2 b = (st, v)) : exec (.keyRotateWireEpoch h b) s = .next (v.complete h st) := by
  change execKeyRotateWireEpoch h b s = _
  simp only [execKeyRotateWireEpoch, if_neg (not_not.2 hop), hostCheck_take, hc, hr]

/-- A protected connection of the tenant that is in use advances its send epoch at its next packet; any other stands. -/
def Conn.rotated (n : Nat) (c : Conn) : Conn :=
  if c.state ≠ .free ∧ c.prot = true ∧ c.tenant = n then { c with keys := { c.keys with rotate := true } } else c

theorem Xpt.fetch_rotate (n : Nat) (X : Xpt) (k : Nat) : (Xpt.rotate n X).conns.fetch k {} = (X.conns.fetch k {}).rotated n :=
  Tab.fetch_map (Conn.rotated n) {} rfl X.conns k

/-- The rotation changes the Quarters alone, and of every connection what `Conn.rotated` says. -/
theorem rotateWire_of_active (hlen : 2 ≤ b.length) (ht : byteAt b 0 < 64) (hz : zeroRange b 2 b.length = true)
    (ha : (s.tenant (byteAt b 0)).state = .active) :
    ∃ T : Tab Quarter, rotateWire s b = (sOK, { s with quarters := T }) ∧
      ∀ i, i < 65536 → ({ s with quarters := T } : State).conn i = (s.conn i).rotated (byteAt b 0) := by
  obtain ⟨T, hfold, hT⟩ := s.updXpt_each (Xpt.rotate (byteAt b 0))
  have hbad : ¬ (decide (b.length < 2) || decide (byteAt b 0 ≥ 64) || !zeroRange b 2 b.length) = true := by
    simp [Nat.not_lt.2 hlen, Nat.not_le.2 ht, hz]
  refine ⟨T, ?_, fun i hi => ?_⟩
  · unfold rotateWire
    rw [if_neg hbad, Nat.mod_eq_of_lt ht, if_neg (not_not.2 ha)]
    exact congrArg (Prod.mk sOK) hfold
  · have hq : Tab.fetch T (i / 16384) {} = _ := hT ⟨i / 16384, by omega⟩
    simp only [State.conn, State.qtr, hq]
    exact Xpt.fetch_rotate _ _ _

end Wire

/-- Settles O17: a page-key rotation by its previous generation and its key block, a wire rotation connection by connection. -/
theorem keysRotate : Obligations.KeysRotate := by
  unfold Obligations.KeysRotate
  refine ⟨fun s h b hc hlen ht hop hz hk ha => ?page, fun s h b hc hlen ht hop hz ha => ?wire⟩
  case page =>
    have hbody : RotateBody b := ⟨hlen, ht, hop, hz, hk⟩
    have hop1 : byteAt b 1 ≠ 1 := by omega
    have htake : (s.take (.host h) 0x45 b).2.tenant (byteAt b 0) = s.tenant (byteAt b 0) := State.take_tenant _ _ _ _ _
    have hact : ((s.take (.host h) 0x45 b).2.tenant (byteAt b 0)).state = .active := by rwa [htake]
    refine ⟨fun hp => ?previous, fun hp => ?_⟩
    case previous =>
      exact ⟨_, exec_keyRotatePageKey hc hop1 (rotatePageKey_of_previous hbody hact (by rwa [htake])), complete_answered _ _ _ _ _⟩
    cases hu : unwrapKey (byteAt b 0) (s.tenant (byteAt b 0)).curGen (b.drop 4) with
    | error st =>
      exact ⟨_, exec_keyRotatePageKey hc hop1 (rotatePageKey_of_failed_key hbody hact (by rwa [htake]) (by rwa [htake])),
        complete_answered _ _ _ _ _⟩
    | ok key =>
      have heq := rotatePageKey_of_key hbody hact (by rwa [htake]) (by rwa [htake])
      let r := (s.take (.host h) 0x45 b).2.updTenant (byteAt b 0) (Tenant.rotated (byteAt b 4) key)
      have hcount : Posts r (r.count bSEC 0 0) := (Posts.refl r).count _ _ _ _
      have hans := complete_answered ((r.count bSEC 0 0).tenantState (byteAt b 0)) h sOK 0 []
      have htenant (m : Nat) : (((r.count bSEC 0 0).tenantState (byteAt b 0)).complete h sOK 0 []).tenant m = r.tenant m :=
        (hans.1.tenant m).trans (hcount.tenant m)
      refine ⟨_, _, exec_keyRotatePageKey hc hop1 heq, ?_, fun m hm => ?_, ?_, ?_, hans.1.sec.symm, hans⟩
      · rw [htenant, State.tenant_updTenant_self, State.take_tenant]
        rfl
      · rw [htenant, State.tenant_updTenant_ne _ _ _ _ hm, State.take_tenant]
      · exact (hans.1.quarters.trans hcount.quarters).trans (State.take_quarters _ _ _ _)
      · exact (hans.1.hbm.trans hcount.hbm).trans (State.take_hbm _ _ _ _)
  case wire =>
    obtain ⟨T, heq, hconn⟩ := rotateWire_of_active (s := (s.take (.host h) 0x45 b).2) hlen ht hz (by rwa [State.take_tenant])
    have hans := complete_answered { (s.take (.host h) 0x45 b).2 with quarters := T } h sOK 0 []
    refine ⟨_, _, exec_keyRotateWireEpoch hc hop heq, hans, State.take_host _ _ _ _,
      hans.1.sec.trans (State.take_sec _ _ _ _), fun i hi => ?_⟩
    rw [hans.1.conn, hconn i hi]
    simp only [State.conn, State.take_qtr]
    rfl

/-! ### The sweep of a page (R310) -/

section Sweep
variable {s : State} {n q key frame page : Nat} {e : DirEntry} {g : Seg} {fr : FrameRef} {sh : Shape}

/-- A plain page of an ACTIVE tenant whose stored header still carries the previous generation. -/
structure State.OldPage (s : State) (n q key frame page : Nat) (e : DirEntry) (g : Seg) (fr : FrameRef) (sh : Shape) : Prop where
  active : (s.tenant n).state = .active
  previous : (s.tenant n).prevGen ≠ 0
  entry : ∃ a, s.entryOf q key = some (a, e)
  seg : ∃ a, s.segOf q key = some (a, g)
  owner : g.tenant = n
  frameAt : g.frames[frame]? = some fr
  shape : s.shape n g.shapeId = some sh
  inFrame : page < 32
  kept : e.state ≠ .retired
  here : e.state ≠ .incoming
  encrypted : (s.rawHdr q fr page sh).enc = true
  old : (s.rawHdr q fr page sh).keyGen = (s.tenant n).prevGen

/-- The sweep looks at the page anew, whether or not it has been skipped. -/
def State.unskip (s : State) (n : Nat) (x : Nat × Nat × Nat × Nat) : State :=
  s.updTenant n fun T => { T with skipped := T.skipped.filter fun y => !(y == x) }

/-- Nothing of an old page's tenant, segment or entry stops its sweep. -/
theorem State.OldPage.gate (h : s.OldPage n q key frame page e g fr sh) :
    ¬ ((s.tenant n).state ≠ .active ∨ (s.tenant n).prevGen = 0 ∨ g.tenant ≠ n ∨ page ≥ 32 ∨ e.state = .retired) := by
  simp [h.active, h.previous, h.owner, h.inFrame, h.kept]

theorem State.OldPage.header (h : s.OldPage n q key frame page e g fr sh) :
    ¬ (!(s.rawHdr q fr page sh).enc || decide ((s.rawHdr q fr page sh).keyGen ≠ (s.tenant n).prevGen)) = true := by
  simp [h.encrypted, h.old]

/-- A page that the sweep skips is listed for the next tick. -/
def State.listSkip (s : State) (n : Nat) (x : Nat × Nat × Nat × Nat) : State :=
  s.updTenant n fun T => { T with skipped := T.skipped ++ [x] }

theorem State.sweepSkip_posts (s : State) (n : Nat) (x : Nat × Nat × Nat × Nat) (again : Bool) :
    Posts (s.listSkip n x) (s.sweepSkip n x again) := by
  unfold State.sweepSkip
  split
  · exact Posts.refl _
  · exact (Posts.refl _).postTenant _ _

theorem keySweepPage_of_qOff (h : s.OldPage n q key frame page e g fr sh) (hq : s.qOff q = true) :
    keySweepPage s n q key frame page =
      (s.unskip n (q, key, frame, page)).sweepSkip n (q, key, frame, page) ((s.tenant n).skipped.contains (q, key, frame, page)) := by
  obtain ⟨a0, he⟩ := h.entry
  obtain ⟨a1, hg⟩ := h.seg
  unfold keySweepPage
  simp only [State.entryOf_updTenant, State.segOf_updTenant, State.shape_updTenant, State.qOff_updTenant, State.rawHdr_updTenant,
    he, hg, h.frameAt, h.shape, if_neg h.gate, hq, or_true, if_true]
  exact if_neg h.header

theorem keySweepPage_of_stored (h : s.OldPage n q key frame page e g fr sh) (hq : s.qOff q = false) (hs : fr.spilled = false) {b : Bytes}
    (hb : (s.unskip n (q, key, frame, page)).slotStored q key fr page sh = .ok b)
    (hecc : (s.unskip n (q, key, frame, page)).eccIn q fr.stack (fr.addr + page * sh.slot) sh.slot = false) :
    keySweepPage s n q key frame page =
      ((s.unskip n (q, key, frame, page)).stackWrite q fr.stack (fr.addr + page * sh.slot) sh.slot
        (memOf (reKey (s.tenant n) key e.gen frame page sh b))).count bSEC 0 5 := by
  obtain ⟨a0, he⟩ := h.entry
  obtain ⟨a1, hg⟩ := h.seg
  unfold State.unskip at hb hecc
  unfold keySweepPage
  simp only [State.entryOf_updTenant, State.segOf_updTenant, State.shape_updTenant, State.qOff_updTenant, State.rawHdr_updTenant,
    he, hg, h.frameAt, h.shape, if_neg h.gate, hq, h.here, hs, hb, hecc, or_false, Bool.false_eq_true, if_false]
  exact if_neg h.header

end Sweep

/-- Writing a part of a stack keeps to the stack: the security record and host memory stand. -/
theorem State.stackWrite_keeps (s : State) (q ls a n : Nat) (c : Mem) :
    (s.stackWrite q ls a n c).sec = s.sec ∧ (s.stackWrite q ls a n c).host.mem = s.host.mem := by
  unfold State.stackWrite
  dsimp only
  split
  case isTrue => exact ⟨rfl, rfl⟩
  case isFalse =>
    split
    case isTrue => exact ⟨rfl, rfl⟩
    case isFalse =>
      split
      case isTrue => exact ⟨rfl, rfl⟩
      case isFalse => exact ⟨((Posts.refl _).countU _ _ _ _ _).sec, ((Posts.refl _).countU _ _ _ _ _).mem⟩

/-- Settles O18: an old page waits while its Quarter is in Q-OFF, and else is written back under the current key. -/
theorem sweepReencryptsAPage : Obligations.SweepReencryptsAPage := by
  unfold Obligations.SweepReencryptsAPage
  intro s n q key frame page a0 a1 e g fr sh ha hp he hg ho hf hs hpage hr hi henc hold x u
  have hpageOld : s.OldPage n q key frame page e g fr sh := ⟨ha, hp, ⟨a0, he⟩, ⟨a1, hg⟩, ho, hf, hs, hpage, hr, hi, henc, hold⟩
  refine ⟨fun hq hskip => ?waits, fun b hq hspill hb hecc => ?swept⟩
  case waits =>
    have hpost := (s.unskip n x).sweepSkip_posts n x ((s.tenant n).skipped.contains x)
    refine ⟨_, congrArg Host.Outcome.next (keySweepPage_of_qOff hpageOld hq), ?_, hpost.hbm, hpost.mem, hpost.quarters⟩
    refine (congrArg Tenant.skipped (hpost.tenant n)).trans ?_
    rw [State.listSkip, State.unskip, State.tenant_updTenant_self, State.tenant_updTenant_self, hskip]
    rfl
  case swept =>
    have hcount := (Posts.refl (u.stackWrite q fr.stack (fr.addr + page * sh.slot) sh.slot
      (memOf (reKey (s.tenant n) key e.gen frame page sh b)))).count bSEC 0 5 1
    obtain ⟨hsec, hmem⟩ := u.stackWrite_keeps q fr.stack (fr.addr + page * sh.slot) sh.slot
      (memOf (reKey (s.tenant n) key e.gen frame page sh b))
    exact ⟨_, congrArg Host.Outcome.next (keySweepPage_of_stored hpageOld hq hspill hb hecc), hcount.hbm, hcount.sec.trans hsec,
      hcount.mem.trans hmem⟩

/-! ### The end of a generation (R311) -/

section Retire
variable {s : State} {n : Nat}

theorem keyGenRetire_of_left (h : s.oldPages n ≠ 0) : keyGenRetire s n = s := if_pos (Or.inr h)

/-- A tenant without its previous generation. -/
def Tenant.dropPrev (T : Tenant) : Tenant := { T with prevGen := 0, prevKey := 0, skipped := [] }

theorem keyGenRetire_of_none (hp : (s.tenant n).prevGen ≠ 0) (h : s.oldPages n = 0) :
    keyGenRetire s n =
      ((s.updTenant n Tenant.dropPrev).postTenant n { type := 0x08, p0 := n + 256, p1 := (s.tenant n).prevGen }).tenantState n :=
  if_neg (by simp [hp, h])

end Retire

/-- Settles O19: the last page under the previous generation decides, and ROTATING is bit 4 of the tenant's word. -/
theorem previousKeyRetires : Obligations.PreviousKeyRetires := by
  unfold Obligations.PreviousKeyRetires
  intro s n hp
  refine ⟨fun hleft => congrArg Host.Outcome.next (keyGenRetire_of_left hleft), fun hnone => ?_⟩
  have hpost := (Posts.refl (s.updTenant n Tenant.dropPrev)).postTenant n { type := 0x08, p0 := n + 256, p1 := (s.tenant n).prevGen }
  have hself := (hpost.tenant n).trans (State.tenant_updTenant_self _ _ _)
  refine ⟨_, _, congrArg Host.Outcome.next (keyGenRetire_of_none hp hnone), hself, ?_, fun m hm => ?_, hpost.quarters, rfl, rfl⟩
  · refine (State.rotating_tenantWord _ _).trans ?_
    exact congrArg (fun T : Tenant => T.prevGen != 0) hself
  · exact (hpost.tenant m).trans (State.tenant_updTenant_ne _ _ _ _ hm)

end Sys2Proof.Machine
end

section
/-!
PROOFS. Tenants: creation, the stages of a drain, and what is left of a tenant after it (R300 to R302, R318, R319).
-/
namespace Sys2Proof.Machine

/-! ### TENANT_CREATE (R300, R301) -/

section Create
variable {s v : State} {h : HostCmd} {b : Bytes} {st : Nat}

theorem exec_tenantCreate (hc : hostCheck s h 0x40 b = none) (hr : tenantCreate (s.take (.host h) 0x40 b).2 b = (st, v)) :
    exec (.tenantCreate h b) s = .next (v.complete h st) := by
  change execTenantCreate h b s = _
  simp only [execTenantCreate, hostCheck_take, hc, hr]

/-- A descriptor that passes its checks names one of the tenants 1 to 63. -/
theorem byteAt_lt_of_tenantGood (hb : tenantBad b = false) : byteAt b 0 < 64 := by
  simp only [tenantBad, Bool.or_eq_false_iff, decide_eq_false_iff_not] at hb
  omega

theorem tenantCreate_of_active (hb : tenantBad b = false) (ha : (s.tenant (byteAt b 0)).state = .active) :
    tenantCreate s b = (sCONFLICT, s) := by
  simp [tenantCreate, hb, Nat.mod_eq_of_lt (byteAt_lt_of_tenantGood hb), ha]

theorem tenantCreate_of_leaving (hb : tenantBad b = false)
    (ha : (s.tenant (byteAt b 0)).state = .draining ∨ (s.tenant (byteAt b 0)).state = .scrubbing) :
    tenantCreate s b = (sGONE, s) := by
  rcases ha with ha | ha <;> simp [tenantCreate, hb, Nat.mod_eq_of_lt (byteAt_lt_of_tenantGood hb), ha]

/-- A tenant is given its record, and its function is told. -/
def State.makeTenant (s : State) (n : Nat) (T : Tenant) : State := (s.updTenant n fun _ => T).tenantMoved n

theorem tenantCreate_of_plain (hb : tenantBad b = false) (ha : (s.tenant (byteAt b 0)).state = .absent)
    (henc : bit (byteAt b 1) 0 = false) :
    tenantCreate s b = if s.sec.conf then (sAUTH, s) else (sOK, s.makeTenant (byteAt b 0) (tenantOf b)) := by
  simp [tenantCreate, hb, Nat.mod_eq_of_lt (byteAt_lt_of_tenantGood hb), ha, henc, State.makeTenant]

theorem tenantCreate_of_keyed {key : Nat} (hb : tenantBad b = false) (ha : (s.tenant (byteAt b 0)).state = .absent)
    (henc : bit (byteAt b 1) 0 = true) (hu : unwrapKey (byteAt b 0) 0 (b.drop 88) = .ok key) :
    tenantCreate s b =
      (sOK, (s.makeTenant (byteAt b 0) { tenantOf b with curGen := byteAt b 88, curKey := key }).count bSEC 0 0) := by
  simp [tenantCreate, hb, Nat.mod_eq_of_lt (byteAt_lt_of_tenantGood hb), ha, henc, hu, State.makeTenant]

theorem tenantCreate_of_failed_key (hb : tenantBad b = false) (ha : (s.tenant (byteAt b 0)).state = .absent)
    (henc : bit (byteAt b 1) 0 = true) (hu : unwrapKey (byteAt b 0) 0 (b.drop 88) = .error st) :
    tenantCreate s b = (st, s.count bSEC 0 1) := by
  simp [tenantCreate, hb, Nat.mod_eq_of_lt (byteAt_lt_of_tenantGood hb), ha, henc, hu]

/-- A creation that succeeds, but for counts and events, in giving the tenant its record answers OK with that record in place. -/
theorem tenantCreate_makes {T : Tenant} (hc : hostCheck s h 0x40 b = none)
    (hr : tenantCreate (s.take (.host h) 0x40 b).2 b = (sOK, v))
    (hv : Posts ((s.take (.host h) 0x40 b).2.makeTenant (byteAt b 0) T) v) :
    ∃ t v, exec (.tenantCreate h b) s = .next t ∧ t.tenant (byteAt b 0) = T ∧ (∀ m, m ≠ byteAt b 0 → t.tenant m = s.tenant m) ∧
      v.sec = t.sec ∧ v.quarters = s.quarters ∧
      (∃ m, (v.fn (byteAt b 0)).outWait = (s.fn (byteAt b 0)).outWait ++ [m] ∧ m.words.head? = some 0x84) ∧ Answered v h 0 0 t := by
  have hans := complete_answered v h sOK 0 []
  have htenant (m : Nat) : (v.complete h sOK 0 []).tenant m =
      ((s.take (.host h) 0x40 b).2.updTenant (byteAt b 0) fun _ => T).tenant m := (hans.1.tenant m).trans (hv.tenant m)
  refine ⟨_, v, exec_tenantCreate hc hr, ?_, fun m hm => ?_, hans.1.sec.symm, hv.quarters.trans (State.take_quarters _ _ _ _), ?_, hans⟩
  · rw [htenant, State.tenant_updTenant_self]
  · rw [htenant, State.tenant_updTenant_ne _ _ _ _ hm, State.take_tenant]
  · obtain ⟨m, hm, hhead⟩ := State.outWait_tenantMoved ((s.take (.host h) 0x40 b).2.updTenant (byteAt b 0) fun _ => T) (byteAt b 0)
    have hfn : ((s.take (.host h) 0x40 b).2.updTenant (byteAt b 0) fun _ => T).fn (byteAt b 0) = s.fn (byteAt b 0) :=
      State.take_fn _ _ _ _ _
    have hout : (v.fn (byteAt b 0)).outWait =
        (((s.take (.host h) 0x40 b).2.makeTenant (byteAt b 0) T).fn (byteAt b 0)).outWait := by rw [(hv.2 (byteAt b 0)).1]
    exact ⟨m, hout.trans (hm.trans (by rw [hfn])), hhead⟩

end Create

/-! ### A drain of a node that holds nothing (Tables 11-8, 11-9) -/

/-- `t` is as empty as a node of which no Quarter holds anything, and keeps of `s` the security record, HBM and the registers. -/
structure Idles (s t : State) : Prop where
  empty : ∀ e ∈ t.quarters, e.2 = {}
  sec : t.sec = s.sec
  hbm : t.hbm = s.hbm
  regs : t.regs = s.regs
  unitErrs : t.unitErrs = s.unitErrs

namespace Idles
variable {s t u : State}

theorem qtr (h : Idles s t) (q : Nat) : t.qtr q = {} := by
  rcases Tab.fetch_mem t.quarters q {} with hq | hq
  · exact hq
  · exact h.empty _ hq

/-- A change of a Quarter that makes nothing of an empty one. -/
theorem updQ (h : Idles s t) (q : Nat) {f : Quarter → Quarter} (hf : f {} = {}) : Idles s (t.updQ q f) := by
  refine ⟨fun e he => ?_, h.sec, h.hbm, h.regs, h.unitErrs⟩
  rcases Tab.mem_put he with he | he
  · exact h.empty e he
  · subst he
    exact (congrArg f (h.qtr q)).trans hf

theorem foldl {α : Type} {g : State → α → State} {l : List α} (h : Idles s t) (hg : ∀ u a, Idles s u → Idles s (g u a)) :
    Idles s (l.foldl g t) :=
  List.foldlRecOn l g h fun u hu a _ => hg u a hu

theorem of_empty (hq : s.quarters = []) : Idles s s :=
  ⟨fun _ he => absurd (hq ▸ he) List.not_mem_nil, rfl, rfl, rfl, rfl⟩

theorem tenantMoved (h : Idles s t) (n : Nat) : Idles s (t.tenantMoved n) := ⟨h.empty, h.sec, h.hbm, h.regs, h.unitErrs⟩

theorem dropTenantAssists (h : Idles s t) (n : Nat) : Idles s (t.dropTenantAssists n) :=
  ⟨h.empty, h.sec, h.hbm, h.regs, h.unitErrs⟩

theorem endEngine (h : Idles s t) (q n k : Nat) : Idles s (t.endEngine q n k) := by
  have hd : (t.eng q k).desc = none := by rw [State.eng, h.qtr]; rfl
  unfold State.endEngine
  dsimp only
  rw [hd]
  exact h

theorem endDma (h : Idles s t) (q n : Nat) : Idles s (t.endDma q n) := by
  have hnone : (t.qtr q).store.dmaQueue.filter (fun d => d.tenant == n) = [] := by rw [h.qtr]; rfl
  unfold State.endDma
  dsimp only
  rw [hnone]
  exact (h.updQ q rfl).foldl fun _ k hu => hu.endEngine q n k

theorem endPages (h : Idles s t) (q n : Nat) : Idles s (t.endPages q n) := by
  have hkeys : t.keysOf q n = [] := by rw [State.keysOf, h.qtr]; rfl
  unfold State.endPages
  rw [hkeys]
  exact (h.updQ q rfl).updQ q rfl

theorem ticketsOf (h : Idles s t) (n : Nat) (reseat : Bool) : t.ticketsOf n reseat = [] :=
  List.flatMap_eq_nil_iff.2 fun e he => by rw [h.empty e he]; rfl

theorem connsNotFree (h : Idles s t) (n : Nat) : t.connsNotFree n = [] :=
  List.flatMap_eq_nil_iff.2 fun e he => by rw [h.empty e he]; rfl

end Idles

section Drain
variable {s : State} {h : HostCmd} {b : Bytes} {n : Nat}

/-- Of a node that holds nothing the drain ends no work: it marks the tenant alone. -/
theorem drainStart_of_empty (hq : s.quarters = []) :
    Idles (s.updTenant n fun T => { T with state := .draining }) (drainStart s n) := by
  have hmarked := Idles.of_empty (s := s.updTenant n fun T => { T with state := .draining }) hq
  have hmoved := (hmarked.tenantMoved n).dropTenantAssists n
  have hpages := hmoved.foldl (l := [0, 1, 2, 3]) fun u q hu => (hu.endDma q n).endPages q n
  have hports := hpages.foldl (l := [0, 1, 2, 3]) (g := fun u q => (u.updXpt q (Xpt.zeroise n)).updPort q (Port.dropTenant n))
    fun u q hu => (hu.updQ q rfl).updQ q rfl
  unfold drainStart
  simp only [hmoved.ticketsOf, List.foldl_nil, hports.connsNotFree]
  exact hports

theorem exec_tenantDrain (hc : hostCheck s h 0x41 b = none) :
    exec (.tenantDrain h b) s = .next (tenantDrain (s.take (.host h) 0x41 b).2 h b) := by
  change execTenantDrain h b s = _
  simp only [execTenantDrain, hostCheck_take, hc]

/-- A drain's body names a tenant (Table 11-7). -/
structure DrainBody (b : Bytes) : Prop where
  length : b.length = 1
  pos : 0 < byteAt b 0
  lt : byteAt b 0 < 64

theorem DrainBody.good (hb : DrainBody b) : ¬ (b.length ≠ 1 ∨ byteAt b 0 = 0 ∨ byteAt b 0 ≥ 64) := by
  obtain ⟨hlen, hpos, hlt⟩ := hb
  omega

theorem tenantDrain_of_absent (hb : DrainBody b) (ha : (s.tenant (byteAt b 0)).state = .absent) :
    tenantDrain s h b = s.complete h sGONE := by
  unfold tenantDrain
  rw [if_neg hb.good, ha]

theorem tenantDrain_of_active (hb : DrainBody b) (ha : (s.tenant (byteAt b 0)).state = .active) :
    tenantDrain s h b = settle (drainStart (s.updTenant (byteAt b 0) fun T => { T with drainers := [(h, true)] }) (byteAt b 0)) := by
  unfold tenantDrain
  rw [if_neg hb.good, ha]

theorem tenantDrain_of_draining (hb : DrainBody b) (ha : (s.tenant (byteAt b 0)).state = .draining) :
    tenantDrain s h b = s.updTenant (byteAt b 0) fun T => { T with drainers := T.drainers ++ [(h, false)] } := by
  unfold tenantDrain
  rw [if_neg hb.good, ha]

end Drain

/-! ### DRAIN_WORK_ENDED: the keys go, then the Quarters are scrubbed (R318) -/

section Scrub
variable (s : State) (q n : Nat)

theorem State.releaseSeg_sec (key : Nat) : (s.releaseSeg q key).sec = s.sec := by
  cases hg : s.segOf q key with
  | none => unfold State.releaseSeg; rw [hg]
  | some x => exact (State.releaseSeg_frees hg).sec

/-- Steps that each keep the security record keep it together. -/
theorem State.foldl_sec {α : Type} {g : State → α → State} (hg : ∀ u a, (g u a).sec = u.sec) (l : List α) (s : State) :
    (l.foldl g s).sec = s.sec :=
  List.foldlRecOn (motive := fun u => u.sec = s.sec) l g rfl fun u hu a _ => (hg u a).trans hu

theorem State.scrubQuarter_sec : (s.scrubQuarter q n).sec = s.sec :=
  (State.foldl_sec (g := fun u a => u.dirDel q a) (fun _ _ => rfl) _ _).trans
    (State.foldl_sec (g := fun u k => u.releaseSeg q k) (fun u k => u.releaseSeg_sec q k) _ _)

/-- A tenant whose keys and generations are gone. -/
def Tenant.scrubbed (T : Tenant) : Tenant :=
  { T with state := .scrubbing, curGen := 0, curKey := 0, prevGen := 0, prevKey := 0, skipped := [] }

/-- No shape of a tenant is left in the security record. -/
def State.dropShapes (s : State) (n : Nat) : State :=
  { s with sec := { s.sec with shapes := s.sec.shapes.filter fun e => e.1 / 16 != n } }

theorem State.shape_dropShapes_self {id : Nat} (hid : id < 16) : (s.dropShapes n).shape n id = none := by
  refine Tab.look_filter_neg fun _ => ?_
  have hdiv : (n * 16 + id) / 16 = n := by omega
  simp [hdiv]

theorem State.shape_dropShapes_ne {m id : Nat} (hm : m ≠ n) (hid : id < 16) : (s.dropShapes n).shape m id = s.shape m id := by
  refine Tab.look_filter_pos fun _ => ?_
  have hdiv : (m * 16 + id) / 16 = m := by omega
  simp [hdiv, hm]

variable {s n}

/-- With no item left the security record loses the tenant's keys and shapes, and nothing else. -/
theorem drainWorkEnded_sec (hd : (s.tenant n).state = .draining) (hi : s.drainItems n = 0) :
    (drainWorkEnded s n).sec = ((s.updTenant n Tenant.scrubbed).dropShapes n).sec := by
  have hscrub (u : State) : ([0, 1, 2, 3].foldl (fun s q => s.scrubQuarter q n) u).sec = u.sec :=
    State.foldl_sec (fun u q => u.scrubQuarter_sec q n) _ _
  unfold drainWorkEnded
  rw [if_neg (by simp [hd, hi])]
  simp only [State.tenantMoved_sec, hscrub]
  rfl

end Scrub

/-! ### DRAIN_SCRUB_DONE: nothing of the tenant is left, and the drains complete (R318) -/

section Done
variable {s : State} {n : Nat}

/-- A tenant without a record, with the event that says so, and its function told. -/
def State.clearTenant (s : State) (n : Nat) : State :=
  (((s.updTenant n fun _ => {}).postTenant n { type := 0x08, p0 := n, p1 := 5 }).count bSEC 0 9).tenantMoved n

theorem State.clearTenant_posts (s : State) (n : Nat) :
    Posts (s.updTenant n fun _ => {}) (((s.updTenant n fun _ => {}).postTenant n { type := 0x08, p0 := n, p1 := 5 }).count bSEC 0 9) :=
  ((Posts.refl _).postTenant _ _).count _ _ _ _

@[simp] theorem State.clearTenant_quarters : (s.clearTenant n).quarters = s.quarters :=
  (State.tenantMoved_quarters _ _).trans (s.clearTenant_posts n).quarters

@[simp] theorem State.clearTenant_hbm : (s.clearTenant n).hbm = s.hbm :=
  (State.tenantMoved_hbm _ _).trans (s.clearTenant_posts n).hbm

theorem State.tenant_clearTenant (m : Nat) : (s.clearTenant n).tenant m = (s.updTenant n fun _ => {}).tenant m :=
  (State.tenant_tenantMoved _ _ _).trans ((s.clearTenant_posts n).tenant m)

/-- The drains that wait complete one after the other. -/
def State.completeDrains (s : State) (l : List (HostCmd × Bool)) : State :=
  l.foldl (fun s d => s.complete d.1 (if d.2 then sOK else sDUPLICATE)) s

theorem State.completeDrains_reports (s : State) (l : List (HostCmd × Bool)) : Reports s (s.completeDrains l) :=
  Reports.foldl (fun _ _ hu => hu.complete _ _ _ _) (Reports.refl s)

theorem drainScrubDone_of_released (hs : (s.tenant n).state = .scrubbing)
    (hr : ∀ e ∈ s.quarters, ∀ r ∈ e.2.store.releases, r.tenant ≠ n) :
    drainScrubDone s n = (s.clearTenant n).completeDrains (s.tenant n).drainers := by
  have hnone : (s.quarters.any fun e => e.2.store.releases.any fun r => r.tenant == n) = false := by
    simpa using fun q Q hQ => hr (q, Q) hQ
  unfold drainScrubDone
  dsimp only
  rw [if_neg (by simp [hs, hnone])]
  rfl

end Done

/-- Settles O16, stage by stage: a creation by the check that decides, and each stage of the drain by what it leaves of the tenant. -/
theorem tenantsComeAndGo : Obligations.TenantsComeAndGo := by
  unfold Obligations.TenantsComeAndGo
  refine ⟨fun s h b hc hb => ?create, fun s h b hc hlen hpos hlt => ?drain, fun s n hd hi => ?ended, fun s n hs hr => ?done⟩
  case create =>
    intro u n made
    have hstate : (u.tenant n).state = (s.tenant n).state := by rw [State.take_tenant]
    refine ⟨fun ha henc hconf => ?plain, fun ha henc => ?keyed, fun ha henc hconf => ?unkeyed, fun ha => ?active, fun ha => ?leaving⟩
    case plain =>
      have hr := tenantCreate_of_plain hb (hstate.trans ha) henc
      rw [State.take_sec, hconf] at hr
      exact tenantCreate_makes hc hr (Posts.refl _)
    case keyed =>
      cases hu : unwrapKey n 0 (b.drop 88) with
      | ok key => exact tenantCreate_makes hc (tenantCreate_of_keyed hb (hstate.trans ha) henc hu) ((Posts.refl _).count _ _ _ _)
      | error st =>
        exact ⟨_, exec_tenantCreate hc (tenantCreate_of_failed_key hb (hstate.trans ha) henc hu), complete_answered _ _ _ _ _⟩
    case unkeyed =>
      have hr := tenantCreate_of_plain hb (hstate.trans ha) henc
      rw [State.take_sec, hconf] at hr
      exact ⟨_, exec_tenantCreate hc hr, complete_answered _ _ _ _ _⟩
    case active => exact ⟨_, exec_tenantCreate hc (tenantCreate_of_active hb (hstate.trans ha)), complete_answered _ _ _ _ _⟩
    case leaving =>
      exact ⟨_, exec_tenantCreate hc (tenantCreate_of_leaving hb (by rwa [hstate])), complete_answered _ _ _ _ _⟩
  case drain =>
    intro n
    have hbody : DrainBody b := ⟨hlen, hpos, hlt⟩
    have hstate : ((s.take (.host h) 0x41 b).2.tenant n).state = (s.tenant n).state := by rw [State.take_tenant]
    refine ⟨fun ha => ?absent, fun ha herr _ hq => ?begins, fun ha => ?waits⟩
    case absent =>
      exact ⟨_, (exec_tenantDrain hc).trans (congrArg _ (tenantDrain_of_absent hbody (hstate.trans ha))), complete_answered _ _ _ _ _⟩
    case begins =>
      let w := (s.take (.host h) 0x41 b).2.updTenant n fun T => { T with drainers := [(h, true)] }
      have hidle := drainStart_of_empty (s := w) (n := n) ((State.take_quarters _ _ _ _).trans hq)
      have hsettled : settle (drainStart w n) = drainStart w n :=
        settle_of_no_errors (hidle.unitErrs.trans ((State.take_unitErrs _ _ _ _).trans herr))
      have htenant (m : Nat) : (drainStart w n).tenant m = (w.updTenant n fun T => { T with state := .draining }).tenant m := by
        unfold State.tenant; rw [hidle.sec]
      have hself : (drainStart w n).tenant n = { s.tenant n with state := .draining, drainers := [(h, true)] } := by
        rw [htenant, State.tenant_updTenant_self, State.tenant_updTenant_self, State.take_tenant]
      refine ⟨drainStart w n, ?_, congrArg Tenant.state hself, congrArg Tenant.drainers hself, by rw [hself], fun m hm => ?_,
        hidle.hbm.trans (State.take_hbm _ _ _ _), hidle.regs.trans (State.take_regs _ _ _ _)⟩
      · rw [exec_tenantDrain hc, tenantDrain_of_active hbody (hstate.trans ha), hsettled]
      · rw [htenant, State.tenant_updTenant_ne _ _ _ _ hm, State.tenant_updTenant_ne _ _ _ _ hm, State.take_tenant]
    case waits => exact (exec_tenantDrain hc).trans (congrArg _ (tenantDrain_of_draining hbody (hstate.trans ha)))
  case ended =>
    have hsec := drainWorkEnded_sec hd hi
    have htenant (m : Nat) : (drainWorkEnded s n).tenant m = (s.updTenant n Tenant.scrubbed).tenant m := by
      unfold State.tenant; rw [hsec]; rfl
    have hshape (m id : Nat) : (drainWorkEnded s n).shape m id = ((s.updTenant n Tenant.scrubbed).dropShapes n).shape m id := by
      unfold State.shape; rw [hsec]
    have hself := (htenant n).trans (State.tenant_updTenant_self _ _ _)
    refine ⟨_, rfl, congrArg Tenant.state hself, congrArg Tenant.curGen hself, congrArg Tenant.curKey hself, congrArg Tenant.prevGen hself,
      congrArg Tenant.prevKey hself, fun id hid => ?_, fun m id hm hid => ?_, fun m hm => ?_⟩
    · rw [hshape, State.shape_dropShapes_self _ _ hid]
    · rw [hshape, State.shape_dropShapes_ne _ _ hm hid, State.shape_updTenant]
    · rw [htenant, State.tenant_updTenant_ne _ _ _ _ hm]
  case done =>
    have heq := drainScrubDone_of_released hs hr
    have hrep := (s.clearTenant n).completeDrains_reports (s.tenant n).drainers
    have htenant (m : Nat) : ((s.clearTenant n).completeDrains (s.tenant n).drainers).tenant m =
        (s.updTenant n fun _ => {}).tenant m := (hrep.tenant m).trans (State.tenant_clearTenant m)
    refine ⟨_, congrArg Host.Outcome.next heq, (htenant n).trans (State.tenant_updTenant_self _ _ _),
      fun m hm => (htenant m).trans (State.tenant_updTenant_ne _ _ _ _ hm), hrep.quarters.trans State.clearTenant_quarters,
      hrep.hbm.trans State.clearTenant_hbm, fun h hh => ⟨s.clearTenant n, ?_, hrep.sec.symm, State.clearTenant_quarters⟩⟩
    rw [hh]
    exact complete_answered (s.clearTenant n) h sOK 0 []

end Sys2Proof.Machine
end

section
/-!
PROOFS. What counters and events leave of a function, its doorbells, and the fetch of a submission (R334 to R336, R339, R340).
-/
namespace Sys2Proof

theorem Posts.ready {s t : Machine.State} (h : Posts s t) : t.ready = s.ready := by
  unfold Machine.State.ready; rw [h.1]

theorem Posts.hostCheck {s t : Machine.State} (h : Posts s t) (c : HostCmd) (op : Nat) (b : Bytes) :
    Machine.hostCheck t c op b = Machine.hostCheck s c op b := by
  unfold Machine.hostCheck; rw [h.ready, h.tenant]

/-- Posting leaves the fixed part of every ring. -/
theorem FnPosts.fixed {F G : Machine.Fn} (h : FnPosts F G) (qid : Nat) :
    (G.rings.look qid).map Machine.Ring.fixed = (F.rings.look qid).map Machine.Ring.fixed := by
  obtain ⟨-, hfixed, -⟩ := h
  exact hfixed qid

/-- Posting leaves every ring that is no event queue. -/
theorem FnPosts.ring {F G : Machine.Fn} (h : FnPosts F G) {qid : Nat} {r : Machine.Ring} (hr : F.rings.look qid = some r)
    (hk : r.kind ≠ 2) : G.rings.look qid = some r := by
  obtain ⟨-, -, hring⟩ := h
  exact hring qid r hr hk

end Sys2Proof

namespace Sys2Proof.Machine

/-! ### A function after a change of its queues -/

section Units
variable (s : State) (F : Fn) (f qid b : Nat) (item : Bool → RingItem) (now : Nat)

/-- Two changes of one function are one change. -/
theorem State.updFn_updFn (g k : Fn → Fn) : (s.updFn f g).updFn f k = s.updFn f fun F => k (g F) := by
  simp [State.updFn, Tab.amend_amend]

theorem Fn.rings_ringPush {F : Fn} {qid : Nat} {r : Ring} (h : F.rings.look qid = some r) :
    (F.ringPush qid item now).rings = F.rings.put qid (r.push item now) := by
  unfold Fn.ringPush
  simp only [h]
  split <;> rfl

@[simp] theorem Fn.sqs_ringPush : (F.ringPush qid item now).sqs = F.sqs := by
  unfold Fn.ringPush
  split
  · rfl
  · dsimp only; split <;> rfl

@[simp] theorem Fn.rings_ringOut : (F.ringOut b).rings = F.rings := by
  unfold Fn.ringOut; dsimp only; split <;> rfl

@[simp] theorem State.fn_bumpRaw (a k : Nat) : (s.bumpRaw a k).fn f = s.fn f := rfl

/-- Writing an entry on a ring leaves the completions that wait for each ring alone. -/
theorem Fn.waiting_ringPush (k : Nat) :
    ((F.ringPush qid item now).rings.look k).map Ring.waiting = (F.rings.look k).map Ring.waiting := by
  cases hr : F.rings.look qid with
  | none => unfold Fn.ringPush; rw [hr]
  | some r =>
    rw [Fn.rings_ringPush item now hr]
    by_cases hk : k = qid
    · subst hk; rw [Tab.look_put_self, hr]; rfl
    · rw [Tab.look_put_ne _ _ _ _ hk]

/-- The OVERFLOW event leaves the completions that wait for each ring alone. -/
theorem State.waiting_flushLost (k : Nat) :
    (((s.flushLost f).fn f).rings.look k).map Ring.waiting = ((s.fn f).rings.look k).map Ring.waiting := by
  unfold State.flushLost
  dsimp only
  split
  · rfl
  · split
    · rfl
    · split
      · simp only [State.fn_bumpRaw, State.fn_updFn_self, Fn.rings_ringOut, Fn.waiting_ringPush]
      · rfl

end Units

/-! ### Doorbells (R334, R336) -/

section Doorbells
variable {s : State} {f qid value : Nat} {S : Sq} {r : Ring}

theorem sqTail_of_good (hS : (s.fn f).sqs.look qid = some S) (hv : value < S.size) (hd : S.deleting = []) :
    sqTail s f qid value = s.updFn f fun F => { F with sqs := F.sqs.put qid { S with tail := value, stopped := false } } := by
  unfold sqTail
  simp only [hS]
  exact if_neg (by simp [hd, hv])

theorem sqTail_of_bad (h : ∀ S, (s.fn f).sqs.look qid = some S → S.size ≤ value ∨ S.deleting ≠ []) :
    sqTail s f qid value = badDoorbell s f qid 0 value := by
  unfold sqTail
  split
  · rfl
  · next S hS => exact if_pos (h S hS)

/-- A function whose ring has been freed up to an index. -/
def Fn.freeTo (F : Fn) (qid value : Nat) (r : Ring) (now : Nat) : Fn := { F with rings := F.rings.put qid (r.freeTo value now) }

theorem cqHead_of_good (hr : (s.fn f).rings.look qid = some r) (hv : value < r.size) :
    cqHead s f qid value =
      if r.kind = 2 then (s.updFn f fun F => F.freeTo qid value r s.time).flushLost f
      else s.updFn f fun F => F.freeTo qid value r s.time := by
  unfold cqHead
  simp only [hr]
  exact if_neg (Nat.not_le.2 hv)

/-- A head doorbell frees entries, and besides that only posts an OVERFLOW event. -/
theorem cqHead_posts (hr : (s.fn f).rings.look qid = some r) (hv : value < r.size) :
    Posts (s.updFn f fun F => F.freeTo qid value r s.time) (cqHead s f qid value) := by
  rw [cqHead_of_good hr hv]
  split
  · exact (Posts.refl _).flushLost _
  · exact Posts.refl _

/-- The ring of a head doorbell: freed up to the index, and only an event queue may have got an entry since. -/
theorem cqHead_ring (hr : (s.fn f).rings.look qid = some r) (hv : value < r.size) :
    ∃ r', ((cqHead s f qid value).fn f).rings.look qid = some r' ∧ r'.fixed = (r.freeTo value s.time).fixed ∧ r'.waiting = r.waiting ∧
      (r.kind ≠ 2 → r' = r.freeTo value s.time) := by
  have hput : ((s.updFn f fun F => F.freeTo qid value r s.time).fn f).rings.look qid = some (r.freeTo value s.time) := by
    rw [State.fn_updFn_self]; exact Tab.look_put_self _ _ _
  rw [cqHead_of_good hr hv]
  by_cases hk : r.kind = 2
  · rw [if_pos hk]
    have hposts := (Posts.refl (s.updFn f fun F => F.freeTo qid value r s.time)).flushLost f
    have hfixed := (hposts.2 f).fixed qid
    have hwait := (s.updFn f fun F => F.freeTo qid value r s.time).waiting_flushLost f qid
    rw [hput] at hfixed hwait
    obtain ⟨r', hr', hf'⟩ := Option.map_eq_some_iff.1 hfixed
    rw [hr'] at hwait
    exact ⟨r', hr', hf', Option.some.inj hwait, fun hne => absurd hk hne⟩
  · rw [if_neg hk]
    exact ⟨_, hput, rfl, rfl, fun _ => rfl⟩

/-- Unless the index frees a full ring, the entries from it on are left. -/
theorem Ring.items_freeTo (now : Nat) (hfull : ¬ ((value + r.size - r.head) % r.size = 0 ∧ r.items.length = r.size)) :
    (r.freeTo value now).items = r.items.drop ((value + r.size - r.head) % r.size) := if_neg hfull

theorem Ring.fixed_inj {r r' : Ring} (h : r'.fixed = r.fixed) : r'.size = r.size ∧ r'.head = r.head := by
  simp only [Ring.fixed, Prod.mk.injEq] at h
  obtain ⟨-, hsize, -, -, -, -, hhead⟩ := h
  exact ⟨hsize, hhead⟩

end Doorbells

/-- Settles O1: a bad tail doorbell only reports; a head doorbell frees the ring, and an event queue may get its OVERFLOW event. -/
theorem doorbellsMoveTheRings : Obligations.DoorbellsMoveTheRings := by
  unfold Obligations.DoorbellsMoveTheRings
  refine ⟨fun s fn qid value => ⟨fun S hS hv hd => congrArg Host.Outcome.next (sqTail_of_good hS hv hd), fun hbad => ?bad⟩,
    fun s fn qid value r hr hv hfull => ?head⟩
  case bad =>
    have hposts : Posts s (badDoorbell s fn qid 0 value) := (Posts.refl s).badDoorbell _ _ _ _
    exact ⟨_, congrArg Host.Outcome.next (sqTail_of_bad hbad), hposts, fun n => (hposts.2 n).sqs⟩
  case head =>
    have hposts := cqHead_posts hr hv
    obtain ⟨r', hr', hfixed, hwait, hsame⟩ := cqHead_ring hr hv
    obtain ⟨hsize, hhead⟩ := Ring.fixed_inj hfixed
    refine ⟨_, r', rfl, hr', hhead, hsize, hwait, fun n => (hposts.2 n).sqs.trans ?_, hposts.quarters, hposts.hbm, hposts.mem, fun hk => ?_⟩
    · by_cases hn : n = fn
      · subst hn; rw [State.fn_updFn_self]; rfl
      · rw [State.fn_updFn_ne _ _ _ _ hn]
    · rw [hsame hk, Ring.items_freeTo _ hfull]

/-! ### A fetch (R335, R339, R340) -/

section Fetch
variable {s : State} {f : Fin 64} {qid now : Nat} {e body : Bytes} {S : Sq}

/-- The queue of an SQ whose entry at the head has been fetched. -/
def Sq.fetched (S : Sq) : Sq := { S with head := (S.head + 1) % S.size, live := S.live + 1 }

/-- The state in which a fetched entry is checked. -/
def State.fetched (s : State) (f qid now : Nat) (S : Sq) : State :=
  ((s.advance now).updFn f fun F => { F with sqs := F.sqs.put qid S.fetched }).count bHQ 0 0

theorem State.fetched_posts (s : State) (f qid now : Nat) (S : Sq) :
    Posts ((s.advance now).updFn f fun F => { F with sqs := F.sqs.put qid S.fetched }) (s.fetched f qid now S) :=
  (Posts.refl _).count _ _ _ _

theorem State.sqs_fetched : ((s.fetched f qid now S).fn f).sqs.look qid = some S.fetched := by
  rw [((s.fetched_posts f qid now S).2 f).sqs, State.fn_updFn_self]
  exact Tab.look_put_self _ _ _

/-- The body of an operation that an entry names: PARAM, or LEN bytes that the node has read. -/
def entryBody (e body : Bytes) : Bytes := if byParam (byteAt e 0) then (e.drop 40).take 16 else body.take (fieldAt e 16 4)

/-- An entry that passes its checks is accepted, with its fetch as its arrival. -/
theorem submissionFetch_of_good (hS : (s.fn f).sqs.look qid = some S) (hf : fetchable (s.fn f) qid S = true) (he : entryBad e = false)
    (hn : mayName (issuerOf (byteAt e 0)) f (byteAt e 5 % 64) = true) (h0 : issuerOf (byteAt e 0) = .f0 → f.val = 0)
    (hc : hostCheck s (entryCmd (s.fn f) f qid ((S.head + 1) % S.size) e) (byteAt e 0) (entryBody e body) = none) :
    submissionFetch s f qid now (some e) (some body) =
      { s.fetched f qid now S with
        inbox := (s.fetched f qid now S).inbox ++
          [{ origin := .host (entryCmd (s.fn f) f qid ((S.head + 1) % S.size) e), opcode := byteAt e 0, body := entryBody e body
             arrival := (s.fetched f qid now S).time }] } := by
  have hcheck : hostCheck (s.fetched f qid now S) (entryCmd (s.fn f) f qid ((S.head + 1) % S.size) e) (byteAt e 0) (entryBody e body) =
      none := ((s.fetched_posts f qid now S).hostCheck _ _ _).trans hc
  have hissuer : ¬ (issuerOf (byteAt e 0) = .f0 ∧ f.val ≠ 0) := fun ⟨hi, hne⟩ => hne (h0 hi)
  unfold State.fetched Sq.fetched entryBody at hcheck ⊢
  unfold submissionFetch
  simp only [hS, hf, he, hissuer, hcheck, Option.getD_some, Option.isNone_some, Bool.not_true, Bool.false_eq_true, and_false, if_false]
  rw [if_neg (by simpa [entryCmd] using hn)]

end Fetch

/-- Settles O2: the entry is counted, which only reports, and its command joins the inbox. -/
theorem fetchAcceptsACommand : Obligations.FetchAcceptsACommand := by
  unfold Obligations.FetchAcceptsACommand
  intro s f qid now e body S hS hf he hn h0 h b hc
  have hposts := s.fetched_posts f qid now S
  refine ⟨_, congrArg Host.Outcome.next (submissionFetch_of_good hS hf he hn h0 hc), hposts.time, State.sqs_fetched, ?_,
    hposts.quarters, hposts.hbm, hposts.sec⟩
  show (s.fetched f qid now S).inbox ++ _ = _
  rw [hposts.inbox, hposts.time]
  rfl

end Sys2Proof.Machine
end

section
/-!
PROOFS. Completions, interrupts, queue commands and the administrative pair of a function (R333, R336 to R338, R353).
-/
namespace Sys2Proof.Machine

/-! ### Posting a completion and the coalescing timer (R336, R337) -/

section Post
variable {s : State} {f cq qid : Nat} {r : Ring} {c : Cpl} {rest : List Cpl}

/-- A ring after its oldest waiting completion has been written. -/
def Ring.posted (r : Ring) (c : Cpl) (rest : List Cpl) (now : Nat) : Ring :=
  ({ r with waiting := rest } : Ring).push (fun p => .cpl p c) now

/-- The SQs after a completion of one of their entries has been written. -/
def Cpl.leaves (c : Cpl) (sqs : Tab Sq) : Tab Sq :=
  match sqs.look c.sq with | some S => sqs.put c.sq { S with live := S.live - 1 } | none => sqs

/-- A function after the oldest completion that waits for a ring has been written. -/
def Fn.posted (F : Fn) (cq : Nat) (r : Ring) (c : Cpl) (rest : List Cpl) (now : Nat) : Fn :=
  let G := ({ F with rings := F.rings.put cq { r with waiting := rest } } : Fn).ringPush cq (fun p => .cpl p c) now
  { G with sqs := c.leaves G.sqs }

theorem Fn.rings_posted (F : Fn) (now : Nat) : ((F.posted cq r c rest now).rings).look cq = some (r.posted c rest now) := by
  have hput := Tab.look_put_self cq ({ r with waiting := rest } : Ring) F.rings
  show (Fn.ringPush _ cq _ now).rings.look cq = _
  rw [Fn.rings_ringPush _ _ hput, Tab.look_put_self]
  rfl

theorem Fn.sqs_posted (F : Fn) (now : Nat) : (F.posted cq r c rest now).sqs = c.leaves F.sqs := by
  show c.leaves (Fn.ringPush _ cq _ now).sqs = _
  rw [Fn.sqs_ringPush]

theorem Fn.posted_reports {F : Fn} (hr : F.rings.look cq = some r) (now : Nat) : FnReports F (F.posted cq r c rest now) :=
  have hput : FnReports F { F with rings := F.rings.put cq { r with waiting := rest } } := FnReports.ringPut hr rfl
  (hput.trans (FnReports.ringPush _ cq (fun p => .cpl p c) now)).trans ⟨rfl, fun _ => rfl⟩

theorem Cpl.leaves_deleting {sqs : Tab Sq} (hd : ∀ e ∈ sqs, e.2.deleting = []) : ∀ e ∈ c.leaves sqs, e.2.deleting = [] := by
  unfold Cpl.leaves
  split
  · next S hS =>
    intro e he
    rcases Tab.mem_put he with he | rfl
    · exact hd e he
    · exact hd (c.sq, S) (Tab.look_mem hS)
  · exact hd

theorem completionPost_of_waiting (hr : (s.fn f).rings.look cq = some r) (hw : r.waiting = c :: rest) (hfree : r.items.length < r.size)
    (hd : ∀ e ∈ (s.fn f).sqs, e.2.deleting = []) :
    completionPost s f cq = (s.updFn f fun F => F.posted cq r c rest s.time).count bHQ 0 1 := by
  have hposts : Posts (s.updFn f fun F => F.posted cq r c rest s.time) _ := (Posts.refl _).count bHQ 0 1 1
  have hleft : ∀ e ∈ (((s.updFn f fun F => F.posted cq r c rest s.time).count bHQ 0 1).fn f).sqs, e.2.deleting = [] := by
    rw [(hposts.2 f).sqs, State.fn_updFn_self, Fn.sqs_posted]
    exact Cpl.leaves_deleting hd
  have hfree0 : r.free ≠ 0 := by unfold Ring.free; omega
  rw [← endDeletes_none _ _ f hleft]
  unfold completionPost
  simp only [hr, hw, hfree0, if_false, State.updFn_updFn]
  rfl

theorem coalTimer_of_unread {t0 : Nat} (hr : (s.fn f).rings.look qid = some r) (ht : r.firstAt = some t0) (hn : r.coalN ≠ 0)
    (hi : r.items ≠ []) :
    coalTimer s f qid = (s.advance (t0 + r.coalUs * 1000)).updFn f fun F =>
      { F with rings := F.rings.put qid { r with firstAt := none } }.irq r.vector := by
  unfold coalTimer
  simp only [hr, ht]
  exact if_neg (by simp [hn, hi])

end Post

/-- Settles O3: the completion is written on the ring that it waited for, and no SQ is being deleted, so nothing else ends. -/
theorem ringsPostAndInterrupt : Obligations.RingsPostAndInterrupt := by
  unfold Obligations.RingsPostAndInterrupt
  refine ⟨fun s f cq r c rest hr hk hw hfree hd => ?post, fun s f qid r t0 hr ht hn hi => ?timer⟩
  case post =>
    have hposts : Posts (s.updFn f fun F => F.posted cq r c rest s.time) _ := (Posts.refl _).count bHQ 0 1 1
    have hring : ((s.updFn f fun F => F.posted cq r c rest s.time).fn f).rings.look cq = some (r.posted c rest s.time) := by
      rw [State.fn_updFn_self, Fn.rings_posted]
    have hkind : (r.posted c rest s.time).kind ≠ 2 := by
      show r.kind ≠ 2; omega
    refine ⟨_, r.posted c rest s.time, congrArg Host.Outcome.next (completionPost_of_waiting hr hw hfree hd),
      (hposts.2 f).ring hring hkind, rfl, rfl, rfl, rfl, ?_⟩
    exact ((Reports.refl s).updFn f _ (Fn.posted_reports hr _)).posts hposts
  case timer =>
    refine ⟨_, congrArg Host.Outcome.next (coalTimer_of_unread hr ht hn hi), rfl, ?_, ?_, fun g hg => State.fn_updFn_ne _ _ _ _ hg,
      rfl, rfl, rfl⟩
    · rw [State.fn_updFn_self]; exact Tab.fetch_amend_self _ _ _ _
    · rw [State.fn_updFn_self]; exact Tab.look_put_self _ _ _

/-! ### QUEUE_CREATE (R338) -/

section Create
variable {s : State} {h : HostCmd} {b : Bytes}

@[simp] theorem State.take_sqsUsed (o : Origin) (op : Nat) (b : Bytes) : (s.take o op b).2.sqsUsed = s.sqsUsed := by
  unfold State.sqsUsed; rw [State.take_host]

@[simp] theorem State.take_cqsUsed (o : Origin) (op : Nat) (b : Bytes) : (s.take o op b).2.cqsUsed = s.cqsUsed := by
  unfold State.cqsUsed; rw [State.take_host]

theorem exec_queueCreate (hc : hostCheck s h 0x60 b = none) {st : Nat} {v : State}
    (hr : queueCreate (s.take (.host h) 0x60 b).2 h b = (st, v)) : exec (.queueCreate h b) s = .next (v.complete h st) := by
  change execQueueCreate h b s = _
  simp only [execQueueCreate, hostCheck_take, hc, hr]

/-- A good QUEUE_CREATE of an SQ or a CQ adds its queue. -/
theorem queueCreate_of_good (hb : queueBad h.fn b = false) (hcl : queueClash (s.fn h.fn) b = false) (hs : s.sqsUsed < 4096)
    (hcq : s.cqsUsed < 4096) (hk : byteAt b 0 % 8 < 2) : queueCreate s h b = (sOK, s.updFn h.fn fun F => addQueue F b) := by
  have hne3 : byteAt b 0 % 8 ≠ 3 := by omega
  have hne2 : byteAt b 0 % 8 ≠ 2 := by omega
  simp [queueCreate, hb, hcl, hne3, hne2, Nat.not_le.2 hs, Nat.not_le.2 hcq]

theorem addQueue_sq (hk : byteAt b 0 % 8 = 0) (F : Fn) :
    addQueue F b = { F with sqs := F.sqs.put (fieldAt b 2 2) { size := 2 ^ fieldAt b 4 2, base := fieldAt b 8 8, cq := fieldAt b 6 2 } } :=
  if_pos hk

/-- The CQ that a QUEUE_CREATE body describes (Table 12-5). -/
def Ring.cqOf (b : Bytes) : Ring :=
  { kind := 1, size := 2 ^ fieldAt b 4 2, base := fieldAt b 8 8, vector := fieldAt b 16 2, coalN := byteAt b 18, coalUs := byteAt b 19 }

theorem addQueue_cq (hk : byteAt b 0 % 8 = 1) (F : Fn) :
    addQueue F b = { F with rings := F.rings.put (fieldAt b 2 2) (Ring.cqOf b) } := by
  simp [addQueue, hk, Ring.cqOf]

end Create

/-! ### QUEUE_DELETE (R338) -/

section Delete
variable {s : State} {h : HostCmd} {b : Bytes} {qid : Nat} {S : Sq} {r : Ring}

theorem exec_queueDelete (hc : hostCheck s h 0x61 b = none) :
    exec (.queueDelete h b) s = .next (queueDelete (s.take (.host h) 0x61 b).2 h b) := by
  change execQueueDelete h b s = _
  simp only [execQueueDelete, hostCheck_take, hc]

/-- A QUEUE_DELETE body of a queue of some kind, with every field in its range. -/
structure DeleteBody (b : Bytes) : Prop where
  length : b.length = 4
  kind : byteAt b 0 < 4
  reserved : byteAt b 1 = 0
  pos : 0 < fieldAt b 2 2
  lt : fieldAt b 2 2 < 512

theorem DeleteBody.kind_mod (hb : DeleteBody b) : byteAt b 0 % 8 = byteAt b 0 := by
  have := hb.kind
  omega

theorem DeleteBody.good (hb : DeleteBody b) :
    ¬ (byteAt b 0 / 8 ≠ 0 ∨ byteAt b 1 ≠ 0 ∨ byteAt b 0 % 8 ≥ 4 ∨ fieldAt b 2 2 = 0 ∨ fieldAt b 2 2 ≥ 512 ∨ b.length ≠ 4) := by
  obtain ⟨hlen, hkind, hres, hpos, hlt⟩ := hb
  omega

/-- A ring that no SQ names is deleted at once. -/
theorem queueDelete_of_ring (hb : DeleteBody b) (h0 : byteAt b 0 ≠ 0) (hr : (s.fn h.fn).rings.look (fieldAt b 2 2) = some r)
    (hk : r.kind = byteAt b 0) (hu : ∀ e ∈ (s.fn h.fn).sqs, e.2.cq ≠ fieldAt b 2 2) :
    queueDelete s h b = (s.updFn h.fn fun F => { F with rings := F.rings.del (fieldAt b 2 2) }).complete h sOK := by
  have hany : (s.fn h.fn).sqs.any (fun e => e.2.cq == fieldAt b 2 2) = false := by
    rw [List.any_eq_false]
    intro e he
    simpa using hu e he
  unfold queueDelete
  rw [if_neg hb.good]
  simp only [hb.kind_mod, h0, hr, hk, hany, if_false, ne_eq, not_true_eq_false, Bool.false_eq_true, and_false]

theorem queueDelete_of_no_sq (hb : DeleteBody b) (h0 : byteAt b 0 = 0) (hS : (s.fn h.fn).sqs.look (fieldAt b 2 2) = none) :
    queueDelete s h b = s.complete h sSTALE := by
  unfold queueDelete
  rw [if_neg hb.good]
  simp only [h0, hS, if_true]

/-- The SQs of a function after one of them has been given a command that deletes it. -/
def Fn.deleteBy (F : Fn) (qid : Nat) (S : Sq) (l : List HostCmd) : Fn := { F with sqs := F.sqs.put qid { S with deleting := l } }

theorem queueDelete_of_sq (hb : DeleteBody b) (h0 : byteAt b 0 = 0) (hS : (s.fn h.fn).sqs.look (fieldAt b 2 2) = some S)
    (hd : S.deleting = []) :
    queueDelete s h b =
      State.endDeletes ((s.fn h.fn).sqs.length + 1) (s.updFn h.fn fun F => F.deleteBy (fieldAt b 2 2) S [h]) h.fn := by
  unfold queueDelete
  rw [if_neg hb.good]
  simp only [h0, hS, hd, if_true, List.nil_append]
  rfl

/-- Deleting a queue that no command is deleting leaves no queue that is being deleted. -/
theorem deleting_put {sqs : Tab Sq} (hd : ∀ e ∈ sqs, e.2.deleting = []) : ∀ e ∈ sqs.put qid { S with deleting := [] }, e.2.deleting = [] := by
  intro e he
  rcases Tab.mem_put he with he | rfl
  · exact hd e he
  · rfl

/-- A completion without a result leaves every SQ of its function as far from deletion as it was. -/
theorem completeCore_deleting (st d : Nat) (hd : ∀ e ∈ (s.fn h.fn).sqs, e.2.deleting = []) :
    ∀ e ∈ ((s.completeCore h st d []).fn h.fn).sqs, e.2.deleting = [] := by
  have hwrite : s.writeResult h [] = (s.hostWrite h.fn h.resultAddr [], false) := by simp [State.writeResult]
  unfold State.completeCore
  split
  · rw [hwrite]
    exact placeCpl_deleting _ hd
  · split
    · rw [State.fn_updFn_self]; exact hd
    · exact hd

/-- The only SQ that is being deleted, with no entry left to complete, is the one whose deletion ends. -/
theorem find?_deleting (hd : ∀ e ∈ (s.fn h.fn).sqs, e.2.deleting = []) (hl : S.live = 0) :
    ((s.fn h.fn).sqs.put qid { S with deleting := [h] }).find? (fun e => !e.2.deleting.isEmpty && e.2.drained e.1) =
      some (qid, { S with deleting := [h] }) := by
  cases hf : ((s.fn h.fn).sqs.put qid { S with deleting := [h] }).find? (fun e => !e.2.deleting.isEmpty && e.2.drained e.1) with
  | none =>
    have hnew := List.find?_eq_none.1 hf _ (Tab.look_mem (Tab.look_put_self qid { S with deleting := [h] } (s.fn h.fn).sqs))
    exact absurd (by simp [Sq.drained, hl]) hnew
  | some e =>
    rcases Tab.mem_put (List.mem_of_find?_eq_some hf) with he | rfl
    · have hp := List.find?_some hf
      simp [hd e he] at hp
    · rfl

/-- The deletion of an SQ with nothing left to complete: its deleting command completes, and the SQ is gone. -/
theorem endDeletes_of_drained (n : Nat) (hd : ∀ e ∈ (s.fn h.fn).sqs, e.2.deleting = []) (hl : S.live = 0) :
    State.endDeletes (n + 1) (s.updFn h.fn fun F => F.deleteBy qid S [h]) h.fn =
      ((s.updFn h.fn fun F => F.deleteBy qid S []).completeCore h sOK 0 []).updFn h.fn fun F => { F with sqs := F.sqs.del qid } := by
  have hfind : ((s.updFn h.fn fun F => F.deleteBy qid S [h]).fn h.fn).sqs.find? (fun e => !e.2.deleting.isEmpty && e.2.drained e.1) =
      some (qid, { S with deleting := [h] }) := by
    rw [State.fn_updFn_self]; exact find?_deleting hd hl
  have hback : ((s.updFn h.fn fun F => F.deleteBy qid S [h]).updFn h.fn fun F => F.deleteBy qid { S with deleting := [h] } []) =
      s.updFn h.fn fun F => F.deleteBy qid S [] := by
    rw [State.updFn_updFn]
    simp only [Fn.deleteBy, Tab.put_put]
  have hcore : ∀ e ∈ (((s.updFn h.fn fun F => F.deleteBy qid S []).completeCore h sOK 0 []).fn h.fn).sqs, e.2.deleting = [] := by
    refine completeCore_deleting _ _ ?_
    rw [State.fn_updFn_self]
    exact deleting_put hd
  rw [State.endDeletes]
  simp only [hfind, List.foldl_cons, List.foldl_nil]
  change State.endDeletes n (((((s.updFn h.fn fun F => F.deleteBy qid S [h]).updFn h.fn fun F =>
    F.deleteBy qid { S with deleting := [h] } []).completeCore h sOK 0 []).updFn h.fn fun F => { F with sqs := F.sqs.del qid })) h.fn = _
  rw [hback]
  refine endDeletes_none n _ h.fn ?_
  rw [State.fn_updFn_self]
  intro e he
  have hmem := (List.mem_filter.1 he).1
  exact hcore e hmem

end Delete

/-- Settles O4: each command is completed in the state with its queue; the deletion of a drained SQ ends at once. -/
theorem queuesAreCreatedAndDeleted : Obligations.QueuesAreCreatedAndDeleted := by
  unfold Obligations.QueuesAreCreatedAndDeleted
  refine ⟨⟨fun s h b hc hb hcl hs hcq => ?create, fun s h b hc hlen hkind hres hpos hlt => ?delete⟩,
    fun s h b S hc hlen h0 hres hpos hlt hS hl _ hd => ?sq⟩
  case create =>
    have hgood (hk : byteAt b 0 % 8 < 2) := exec_queueCreate hc
      (queueCreate_of_good (s := (s.take (.host h) 0x60 b).2) hb (by rwa [State.take_fn]) (by rwa [State.take_sqsUsed])
        (by rwa [State.take_cqsUsed]) hk)
    refine ⟨fun hk => ⟨_, hgood (by omega), ?_⟩, fun hk => ⟨_, hgood (by omega), ?_⟩⟩
    · simp only [addQueue_sq hk]
      exact complete_answered _ _ _ _ _
    · simp only [addQueue_cq hk]
      exact complete_answered _ _ _ _ _
  case delete =>
    have hb : DeleteBody b := ⟨hlen, hkind, hres, hpos, hlt⟩
    refine ⟨fun r h0 hr hk hu => ⟨_, (exec_queueDelete hc).trans (congrArg _ (queueDelete_of_ring hb h0 (r := r) ?_ hk ?_)), ?_⟩,
      fun h0 hS => ⟨_, (exec_queueDelete hc).trans (congrArg _ (queueDelete_of_no_sq hb h0 ?_)), complete_answered _ _ _ _ _⟩⟩
    · rwa [State.take_fn]
    · rwa [State.take_fn]
    · exact complete_answered _ _ _ _ _
    · rwa [State.take_fn]
  case sq =>
    have hb : DeleteBody b := ⟨hlen, by omega, hres, hpos, hlt⟩
    rw [← State.take_fn s (.host h) 0x61 b] at hS hd
    have hdel := queueDelete_of_sq hb h0 hS (hd _ (Tab.look_mem hS))
    refine ⟨_, (exec_queueDelete hc).trans (congrArg _ hdel), ?_, Reports.endDeletes _ _ _ ?_⟩
    · rw [endDeletes_of_drained _ hd hl, State.fn_updFn_self]
      exact Tab.look_del_self _ _
    · exact (Reports.refl _).updFn _ _ ⟨rfl, fun _ => rfl⟩

/-! ### The administrative pair (R353, Table 12-18) -/

section Pair
variable {s : State} {f : Nat} {v : Word}

/-- A function with a value of HQ_ADM_CTL. -/
def Fn.admWritten (F : Fn) (v : Word) : Fn := { F with admRegs := F.admRegs.put 0x210 (v &&& 0xFFFF1) }

theorem admQueueCtl_of_rise (hw : bit ((s.fn f).admRegs.fetch 0x210 0x440).toNat 0 = false) (hn : bit v.toNat 0 = true) :
    admQueueCtl s f v = s.updFn f fun _ => admStart ((s.fn f).admWritten v) v.toNat := by
  unfold admQueueCtl
  simp only [hw, hn]
  rfl

theorem admQueueCtl_of_fall (hw : bit ((s.fn f).admRegs.fetch 0x210 0x440).toNat 0 = true) (hn : bit v.toNat 0 = false) :
    admQueueCtl s f v = s.updFn f fun _ => admReset ((s.fn f).admWritten v) := by
  unfold admQueueCtl
  simp only [hw, hn]
  rfl

/-- The administrative pair is empty and has the sizes and the vector of HQ_ADM_CTL. -/
theorem admStart_pair (F : Fn) (ctl : Nat) :
    ∃ S r, (admStart F ctl).sqs.look 0 = some S ∧ (admStart F ctl).rings.look 0 = some r ∧ S.cq = 0 ∧ S.head = 0 ∧ S.tail = 0 ∧
      S.live = 0 ∧ S.size = 2 ^ admLog2 (bits ctl 7 4) ∧ r.kind = 1 ∧ r.size = 2 ^ admLog2 (bits ctl 11 8) ∧
      r.vector = bits ctl 19 12 ∧ r.items = [] :=
  ⟨_, _, Tab.look_put_self _ _ _, Tab.look_put_self _ _ _, rfl, rfl, rfl, rfl, rfl, rfl, rfl, rfl, rfl⟩

/-- RDY falls with the reset when the pair has no fetched command left. -/
theorem admRdy_admReset {F : Fn} {S : Sq} (hS : F.sqs.look 0 = some S) (hl : S.live = 0) : (admReset F).admRdy = false := by
  simp [admReset, hS, hl]

end Pair

/-- Settles O5: EN before and after the write decides whether the pair is created or reset. -/
theorem administrativePair : Obligations.AdministrativePair := by
  unfold Obligations.AdministrativePair
  intro s f v
  refine ⟨fun hw hn => ?rise, fun hw hn => ?fall⟩
  case rise =>
    obtain ⟨S, r, hS, hr, hpair⟩ := admStart_pair ((s.fn f).admWritten v) v.toNat
    obtain ⟨hcq, hhead, htail, hlive, hsize, hkind, hrsize, hvec, hitems⟩ := hpair
    refine ⟨_, S, r, congrArg Host.Outcome.next (admQueueCtl_of_rise hw hn), ?_⟩
    rw [State.fn_updFn_self]
    exact ⟨rfl, hS, hr, hcq, hhead, htail, hlive, hsize, hkind, hrsize, hvec, hitems, fun g hg => State.fn_updFn_ne _ _ _ _ hg⟩
  case fall =>
    refine ⟨_, congrArg Host.Outcome.next (admQueueCtl_of_fall hw hn), ?_⟩
    rw [State.fn_updFn_self]
    exact ⟨Tab.look_del_self _ _, Tab.look_del_self _ _, rfl, fun S hS hl => admRdy_admReset hS hl,
      fun g hg => State.fn_updFn_ne _ _ _ _ hg⟩

end Sys2Proof.Machine
end

section
/-!
PROOFS. Mailboxes, doorbell bits, the PCIe link and the TDI states (R329, R332, R347 to R352, R450).
-/
namespace Sys2Proof

theorem bit_eq_getLsbD (x : Word) (i : Nat) : bit x.toNat i = x.getLsbD i := by
  rw [BitVec.getLsbD, Nat.testBit_eq_decide_div_mod_eq]; rfl

end Sys2Proof

namespace Sys2Proof.Machine

/-! ### Doorbell bits (R352) -/

section Bits
variable (s : State) (F : Fn) (f b : Nat)

/-- A change of a function counts only where it is applied. -/
theorem State.updFn_congr {g k : Fn → Fn} (h : g (s.fn f) = k (s.fn f)) : s.updFn f g = s.updFn f k := by
  unfold State.updFn
  rw [Tab.amend_congr h]

theorem Fn.dbOut_ringOut : (F.ringOut b).dbOut = F.dbOut ||| w32 (2 ^ b) := by
  unfold Fn.ringOut; dsimp only; split <;> rfl

theorem Fn.bit_dbOut_ringOut {b : Nat} (hb : b < 32) : bit (F.ringOut b).dbOut.toNat b = true := by
  rw [bit_eq_getLsbD, Fn.dbOut_ringOut, BitVec.getLsbD_or, w32, BitVec.getLsbD_ofNat, Nat.testBit_two_pow_self]
  simp [hb]

/-- Setting a DB_OUT bit leaves all of a function but DB_OUT and its interrupts alone. -/
theorem Fn.ringOut_eq : F.ringOut b = { F with irqs := (F.ringOut b).irqs, dbOut := (F.ringOut b).dbOut } := by
  unfold Fn.ringOut; dsimp only; split <;> rfl

/-- Clearing GO or FULL. -/
theorem bit_clear_8 (x : Word) : bit (x &&& 0xFFFFFEFF).toNat 8 = false := by
  rw [bit_eq_getLsbD]; simp

/-- Clearing bit 2 of DB_OUT. -/
theorem bit_clear_2 (x : Word) : bit (x &&& 0xFFFFFFFB).toNat 2 = false := by
  rw [bit_eq_getLsbD]; simp

/-- Clearing bit 2 of DB_OUT leaves the other bits. -/
theorem bit_clear_2_ne (x : Word) {b : Nat} (hb : b ≠ 2) : bit (x &&& 0xFFFFFFFB).toNat b = bit x.toNat b := by
  have hmask : ∀ i : Fin 32, i ≠ 2 → (0xFFFFFFFB : Word).getLsbD i = true := by decide
  rw [bit_eq_getLsbD, bit_eq_getLsbD, BitVec.getLsbD_and]
  by_cases hlt : b < 32
  · rw [hmask ⟨b, hlt⟩ fun h => hb (congrArg Fin.val h), Bool.and_true]
  · simp [BitVec.getLsbD_of_ge _ _ (Nat.not_lt.1 hlt)]

end Bits

/-! ### Inbound messages (R347, R349, R351) -/

section Inbound
variable {s : State} {f : Nat}

/-- A function's inbound message has a good length and names an agent that can be reached. -/
structure Reaches (s : State) (f : Nat) : Prop where
  go : (s.fn f).go = true
  min : 8 ≤ (s.fn f).mbxInCtl.toNat % 32
  max : (s.fn f).mbxInCtl.toNat % 32 ≤ 16
  agent : (s.fn f).agent ≤ 4
  awake : (s.fn f).agent ≠ 0 → s.qOff ((s.fn f).agent - 1) = false

theorem agentAnswer_of_go (h : (s.fn f).go = true) :
    agentAnswer s f = s.updFn f fun F => { F.ackIn (s.mbxCode f) with outWait := F.outWait ++ s.mbxReply f } := if_pos h

/-- The type of a message that reaches its agent decides its code (Table 12-12). -/
theorem Reaches.mbxCode (h : Reaches s f) :
    s.mbxCode f = if (s.fn f).msgType = 1 ∨ ((s.fn f).msgType = 2 ∧ (s.fn f).agent = 0) ∨ ((s.fn f).msgType = 3 ∧ (s.fn f).agent ≠ 0)
      then sOK else sBAD := by
  obtain ⟨-, hmin, hmax, hagent, hawake⟩ := h
  have hlen : ¬ ((s.fn f).mbxInCtl.toNat % 32 < 8 ∨ (s.fn f).mbxInCtl.toNat % 32 > 16 ∨ (s.fn f).agent > 4) := by omega
  have hon : ¬ ((s.fn f).agent ≠ 0 ∧ s.qOff ((s.fn f).agent - 1) = true) := fun ⟨hne, hoff⟩ => by simp [hawake hne] at hoff
  unfold State.mbxCode
  simp only [hlen, hon, if_false, ite_or]

/-- A message that is acknowledged with a code and answered by what its type asks for. -/
theorem Reaches.agentAnswer (h : Reaches s f) {code : Nat} {out : List OutMail} (hc : s.mbxCode f = code) (hr : s.mbxReply f = out) :
    agentAnswer s f = s.updFn f fun F => { F.ackIn code with outWait := F.outWait ++ out } := by
  rw [agentAnswer_of_go h.go, hc, hr]

theorem Reaches.ping (h : Reaches s f) (ht : (s.fn f).msgType = 1) :
    Machine.agentAnswer s f = s.updFn f fun F => { F.ackIn sOK with outWait := F.outWait ++ [] } := by
  have hc : s.mbxCode f = sOK := by rw [h.mbxCode, if_pos (Or.inl ht)]
  exact h.agentAnswer hc (by simp [State.mbxReply, hc, ht])

theorem Reaches.fnInfo (h : Reaches s f) (ht : (s.fn f).msgType = 2) (ha : (s.fn f).agent = 0) :
    Machine.agentAnswer s f = s.updFn f fun F => { F.ackIn sOK with outWait := F.outWait ++ [s.fnInfoReply f] } := by
  have hc : s.mbxCode f = sOK := by rw [h.mbxCode, if_pos (Or.inr (Or.inl ⟨ht, ha⟩))]
  exact h.agentAnswer hc (by simp [State.mbxReply, hc, ht])

theorem Reaches.agentStatus (h : Reaches s f) (ht : (s.fn f).msgType = 3) (ha : (s.fn f).agent ≠ 0) :
    Machine.agentAnswer s f = s.updFn f fun F => { F.ackIn sOK with
      outWait := F.outWait ++ [{ agent := (s.fn f).agent, words := [0x83, s.agentStatus ((s.fn f).agent - 1), 0, 0, 0, 0, 0, 0] }] } := by
  have hc : s.mbxCode f = sOK := by rw [h.mbxCode, if_pos (Or.inr (Or.inr ⟨ht, ha⟩))]
  exact h.agentAnswer hc (by simp [State.mbxReply, hc, ht])

theorem Reaches.unknown (h : Reaches s f) (ht : (s.fn f).msgType = 0 ∨ 3 < (s.fn f).msgType) :
    Machine.agentAnswer s f = s.updFn f fun F => { F.ackIn sBAD with outWait := F.outWait ++ [] } := by
  have hc : s.mbxCode f = sBAD := by rw [h.mbxCode, if_neg (by omega)]
  exact h.agentAnswer hc (by simp [State.mbxReply, hc, sOK, sBAD])

end Inbound

/-! ### Outbound messages (R348) -/

section Outbound
variable {F : Fn} {m : OutMail} {rest : List OutMail}

/-- A function whose outbound mailbox holds a message (R348). -/
def Fn.mailed (F : Fn) (m : OutMail) (rest : List OutMail) (now : Nat) : Fn :=
  { F with outWait := rest, mbxOut := (List.range m.words.length).zip (m.words.map w32)
           mbxOutCtl := w32 (m.words.length + m.agent * 32 + 256), mbxOutAt := some now }

theorem Fn.postOut_of_waiting (hw : F.outWait = m :: rest) (hf : F.full = false) (now : Nat) :
    F.postOut now = (F.mailed m rest now).ringOut 1 := by
  unfold Fn.postOut
  simp only [hw, hf]
  rfl

theorem Fn.full_takeOut (F : Fn) (code : Nat) : (F.takeOut code).full = false := bit_clear_8 _

theorem Fn.mbxOutAck_takeOut (F : Fn) (code : BitVec 8) : (F.takeOut code.toNat).mbxOutAck = w32 code.toNat := by
  show w32 (code.toNat % 256) = _
  rw [Nat.mod_eq_of_lt code.isLt]

end Outbound

/-- Settles O6: the type of a message that reaches its agent decides its answer; the outbound mailbox is one change of the function. -/
theorem mailboxMessages : Obligations.MailboxMessages := by
  unfold Obligations.MailboxMessages
  refine ⟨?inbound, fun s f => ⟨fun m rest hw hf => ?post, fun code => ?ack, rfl, ?drained⟩⟩
  case inbound =>
    intro s f hgo F acked len hmin hmax hagent hawake
    have h : Reaches s f := ⟨hgo, hmin, hmax, hagent, hawake⟩
    refine ⟨fun ht => ⟨?_, congrArg _ (h.ping ht)⟩, fun ht ha => ?_, fun ht ha => ?_, fun ht => congrArg _ (h.unknown ht)⟩
    · exact congrArg _ ((if_pos ht).trans (h.ping ht))
    · exact congrArg _ ((if_pos ht).trans (h.fnInfo ht ha))
    · exact congrArg _ ((if_pos ht).trans (h.agentStatus ht ha))
  case post =>
    refine ⟨_, rfl, ?_⟩
    rw [State.fn_updFn_self, Fn.postOut_of_waiting hw hf]
    have hbit := Fn.bit_dbOut_ringOut ((s.fn f).mailed m rest s.time) (b := 1) (by omega)
    have heq := Fn.ringOut_eq ((s.fn f).mailed m rest s.time) 1
    exact ⟨by rw [heq]; rfl, by rw [heq]; rfl, by rw [heq]; rfl, by rw [heq]; rfl, hbit, Fn.rings_ringOut _ _, by rw [heq]; rfl,
      fun g hg => State.fn_updFn_ne _ _ _ _ hg, rfl, rfl⟩
  case ack =>
    refine ⟨_, rfl, ?_⟩
    rw [State.fn_updFn_self]
    exact ⟨Fn.full_takeOut _ _, Fn.mbxOutAck_takeOut _ _, rfl, rfl, rfl, fun g hg => State.fn_updFn_ne _ _ _ _ hg, rfl, rfl⟩
  case drained =>
    refine ⟨_, rfl, ?_⟩
    rw [State.fn_updFn_self]
    exact ⟨bit_clear_2 _, fun b hb => bit_clear_2_ne _ hb, State.updFn_congr _ _ rfl⟩

/-! ### The link and the TDI states (R329, R332, R450) -/

section Link
variable {s : State} {rate width : Nat}

/-- A node whose PCIe link has trained. -/
def State.linked (s : State) (rate width : Nat) : State :=
  { s with
    pins := { s.pins with pcieClk := true }
    host := { s.host with linkUp := true, linkRate := rate, linkWidth := width, degraded := decide (rate < 128 ∨ width < 16) } }

theorem pcieLinkTrained_of_may (h : s.pcieMay = true) :
    pcieLinkTrained s rate width =
      if rate < 128 ∨ width < 16 then (s.linked rate width).post 0 { type := 0x0A, p0 := 8 } else s.linked rate width := by
  unfold pcieLinkTrained State.linked
  simp only [h, Bool.not_true, Bool.false_eq_true, if_false, ← Bool.decide_or, decide_eq_true_eq]

theorem Fn.setTdi_of_ne {F : Fn} {v : Nat} (h : F.tdi ≠ v) : F.setTdi v = ({ F with tdi := v } : Fn).ringOut 3 := if_neg h

theorem exec_tdispRequest {f : Fin 64} {toRun : Bool} (hf : f.val ≠ 0) (ht : (s.fn f).tdi = if toRun then 1 else 0) :
    exec (.tdispRequest f toRun) s = .next (s.updFn f fun F => F.setTdi (if toRun then 2 else 1)) := by
  change execTdispRequest f toRun s = _
  cases toRun with
  | false =>
    have ht0 : (s.fn f).tdi = 0 := ht
    simp only [execTdispRequest, hf, ht0, if_false, if_true, Bool.false_eq_true]
  | true =>
    have ht1 : (s.fn f).tdi = 1 := ht
    simp only [execTdispRequest, hf, ht1, if_false, if_true]

end Link

/-- Settles O9: a TDI that moves one state forward changes, so DB_OUT bit 3 is set. -/
theorem hostLinkAndTdi : Obligations.HostLinkAndTdi := by
  unfold Obligations.HostLinkAndTdi
  intro s f rate width
  refine ⟨fun hmay => congrArg Host.Outcome.next (pcieLinkTrained_of_may hmay), ⟨_, rfl, rfl, rfl, rfl, rfl, rfl, rfl, rfl⟩,
    fun toRun hf ht => ?tdi⟩
  case tdi =>
    have hne : (s.fn f).tdi ≠ if toRun then 2 else 1 := by rw [ht]; cases toRun <;> decide
    refine ⟨_, exec_tdispRequest hf ht, ?_⟩
    rw [State.fn_updFn_self, Fn.setTdi_of_ne hne]
    have hbit := Fn.bit_dbOut_ringOut { s.fn f with tdi := if toRun then 2 else 1 } (b := 3) (by omega)
    have heq := Fn.ringOut_eq { s.fn f with tdi := if toRun then 2 else 1 } 3
    exact ⟨by rw [heq], hbit, by rw [heq], Fn.rings_ringOut _ _, fun g hg => State.fn_updFn_ne _ _ _ _ hg, rfl, rfl⟩

end Sys2Proof.Machine
end

section
/-!
PROOFS. Function-level resets and PERST#, and the answers of the host to assist entries (R344, R353, R354, R398, R432).
-/
namespace Sys2Proof

open Sys2Proof.Machine

section
variable {F G : Fn}

theorem FnPosts.tdi (h : FnPosts F G) : G.tdi = F.tdi := by rw [h.1]
theorem FnPosts.outWait (h : FnPosts F G) : G.outWait = F.outWait := by rw [h.1]
theorem FnPosts.epoch (h : FnPosts F G) : G.epoch = F.epoch := by rw [h.1]
theorem FnPosts.admEpoch (h : FnPosts F G) : G.admEpoch = F.admEpoch := by rw [h.1]
theorem FnPosts.go (h : FnPosts F G) : G.go = F.go := by rw [h.1]; rfl
theorem FnPosts.full (h : FnPosts F G) : G.full = F.full := by rw [h.1]; rfl

/-- A function that has only been posted to since it was cleared has no ring. -/
theorem FnPosts.rings_cleared (h : FnPosts F.cleared G) (qid : Nat) : G.rings.look qid = none :=
  Option.map_eq_none_iff.1 ((h.fixed qid).trans rfl)

end

/-- What has been posted since one function changed has been posted since it took its present form. -/
theorem Posts.updFn_const {s t : State} {f : Nat} {g : Fn → Fn} (h : Posts (s.updFn f g) t) : Posts (s.updFn f fun _ => t.fn f) t := by
  refine ⟨h.1, fun n => ?_⟩
  by_cases hn : n = f
  · subst hn; rw [State.fn_updFn_self]; exact FnPosts.refl _
  · have hother := h.2 n
    rw [State.fn_updFn_ne _ _ _ _ hn] at hother ⊢
    exact hother

end Sys2Proof

namespace Sys2Proof.Machine

/-! ### Function-level resets (R353, R354) -/

section Flr
variable {s : State} {f : Nat}

theorem Fn.go_cleared (F : Fn) : F.cleared.go = false := by
  show bit (8 : Word).toNat 8 = false
  decide

theorem Fn.full_cleared (F : Fn) : F.cleared.full = false := by
  show bit (8 : Word).toNat 8 = false
  decide

/-- The count of function-level resets. -/
theorem State.cleared_posts (s : State) (f : Nat) : Posts (s.updFn f Fn.cleared) ((s.updFn f Fn.cleared).count bHQ 0 7) :=
  (Posts.refl _).count _ _ _ _

theorem State.resetFn_of_ne_zero (hf : f ≠ 0) : s.resetFn f = (s.updFn f Fn.cleared).count bHQ 0 7 := if_neg hf

/-- Without assist entries, the reset of F0 clears it and puts every function in hardware form at the next TICK. -/
theorem State.resetFn_zero (ha : s.host.assists = []) :
    s.resetFn 0 = ((s.updFn 0 Fn.cleared).count bHQ 0 7).stage bFMODE 0 0 0 := by
  have hend : ((s.updFn 0 Fn.cleared).count bHQ 0 7).endAssists = (s.updFn 0 Fn.cleared).count bHQ 0 7 := by
    unfold State.endAssists
    rw [(s.cleared_posts 0).assists.trans ha]
    rfl
  exact congrArg (fun u : State => u.stage bFMODE 0 0 0) hend

theorem settle_resetFn (hu : s.unitErrs = []) (hf : f ≠ 0) : settle (s.resetFn f) = (s.updFn f Fn.cleared).count bHQ 0 7 := by
  rw [State.resetFn_of_ne_zero hf, settle_of_no_errors ((s.cleared_posts f).unitErrs.trans hu)]

end Flr

/-! ### PERST# (R398) -/

/-- A function as a reset leaves it: no SQ, no message on its way, and its TDI in CONFIG_UNLOCKED. -/
structure Fn.Idle (F : Fn) : Prop where
  sqs : F.sqs = []
  tdi : F.tdi = 0
  outWait : F.outWait = []

theorem Fn.idle_cleared (F : Fn) : F.cleared.Idle := ⟨rfl, rfl, rfl⟩

theorem Fn.Idle.posts {F G : Fn} (h : F.Idle) (p : FnPosts F G) : G.Idle :=
  ⟨p.sqs.trans h.sqs, p.tdi.trans h.tdi, p.outWait.trans h.outWait⟩

/-- A state `t` that the resets of functions below `n` have made of `s`, on a node without assist entries. -/
structure ResetsBelow (n : Nat) (s t : State) : Prop where
  idle : ∀ k, k < n → (t.fn k).Idle
  assists : t.host.assists = []
  unitErrs : t.unitErrs = s.unitErrs
  quarters : t.quarters = s.quarters
  sec : t.sec = s.sec
  hbm : t.hbm = s.hbm
  time : t.time = s.time

namespace ResetsBelow
variable {n : Nat} {s t u : State}

theorem zero (h : s.host.assists = []) : ResetsBelow 0 s s :=
  ⟨fun _ hk => absurd hk (Nat.not_lt_zero _), h, rfl, rfl, rfl, rfl, rfl⟩

/-- Clearing one more function, and counting it. -/
theorem clear (h : ResetsBelow n s t) : ResetsBelow (n + 1) s ((t.updFn n Fn.cleared).count bHQ 0 7) := by
  have p := t.cleared_posts n
  refine ⟨fun k hk => Fn.Idle.posts ?_ (p.2 k), p.assists.trans h.assists, p.unitErrs.trans h.unitErrs, p.quarters.trans h.quarters,
    p.sec.trans h.sec, p.hbm.trans h.hbm, p.time.trans h.time⟩
  by_cases hkn : k = n
  · subst hkn; rw [State.fn_updFn_self]; exact Fn.idle_cleared _
  · rw [State.fn_updFn_ne _ _ _ _ hkn]; exact h.idle k (by omega)

theorem stage (h : ResetsBelow n s t) (c q o v : Nat) : ResetsBelow n s (t.stage c q o v) :=
  ⟨h.idle, h.assists, h.unitErrs, h.quarters, h.sec, h.hbm, h.time⟩

theorem step (h : ResetsBelow n s t) : ResetsBelow (n + 1) s (t.resetFn n) := by
  by_cases hn : n = 0
  · subst hn
    rw [State.resetFn_zero h.assists]
    exact h.clear.stage _ _ _ _
  · rw [State.resetFn_of_ne_zero hn]
    exact h.clear

theorem foldl (h : s.host.assists = []) (n : Nat) : ResetsBelow n s ((List.range n).foldl (fun s f => s.resetFn f) s) := by
  induction n with
  | zero => exact zero h
  | succ n ih => rw [List.range_succ, List.foldl_append]; exact ih.step

end ResetsBelow

/-- The reset of F0 stages the hardware form of every function, and the resets of the others leave what is staged. -/
theorem pendingAt_foldl_resetFn {s : State} (h : s.host.assists = []) (n : Nat) :
    ((List.range (n + 1)).foldl (fun s f => s.resetFn f) s).pendingAt bFMODE 0 0 = some 0 := by
  induction n with
  | zero =>
    show (s.resetFn 0).pendingAt bFMODE 0 0 = some 0
    rw [State.resetFn_zero h]
    unfold State.pendingAt State.stage
    rw [Tab.look_put_self]
    rfl
  | succ n ih =>
    rw [List.range_succ, List.foldl_append]
    show (State.resetFn _ (n + 1)).pendingAt bFMODE 0 0 = some 0
    rw [State.resetFn_of_ne_zero (Nat.succ_ne_zero n)]
    unfold State.pendingAt at ih ⊢
    rwa [(State.cleared_posts _ (n + 1)).staged]

/-- The link falls, and the phase "PCIe up" is to run again. -/
def State.dropPcie (s : State) : State :=
  { s with host := { s.host with linkUp := false, configOk := false }, boot := { s.boot with pcieDone := false } }

/-- PERST# resets every function and drops the link. -/
theorem exec_perst {s : State} (hp : s.pins.mainPg = true) (ha : s.host.assists = []) (hu : s.unitErrs = []) :
    ∃ t, ResetsBelow 64 s t ∧ t.pendingAt bFMODE 0 0 = some 0 ∧ exec .perst s = .next t.dropPcie := by
  have h := ResetsBelow.foldl ha 64
  have hmode := pendingAt_foldl_resetFn ha 63
  have heq : perst s = ((List.range 64).foldl (fun s f => s.resetFn f) s).dropPcie := by unfold perst State.dropPcie; rfl
  generalize (List.range 64).foldl (fun s f => s.resetFn f) s = t at h hmode heq
  refine ⟨t, h, hmode, ?_⟩
  change execPerst s = _
  unfold execPerst
  rw [if_pos hp, heq, settle_of_no_errors (s := t.dropPcie) (h.unitErrs.trans hu)]

/-- Settles O8: a reset clears its function and counts; PERST# resets the functions in their order, F0 first. -/
theorem functionResets : Obligations.FunctionResets := by
  unfold Obligations.FunctionResets
  intro s f hu
  refine ⟨fun hf => ?flr, fun hf ht => congrArg Host.Outcome.next (if_pos ⟨hf, ht⟩), fun hp ha => ?perst⟩
  case flr =>
    have hposts := s.cleared_posts f
    have hfn := hposts.2 f
    rw [State.fn_updFn_self] at hfn
    have hepoch : (s.fn f).epoch + (s.fn f).admEpoch < (((s.updFn f Fn.cleared).count bHQ 0 7).fn f).epoch := by
      rw [hfn.epoch]; exact Nat.lt_succ_self _
    exact ⟨_, congrArg Host.Outcome.next (settle_resetFn hu hf), hfn.sqs, hfn.outWait, hfn.tdi, hfn.go.trans (Fn.go_cleared _),
      hfn.full.trans (Fn.full_cleared _), hepoch, hfn.admEpoch, hfn.rings_cleared, hposts.updFn_const⟩
  case perst =>
    obtain ⟨t, h, hmode, heq⟩ := exec_perst hp ha hu
    have hready : t.dropPcie.ready = false := by simp [State.ready, State.dropPcie]
    exact ⟨_, heq, rfl, rfl, rfl, hready, fun n hn => ⟨(h.idle n hn).sqs, (h.idle n hn).tdi, (h.idle n hn).outWait⟩,
      hmode, h.quarters, h.sec, h.hbm, h.time⟩

/-! ### Answers of the host (R344, R432) -/

section Assist
variable {s : State} {h : HostCmd} {b : Bytes} {e : Assist} {tag : Nat}

theorem exec_assistReply (hc : hostCheck s h 0x47 b = none) :
    exec (.assistReply h b) s = .next (settle (assistReply (s.take (.host h) 0x47 b).2 h b)) := by
  change execAssistReply h b s = _
  simp only [execAssistReply, hostCheck_take, hc]

@[simp] theorem State.take_assistOf (o : Origin) (op : Nat) (b : Bytes) : (s.take o op b).2.assistOf tag = s.assistOf tag := by
  unfold State.assistOf; rw [State.take_host]

/-- An ASSIST_REPLY body with every field in its range. -/
structure AssistBody (b : Bytes) : Prop where
  length : 8 ≤ b.length
  mode : byteAt b 5 < 2
  reserved : zeroRange b 6 8 = true

theorem AssistBody.good (hb : AssistBody b) : ¬ (b.length < 8 ∨ byteAt b 5 ≥ 2 ∨ (!zeroRange b 6 8) = true) := by
  obtain ⟨hlen, hmode, hres⟩ := hb
  simp only [hres, Bool.not_true, Bool.false_eq_true, or_false]
  omega

theorem assistReply_of_gone (hb : AssistBody b) (ha : s.assistOf (fieldAt b 0 4) = none) : assistReply s h b = s.complete h sSTALE := by
  unfold assistReply
  rw [if_neg hb.good]
  simp only [ha]

theorem assistReply_of_pull (hb : AssistBody b) (ha : s.assistOf (fieldAt b 0 4) = some e) (hm : byteAt b 5 = 1) :
    assistReply s h b = s.complete h sOK 0 e.data := by
  unfold assistReply
  rw [if_neg hb.good]
  simp only [ha, hm, if_true]

theorem assistReply_of_answer (hb : AssistBody b) (ha : s.assistOf (fieldAt b 0 4) = some e) (hm : byteAt b 5 = 0) :
    assistReply s h b = ((s.endAssist (fieldAt b 0 4)).assistDone e.purpose (some (byteAt b 4, b.drop 8))).complete h sOK := by
  unfold assistReply
  rw [if_neg hb.good]
  simp only [ha, hm, Nat.zero_ne_one, if_false]

/-- A reply that only completes its command needs no further step of the node. -/
theorem exec_assistReply_of_complete (hc : hostCheck s h 0x47 b = none) (hu : s.unitErrs = []) {st : Nat} {r : Bytes}
    (hr : assistReply (s.take (.host h) 0x47 b).2 h b = (s.take (.host h) 0x47 b).2.complete h st 0 r) :
    exec (.assistReply h b) s = .next ((s.take (.host h) 0x47 b).2.complete h st 0 r) := by
  have herrs : ((s.take (.host h) 0x47 b).2.complete h st 0 r).unitErrs = [] :=
    ((Reports.refl _).complete h st 0 r).unitErrs.trans ((State.take_unitErrs _ _ _ _).trans hu)
  rw [exec_assistReply hc, hr, settle_of_no_errors herrs]

/-- No entry waits under a tag that has ended. -/
theorem State.assistOf_endAssist (s : State) (tag : Nat) : (s.endAssist tag).assistOf tag = none := by
  unfold State.assistOf State.endAssist
  rw [List.find?_eq_none]
  intro a ha
  simpa using (List.mem_filter.1 ha).2

theorem exec_assistTimeout (ha : s.assistOf tag = some e) :
    exec (.assistTimeout tag) s = .next (settle ((s.advance (e.posted + s.assistNs)).assistOut e)) := by
  change execAssistTimeout tag s = _
  simp only [execAssistTimeout, ha]

/-- The entry that is found under a tag has it. -/
theorem State.tag_of_assistOf (ha : s.assistOf tag = some e) : e.tag = tag := by
  simpa using List.find?_some ha

end Assist

/-- Settles O14: whether the tag names a waiting entry, and then the mode of the reply, decide; a timeout counts after the entry has
gone. -/
theorem assistAnswers : Obligations.AssistAnswers := by
  unfold Obligations.AssistAnswers
  refine ⟨?reply, fun s tag e ha => ?timeout⟩
  case reply =>
    intro s h b hu hc hlen hmode hres u
    have hb : AssistBody b := ⟨hlen, hmode, hres⟩
    have hof : u.assistOf (fieldAt b 0 4) = s.assistOf (fieldAt b 0 4) := State.take_assistOf _ _ _
    refine ⟨fun ha => ?_, fun e ha hm => ?_, fun e ha hm => ?_⟩
    · exact ⟨_, exec_assistReply_of_complete hc hu (assistReply_of_gone hb (hof.trans ha)), complete_answered _ _ _ _ _⟩
    · have hassists := ((Reports.refl u).complete h sOK 0 e.data).assists
      refine ⟨_, exec_assistReply_of_complete hc hu (assistReply_of_pull hb (hof.trans ha) hm), complete_answered _ _ _ _ _,
        hassists.trans (congrArg HostIf.assists (State.take_host _ _ _ _)), fun hans hf hl => ?_⟩
      rw [State.hostMem_complete hans hf hl, State.take_hostMem]
    · rw [exec_assistReply hc, assistReply_of_answer hb (hof.trans ha) hm]
      rfl
  case timeout =>
    have hposts : Posts ((s.advance (e.posted + s.assistNs)).endAssist e.tag) _ := (Posts.refl _).count bHQ 0 5 1
    refine ⟨_, exec_assistTimeout ha, ?_, hposts.time, ?_⟩
    · have htag := State.tag_of_assistOf ha
      have hgone : ((s.advance (e.posted + s.assistNs)).endAssist e.tag).assistOf tag = none := by
        rw [htag]; exact State.assistOf_endAssist _ _
      unfold State.assistOf at hgone ⊢
      rwa [hposts.assists]
    · rw [hposts.time, hposts.assists]
      exact hposts

end Sys2Proof.Machine
end

section
/-!
PROOFS. What a register address names, and counters with their latches (R355, R365, R366, Tables 13-1, 13-5).
-/
namespace Sys2Proof.Machine

/-! ### Words -/

@[simp] theorem w32_toNat (v : Word) : w32 v.toNat = v := by simp [w32]

/-! ### What an address names -/

/-- A counter's or an accumulator's word lies between its block's copies of registers and its holding copies. -/
theorem off_of_count {c q o code p off : Nat} (h : blockPlace c q o = .count code p off) :
    c = code ∧ q = p ∧ o = off ∧ 0x4000 ≤ off ∧ off < 0x8000 ∧ (isCounterOff code off || isMeterOff code off) = true := by
  unfold blockPlace at h
  dsimp only at h
  split_ifs at h with h1 h2 h3 h4 h5 h6 h7 h8
  obtain ⟨rfl, rfl, rfl⟩ : c = code ∧ q = p ∧ o = off := by simpa using h
  exact ⟨rfl, rfl, rfl, by omega, by omega, h6⟩

/-- The offset in a block is what is left of an address within 64 KiB. -/
theorem off_of_blockOf {a c q off : Nat} (h : blockOf a = some (c, q, off)) : off = a % 0x10000 := by
  unfold blockOf at h
  dsimp only at h
  split_ifs at h with h1 h2 h3
  · simp only [Option.some.injEq, Prod.mk.injEq] at h
    omega
  · simp only [Option.some.injEq, Prod.mk.injEq] at h
    omega

/-- An address of F0's that names a word of a counter block. -/
theorem count_of_placeOf {a code q off : Nat} (h : placeOf 0 a = .count code q off) :
    a % 0x10000 = off ∧ 0x4000 ≤ off ∧ off < 0x8000 ∧ (isCounterOff code off || isMeterOff code off) = true := by
  unfold placeOf at h
  rw [if_pos rfl] at h
  split_ifs at h with h1 h2
  · cases h
  · split at h
    next c p o hb =>
      obtain ⟨rfl, rfl, rfl, hlo, hhi, hkind⟩ := off_of_count h
      exact ⟨(off_of_blockOf hb).symm, hlo, hhi, hkind⟩
    next => cases h

/-- No statistics counter lies where BOOT has its accumulators. -/
theorem isMeterOff_of_counter {code off d : Nat} (h : isCounterOff code off = true) (hd : d < 8) : isMeterOff code (off + d) = false := by
  by_cases hc : code = 3
  · subst hc
    simp only [isCounterOff, counterRanges, List.any_cons, List.any_nil, Bool.or_false, Bool.and_eq_true, decide_eq_true_eq,
      if_true] at h
    simp only [isMeterOff, beq_self_eq_true, Bool.true_and, Bool.and_eq_false_iff, decide_eq_false_iff_not]
    omega
  · simp [isMeterOff, hc]

/-! ### Counters (R365, R366) -/

section Counters
variable {s u : State} {code q off : Nat}

/-- The pair at a counter's word +0 is the counter, unless confidential operation hides it. -/
theorem State.pairAt_counter (hoff : off % 8 = 0) (hc : isCounterOff code off = true) (hlo : 0x4000 ≤ off)
    (hconf : (isTenantCounter code off && s.sec.conf) = false) :
    s.pairAt code q off = some (s.counter (blockBase code q + off)).raw := by
  have hm : isMeterOff code off = false := isMeterOff_of_counter (d := 0) hc (by decide)
  unfold State.pairAt
  simp only [hoff, hconf, hm, hc, ne_eq, not_true_eq_false, if_false, Bool.false_eq_true, if_neg (Nat.not_lt.2 hlo), if_true]

/-- A word of a counter block is read wherever the Quarter is, even in Q-OFF (R372). -/
theorem counterRead_of_count {a p o : Nat} (h : placeOf 0 a = .count code p o) :
    counterRead s 0 a = s.pairRead 0 a ((s.pairAt code p (o / 8 * 8)).getD 0) := by
  obtain ⟨hmod, hlo, -, -⟩ := count_of_placeOf h
  have hreads : (s.placeOff (.count code p o) && decide (a % 0x10000 < 0x4000)) = false := by
    rw [hmod, decide_eq_false (Nat.not_lt.2 hlo), Bool.and_false]
  unfold counterRead
  simp only [h, hreads, Bool.false_eq_true, if_false]
  split
  next v hv => rw [hv]
  next hv => rw [hv]

/-- A read of word +0 latches word +4 (R365). -/
theorem State.pairRead_low {f a : Nat} (ha : a % 8 = 0) (v : Nat) :
    s.pairRead f a v = { s with regs := { s.regs with
      readData := w32 v, latch := s.regs.latch.put f { addr := a, hi := w32 (v / 2 ^ 32) } } } := by
  unfold State.pairRead
  rw [if_pos ha]
  rfl

/-- A read of word +4 whose word +0 the requester has latched returns what was latched. -/
theorem State.pairRead_high {f a : Nat} {hi : Word} (ha : a % 8 = 0) (hl : s.regs.latch.look f = some { addr := a, hi := hi }) (v : Nat) :
    s.pairRead f (a + 4) v = { s with regs := { s.regs with readData := hi } } := by
  unfold State.pairRead
  rw [if_neg (by omega), hl]
  simp only [if_true]
  rfl

theorem State.clearOvf_counter (hoff : off % 8 = 0) (hc : isCounterOff code (off + 4) = true) :
    s.clearOvf code q (off + 4) =
      if (s.counter (blockBase code q + off)).ovf then s.setCounter (blockBase code q + off) {} else s := by
  have hbase : (off + 4) / 8 * 8 = off := by omega
  have hword : (off + 4) % 8 = 4 := by omega
  unfold State.clearOvf
  simp [hbase, hword, hc]

/-- A write of OVF clears the counter whose word +4 it names. -/
theorem wordWrite_ovf {a : Nat} (h : placeOf 0 a = .count code q off) (hon : (RegPlace.count code q off).quarter.any s.qOff = false) :
    s.wordWrite 0 a 0x80000000 = s.clearOvf code q off := by
  have hoff : s.placeOff (.count code q off) = false := by
    unfold State.placeOff
    cases hq : (RegPlace.count code q off).quarter with
    | none => rfl
    | some p => rw [hq] at hon; exact hon
  unfold State.wordWrite
  rw [h]
  simp only [hoff, Bool.false_eq_true, if_false]
  exact if_pos (by decide)

end Counters

/-! ### Saturation (R366) -/

section Saturation
variable {c : Counter} {k : Nat}

theorem Counter.add_below (h : c.n + k < 2 ^ 48 - 1) : c.add k = ({ c with n := c.n + k }, false) := by
  unfold Counter.add ctrTop
  rw [if_neg (by omega), if_neg (by omega)]

theorem Counter.add_reaches (hn : c.n < 2 ^ 48 - 1) (h : 2 ^ 48 - 1 ≤ c.n + k) : c.add k = ({ n := 2 ^ 48 - 1, ovf := true }, true) := by
  unfold Counter.add ctrTop
  rw [if_pos ⟨h, hn⟩]

theorem Counter.add_full (h : c.n = 2 ^ 48 - 1) : c.add k = (c, false) := by
  unfold Counter.add ctrTop
  rw [if_neg (by omega), if_pos (by omega)]

theorem Counter.add_lt (h : c.n < 2 ^ 48) : (c.add k).1.n < 2 ^ 48 := by
  by_cases hfull : c.n = 2 ^ 48 - 1
  · rw [Counter.add_full hfull]; exact h
  · by_cases hbelow : c.n + k < 2 ^ 48 - 1
    · rw [Counter.add_below hbelow]; exact Nat.lt_of_lt_of_le hbelow (by decide)
    · rw [Counter.add_reaches (by omega) (by omega)]; decide

end Saturation

/-- Settles O11: the two reads of a pair and the write of OVF by what their addresses name, and the sum by the three ranges of R366. -/
theorem countersCount : Obligations.CountersCount := by
  unfold Obligations.CountersCount
  refine ⟨?pair, fun c k hn => ⟨Counter.add_below, Counter.add_reaches, Counter.add_full, Counter.add_lt hn⟩⟩
  intro s code q off a hoff hc hlo hhi hconf
  refine ⟨?latched, fun hu hon => ?cleared⟩
  case latched =>
    obtain ⟨hmod, hge, -, -⟩ := count_of_placeOf hlo
    have ha : a % 8 = 0 := by omega
    have hread : counterRead s 0 a = s.pairRead 0 a (s.counter a).raw := by
      rw [counterRead_of_count hlo, show off / 8 * 8 = off by omega, State.pairAt_counter hoff hc hge hconf]
      rfl
    refine ⟨_, congrArg Host.Outcome.next (hread.trans (State.pairRead_low ha _)), rfl, rfl, fun u hu => ?_⟩
    exact congrArg Host.Outcome.next ((counterRead_of_count hhi).trans
      (State.pairRead_high ha (hu.trans (Tab.look_put_self _ _ _)) _))
  case cleared =>
    obtain ⟨-, -, -, hkind⟩ := count_of_placeOf hhi
    rw [isMeterOff_of_counter hc (by decide), Bool.or_false] at hkind
    have hwrite := (wordWrite_ovf hhi hon).trans (State.clearOvf_counter hoff hkind)
    have herrs : (if (s.counter a).ovf then s.setCounter a {} else s).unitErrs = [] := by split <;> exact hu
    show Host.Outcome.next (settle (s.wordWrite 0 (a + 4) 0x80000000)) = _
    rw [hwrite, settle_of_no_errors herrs]

end Sys2Proof.Machine
end

section
/-!
PROOFS. Function modes and snapshots (R367, R368, R375, R376).
-/
namespace Sys2Proof

/-- Putting entries that do not name a key leaves what it reads. -/
theorem Tab.look_foldl_put_of_none {α : Type} {k : Nat} {l : Tab α} (h : Tab.look k l = none) (t : Tab α) :
    Tab.look k (l.foldl (fun t e => Tab.put e.1 e.2 t) t) = Tab.look k t := by
  induction l generalizing t with
  | nil => rfl
  | cons e l ih =>
    by_cases hk : k = e.1
    · simp [Tab.look, hk] at h
    · rw [List.foldl_cons, ih (by simpa [Tab.look, hk] using h), Tab.look_put_ne _ _ _ _ hk]

/-- Reports touch no register but the counters. -/
theorem Reports.regs {s t : Machine.State} (h : Reports s t) : t.regs = { s.regs with cnt := t.regs.cnt } := congrArg Machine.State.regs h.1

theorem Posts.regs {s t : Machine.State} (h : Posts s t) : t.regs = { s.regs with cnt := t.regs.cnt } := h.reports.regs

end Sys2Proof

namespace Sys2Proof.Machine

/-! ### Staging (R362) -/

theorem State.pendingAt_stage (s : State) (c q o v : Nat) : (s.stage c q o v).pendingAt c q o = some (w32 v).toNat := by
  simp [State.pendingAt, State.stage, Tab.look_put_self]

@[simp] theorem State.stage_regVal (s : State) (c q o v : Nat) : (s.stage c q o v).regs.val = s.regs.val := rfl

@[simp] theorem State.pendingAt_take (s : State) (o : Origin) (op : Nat) (b : Bytes) (c q off : Nat) :
    (s.take o op b).2.pendingAt c q off = s.pendingAt c q off := by
  obtain ⟨l, hl⟩ := s.take_changes_inbox o op b; rw [hl]; rfl

@[simp] theorem State.take_time (s : State) (o : Origin) (op : Nat) (b : Bytes) : (s.take o op b).2.time = s.time := by
  obtain ⟨l, hl⟩ := s.take_changes_inbox o op b; rw [hl]

@[simp] theorem State.take_fmodeDenied (s : State) (o : Origin) (op : Nat) (b : Bytes) :
    (s.take o op b).2.fmodeDenied = s.fmodeDenied := by
  obtain ⟨l, hl⟩ := s.take_changes_inbox o op b; rw [hl]

/-! ### Function modes (R375, R376) -/

section Modes
variable {s : State} {v : Word}

/-- The bits of a write of FMODE_MODE that confidential operation denies. -/
def State.modesDenied (s : State) (v : Word) : Word := if s.sec.conf then v &&& 0x42 else 0

/-- A write of FMODE_MODE notes what is denied and stages the rest. -/
theorem fmodeModeWrite_eq (s : State) (v : Word) :
    fmodeModeWrite s v.toNat =
      ({ s with fmodeDenied := (w32 s.fmodeDenied ||| s.modesDenied v).toNat }).stage bFMODE 0 0
        ((v &&& 0x7FF) &&& ~~~ s.modesDenied v).toNat := by
  unfold fmodeModeWrite State.modesDenied
  rw [w32_toNat]

theorem pendingAt_fmodeModeWrite (s : State) (v : Word) :
    (fmodeModeWrite s v.toNat).pendingAt bFMODE 0 0 = some ((v &&& 0x7FF) &&& ~~~ s.modesDenied v).toNat := by
  rw [fmodeModeWrite_eq, State.pendingAt_stage, w32_toNat]

/-- Taking out of some bits of a word those that it has among others. -/
theorem and_and_not_and (v a b : Word) : (v &&& a) &&& ~~~ (v &&& b) = v &&& (a &&& ~~~ b) := by
  ext i
  simp only [BitVec.getElem_and, BitVec.getElem_not]
  cases v[i] <;> simp

theorem modes_staged_open (h : s.sec.conf = false) : (v &&& 0x7FF) &&& ~~~ s.modesDenied v = v &&& 0x7FF := by
  have hall : ~~~ (0 : Word) = BitVec.allOnes 32 := by decide
  rw [State.modesDenied, if_neg (by rw [h]; decide), hall, BitVec.and_allOnes]

theorem modes_staged_confidential (h : s.sec.conf = true) : (v &&& 0x7FF) &&& ~~~ s.modesDenied v = v &&& 0x7BD := by
  have hmask : (0x7FF : Word) &&& ~~~ 0x42 = 0x7BD := by decide
  rw [State.modesDenied, if_pos h, and_and_not_and, hmask]

/-- PARAM of FUNC_MODE names existing indices, and its reserved bytes are zero. -/
structure ModeParam (p : Bytes) : Prop where
  mask : fieldAt p 0 2 < 2048
  value : fieldAt p 2 2 < 2048
  reserved : zeroRange p 4 16 = true

theorem ModeParam.good {p : Bytes} (h : ModeParam p) : ¬ (fieldAt p 0 2 ≥ 2048 ∨ fieldAt p 2 2 ≥ 2048 ∨ (!zeroRange p 4 16) = true) := by
  obtain ⟨hm, hv, hz⟩ := h
  simp only [hz, Bool.not_true, Bool.false_eq_true, or_false]
  omega

variable {h : HostCmd} {p : Bytes}

theorem exec_funcMode (hc : hostCheck s h 0x46 p = none) :
    exec (.funcMode h p) s = .next (funcMode (s.take (.host h) 0x46 p).2 h p) := by
  change execFuncMode h p s = _
  simp only [execFuncMode, hostCheck_take, hc]

theorem funcMode_denied (hp : ModeParam p) (hconf : s.sec.conf = true)
    (hbits : w32 (fieldAt p 0 2) &&& w32 (fieldAt p 2 2) &&& 0x42 ≠ 0) : funcMode s h p = s.complete h sDENIED := by
  unfold funcMode
  rw [if_neg hp.good, if_pos ⟨hconf, hbits⟩]

/-- The modes staged by FUNC_MODE: those of its mask from its value, the others from what is staged, or else in effect. -/
def State.modesMasked (s : State) (p : Bytes) : Word :=
  (w32 ((s.pendingAt bFMODE 0 0).getD (s.reg bFMODE 0 0)) &&& ~~~ (w32 (fieldAt p 0 2))) |||
    (w32 (fieldAt p 2 2) &&& w32 (fieldAt p 0 2))

theorem funcMode_stages (hp : ModeParam p)
    (hbits : s.sec.conf = false ∨ w32 (fieldAt p 0 2) &&& w32 (fieldAt p 2 2) &&& 0x42 = 0) :
    funcMode s h p =
      (let u := s.stage bFMODE 0 0 (s.modesMasked p).toNat
       { u with host := { u.host with funcModeWait := u.host.funcModeWait ++ [h] } }) := by
  unfold funcMode
  rw [if_neg hp.good, if_neg]
  · rfl
  · rintro ⟨hconf, hne⟩
    rcases hbits with hb | hb
    · rw [hb] at hconf; cases hconf
    · exact hne hb

end Modes

/-- Settles O13: what a write of the register stages, and when FUNC_MODE stages or is refused. -/
theorem functionModesAreStaged : Obligations.FunctionModesAreStaged := by
  unfold Obligations.FunctionModesAreStaged
  refine ⟨fun s v => ?write, fun s h p hc hm hv hz => ?command⟩
  case write =>
    have hpend := pendingAt_fmodeModeWrite s v
    have hrun := fmodeModeWrite_eq s v
    refine ⟨_, rfl, by rw [hrun]; rfl, by rw [hrun]; rfl, by rw [hrun]; rfl, fun hconf => ⟨?_, ?_⟩, fun hconf => ⟨?_, ?_⟩⟩
    · rw [hpend, modes_staged_open hconf]
    · rw [hrun]
      simp [State.modesDenied, hconf]
    · rw [hpend, modes_staged_confidential hconf]
    · rw [hrun]
      simp [State.modesDenied, hconf]
  case command =>
    have hp : ModeParam p := ⟨hm, hv, hz⟩
    refine ⟨fun hconf hbits => ?denied, fun hbits => ?staged⟩
    case denied =>
      have hrun := exec_funcMode hc
      rw [funcMode_denied hp (by rw [State.take_sec]; exact hconf) hbits] at hrun
      exact ⟨_, hrun, complete_answered _ _ _ _ _⟩
    case staged =>
      have hrun := exec_funcMode hc
      rw [funcMode_stages hp (by rw [State.take_sec]; exact hbits)] at hrun
      refine ⟨_, hrun, ?_, ?_, ?_, ?_, ?_, ?_⟩
      · refine (State.pendingAt_stage _ _ _ _ _).trans ?_
        rw [w32_toNat, State.modesMasked, State.pendingAt_take, State.reg, State.take_regs]
        rfl
      all_goals simp

/-! ### Snapshots (R367, R368) -/

section Snapshots
variable {s : State} {v : Nat} {bl : List Nat}

theorem snapshotRegStart_starts (hseq : bits v 31 16 ≠ bits (s.reg bSNAP 0 0) 31 16) (hb : s.regs.snap.busy = false)
    (hbl : snapScope v = some bl) :
    snapshotRegStart s v =
      (let u := s.setReg bSNAP 0 0 (w32 v &&& 0xFFFFFF0F).toNat
       ({ u with regs := { u.regs with snap := { u.regs.snap with refused := false } } }).startSnap bl none (bits v 31 16)) := by
  have hb' : ¬ s.regs.snap.busy = true := by rw [hb]; decide
  unfold snapshotRegStart
  simp only [if_neg hseq.symm, if_neg hb', hbl]

/-- A refused start is counted and noted. -/
def State.refuseSnap (s : State) (n : Nat) : State :=
  let s := (s.count bGLB 0 6).accError 7 0 (blockBase bSNAP 0)
  { s with regs := { s.regs with snap := { s.regs.snap with refused := true, doneSeq := n } } }

theorem snapshotRegStart_refused (hseq : bits v 31 16 ≠ bits (s.reg bSNAP 0 0) 31 16) (hb : s.regs.snap.busy = true) :
    snapshotRegStart s v = s.refuseSnap (bits v 31 16) := by
  unfold snapshotRegStart
  simp only [if_neg hseq.symm, if_pos hb]
  rfl

variable {h : HostCmd} {p : Bytes}

theorem exec_snapshot (hc : hostCheck s h 0x4A p = none) :
    exec (.snapshot h p) s = .next (snapshotCmd (s.take (.host h) 0x4A p).2 h p) := by
  change execSnapshot h p s = _
  simp only [execSnapshot, hostCheck_take, hc]

theorem snapshotCmd_starts (hbl : snapScope (fieldAt p 0 2) = some bl) (hz : bits (fieldAt p 0 2) 7 4 = 0)
    (hb : s.regs.snap.busy = false) : snapshotCmd s h p = s.startSnap bl (some h) 0 := by
  have hb' : ¬ s.regs.snap.busy = true := by rw [hb]; decide
  unfold snapshotCmd
  simp only [hbl, if_neg (not_not.2 hz), if_neg hb']

theorem snapshotCmd_waits (hbl : snapScope (fieldAt p 0 2) = some bl) (hz : bits (fieldAt p 0 2) 7 4 = 0)
    (hb : s.regs.snap.busy = true) :
    snapshotCmd s h p = { s with regs := { s.regs with snap :=
      { s.regs.snap with waiting := s.regs.snap.waiting ++ [(h, fieldAt p 0 2)] } } } := by
  unfold snapshotCmd
  simp only [hbl, if_neg (not_not.2 hz), if_pos hb]

/-! The end of a capture -/

/-- The snapshot registers when a capture has ended. -/
def Snap.over (sn : Snap) : Snap :=
  { sn with
    busy := false, number := nextSnapNo sn.number, lastTime := sn.time, byCmd := none, captured := []
    doneSeq := if sn.byCmd.isNone then sn.seqRunning else sn.doneSeq }

/-- The state with the captured values in the holding copies of their blocks. -/
def State.captureHeld (s : State) : State :=
  let sn := s.regs.snap
  { s with regs := { s.regs with
    hold := sn.captured.foldl (fun t e => Tab.put e.1 e.2 t) (s.regs.hold.filter fun e => !sn.blocks.contains (baseOf e.1))
    snapNo := sn.blocks.foldl (fun t b => Tab.put b (nextSnapNo sn.number) t) s.regs.snapNo
    snap := sn.over } }

/-- A holding copy of another block, for which nothing was captured, stays. -/
theorem State.hold_captureHeld {a : Nat} (hb : s.regs.snap.blocks.contains (baseOf a) = false)
    (hc : s.regs.snap.captured.look a = none) : s.captureHeld.regs.hold.look a = s.regs.hold.look a :=
  (Tab.look_foldl_put_of_none hc _).trans (Tab.look_filter_pos fun _ => by rw [hb]; rfl)

/-- The state with a capture ended and counted. -/
def State.captureOver (s : State) : State := s.captureHeld.count bGLB 0 5

theorem State.captureOver_posts (s : State) : Posts s.captureHeld s.captureOver := (Posts.refl _).count _ _ _ _

/-- The command that started a capture completes with its number. -/
def State.captureAnswered (s : State) : State :=
  match s.regs.snap.byCmd with
  | some h => s.captureOver.complete h sOK (nextSnapNo s.regs.snap.number)
  | none => s.captureOver

/-- The first command that waits for the snapshot engine starts. -/
def State.nextSnap (s : State) : State :=
  match s.regs.snap.waiting with
  | [] => s
  | (h, ctl) :: rest =>
    let s := { s with regs := { s.regs with snap := { s.regs.snap with waiting := rest } } }
    s.startSnap ((snapScope ctl).getD []) (some h) 0

theorem snapshotDone_eq (hb : s.regs.snap.busy = true) : snapshotDone s = s.captureAnswered.nextSnap := by
  unfold snapshotDone
  rw [if_neg (by rw [hb]; decide)]
  rfl

theorem State.captureAnswered_reports (s : State) : Reports s.captureHeld s.captureAnswered := by
  unfold State.captureAnswered
  split
  · exact s.captureOver_posts.reports.complete _ _ _ _
  · exact s.captureOver_posts.reports

/-- With no command waiting, the end of a capture answers and starts nothing. -/
theorem snapshotDone_of_last (hb : s.regs.snap.busy = true) (hw : s.regs.snap.waiting = []) : snapshotDone s = s.captureAnswered := by
  have hwait : s.captureAnswered.regs.snap.waiting = [] := by
    rw [s.captureAnswered_reports.snap]; exact hw
  rw [snapshotDone_eq hb, State.nextSnap, hwait]

theorem State.captureAnswered_of_command (hh : s.regs.snap.byCmd = some h) :
    s.captureAnswered = s.captureOver.complete h sOK (nextSnapNo s.regs.snap.number) := by
  rw [State.captureAnswered, hh]

/-- What reports follow a capture leave its records. -/
theorem State.regs_of_captureHeld {t : State} (h : Reports s.captureHeld t) : { t.regs with cnt := s.regs.cnt } = s.captureHeld.regs := by
  rw [h.regs]
  rfl

end Snapshots

/-- Settles O12: a start by the register and by a command, and the end of a capture. -/
theorem snapshots : Obligations.Snapshots := by
  unfold Obligations.Snapshots
  refine ⟨fun s v hseq => ⟨fun bl hb hbl => ?starts, fun hb => ?refused⟩, fun s h p bl hc hbl hz => ?command, fun s hb hw => ?done⟩
  case starts =>
    have hrun := snapshotRegStart_starts hseq hb hbl
    exact ⟨_, congrArg Host.Outcome.next hrun, rfl, rfl, rfl, rfl, rfl, rfl, rfl, rfl, rfl, rfl, rfl⟩
  case refused =>
    have hp : Posts s (s.count bGLB 0 6) := (Posts.refl s).count _ _ _ _
    refine ⟨_, congrArg Host.Outcome.next (snapshotRegStart_refused hseq hb), ?_, rfl, ?_, ?_, hp.quarters⟩
    · exact (congrArg Snap.busy hp.snap :).trans hb
    · exact (congrArg Snap.captured hp.snap :)
    · exact (congrArg RegFile.hold hp.regs :)
  case command =>
    have hrun := exec_snapshot hc
    cases hb : s.regs.snap.busy with
    | false =>
      rw [snapshotCmd_starts hbl hz (by rw [State.take_regs]; exact hb)] at hrun
      refine ⟨_, hrun, rfl, ?_, ?_, ?_, ?_, fun _ => ⟨rfl, rfl, State.take_time _ _ _ _⟩, nofun⟩
      all_goals simp [State.startSnap]
    | true =>
      rw [snapshotCmd_waits hbl hz (by rw [State.take_regs]; exact hb)] at hrun
      refine ⟨_, hrun, ?_, ?_, ?_, ?_, ?_, nofun, fun _ => ?_⟩
      all_goals simp [hb]
  case done =>
    have hr := s.captureAnswered_reports
    have hsnap : s.captureAnswered.regs.snap = s.regs.snap.over := hr.snap
    refine ⟨s.captureAnswered, s.captureOver, congrArg Host.Outcome.next (snapshotDone_of_last hb hw), ?_, ?_, ?_, fun a hbl hcap => ?_,
      fun hn => ?_, fun h hh => ⟨?_, ?_⟩, hr.quarters, hr.sec, hr.time⟩
    · rw [hsnap]; rfl
    · rw [hsnap]; rfl
    · rw [hsnap]; rfl
    · rw [hr.regs]
      exact State.hold_captureHeld hbl hcap
    · rw [hsnap, Snap.over, hn]
      rfl
    · rw [hsnap, State.captureAnswered_of_command hh]
      exact complete_answered _ _ _ _ _
    · rw [State.regs_of_captureHeld hr]
      exact s.captureOver_posts

end Sys2Proof.Machine
end

section
/-!
PROOFS. Register writes (R355, R11, R360, R362, R372).
-/
namespace Sys2Proof

/-- The same access error recorded on both sides. -/
theorem Posts.accError {s t : Machine.State} (h : Posts s t) (k f a : Nat) : Posts (s.accError k f a) (t.accError k f a) :=
  ⟨congrArg (fun u : Machine.State => u.accError k f a) h.1, h.2⟩

end Sys2Proof

namespace Sys2Proof.Machine

/-! ### Where a write goes -/

section Places
variable {code q off : Nat}

/-- An offset in the window of one of the Square's blocks. -/
theorem placeOf_square (hlo : 1 ≤ code) (hhi : code ≤ 10) (hoff : off < 0x10000) :
    placeOf 0 (blockBase code 0 + off) = blockPlace code 0 off := by
  have hbase : blockBase code 0 = (code - 1) * 0x10000 := if_pos (by omega)
  have hblock : blockOf (blockBase code 0 + off) = some (code, 0, off) := by
    rw [hbase]
    unfold blockOf
    rw [if_pos (by omega), show ((code - 1) * 0x10000 + off) / 0x10000 + 1 = code by omega,
      show ((code - 1) * 0x10000 + off) % 0x10000 = off by omega]
  unfold placeOf
  rw [if_pos rfl, if_neg (by rw [hbase]; omega), if_neg (by rw [hbase]; omega), hblock]

/-- An offset in the window of a Quarter, below the end of its last block. -/
theorem placeOf_quarter (hq : q < 4) (hoff : off < 0x90000) :
    placeOf 0 (0x100000 + q * 0x100000 + off) = blockPlace (0x10 + off / 0x10000) q (off % 0x10000) := by
  have hwindow : (0x100000 + q * 0x100000 + off - 0x100000) % 0x100000 = off := by omega
  have hquarter : (0x100000 + q * 0x100000 + off - 0x100000) / 0x100000 = q := by omega
  have hblock : blockOf (0x100000 + q * 0x100000 + off) = some (0x10 + off / 0x10000, q, off % 0x10000) := by
    unfold blockOf
    rw [if_neg (by omega), if_pos (by omega)]
    dsimp only
    rw [hwindow, hquarter, if_pos (by omega)]
  unfold placeOf
  rw [if_pos rfl, if_neg (by omega), if_neg (by omega), hblock]

/-- Every place of a Quarter's block, assigned or not, is in that Quarter. -/
theorem quarter_blockPlace (hc : 0x10 ≤ code) : (blockPlace code q off).quarter = some q := by
  have hn : ¬ code < 0x10 := by omega
  unfold blockPlace
  simp only [hn, if_false]
  split_ifs <;> simp only [RegPlace.quarter, hn, if_false]

theorem blockPlace_base {r : RegSpec} (hoff : off < 0x1000) (hr : regAt code off = some r) : blockPlace code q off = .base code q off := by
  unfold blockPlace
  simp only [if_pos hoff, hr, Option.isSome_some, if_true]

/-- 0x1000 above a register lies the place that sets its bits (R360). -/
theorem blockPlace_set {r : RegSpec} (hoff : off < 0x1000) (hr : regAt code off = some r) :
    blockPlace code q (off + 0x1000) = .aliasOf 1 code q off := by
  unfold blockPlace
  simp only [show ¬ off + 0x1000 < 0x1000 by omega, show off + 0x1000 < 0x4000 by omega, show (off + 0x1000) % 0x1000 = off by omega,
    show (off + 0x1000) / 0x1000 = 1 by omega, hr, Option.isSome_some, if_true, if_false]

end Places

/-! ### Accepted and ignored writes -/

section Writes
variable {s : State} {f a : Nat} {v : Word}

theorem registerWrite_partial {be dwords : Nat} (hd : dwords ≤ 2) (hb : be ≠ 15) :
    registerWrite s f a v be dwords = (s.count bGLB 0 0).accError 1 f (a / 4 * 4) := by
  unfold registerWrite
  simp only [if_neg (Nat.not_lt.2 hd), if_pos hb]

theorem exec_registerWrite_word {n : Fin 64} (ha : a % 4 = 0) {t : State} (h : s.wordWrite n a v = t) (hu : t.unitErrs = []) :
    exec (.registerWrite n a v 15 1) s = .next t := by
  have hrun : registerWrite s n a v (15 : BitVec 4).toNat 1 = s.wordWrite n a v := by
    unfold registerWrite
    rw [if_neg (by decide), if_neg (by decide), show a / 4 * 4 = a by omega]
  show Host.Outcome.next (settle (registerWrite s n a v (15 : BitVec 4).toNat 1)) = _
  rw [hrun, h, settle_of_no_errors hu]

/-- A write into a Quarter in Q-OFF is discarded, counted and logged (R372). -/
theorem wordWrite_of_off {p : RegPlace} (hp : placeOf f a = p) {q : Nat} (hq : p.quarter = some q) (hoff : s.qOff q = true) :
    s.wordWrite f a v = (s.count bGLB 0 2).accError 3 f a := by
  have hoff' : s.placeOff p = true := by unfold State.placeOff; rw [hq]; exact hoff
  unfold State.wordWrite
  simp only [hp, hoff', if_true]

theorem State.placeOff_of_no_quarter {p : RegPlace} (h : p.quarter = none) : s.placeOff p = false := by
  unfold State.placeOff; rw [h]

variable {code off : Nat} {r : RegSpec}

theorem wordWrite_base (hc : code < 0x10) (hp : placeOf f a = .base code 0 off) (hr : regAt code off = some r) :
    s.wordWrite f a v = s.baseWrite code 0 off r v.toNat := by
  have hon : s.placeOff (.base code 0 off) = false := State.placeOff_of_no_quarter (if_pos hc)
  unfold State.wordWrite
  simp only [hp, hon, Bool.false_eq_true, if_false, hr]

theorem wordWrite_set (hc : code < 0x10) (hp : placeOf f a = .aliasOf 1 code 0 off) (hr : regAt code off = some r)
    (hws : r.ws ≠ 0) :
    s.wordWrite f a v = s.baseWrite code 0 off r (aliasValue 1 (s.aliasFrom code 0 off r) v r).toNat := by
  have hon : s.placeOff (.aliasOf 1 code 0 off) = false := State.placeOff_of_no_quarter (if_pos hc)
  have hfields : ¬ (r.rw = 0 ∧ r.ws = 0) := fun h => hws h.2
  unfold State.wordWrite State.aliasWrite
  simp only [hp, hon, Bool.false_eq_true, if_false, hr, if_neg hfields]

end Writes

/-! ### The Square's staged registers (R362) -/

/-- The blocks of the Square whose registers are staged and have no other meaning. -/
def StagedBlock (code : Nat) : Prop := code = bPWR ∨ code = bSEC ∨ code = bNRG ∨ code = bHQ

section Staged
variable {s : State} {code off : Nat} {r : RegSpec}

theorem StagedBlock.mem (h : StagedBlock code) : code ∈ [bPWR, bSEC, bNRG, bHQ] := by
  unfold StagedBlock at h
  simpa using h

theorem StagedBlock.range (h : StagedBlock code) : 1 ≤ code ∧ code ≤ 10 := by
  have hall : ∀ c ∈ [bPWR, bSEC, bNRG, bHQ], 1 ≤ c ∧ c ≤ 10 := by decide
  exact hall code h.mem

/-- A staged register of these blocks has no RW bits, and none lies from PWR_THERM up in PWR. -/
theorem StagedBlock.register (h : StagedBlock code) (hr : regAt code off = some r) (hws : r.ws ≠ 0) :
    r.rw = 0 ∧ (code = bPWR → off < 0x20) := by
  have hall : ∀ c ∈ [bPWR, bSEC, bNRG, bHQ], ∀ x ∈ blockRegs c ++ commonRegs, x.ws ≠ 0 →
      x.rw = 0 ∧ (c = bPWR → x.off + x.cnt * x.stride ≤ 0x20) := by decide
  obtain ⟨hrw, htop⟩ := hall code h.mem r (List.mem_of_find?_eq_some hr) hws
  have hin := List.find?_some hr
  simp only [Bool.and_eq_true, decide_eq_true_eq] at hin
  obtain ⟨⟨-, hlt⟩, -⟩ := hin
  exact ⟨hrw, fun hc => Nat.lt_of_lt_of_le hlt (htop hc)⟩

theorem StagedBlock.atOnce (h : StagedBlock code) (q : Nat) : s.atOnce code q off = s := by
  rcases h with rfl | rfl | rfl | rfl <;> simp [State.atOnce, bPWR, bSEC, bNRG, bHQ, bCORE, bPST, bPCD]

theorem StagedBlock.baseWrite (h : StagedBlock code) (hoff : code = bPWR → off < 0x20) (v : Nat) :
    s.baseWrite code 0 off r v = s.plainWrite code 0 off r v := by
  unfold State.baseWrite
  rcases h with rfl | rfl | rfl | rfl
  · have hne : off ≠ 0x20 := Nat.ne_of_lt (hoff rfl)
    simp [bPWR, bPORT, bXPT, bDIR, bPST, bPCD, bBSC, bFMODE, bSNAP, hne]
  all_goals simp [bPWR, bSEC, bNRG, bHQ, bPORT, bXPT, bDIR, bPST, bPCD, bBSC, bFMODE, bSNAP]

/-- A write of a staged register stages its WS bits and changes nothing in effect. -/
theorem StagedBlock.stages (h : StagedBlock code) (hr : regAt code off = some r) (hws : r.ws ≠ 0) (v : Word) :
    s.baseWrite code 0 off r v.toNat = s.stage code 0 off (v &&& w32 r.ws).toNat := by
  obtain ⟨hrw, hoff⟩ := h.register hr hws
  rw [h.baseWrite hoff, State.plainWrite]
  simp only [hrw, Nat.zero_sub, if_true, if_neg hws, w32_toNat]
  exact h.atOnce 0

/-- What setting bits of a staged register stages: the bits written, with those staged or else in effect. -/
theorem set_stages (hrw : r.rw = 0) (v : Word) :
    aliasValue 1 (s.aliasFrom code 0 off r) v r &&& w32 r.ws =
      (w32 ((s.pendingAt code 0 off).getD (s.reg code 0 off)) ||| v) &&& w32 r.ws := by
  unfold aliasValue State.aliasFrom
  rw [hrw]
  generalize w32 ((s.pendingAt code 0 off).getD (s.reg code 0 off)) = x
  generalize w32 r.ws = m
  ext i
  simp only [w32, BitVec.getElem_and, BitVec.getElem_or, BitVec.getElem_zero, if_true]
  cases m[i] <;> simp

end Staged

/-- A write of a register whose 32 bits are all RW changes it at once, whole (R11). -/
theorem State.plainWrite_rw (s : State) {code q off : Nat} {r : RegSpec} (hrw : r.rw = 0xFFFFFFFF) (hzero : r.zero = 0)
    (hws : r.ws = 0) (v : Word) : s.plainWrite code q off r v.toNat = s.setReg code q off v.toNat := by
  have hmask : r.rw - (w32 r.rw &&& w32 r.zero).toNat = 0xFFFFFFFF := by rw [hrw, hzero]; decide
  have hall : w32 0xFFFFFFFF = BitVec.allOnes 32 := by decide
  unfold State.plainWrite
  simp only [hmask, hall, if_pos hws, if_neg (by decide : ¬ (0xFFFFFFFF = 0)), w32_toNat, BitVec.and_allOnes,
    BitVec.not_allOnes, BitVec.and_zero, BitVec.or_zero]

theorem State.baseWrite_glb (s : State) (off : Nat) (r : RegSpec) (v : Nat) :
    s.baseWrite bGLB 0 off r v = s.plainWrite bGLB 0 off r v := by
  simp [State.baseWrite, bGLB, bPWR, bPORT, bXPT, bDIR, bPST, bPCD, bBSC, bFMODE, bSNAP]

/-- Settles O10: a write is ignored for its byte enables, or goes where its address says. -/
theorem registerWrites : Obligations.RegisterWrites := by
  unfold Obligations.RegisterWrites
  intro s f v hu
  refine ⟨fun be addr dwords hbe hd => ?partialWrite, ?scratch, fun code off r hcode hoff hal hr hws => ?staged,
    fun q off hq hoff hal => ?asleep⟩
  case partialWrite =>
    have hp : Posts s (s.count bGLB 0 0) := (Posts.refl s).count _ _ _ _
    have hbe' : be.toNat ≠ 15 := fun h => hbe (BitVec.eq_of_toNat_eq h)
    have hrun : exec (.registerWrite f addr v be dwords) s = .next ((s.count bGLB 0 0).accError 1 f (addr / 4 * 4)) := by
      show Host.Outcome.next (settle (registerWrite s f addr v be.toNat dwords)) = _
      rw [registerWrite_partial hd hbe', settle_of_no_errors (s := (s.count bGLB 0 0).accError _ _ _) (hp.unitErrs.trans hu)]
    exact ⟨_, hrun, hp.regVal, hp.staged, rfl, rfl, hp.accError 1 f (addr / 4 * 4)⟩
  case scratch =>
    have hr : regAt bGLB 0x10 = some { off := 0x10, rw := 0xFFFFFFFF } := by decide
    have hp : placeOf 0 0x10 = .base bGLB 0 0x10 :=
      (placeOf_square (code := bGLB) (off := 0x10) (by decide) (by decide) (by decide)).trans (blockPlace_base (by decide) hr)
    have hwrite : s.wordWrite 0 0x10 v = s.setReg bGLB 0 0x10 v.toNat := by
      rw [wordWrite_base (by decide) hp hr, State.baseWrite_glb]
      exact s.plainWrite_rw rfl rfl rfl v
    exact exec_registerWrite_word (by decide) hwrite hu
  case staged =>
    have hb : StagedBlock code := hcode
    obtain ⟨hlo, hhi⟩ := hb.range
    obtain ⟨hrw, -⟩ := hb.register hr hws
    have hbase : blockBase code 0 = (code - 1) * 0x10000 := if_pos (by omega)
    have hstage (x : Word) : s.stage code 0 off (x &&& w32 r.ws).toNat = { s with regs := { s.regs with
        staged := s.regs.staged.put (blockBase code 0 + off) (x &&& w32 r.ws)
        stagedDone := s.regs.stagedDone.del (blockBase code 0 + off) } } := by
      unfold State.stage
      rw [w32_toNat]
    refine ⟨?_, ?_⟩
    · have hp := (placeOf_square hlo hhi (by omega)).trans (blockPlace_base (q := 0) (by omega) hr)
      exact exec_registerWrite_word (n := 0) (by omega) ((wordWrite_base (by omega) hp hr).trans ((hb.stages hr hws v).trans (hstage v))) hu
    · have hp := (placeOf_square (off := off + 0x1000) hlo hhi (by omega)).trans (blockPlace_set (q := 0) (by omega) hr)
      rw [← Nat.add_assoc] at hp
      have hset := hb.stages (s := s) hr hws (aliasValue 1 (s.aliasFrom code 0 off r) v r)
      rw [set_stages hrw v, hstage] at hset
      exact exec_registerWrite_word (n := 0) (by omega) ((wordWrite_set (by omega) hp hr hws).trans hset) hu
  case asleep =>
    have hp : Posts s (s.count bGLB 0 2) := (Posts.refl s).count _ _ _ _
    have hwrite : s.wordWrite 0 (0x100000 + q.val * 0x100000 + off) v =
        (s.count bGLB 0 2).accError 3 0 (0x100000 + q.val * 0x100000 + off) :=
      wordWrite_of_off (placeOf_quarter q.isLt hoff) (quarter_blockPlace (by omega)) hq
    have hrun := exec_registerWrite_word (n := 0) (a := 0x100000 + q.val * 0x100000 + off) (by omega) hwrite (hp.unitErrs.trans hu)
    exact ⟨_, hrun, hp.quarters, hp.regVal, hp.staged, rfl, hp.accError 3 0 _⟩

end Sys2Proof.Machine
end

section
/-!
PROOFS. Resets and the module's supplies (R397, R447 to R450, R453, Table 15-1).
-/
namespace Sys2Proof.Machine

/-! ### What a loss of the main domain keeps (assumption 14) -/

/-- `t` has lost what the main domain of `s` held, and kept the NVM, the fuses and the commands that wait. -/
def State.Cold (s t : State) : Prop :=
  t.quarters = [] ∧ t.hbm = [] ∧ t.stk = [] ∧ t.regs = {} ∧ t.pins.mainPg = false ∧ t.boot.nvm = s.boot.nvm ∧
    t.sec.fuseConfLock = s.sec.fuseConfLock ∧ t.sec.fuseJtagKill = s.sec.fuseJtagKill ∧ t.sec.fuseIdentProg = s.sec.fuseIdentProg ∧
    t.pending = s.pending

/-- The stages of `s` have stopped in `t`: the standby record and a thermal lockout stay. -/
def State.Stopped (s t : State) : Prop :=
  s.Cold t ∧ t.boot.started = false ∧ t.boot.standby = { s.boot.standby with lastStatus := s.bootStatus } ∧
    t.pwr.cycled = (s.pwr.cycled || s.pwr.lockout) ∧ t.pwr.lockout = s.pwr.lockout

section Loss
variable (s : State)

theorem State.cold_powerOn : s.Cold s.powerOn := ⟨rfl, rfl, rfl, rfl, rfl, rfl, rfl, rfl, rfl, rfl⟩

theorem State.cold_loseMain : s.Cold s.loseMain := ⟨rfl, rfl, rfl, rfl, rfl, rfl, rfl, rfl, rfl, rfl⟩

/-- The pins other than the power-good of the stages may change with the loss. -/
theorem State.Cold.setPins {s t : State} (h : s.Cold t) {p : Pins} (hp : p.mainPg = false) : s.Cold { t with pins := p } := by
  obtain ⟨hq, hhbm, hstk, hregs, -, hrest⟩ := h
  exact ⟨hq, hhbm, hstk, hregs, hp, hrest⟩

/-- The stages stop when a pin takes from them what they need. -/
theorem State.stopped_stopStages {p : Pins} (hp : p.mainPg = true) : s.Stopped { s with pins := p }.stopStages := by
  have hstop : { s with pins := p }.stopStages =
      { { s with pins := p }.loseMain with
        pwr := { { s with pins := p }.loseMain.pwr with cycled := s.pwr.cycled || s.pwr.lockout } } := by
    unfold State.stopStages
    rw [if_pos hp]
    rfl
  have hstatus : { s with pins := p }.loseMain.boot.standby = { s.boot.standby with lastStatus := s.bootStatus } :=
    congrArg (fun n => ({ s.boot.standby with lastStatus := n } : Standby)) (if_pos hp)
  rw [hstop]
  exact ⟨s.cold_loseMain, rfl, hstatus, rfl, rfl⟩

theorem State.pins_stopStages (h : s.pins.mainPg = true) : s.stopStages.pins = { s.pins with mainPg := false } := by
  unfold State.stopStages
  rw [if_pos h]
  rfl

end Loss

/-! ### Power-good (R448, Table 15-1) -/

section PowerGood
variable {s : State}

/-- Power-good begins a start-up on a node that has none under way. -/
theorem mainPowerGood_begins (hpg : s.pins.mainPg = false) (hmay : s.stagesMay = true) (hs : s.boot.started = false) :
    mainPowerGood s = { s.restart 1 with pins := { s.pins with mainPg := true } } := by
  unfold mainPowerGood
  simp only [hpg, hmay, hs, Bool.not_true, Bool.or_self, Bool.false_eq_true, if_false]
  rfl

/-- A start-up that waits for power-good in phase 2 goes on. -/
theorem mainPowerGood_goes_on (hpg : s.pins.mainPg = false) (hmay : s.stagesMay = true) (hs : s.boot.started = true)
    (hphase : s.boot.phase = 2) :
    mainPowerGood s = { s with
      time := 0, ticks := 0, pins := { s.pins with mainPg := true }
      pwr := { s.pwr with sensors := s.pwr.sensors.map fun e => (e.1, e.2.kept) } } := by
  unfold mainPowerGood
  simp only [hpg, hmay, hs, hphase, Bool.not_true, Bool.or_self, Bool.false_eq_true, if_false, if_true]

/-- A reset that is no thermal restart keeps its cause; HBM keeps its bytes while main power holds (Table 15-1). -/
theorem State.restart_cause {c : Nat} (h : s.pwr.lockout = false ∨ (c ≠ 1 ∧ c ≠ 2)) : (s.restart c).boot.cause = c := by
  have ht : (s.pwr.lockout && (c == 1 || c == 2)) = false := by
    rcases h with h | ⟨h1, h2⟩
    · rw [h, Bool.false_and]
    · simp [h1, h2]
  exact if_neg (by rw [ht]; decide)

end PowerGood

/-! ### The input voltage (R447) -/

/-- Whether the 52 V input counts as good at a voltage: it falls below 44.0 V and rises at 45.5 V. -/
def Pins.vinOk (p : Pins) (mv : Nat) : Bool := if p.vin52Ok then decide (44000 ≤ mv) else decide (45500 ≤ mv)

/-- The pins at an input voltage. -/
def Pins.atVin (p : Pins) (mv : Nat) : Pins := { p with vin52Mv := mv, vin52Ok := p.vinOk mv }

section Vin
variable {s : State} {mv : Nat}

theorem vin52Change_eq (s : State) (mv : Nat) :
    vin52Change s mv =
      if s.pins.vin52Ok && !s.pins.vinOk mv then { s with pins := s.pins.atVin mv }.stopStages
      else { s with pins := s.pins.atVin mv } := rfl

theorem vin52Change_of_no_fall (h : s.pins.vin52Ok = false ∨ 44000 ≤ mv) : vin52Change s mv = { s with pins := s.pins.atVin mv } := by
  have hno : (s.pins.vin52Ok && !s.pins.vinOk mv) = false := by
    cases hok : s.pins.vin52Ok with
    | false => rfl
    | true =>
      have hmv : 44000 ≤ mv := by simpa [hok] using h
      simp [Pins.vinOk, hok, hmv]
  rw [vin52Change_eq, hno]
  rfl

theorem Pins.vinOk_of_fall {p : Pins} (hok : p.vin52Ok = true) (hmv : mv < 44000) : p.vinOk mv = false := by
  simp [Pins.vinOk, hok, hmv]

theorem vin52Change_of_fall (hok : s.pins.vin52Ok = true) (hmv : mv < 44000) :
    vin52Change s mv = { s with pins := s.pins.atVin mv }.stopStages := by
  rw [vin52Change_eq, Pins.vinOk_of_fall hok hmv, hok]
  rfl

end Vin

/-! ### MAIN_EN (R448) -/

theorem mainEnChange_rises {s : State} (h : s.pins.mainEn = false) :
    mainEnChange s true = { s with pins := { s.pins with mainEn := true }.bus } := by
  unfold mainEnChange
  rw [if_neg (by rw [h]; decide)]
  rfl

theorem mainEnChange_falls {s : State} (h : s.pins.mainEn = true) :
    mainEnChange s false = { s with pins := { s.pins with mainEn := false }.bus }.stopStages := by
  unfold mainEnChange
  rw [if_neg (by rw [h]; decide)]
  rfl

/-- Settles O50, pin by pin: each loss leaves the node cold, and what stops the stages leaves the standby record as well. -/
theorem resetsAndSupplies : Obligations.ResetsAndSupplies := by
  unfold Obligations.ResetsAndSupplies
  intro s cold stopped
  have hpower : cold s.powerOn := s.cold_powerOn
  have hstop {p : Pins} (hp : p.mainPg = true) : stopped { s with pins := p }.stopStages := s.stopped_stopStages hp
  refine ⟨⟨_, rfl, hpower, rfl, rfl, rfl, rfl, rfl⟩, fun hpg hmay => ⟨fun hs hlock => ?begins, fun hs hphase => ?goesOn⟩,
    fun hen => ?rises, fun hen hpg => ?falls, fun mv h => congrArg Host.Outcome.next (vin52Change_of_no_fall h),
    fun mv hok hmv hpg => ?vinFalls, ⟨_, rfl, rfl, s.cold_powerOn.setPins rfl, rfl, rfl, rfl⟩,
    fun _ => ⟨_, rfl, rfl, s.cold_loseMain.setPins rfl, rfl⟩, fun hvsb hclk => ?clockReturns, fun b => ⟨_, rfl, rfl, rfl, rfl⟩⟩
  case begins =>
    exact ⟨_, congrArg Host.Outcome.next (mainPowerGood_begins hpg hmay hs), rfl, State.restart_cause (.inl hlock), rfl, rfl, rfl,
      if_neg (by rw [hpg]; decide), rfl, rfl⟩
  case goesOn =>
    exact ⟨_, congrArg Host.Outcome.next (mainPowerGood_goes_on hpg hmay hs hphase), rfl, rfl, rfl, rfl, rfl, rfl⟩
  case rises => exact ⟨_, congrArg Host.Outcome.next (mainEnChange_rises hen), rfl, rfl, rfl⟩
  case falls =>
    have hpins := State.pins_stopStages { s with pins := { s.pins with mainEn := false }.bus } hpg
    exact ⟨_, congrArg Host.Outcome.next (mainEnChange_falls hen), by rw [hpins]; rfl, hstop hpg⟩
  case vinFalls =>
    have hpins := State.pins_stopStages { s with pins := s.pins.atVin mv } hpg
    exact ⟨_, congrArg Host.Outcome.next (vin52Change_of_fall hok hmv), by rw [hpins]; exact Pins.vinOk_of_fall hok hmv,
      by rw [hpins]; rfl, hstop hpg⟩
  case clockReturns =>
    have hback : sysclkReturn s = { s with pins := { s.pins with sysclk := true } }.powerOn := if_neg (by rw [hclk]; decide)
    exact ⟨_, congrArg Host.Outcome.next ((if_pos hvsb).trans hback), rfl,
      State.cold_powerOn { s with pins := { s.pins with sysclk := true } }, rfl, rfl⟩

end Sys2Proof.Machine
end

section
/-!
PROOFS. Start-up: its phases, stack training and the boot watchdog (R399 to R401, R405, Table 15-2).
-/
namespace Sys2Proof.Machine

/-! ### The phases (R399, Table 15-2) -/

/-- A start-up is under way and the standby domain runs. -/
structure State.Starting (s : State) : Prop where
  started : s.boot.started = true
  vsb12 : s.pins.vsb12 = true
  sysclk : s.pins.sysclk = true
  failStop : s.boot.failStop = false

namespace State.Starting
variable {s : State} (h : s.Starting)
include h

theorem runs : (!s.boot.started || !s.pins.vsb12 || !s.pins.sysclk || s.boot.failStop) = false := by
  simp [h.started, h.vsb12, h.sysclk, h.failStop]

theorem phaseOne (hp : s.boot.phase = 1) :
    startupPhaseDone s = { s with pwr := { s.pwr with alert := false }, boot := { s.boot with phase := 2 } } := by
  simp only [startupPhaseDone, h.runs, hp, Bool.false_eq_true, if_false]
  rfl

theorem phaseTwo (hp : s.boot.phase = 2) (hpg : s.pins.mainPg = true) :
    startupPhaseDone s = { s with boot := { s.boot with phase := 3 } } := by
  simp only [startupPhaseDone, h.runs, hp, hpg, Bool.false_eq_true, if_false, if_true]
  rfl

theorem phaseThree (hp : s.boot.phase = 3) :
    startupPhaseDone s = { s with sec := { s.sec with identOk := s.sec.fuseIdentProg }, boot := { s.boot with phase := 4 } } := by
  simp only [startupPhaseDone, h.runs, hp, Bool.false_eq_true, if_false]
  rfl

theorem phaseFour (hp : s.boot.phase = 4) : startupPhaseDone s = startImage s := by
  simp only [startupPhaseDone, h.runs, hp, Bool.false_eq_true, if_false]

theorem phaseSix (hp : s.boot.phase = 6) {i : Image} (hi : s.boot.image = some i) :
    startupPhaseDone s = (s.applyImage i).toPhase 7 := by
  simp only [startupPhaseDone, h.runs, hp, hi, Bool.false_eq_true, if_false]

theorem phaseSeven (hp : s.boot.phase = 7) (ht : s.trained = true) :
    startupPhaseDone s =
      (let u := if s.boot.scrubNeed then s.bootScrub else s
       { u with boot := { u.boot with trainDone := true, phase := if u.boot.pcieDone then 8 else 5 } }) := by
  simp only [startupPhaseDone, h.runs, hp, ht, Bool.false_eq_true, Bool.not_true, if_false]

theorem phaseNine (hp : s.boot.phase = 9) (hpcie : s.boot.pcieDone = true) : startupPhaseDone s = s.toReady := by
  simp only [startupPhaseDone, h.runs, hp, hpcie, Bool.false_eq_true, if_false, if_true]

end State.Starting

theorem exec_startupPhaseDone {s t : State} (h : startupPhaseDone s = t) (hu : t.unitErrs = []) :
    exec .startupPhaseDone s = .next t := by
  show Host.Outcome.next (settle (startupPhaseDone s)) = _
  rw [h, settle_of_no_errors hu]

/-- Whatever phase 4 finds, the NVM, HBM and the failed messages stay. -/
theorem startImage_keeps (s : State) :
    (startImage s).boot.nvm = s.boot.nvm ∧ (startImage s).hbm = s.hbm ∧ (startImage s).unitErrs = s.unitErrs := by
  unfold startImage
  dsimp only
  split <;> exact ⟨rfl, rfl, rfl⟩

/-- No image that verifies is boot failure (R405). -/
theorem phase_startImage_of_none {s : State} (h : (selectImage s.boot.nvm s.boot.standby s.sec.fuseConfLock).1 = none) :
    (startImage s).boot.phase = 15 := by
  simp only [startImage, h]

/-- The image in use is that of the slot that verifies, and the phase after it is "PCIe up" unless a scrub comes first. -/
theorem startImage_of_some {s : State} {n : Nat} (h : (selectImage s.boot.nvm s.boot.standby s.sec.fuseConfLock).1 = some n) :
    (startImage s).boot.slot = n ∧ (startImage s).boot.image = some (imageOf s.boot.nvm n s.sec.fuseConfLock) ∧
      (startImage s).sec.conf = (imageOf s.boot.nvm n s.sec.fuseConfLock).conf ∧
      (startImage s).boot.phase = (if !s.boot.standby.held || s.boot.standby.conf then 6 else 5) := by
  simp only [startImage, h, and_self]

/-- Ready is recorded with its time. -/
theorem State.toReady_spec (s : State) :
    s.toReady.boot.phase = 10 ∧ s.toReady.boot.readyOnce = true ∧ s.toReady.boot.readyTime = s.toReady.time := ⟨rfl, rfl, rfl⟩

/-- Without channel modes in the image, Ready follows at once and every function is told of it (R352, R410). -/
theorem State.toReady_of_no_modes {s : State} (h : s.image.chModes = []) :
    s.toReady = ({ s with boot := { s.boot with phase := 10, readyTime := s.time, readyOnce := true } }).ringReady := by
  unfold State.toReady
  rw [h]
  rfl

theorem State.ready_toReady {s : State} (h : s.image.chModes = []) (hc : s.host.configOk = true) (hf : s.boot.failStop = false) :
    s.toReady.ready = true := by
  rw [State.toReady_of_no_modes h]
  unfold State.ready State.ringReady
  simp [hc, hf]

/-! ### Stack training (R400, R395) -/

section Training
variable {s : State} {n : Nat}

/-- A stack is in training while the phases that wait for it run. -/
structure State.Trains (s : State) (n : Nat) : Prop where
  training : (s.stack n).st = .training
  on : (s.stack n).off = false
  mainPg : s.pins.mainPg = true
  phase : s.boot.phase = 7

theorem State.Trains.waits (h : s.Trains n) :
    ¬ ((s.stack n).st ≠ .training ∨ (s.stack n).off = true ∨ (!s.pins.mainPg) = true ∨ s.boot.phase < 7 ∨ 10 < s.boot.phase) := by
  simp [h.training, h.on, h.mainPg, h.phase]

theorem stackTrainingDone_trained (h : s.Trains n) (ht : s.boot.trainDone = false) :
    stackTrainingDone s n true = s.updStack n fun S => { S with st := .ready } := by
  have ht' : (s.updStack n fun S => { S with st := .ready }).boot.trainDone = false := ht
  simp only [stackTrainingDone, if_neg h.waits, ht', if_true, Bool.false_eq_true, if_false]

/-- The state with a stack failed in training, and the fault posted. -/
def State.trainingFailed (s : State) (n : Nat) : State :=
  (s.updStack n fun S => { S with st := .failed }).postFault 7 n (n % 4) 0 (n / 4)

theorem State.trainingFailed_posts (s : State) (n : Nat) :
    Posts (s.updStack n fun S => { S with st := .failed }) (s.trainingFailed n) := (Posts.refl _).postFault _ _ _ _ _

theorem State.stack_trainingFailed (s : State) (n : Nat) : ((s.trainingFailed n).stack n).st = .failed := by
  rw [(s.trainingFailed_posts n).stack, State.stack_updStack_self]

theorem State.failed_trainingFailed (s : State) (n q : Nat) : ((s.trainingFailed n).qtr q).failed = (s.qtr q).failed := by
  rw [(s.trainingFailed_posts n).qtr]
  rfl

theorem stackTrainingDone_failed (h : s.Trains n) :
    stackTrainingDone s n false =
      if n % 4 < 2 ∧ (!((s.trainingFailed n).qtr (n / 4)).failed) = true then (s.trainingFailed n).holdOff (n / 4)
      else notReadyEnd (s.trainingFailed n) (n / 4) := by
  simp only [stackTrainingDone, if_neg h.waits, Bool.false_eq_true, if_false]
  rfl

/-- A Quarter held off is failed and in Q-OFF, and its stacks keep their state. -/
theorem State.holdOff_spec (s : State) (q : Nat) (k : Fin 4) :
    ((s.holdOff q).stack (4 * q + k)).st = (s.stack (4 * q + k)).st ∧ ((s.holdOff q).qtr q).failed = true ∧
      ((s.holdOff q).qtr q).power = .off := by
  let u := s.updQ q fun Q => { Q with
    power := .off, failed := true, port := { Q.port with failed := true, linkUp := false, training := false } }
  have hu : (s.holdOff q).qtr q = u.qtr q := rfl
  have hst : (s.holdOff q).stack (4 * q + k) = { u.stack (4 * q + k) with selfRefresh := true } :=
    Tab.fetch_foldl_amend {} (fun _ (S : Stack) => { S with selfRefresh := true }) u.stk (4 * q) k
  rw [hst, hu, State.qtr_updQ_self]
  exact ⟨rfl, rfl, rfl⟩

end Training

/-! ### The boot watchdog (R401) -/

section Watchdog
variable {s : State}

theorem Standby.marked_mark (r : Standby) (slot : Nat) : (r.mark slot).marked slot = true := by
  unfold Standby.mark Standby.marked
  split <;> rfl

theorem bootWatchdog_of_ready (h : s.boot.readyOnce = true) : bootWatchdog s = s :=
  if_pos (by rw [h]; simp)

theorem bootWatchdog_of_image (hpg : s.pins.mainPg = true) (hf : s.boot.failStop = false) (hr : s.boot.readyOnce = false) {i : Image}
    (hi : s.boot.image = some i) :
    bootWatchdog s = ({ s with boot := { s.boot with standby := s.boot.standby.mark i.slot } }).restart 4 := by
  simp only [bootWatchdog, hpg, hf, hr, hi, Bool.not_true, Bool.or_self, Bool.false_eq_true, if_false]

end Watchdog

/-- Settles O49: phase by phase, then the end of a stack's training and the watchdog. -/
theorem startUpRunsItsPhases : Obligations.StartUpRunsItsPhases := by
  unfold Obligations.StartUpRunsItsPhases
  intro s
  refine ⟨fun hs hvsb hclk hstop hu => ?phases, fun n hst hon hpg hp hu => ?training, fun hpg hstop => ?watchdog⟩
  case phases =>
    have h : s.Starting := ⟨hs, hvsb, hclk, hstop⟩
    refine ⟨fun hp => exec_startupPhaseDone (h.phaseOne hp) hu, fun hp hpg => exec_startupPhaseDone (h.phaseTwo hp hpg) hu,
      fun hp => exec_startupPhaseDone (h.phaseThree hp) hu, fun hp => ?four, fun i hp hi => ?six, fun hp ht => ?seven,
      fun hp hpcie => ?nine⟩
    case four =>
      obtain ⟨hnvm, hhbm, herrs⟩ := startImage_keeps s
      refine ⟨_, exec_startupPhaseDone (h.phaseFour hp) (herrs.trans hu), hnvm, hhbm, ?_⟩
      split
      next hnone => exact phase_startImage_of_none hnone
      next n hsome => exact startImage_of_some hsome
    case six =>
      refine ⟨_, congrArg (fun t => Host.Outcome.next (settle t)) (h.phaseSix hp hi), rfl, rfl, ?_⟩
      exact Tab.fetch_put_self 0 i.tenantZero {} _
    case seven =>
      have hrun := h.phaseSeven hp ht
      cases hscrub : s.boot.scrubNeed with
      | true =>
        rw [hscrub] at hrun
        exact ⟨_, exec_startupPhaseDone hrun hu, rfl, rfl, rfl⟩
      | false =>
        rw [hscrub] at hrun
        exact ⟨_, exec_startupPhaseDone hrun hu, rfl, rfl, rfl⟩
    case nine =>
      obtain ⟨hphase, honce, htime⟩ := s.toReady_spec
      refine ⟨_, congrArg (fun t => Host.Outcome.next (settle t)) (h.phaseNine hp hpcie), hphase, honce, htime, fun hm hc => ?_⟩
      refine ⟨State.ready_toReady hm hc hstop, ?_, ?_⟩ <;> rw [State.toReady_of_no_modes hm] <;> rfl
  case training =>
    have h : s.Trains n := ⟨hst, hon, hpg, hp⟩
    have hfailed := s.failed_trainingFailed n (n.val / 4)
    refine ⟨fun ht => ?trained, fun hn hq => ?heldOff, fun hn => ?left⟩
    case trained =>
      show Host.Outcome.next (settle (stackTrainingDone s n true)) = _
      rw [stackTrainingDone_trained h ht, settle_of_no_errors (s := s.updStack n _) hu]
    case heldOff =>
      have hrun := stackTrainingDone_failed h
      rw [if_pos ⟨hn, by rw [hfailed, hq]; rfl⟩] at hrun
      obtain ⟨hst', hq', hoff⟩ := (s.trainingFailed n).holdOff_spec (n.val / 4) ⟨n.val % 4, Nat.mod_lt _ (by decide)⟩
      have hn' : 4 * (n.val / 4) + n.val % 4 = n := Nat.div_add_mod _ _
      simp only [hn'] at hst'
      exact ⟨_, congrArg (fun t => Host.Outcome.next (settle t)) hrun, hst'.trans (s.stack_trainingFailed n), hq', hoff⟩
    case left =>
      have hrun := stackTrainingDone_failed h
      have hno : ¬ (n.val % 4 < 2 ∧ (!((s.trainingFailed n).qtr (n.val / 4)).failed) = true) := by
        rintro ⟨hlt, hq⟩
        rw [hfailed] at hq
        rcases hn with hn | hn
        · omega
        · rw [hn] at hq; cases hq
      rw [if_neg hno] at hrun
      exact ⟨_, congrArg (fun t => Host.Outcome.next (settle t)) hrun, s.stack_trainingFailed n⟩
  case watchdog =>
    refine ⟨fun hr => congrArg Host.Outcome.next (bootWatchdog_of_ready hr), fun i hr hi => ?_⟩
    refine ⟨_, congrArg Host.Outcome.next (bootWatchdog_of_image hpg hstop hr hi), State.restart_cause (.inr (by decide)), rfl,
      Standby.marked_mark _ _, rfl, rfl, rfl, if_pos hpg⟩

end Sys2Proof.Machine
end

section
/-!
PROOFS. The Alley (R411 to R414, R324, R397): frames, enumeration, access, sessions and RESET.
-/
namespace Sys2Proof

/-- A BOOT counter counts where main power is good, and nothing else changes. -/
theorem Posts.countBoot {s₀ s : Machine.State} (n : Nat) (h : Posts s₀ s) : Posts s₀ (s.countBoot n) := by
  unfold Machine.State.countBoot
  split
  · exact h.count _ _ _ _
  · exact h

end Sys2Proof

namespace Sys2Proof.Machine

/-! ### Frames (R411, Table 15-6) -/

section Frames
variable {s : State} {b : Bytes}

theorem exec_alleyFrame (hup : s.agentUp = true) (port : Fin 2) : exec (.alleyFrame port b) s = .next (alleyFrame s port b) :=
  congrArg Host.Outcome.next (if_pos hup)

theorem alleyFrame_damaged (port : Nat)
    (h : b.length ≠ 8 + (alleyHdr b).len + 4 ∨ fieldAt b (8 + (alleyHdr b).len) 4 ≠ crc32c (b.take (8 + (alleyHdr b).len))) :
    alleyFrame s port b = (s.countBoot 0).countBoot 1 := if_pos h

/-- A frame that is neither an enumeration nor addressed to the node leaves by the other port. -/
theorem alleyFrame_other (port : Nat) (hlen : b.length = 8 + (alleyHdr b).len + 4)
    (hcrc : fieldAt b (8 + (alleyHdr b).len) 4 = crc32c (b.take (8 + (alleyHdr b).len)))
    (henum : ¬ ((alleyHdr b).dst = 63 ∧ (alleyHdr b).cmd = 1 ∧ (alleyHdr b).rsp = false))
    (hself : ¬ ((alleyHdr b).dst = s.boot.addr ∧ (alleyHdr b).dst ≠ 0)) :
    alleyFrame s port b = (s.countBoot 0).alleySend (1 - port) b := by
  have haddr : (s.countBoot 0).boot.addr = s.boot.addr := congrArg Boot.addr ((Posts.refl s).countBoot 0).boot
  unfold alleyFrame
  simp only
  rw [if_neg (by simp [hlen, hcrc]), if_neg (by simpa using henum), if_neg (by rwa [haddr])]

/-- A frame with the node's own address that is no response is taken. -/
theorem alleyFrame_own (port : Nat) (hlen : b.length = 8 + (alleyHdr b).len + 4)
    (hcrc : fieldAt b (8 + (alleyHdr b).len) 4 = crc32c (b.take (8 + (alleyHdr b).len)))
    (haddr : (alleyHdr b).dst = s.boot.addr) (hne : (alleyHdr b).dst ≠ 0) (hrsp : (alleyHdr b).rsp = false) :
    alleyFrame s port b = alleyTake (s.countBoot 0) port b := by
  have haddr' : (alleyHdr b).dst = (s.countBoot 0).boot.addr :=
    haddr.trans (congrArg Boot.addr ((Posts.refl s).countBoot 0).boot).symm
  unfold alleyFrame
  simp only
  rw [if_neg (by simp [hlen, hcrc]), if_pos (c := _ ∧ (alleyHdr b).dst ≠ 0) ⟨haddr', hne⟩,
    if_neg (c := (alleyHdr b).rsp = true) (by simp [hrsp]), ite_self]

/-- A well-formed command without a session waits to run. -/
theorem alleyTake_plain (port : Fin 2) (hcmd : 0 < (alleyHdr b).cmd) (hcmd' : (alleyHdr b).cmd < 0x0D) (h0 : byteAt b 0 < 64)
    (h1 : byteAt b 1 < 64) (h3 : byteAt b 3 < 4) (hmore : (alleyHdr b).more = false) (hses : (alleyHdr b).session = false)
    (h7 : byteAt b 7 < 8) (hlen : (alleyHdr b).len ≤ 1024) :
    alleyTake s port b = { s with boot := { s.boot with inbox := s.boot.inbox ++
      [{ cmd := (alleyHdr b).cmd, m := { port := port, seq := (alleyHdr b).seq, dst := (alleyHdr b).dst }, body := alleyPayload b }] } } := by
  have hport : Fin.ofNat 2 port.val = port := Fin.ext (Nat.mod_eq_of_lt port.isLt)
  unfold alleyTake
  simp only
  rw [if_neg (by rw [hmore]; simp; omega), if_neg (by simp [hses]), hport]

end Frames

/-! ### ENUM (R412) -/

/-- A well-formed ENUM sets the address and its direction, and sends the next address on unless it would be 63 or 0. -/
theorem enumerate_wellFormed {s : State} {m : Mgmt} {b : Bytes} (hdst : m.dst = 63) (hlen : b.length = 2) (h0 : 0 < byteAt b 0)
    (h63 : byteAt b 0 < 63) (h1 : byteAt b 1 < 2) {n : Nat} (hn : (if byteAt b 1 = 0 then byteAt b 0 + 1 else byteAt b 0 - 1) = n) :
    enumerate s m b = ({ s.takeCmd 1 m b with
      boot := { (s.takeCmd 1 m b).boot with addr := byteAt b 0, aport := m.port, adir := byteAt b 1 } } : State).sentOut
        (if n = 63 ∨ n = 0 then [] else
          [{ port := 1 - m.port.val, bytes := alleyFrameOf 63 0 1 false false false m.seq (leBytes 1 n ++ leBytes 1 (byteAt b 1)) }]) := by
  unfold enumerate
  simp only [hn]
  rw [if_neg (by omega)]
  split
  · simp [State.sentOut]
  · rfl

/-! ### Access (R413, R414) -/

section Access
variable {s : State} {cmd : Nat} {m : Mgmt} {b : Bytes} {run : State → Nat × Bytes × State}

/-- The commands that need 52 V are answered DOMAIN_OFF without it (Table 15-8). -/
theorem mgmtRun_domainOff (hup : s.agentUp = true) (hcmd : onStandby cmd = false) (hpg : s.pins.mainPg = false) :
    mgmtRun s cmd m b run = (s.takeCmd cmd m b).respond cmd { m with ses := none } sDOMOFF [] := by
  have hpg' : (s.takeCmd cmd m b).pins.mainPg = false := hpg
  unfold mgmtRun
  simp only [hup, hcmd, hpg', Bool.not_true, Bool.not_false, Bool.and_self, Bool.false_eq_true, if_false, if_true]

/-- A command without a session that is not open is answered AUTH (R414). -/
theorem mgmtRun_closed (hup : s.agentUp = true) (hpg : s.pins.mainPg = true) (hses : m.ses = none) (hopen : s.cmdOpen cmd = false) :
    mgmtRun s cmd m b run = (s.takeCmd cmd m b).refuseAuth cmd m := by
  have hpg' : (s.takeCmd cmd m b).pins.mainPg = true := hpg
  have hopen' : (s.takeCmd cmd m b).cmdOpen cmd = false := hopen
  unfold mgmtRun
  simp only [hup, hses, hopen', hpg', Bool.not_true, Bool.and_false, Bool.false_eq_true, if_false]

end Access

/-! ### Sessions (R324, R413) -/

/-- A number found free is free. -/
theorem Tab.look_of_freeFrom {α : Type} {t : Tab α} {fuel k i : Nat} (h : t.freeFrom fuel k = some i) : t.look i = none := by
  induction fuel generalizing k with
  | zero => cases h
  | succ fuel ih =>
    unfold Tab.freeFrom at h
    split at h
    next hfree => cases h; exact Option.isNone_iff_eq_none.1 hfree
    next => exact ih h

/-- An answer sends frames: everything else stays. -/
theorem State.respond_keeps (s : State) (cmd : Nat) (m : Mgmt) (status : Nat) (data : Bytes) :
    (s.respond cmd m status data).sec = s.sec ∧ (s.respond cmd m status data).hbm = s.hbm := by
  rw [s.respond_eq]
  exact ⟨rfl, rfl⟩

/-- The state with a value drawn and a session open under a key. -/
def State.openedSession (u : State) (sid key : Nat) : State :=
  { u.drawTrng.2 with sec := { u.sec with sessions := u.sec.sessions.put sid { key := key } } }

/-- SESSION_OPEN with a key of the right length opens the lowest free session under the key of the exchange, or opens none. -/
theorem sessionOpen_opens {u : State} {b : Bytes} {sid : Nat} (hlen : b.length = 64) (hsid : u.freeSid = some sid) :
    ∃ st d v, sessionOpen b u = (st, d, v) ∧ v.sec.tenants = u.sec.tenants ∧ v.hbm = u.hbm ∧
      (∀ k, k ≠ sid → v.sec.sessions.look k = u.sec.sessions.look k) ∧
      v.sec.sessions.look sid = (Config.sm2Agree u.image.oper (u.image.operId ++ b)).map fun key => { key := key } := by
  cases hkey : Config.sm2Agree u.image.oper (u.image.operId ++ b) with
  | none =>
    have hp : Posts u (((u.count bSEC 0 3).count bSEC 0 7).count bBOOT 0 2) :=
      (((Posts.refl u).count _ _ _ _).count _ _ _ _).count _ _ _ _
    refine ⟨sAUTH, [], _, ?_, congrArg Sec.tenants hp.sec, hp.hbm, fun k _ => congrArg (·.sessions.look k) hp.sec,
      (congrArg (·.sessions.look sid) hp.sec).trans (Tab.look_of_freeFrom hsid)⟩
    simp only [sessionOpen, hlen, hsid, hkey, ne_eq, not_true_eq_false, if_false]
  | some key =>
    have hp : Posts (u.openedSession sid key) (((u.openedSession sid key).count bSEC 0 2).count bBOOT 0 4) :=
      ((Posts.refl _).count _ _ _ _).count _ _ _ _
    refine ⟨sOK, leBytes 96 (Config.sm2Fields u.drawTrng.1) ++ (leBytes 480 Config.certs).take 160, _, ?_, (congrArg Sec.tenants hp.sec :), hp.hbm,
      fun k hk => (congrArg (·.sessions.look k) hp.sec).trans (Tab.look_put_ne _ _ _ _ hk),
      (congrArg (·.sessions.look sid) hp.sec).trans (Tab.look_put_self _ _ _)⟩
    simp only [sessionOpen, hlen, hsid, hkey, ne_eq, not_true_eq_false, if_false]
    rfl

theorem sessionExpiry_early {s : State} {sid : Nat} {k : MgmtSession} (hk : s.sec.sessions.look sid = some k) (h : k.idle < 60000) :
    sessionExpiry s sid = s := by
  simp only [sessionExpiry, hk, if_neg (Nat.not_le.2 h)]

theorem sessionExpiry_due {s : State} {sid : Nat} {k : MgmtSession} (hk : s.sec.sessions.look sid = some k) (h : 60000 ≤ k.idle) :
    sessionExpiry s sid = { s with sec := { s.sec with sessions := s.sec.sessions.del sid } } := by
  simp only [sessionExpiry, hk, if_pos h]

/-! ### RESET (R397, R390) -/

section Reset
variable {s : State} {m : Mgmt} {b : Bytes}

/-- The commands of Table 15-8 that are always open, RESET among them. -/
theorem State.cmdOpen_reset (s : State) : s.cmdOpen 11 = true := by
  have hbit : bit alwaysOpen 10 = true := by decide
  unfold State.cmdOpen bit
  unfold bit at hbit
  rw [← Nat.testBit_eq_decide_div_mod_eq] at hbit ⊢
  rw [Nat.testBit_or, hbit, Bool.or_true]

/-- A RESET without a session answers its status, and restarts the node when that is OK. -/
theorem alleyReset_open (hup : s.agentUp = true) (hses : m.ses = none) {st : Nat} (hst : resetStatus s b = st) :
    alleyReset s m b =
      let t := (s.takeCmd 11 m b).respond 11 m st []
      if st = sOK then { t with boot := { t.boot with update := none } }.restart 2 else t := by
  have hallow : Allowed s 11 m b (s.takeCmd 11 m b) := ⟨hup, .inl rfl, .inl ⟨hses, s.cmdOpen_reset, rfl⟩⟩
  have hrun := mgmtRun_of_allowed (run := fun s => (resetStatus s b, [], s)) hallow (congrArg (·, [], s.takeCmd 11 m b) hst)
  unfold alleyReset
  simp only [hrun, hup, hses, hst, Bool.and_true, Bool.true_and, beq_iff_eq]

end Reset

/-- Settles O51: frame by frame, and each command by what gives it access and what it does. -/
theorem alleyFramesAndSessions : Obligations.AlleyFramesAndSessions := by
  unfold Obligations.AlleyFramesAndSessions
  intro s m b hup
  refine ⟨?frames, fun hdst hlen h0 h63 h1 => ?enum, ?access, fun u sid hallow hlen hsid => ?sessionOpen,
    fun sid k hk => ⟨fun h => ?early, fun h => ?due⟩, fun hses hb => ⟨fun hlock hcool => ?refused, fun hlock => ?reset⟩⟩
  case frames =>
    intro port h n
    refine ⟨fun hbad => (exec_alleyFrame hup port).trans (congrArg _ (alleyFrame_damaged port hbad)), fun hlen hcrc =>
      ⟨fun henum hself => (exec_alleyFrame hup port).trans (congrArg _ (alleyFrame_other port hlen hcrc henum hself)),
      fun haddr hne hrsp hcmd hcmd' h0 h1 h3 hmore hses h7 hlen' => ?_⟩⟩
    have hp : Posts s (s.countBoot 0) := (Posts.refl s).countBoot 0
    have hrun := (alleyFrame_own port hlen hcrc haddr hne hrsp).trans (alleyTake_plain port hcmd hcmd' h0 h1 h3 hmore hses h7 hlen')
    exact ⟨_, (exec_alleyFrame hup port).trans (congrArg _ hrun), (congrArg Boot.out hp.boot :), hp.hbm, hp.quarters,
      hp.sec, congrArg (fun B : Boot => B.inbox ++ _) hp.boot⟩
  case enum =>
    intro next
    have hrun : exec (.enum m b) s = .next (enumerate s m b) := congrArg Host.Outcome.next (if_pos hup)
    exact ⟨_, hrun.trans (congrArg _ (enumerate_wellFormed hdst hlen h0 h63 h1 rfl)), rfl, rfl, rfl, rfl, rfl, rfl, rfl, rfl⟩
  case access =>
    have each (cmd : Nat) (run : State → Nat × Bytes × State) (i : Instr) (hrun : exec i s = .next (mgmtRun s cmd m b run))
        (hcmd : onStandby cmd = false) :
        (s.pins.mainPg = false → exec i s = .next ((s.takeCmd cmd m b).respond cmd { m with ses := none } sDOMOFF [])) ∧
        (s.pins.mainPg = true → m.ses = none → s.cmdOpen cmd = false → exec i s = .next ((s.takeCmd cmd m b).refuseAuth cmd m)) :=
      ⟨fun hpg => hrun.trans (congrArg _ (mgmtRun_domainOff hup hcmd hpg)),
        fun hpg hses hopen => hrun.trans (congrArg _ (mgmtRun_closed hup hpg hses hopen))⟩
    simp only [List.forall_mem_cons, List.not_mem_nil, false_imp_iff, implies_true, and_true]
    exact ⟨each 2 _ _ rfl rfl, each 5 _ _ rfl rfl, each 6 _ _ rfl rfl, each 7 _ _ rfl rfl, each 8 _ _ rfl rfl, each 9 _ _ rfl rfl,
      each 12 _ _ rfl rfl⟩
  case sessionOpen =>
    obtain ⟨st, d, v, hv, htenants, hhbm, hother, hself⟩ := sessionOpen_opens hlen hsid
    obtain ⟨hsec, hkeep⟩ := v.respond_keeps 2 m st d
    obtain ⟨I, L, hu⟩ := eq_of_allowed hallow
    refine ⟨v.respond 2 m st d, congrArg Host.Outcome.next (mgmtRun_of_allowed hallow hv), ?_, ?_, ?_, ?_⟩
    · rw [hsec, htenants, hu]
    · rw [hkeep, hhbm, hu]
    · rw [hsec]; exact hother
    · rw [hsec]; exact hself
  case early => exact congrArg Host.Outcome.next (sessionExpiry_early hk h)
  case due =>
    exact ⟨_, congrArg Host.Outcome.next (sessionExpiry_due hk h), Tab.look_del_self _ _, fun j hj => Tab.look_del_ne _ _ _ hj, rfl, rfl⟩
  case refused =>
    have hst : resetStatus s b = sNOTREADY := by subst hb; simp [resetStatus, byteAt, hlock, hcool]
    exact congrArg Host.Outcome.next ((alleyReset_open hup hses hst).trans (if_neg (by decide)))
  case reset =>
    have hst : resetStatus s b = sOK := by subst hb; simp [resetStatus, byteAt, hlock]
    have hrun := (alleyReset_open hup hses hst).trans (if_pos rfl)
    rw [State.respond_eq] at hrun ⊢
    exact ⟨_, congrArg Host.Outcome.next hrun, State.restart_cause (.inl hlock), rfl, rfl, rfl, rfl, rfl, rfl, rfl, rfl, rfl, rfl⟩

end Sys2Proof.Machine
end

section
/-!
PROOFS. Core faults and tests, the express lane and a directory rebuild (R423, R425, R428, R434, Table 16-12).
-/
namespace Sys2Proof.Machine

/-! ### What leaves the cores, their jobs and HBM alone -/

/-- `t` has the cores, the jobs and the HBM of `s`. -/
structure KeepsCores (s t : State) : Prop where
  island : ∀ q, (t.qtr q).core = (s.qtr q).core
  hbm : t.hbm = s.hbm

namespace KeepsCores
variable {s₀ s t : State}

theorem refl (s : State) : KeepsCores s s := ⟨fun _ => rfl, rfl⟩

theorem trans {u : State} (a : KeepsCores s t) (b : KeepsCores t u) : KeepsCores s u :=
  ⟨fun q => (b.island q).trans (a.island q), b.hbm.trans a.hbm⟩

theorem posts (h : KeepsCores s₀ s) (p : Posts s t) : KeepsCores s₀ t :=
  ⟨fun q => (congrArg Quarter.core (p.qtr q)).trans (h.island q), p.hbm.trans h.hbm⟩

theorem updQ (h : KeepsCores s₀ s) (p : Nat) {f : Quarter → Quarter} (hf : ∀ Q, (f Q).core = Q.core) : KeepsCores s₀ (s.updQ p f) := by
  refine ⟨fun q => ?_, h.hbm⟩
  by_cases e : q = p
  · subst e; rw [State.qtr_updQ_self, hf, h.island]
  · rw [State.qtr_updQ_ne _ _ _ _ e, h.island]

theorem ite {c : Prop} [Decidable c] (a : KeepsCores s₀ s) (b : KeepsCores s₀ t) : KeepsCores s₀ (if c then s else t) := by
  split
  · exact a
  · exact b

theorem hand (h : KeepsCores s₀ s) (i : Nat) (m : OutMsg) : KeepsCores s₀ (s.hand i m) :=
  ite (h.updQ _ fun _ => rfl) (ite ⟨h.island, h.hbm⟩ h)

theorem noticeTo (h : KeepsCores s₀ s) (o : Origin) (tag kind v : Nat) : KeepsCores s₀ (s.noticeTo o tag kind v) := by
  cases o with
  | wire i => exact h.hand _ _
  | host c => exact ite (h.posts ((Posts.refl s).post _ _)) h

theorem sendMiss (h : KeepsCores s₀ s) (tk n : Nat) : KeepsCores s₀ (s.sendMiss tk n) := by
  unfold State.sendMiss
  split
  · refine ite h (KeepsCores.posts (KeepsCores.noticeTo ?_ _ _ _ _) ((Posts.refl _).countU _ _ _ _ _))
    exact h.updQ _ fun _ => rfl
  · exact h

theorem checkMiss (h : KeepsCores s₀ s) (tk : Nat) : KeepsCores s₀ (s.checkMiss tk) := by
  unfold State.checkMiss
  split
  · exact ite (h.sendMiss _ _) h
  · exact h

theorem checkMisses (h : KeepsCores s₀ s) : KeepsCores s₀ s.checkMisses := by
  unfold State.checkMisses
  exact List.foldlRecOn _ _ h fun _ ht tk _ => ht.checkMiss tk

theorem core (h : KeepsCores s t) (q k : Nat) : t.core q k = s.core q k := congrArg (·.cores.fetch k {}) (h.island q)

theorem job (h : KeepsCores s t) (q id : Nat) : t.job q id = s.job q id :=
  congrArg (fun I : CoreIsland => I.jobs.find? fun j : Job => j.id == id) (h.island q)

end KeepsCores

/-! ### Cores out of dispatch -/

section Dispatch
variable {s : State} {q k : Nat}

theorem State.inDispatch_of_faulted (h : (s.core q k).faulted = true) : s.inDispatch q k = false := by
  simp [State.inDispatch, h]

/-- A staged CORE_DISPATCH_EN does not put a faulted core back into dispatch (R428). -/
theorem KeepsCores.coreBit (h : (s.core q k).faulted = true) : KeepsCores s (s.coreBit q k) := by
  have hout (r : RegFile) : ({ s with regs := r } : State).inDispatch q k = false := State.inDispatch_of_faulted h
  have hwas : s.inDispatch q k = false := hout s.regs
  unfold State.coreBit
  split
  · exact .refl s
  · simp only [hwas, Bool.false_and, Bool.not_false, Bool.true_and, Bool.false_eq_true, if_false]
    refine ite (.refl s) ?_
    rw [if_neg (by rw [State.setReg, hout]; exact Bool.false_ne_true)]
    exact ⟨fun _ => rfl, rfl⟩

end Dispatch

/-! ### A job that is cut again (R110) -/

section Recut
variable {s : State} {q : Nat}

/-- A Quarter whose cores are gated begins to wake (R392). -/
def State.woken (s : State) (q : Nat) : State :=
  if s.gated q then (s.updQ q fun Q => { Q with wakeAt := some (s.time + 2000) }).count bPWR 0 2 else s

theorem State.woken_spec (s : State) (q : Nat) : KeepsCores s (s.woken q) ∧ (s.woken q).nextId = s.nextId := by
  unfold State.woken
  split
  · have hk : KeepsCores s (s.updQ q fun Q => { Q with wakeAt := some (s.time + 2000) }) := (KeepsCores.refl s).updQ q fun _ => rfl
    have hp := (Posts.refl (s.updQ q fun Q => { Q with wakeAt := some (s.time + 2000) })).count bPWR 0 2 1
    exact ⟨hk.posts hp, hp.nextId⟩
  · exact ⟨.refl s, rfl⟩

/-- A job joins the ready ones, and no other job or core changes. -/
theorem State.addJob_spec (s : State) (q : Nat) (j : Job) : ((s.addJob q j).qtr q).core.jobs = (s.qtr q).core.jobs ++ [j] ∧
    ((s.addJob q j).qtr q).core.cores = (s.qtr q).core.cores ∧ (s.addJob q j).hbm = s.hbm ∧ (s.addJob q j).nextId = s.nextId := by
  obtain ⟨hw, hnext⟩ := s.woken_spec q
  have hp : Posts ((s.woken q).updCore q fun I => { I with jobs := I.jobs ++ [j] }) (s.addJob q j) := (Posts.refl _).countU _ _ _ _ _
  rw [hp.qtr, State.qtr_updCore_self, hp.hbm, hp.nextId, ← hw.island]
  exact ⟨rfl, rfl, hw.hbm, hnext⟩

/-- A job cut from another has an ID of its own. -/
theorem State.addCoreJob_spec (s : State) (q : Nat) (r : Request) (j : Job) (first n sub : Nat) (admitted : Bool) (raw : Nat) :
    ∃ c : Job, c.id = s.nextId ∧ ((s.addCoreJob q r j first n sub admitted raw).qtr q).core.jobs = (s.qtr q).core.jobs ++ [c] ∧
      ((s.addCoreJob q r j first n sub admitted raw).qtr q).core.cores = (s.qtr q).core.cores ∧
      (s.addCoreJob q r j first n sub admitted raw).hbm = s.hbm ∧
      (s.addCoreJob q r j first n sub admitted raw).nextId = s.nextId + 1 := by
  unfold State.addCoreJob
  dsimp only
  generalize hc : (if admitted = true then _ else _ : Job) = c
  obtain ⟨hjobs, hcores, hhbm, hnext⟩ := State.addJob_spec (s.fresh.2.inherit q j.id s.fresh.1) q c
  refine ⟨c, ?_, hjobs.trans ?_, hcores.trans ?_, hhbm, hnext⟩
  · subst hc; split <;> rfl
  · simp [State.inherit, State.updStore]; rfl
  · simp [State.inherit, State.updStore]; rfl

/-- Job `id` is gone from Quarter q of `t`, whose cores and HBM are those of `s`, and no later job takes its ID. -/
structure State.Lost (s : State) (q id : Nat) (t : State) : Prop where
  job : t.job q id = none
  cores : (t.qtr q).core.cores = (s.qtr q).core.cores
  hbm : t.hbm = s.hbm
  fresh : id < t.nextId

theorem State.lost_dropJob {id : Nat} (h : id < s.nextId) : s.Lost q id (s.dropJob q id) where
  job := by simp [State.job, State.dropJob]
  cores := by simp [State.dropJob]
  hbm := rfl
  fresh := h

theorem State.Lost.addCoreJob {id : Nat} {t : State} (h : s.Lost q id t) (r : Request) (j : Job) (first n sub : Nat) (admitted : Bool)
    (raw : Nat) : s.Lost q id (t.addCoreJob q r j first n sub admitted raw) := by
  obtain ⟨c, hid, hjobs, hcores, hhbm, hnext⟩ := t.addCoreJob_spec q r j first n sub admitted raw
  have hfresh := h.fresh
  have hne : (c.id == id) = false := by simp; omega
  have hgone : (t.qtr q).core.jobs.find? (fun x => x.id == id) = none := h.job
  refine ⟨?_, hcores.trans h.cores, hhbm.trans h.hbm, by omega⟩
  unfold State.job
  rw [hjobs, List.find?_append, hgone, List.find?_singleton, hne]
  rfl

/-- The runs of a job that is cut again go to new jobs. -/
theorem State.lost_recut {j : Job} (h : j.id < s.nextId) : s.Lost q j.id (s.recut q j) := by
  unfold State.recut
  split
  · exact State.lost_dropJob h
  · dsimp only
    refine List.foldlRecOn _ _ ?_ fun t ht e _ => ht.addCoreJob _ _ _ _ _ _ _
    split
    · have hp : Posts s (s.countU bCORE q j.core 6) := (Posts.refl s).countU _ _ _ _ _
      obtain ⟨hjob, hcores, hhbm, hfresh⟩ := State.lost_dropJob (s := s.countU bCORE q j.core 6) (q := q) (h.trans_eq hp.nextId.symm)
      exact ⟨hjob, by rw [hcores, hp.qtr], hhbm.trans hp.hbm, hfresh⟩
    · exact State.lost_dropJob h

end Recut

/-! ### Core faults (R428) -/

section Fault
variable {s : State} {q k : Nat}

/-- The state in which a core is faulted, and has no job. -/
def State.faultCore (s : State) (q k : Nat) : State := s.updOne q k fun _ => { online := false, faulted := true }

theorem State.core_faultCore : (s.faultCore q k).core q k = { online := false, faulted := true } := State.core_updOne_self ..

/-- After its jobs have gone, a fault leaves the cores, the jobs and HBM alone. -/
theorem KeepsCores.faultEnd {t : State} (h : (t.core q k).faulted = true) (lost : Nat) :
    KeepsCores t ((t.coreBit q k).postFault 4 (8 * q + k) k lost q).checkMisses :=
  ((KeepsCores.coreBit h).posts ((Posts.refl _).postFault _ _ _ _ _)).checkMisses

/-- A core without jobs leaves dispatch. -/
theorem coreFault_idle (hf : (s.core q k).faulted = false) (hon : s.qOff q = false) (hsaved : (s.core q k).saved = [])
    (hsaving : (s.core q k).saving = none) (hjob : (s.core q k).job = none) : KeepsCores (s.faultCore q k) (coreFault s q k) := by
  unfold coreFault
  simp only [hf, hon, hsaved, hsaving, hjob, Bool.or_self, Bool.false_eq_true, if_false, Option.toList_none, List.append_nil,
    List.foldl_nil]
  exact .faultEnd (congrArg Core.faulted State.core_faultCore) _

/-- The job of a core that faults is cut again. -/
theorem coreFault_running {id : Nat} (hf : (s.core q k).faulted = false) (hon : s.qOff q = false) (hsaved : (s.core q k).saved = [])
    (hsaving : (s.core q k).saving = none) (hjob : (s.core q k).job = some id) (hid : id < s.nextId) :
    ∃ u, (s.faultCore q k).Lost q id u ∧ (u.core q k).faulted = true ∧ KeepsCores u (coreFault s q k) := by
  have hcore {u : State} (h : (s.faultCore q k).Lost q id u) : (u.core q k).faulted = true :=
    (congrArg (fun T : Tab Core => (T.fetch k {}).faulted) h.cores).trans (congrArg Core.faulted State.core_faultCore)
  unfold coreFault
  simp only [hf, hon, hsaved, hsaving, hjob, Bool.or_self, Bool.false_eq_true, if_false, Option.toList_none, Option.toList_some,
    List.append_nil, List.nil_append, List.foldl_cons, List.foldl_nil]
  split
  next j hj =>
    obtain rfl := State.id_of_job hj
    have hlost : (s.faultCore q k).Lost q j.id ((s.faultCore q k).recut q j) := State.lost_recut hid
    exact ⟨_, hlost, hcore hlost, .faultEnd (hcore hlost) _⟩
  next hj =>
    have hlost : (s.faultCore q k).Lost q id (s.faultCore q k) := ⟨hj, rfl, rfl, hid⟩
    exact ⟨_, hlost, hcore hlost, .faultEnd (hcore hlost) _⟩

end Fault

/-! ### Core tests (R434) -/

section Test
variable {s : State} {q : Nat}

/-- DIR_TEST_CTL as a start of a test leaves it. -/
def State.setTest (s : State) (q v : Nat) : State := s.setReg bDIR q 0x10 (w32 v &&& 0xFFFF0007).toNat

/-- A core may not be tested now: it is in dispatch or holds contexts, or a test runs. -/
def State.testBusy (s : State) (q k : Nat) : Bool :=
  s.inDispatch q k || (s.core q k).saved != [] || (s.core q k).saving.isSome || (s.qtr q).core.testRunning.isSome

theorem State.inDispatch_setTest (s : State) (q v k : Nat) : (s.setTest q v).inDispatch q k = s.inDispatch q k := by
  have hne : blockBase bCORE q + 0 ≠ blockBase bDIR q + 0x10 := by simp [blockBase, bCORE, bDIR]
  unfold State.inDispatch State.setTest
  rw [State.reg_setReg_ne _ _ _ _ _ _ _ _ hne]
  rfl

theorem State.testBusy_setTest (s : State) (q v k : Nat) : (s.setTest q v).testBusy q k = s.testBusy q k := by
  unfold State.testBusy
  rw [s.inDispatch_setTest]
  rfl

/-- A new number starts no test of a core that may not be tested: the result is REFUSED. -/
theorem coreTestStart_busy {v : Nat} (h : bits (s.reg bDIR q 0x10) 31 16 ≠ bits v 31 16) (hbusy : s.testBusy q (v % 8) = true) :
    coreTestStart s q v = (s.setTest q v).updCore q fun I => { I with testSeq := bits v 31 16, testResult := 3 } :=
  (if_neg h).trans (if_pos ((s.testBusy_setTest q v (v % 8)).trans hbusy))

/-- A new number starts the test of a core that may be tested. -/
theorem coreTestStart_free {v : Nat} (h : bits (s.reg bDIR q 0x10) 31 16 ≠ bits v 31 16) (hfree : s.testBusy q (v % 8) = false) :
    coreTestStart s q v =
      ((s.setTest q v).updCore q fun I => { I with testRunning := some (v % 8, bits v 31 16) }).updOne q (v % 8)
        fun c => { c with testing := true } :=
  (if_neg h).trans (if_neg (Bool.eq_false_iff.1 ((s.testBusy_setTest q v (v % 8)).trans hfree)))

theorem State.core_congr {t : State} (h : (t.qtr q).core.cores = (s.qtr q).core.cores) (k : Nat) : t.core q k = s.core q k :=
  congrArg (fun T : Tab Core => T.fetch k {}) h

/-- The state after the test of a core, whose result is recorded. -/
theorem coreTestDone_running {pass : Bool} {k no : Nat} (h : (s.qtr q).core.testRunning = some (k, no)) :
    coreTestDone s q pass =
      (s.updCore q fun I => { I with testRunning := none, testSeq := no, testResult := if pass then 1 else 2 }).updOne q k
        fun c => { c with testing := false, online := c.online && pass, faulted := c.faulted || !pass } := by
  unfold coreTestDone
  rw [h]

end Test

/-! ### A rebuild (R425) -/

section Rebuild
variable {s : State} {q : Nat}

/-- A rebuild that loses nothing puts the shadow's entries into the slice. -/
theorem dirRebuildDone_dir (hr : (s.qtr q).dir.rebuilding = true) (hbad : (s.qtr q).dir.shadowBad = [])
    (hwait : (s.qtr q).dir.waiting = []) :
    ((dirRebuildDone s q).qtr q).dir = { (s.qtr q).dir with
      slots := (s.qtr q).dir.rebuilt, shadow := (s.qtr q).dir.rebuilt, shadowBad := [], rebuilding := false, waiting := [] } ∧
    (dirRebuildDone s q).unitErrs = s.unitErrs := by
  unfold dirRebuildDone
  simp only [hr, hbad, hwait, Bool.not_true, Bool.false_eq_true, if_false, List.contains_nil, List.filter_false, List.map_nil,
    List.filter_nil, List.foldl_nil]
  rw [((Posts.refl _).count _ _ _ _).qtr, ((Posts.refl _).count _ _ _ _).unitErrs]
  exact ⟨congrArg Quarter.dir (State.qtr_updDir_self ..), rfl⟩

end Rebuild

/-- Settles O53: a core by what its fault and its test write, the slice by what a rebuild puts into it. -/
theorem coresAndDirectoryRecover : Obligations.CoresAndDirectoryRecover := by
  unfold Obligations.CoresAndDirectoryRecover
  refine ⟨fun s n => ?fault, fun s q hon => ⟨fun value => ?start, fun pass k no hrun => ?done, ?restore, fun hr => ?runs,
    fun hr => ?starts, fun hr hbad hwait herr => ?rebuilt⟩⟩
  case fault =>
    intro q k c hf hon
    refine ⟨fun hsaved hsaving hjob => ?_, fun id hsaved hsaving hjob hid => ?_⟩
    · have hk : KeepsCores (s.faultCore q k) (coreFault s q k) := coreFault_idle hf hon hsaved hsaving hjob
      have hcore := (hk.core q k).trans State.core_faultCore
      exact ⟨_, rfl, hcore, State.inDispatch_of_faulted (congrArg Core.faulted hcore),
        fun j hj => (hk.core q j).trans (State.core_updOne_ne _ _ _ hj),
        (congrArg CoreIsland.jobs (hk.island q)).trans (congrArg (·.core.jobs) (State.qtr_updCore_self ..)), hk.hbm⟩
    · obtain ⟨u, hlost, hfaulted, hk⟩ := coreFault_running hf hon hsaved hsaving hjob hid
      exact ⟨_, rfl, State.inDispatch_of_faulted ((congrArg Core.faulted (hk.core q k)).trans hfaulted),
        (hk.job q id).trans hlost.job, hk.hbm.trans hlost.hbm⟩
  case start =>
    intro no k busy hnew
    have hrun : exec (.coreTestStart q value) s = .next (coreTestStart s q value.toNat) :=
      congrArg Host.Outcome.next (if_neg (by rw [hon]; exact Bool.false_ne_true))
    refine ⟨fun hbusy => ?_, fun hfree => ?_⟩
    · refine ⟨_, hrun.trans (congrArg _ (coreTestStart_busy hnew hbusy)), ?_, ?_, ?_, fun j => State.core_congr ?_ j, rfl⟩
      · rw [State.qtr_updCore_self]
      · rw [State.qtr_updCore_self]
      · rw [State.qtr_updCore_self]; rfl
      · rw [State.qtr_updCore_self]; rfl
    · refine ⟨_, hrun.trans (congrArg _ (coreTestStart_free hnew hfree)), ?_, ?_, ?_,
        fun j hj => (State.core_updOne_ne _ _ _ hj).trans (State.core_congr ?_ j), rfl⟩
      · simp [State.updOne, no, k]
      · simp [State.updOne]; rfl
      · rw [State.core_updOne_self]
      · rw [State.qtr_updCore_self]; rfl
  case done =>
    refine ⟨_, congrArg Host.Outcome.next (coreTestDone_running hrun), ?_, ?_, ?_, ?_, fun hpass => ?_, fun hpass => ?_,
      fun j hj => (State.core_updOne_ne _ _ _ hj).trans (State.core_congr ?_ j), rfl, rfl⟩
    · simp [State.updOne]
    · simp [State.updOne]
    · simp [State.updOne]
    · rw [State.core_updOne_self]
    · rw [State.core_updOne_self]; simp [hpass]
    · rw [State.core_updOne_self]; simp [hpass, State.core]
    · rw [State.qtr_updCore_self]
  case restore => exact congrArg Host.Outcome.next (if_neg (by rw [hon]; exact Bool.false_ne_true))
  case runs => simp [exec, execDirXlRebuild, hon, hr]
  case starts => simp [exec, execDirXlRebuild, State.startRebuild, hon, hr]
  case rebuilt =>
    obtain ⟨hdir, hunit⟩ := dirRebuildDone_dir hr hbad hwait
    have hk : KeepsQuarter q s (dirRebuildDone s q) := .dirRebuildDone hbad hwait
    have hrun : exec (.dirRebuildDone q) s = .next (dirRebuildDone s q) :=
      congrArg Host.Outcome.next (settle_of_no_errors (hunit.trans herr))
    exact ⟨_, hrun, congrArg Dir.rebuilding hdir, congrArg Dir.slots hdir, congrArg Dir.shadow hdir, hk.store, hk.hbm⟩

end Sys2Proof.Machine
end

section
/-!
PROOFS. Errors, failures and drains of stacks and Quarters, and the lost heartbeat (R429, R430, Table 16-3).
-/
namespace Sys2Proof.Machine

/-! ### One frame of a frame table -/

section Frames
variable {s : State} {q key i : Nat} {g : Seg}

/-- A descriptor with frame f of its frame table changed. -/
def Seg.changeFrame (g : Seg) (f : Nat) (c : FrameRef → FrameRef) : Seg :=
  { g with frames := ((List.range g.frames.length).zip g.frames).map fun e => (if e.1 = f then c e.2 else e.2) }

theorem Seg.frame_changeFrame {f : Nat} {r : FrameRef} (c : FrameRef → FrameRef) (h : g.frames[f]? = some r) :
    (g.changeFrame f c).frames[f]? = some (c r) := by
  obtain ⟨hlt, -⟩ := List.getElem?_eq_some_iff.1 h
  have hzip : ((List.range g.frames.length).zip g.frames)[f]? = some (f, r) :=
    List.getElem?_zip_eq_some.2 ⟨List.getElem?_range hlt, h⟩
  unfold Seg.changeFrame
  rw [List.getElem?_map, hzip, Option.map_some, if_pos rfl]

/-- A change of frame f of a segment shows in its descriptor. -/
theorem State.segOf_changeFrame {t : State} {f : Nat} {r : FrameRef} {c : FrameRef → FrameRef}
    (ht : t.segOf q key = (s.updSegOf q key fun g => g.changeFrame f c).segOf q key) (hg : s.segOf q key = some (i, g))
    (h : g.frames[f]? = some r) : ∃ g', t.segOf q key = some (i, g') ∧ g'.frames[f]? = some (c r) := by
  refine ⟨g.changeFrame f c, ?_, Seg.frame_changeFrame c h⟩
  rw [ht, State.segOf_updSegOf, hg]
  · rfl
  · exact fun _ => rfl

/-- A bit that is set reads as set. -/
theorem bit_setBit_true (v n : Nat) : bit (setBit v n true) n = true := by
  have hpos : 0 < 2 ^ n := Nat.two_pow_pos n
  unfold setBit
  simp only [if_true]
  cases hb : bit v n with
  | true =>
    have hle : 2 ^ n ≤ v := by
      by_contra hlt
      simp [bit, Nat.div_eq_of_lt (Nat.lt_of_not_le hlt)] at hb
    rw [if_pos rfl, Nat.sub_add_cancel hle, hb]
  | false =>
    have hmod : v / 2 ^ n % 2 = 0 := by simpa [bit] using hb
    simp only [Bool.false_eq_true, if_false, Nat.sub_zero, bit, Nat.add_div_right v hpos, decide_eq_true_eq]
    omega

end Frames

/-! ### An error in a scoring stack (R429, Table 16-3 row 1) -/

section PageErrors
variable {s : State} {q ls a key f : Nat} {fr : FrameRef} {sh : Shape}

/-- The state with an address that ECC cannot correct recorded in its stack. -/
def State.recordError (s : State) (n a : Nat) : State :=
  s.updStack n fun S => { S with uncorrectable := if S.uncorrectable.contains a then S.uncorrectable else S.uncorrectable ++ [a] }

theorem State.recordError_contains (n a : Nat) : ((s.recordError n a).stack n).uncorrectable.contains a = true := by
  unfold State.recordError
  rw [State.stack_updStack_self]
  dsimp only
  split
  next h => exact h
  next => simp

/-- The header of a page marked as damaged, where its frame lies (R206). -/
def State.markHeader (s : State) (q key : Nat) (fr : FrameRef) (a : Nat) : State :=
  if fr.spilled then
    match s.spillAt q a (keyTenant key) true with
    | .error _ => s
    | .ok h => s.hostWrite 0 (h + 1) [Mem.get (h + 1) (s.hostMem 0) ||| 2]
  else { s with hbm := Mem.set (hbmAddr q fr.stack a + 1) (Mem.get (hbmAddr q fr.stack a + 1) s.hbm ||| 2) s.hbm }

theorem State.markHeader_spec (s : State) (q key : Nat) (fr : FrameRef) (a : Nat) :
    (s.markHeader q key fr a).quarters = s.quarters ∧ (s.markHeader q key fr a).stk = s.stk := by
  unfold State.markHeader
  split
  · split
    · exact ⟨rfl, rfl⟩
    · exact ⟨rfl, rfl⟩
  · exact ⟨rfl, rfl⟩

/-- A page marked as damaged in its header and in the frame table, with its cached copy dropped (R206). -/
def State.markPage (s : State) (q key : Nat) (fr : FrameRef) (f n : Nat) (sh : Shape) : State :=
  ((s.markHeader q key fr (fr.addr + n * sh.slot)).updSegOf q key fun g => g.markFrame f n).dropCached q key f (some n)

/-- Damage to a page is counted and reported when the page is marked. -/
theorem State.posts_damagePage (s : State) (q key : Nat) (fr : FrameRef) (f n status : Nat) (sh : Shape) :
    Posts (s.markPage q key fr f n sh) (s.damagePage q key fr f n status sh) := by
  have hp := Posts.refl (s.markPage q key fr f n sh)
  refine Posts.postFor _ _ _ (s := if status = 0x40 then (s.markPage q key fr f n sh).count bPCD q 6
    else if status = 0x41 then (s.markPage q key fr f n sh).count bPCD q 7
    else if status = 0x42 then (s.markPage q key fr f n sh).count bPCD q 8 else s.markPage q key fr f n sh) ?_
  split_ifs
  exacts [hp.count _ _ _ _, hp.count _ _ _ _, hp.count _ _ _ _, hp]

/-- A page that is damaged has its bit set in the frame table, and the stacks stay as they are. -/
theorem State.damagePage_spec (s : State) (q key : Nat) (fr : FrameRef) (f n status : Nat) (sh : Shape) :
    (∀ k, (s.damagePage q key fr f n status sh).segOf q k = (s.updSegOf q key fun g => g.markFrame f n).segOf q k) ∧
    (s.damagePage q key fr f n status sh).stk = s.stk := by
  have hp := s.posts_damagePage q key fr f n status sh
  obtain ⟨hquarters, hstk⟩ := s.markHeader_spec q key fr (fr.addr + n * sh.slot)
  have hqtr : (s.markHeader q key fr (fr.addr + n * sh.slot)).qtr q = s.qtr q := congrArg (fun T : Tab Quarter => T.fetch q _) hquarters
  refine ⟨fun k => State.segOf_congr ?_, hp.stk.trans hstk⟩
  rw [hp.qtr, State.markPage, State.dropCached, State.qtr_updStore_self, State.qtr_updSegOf_self, State.qtr_updSegOf_self, hqtr]

theorem hbmUncorrectable_scoring (hon : s.qOff q = false) (hst : (s.stack (4 * q + ls)).st ≠ .failed) (hls : 2 ≤ ls)
    (ha : a < stackSize ls) :
    hbmUncorrectable s q ls a = (s.pageError q ls a).postFault 6 (4 * q + ls) (hbmAddr q ls a) 1 q := by
  have hr : s.hbmRegion q ls a = (1, s.pageError q ls a) := by
    unfold State.hbmRegion
    simp only
    rw [if_pos (.inl hls)]
  unfold hbmUncorrectable
  rw [if_neg (by simp [hon, hst, ha]), hr]
  exact if_neg one_ne_zero

theorem State.pageError_stk (s : State) (q ls a : Nat) : (s.pageError q ls a).stk = (s.recordError (4 * q + ls) a).stk := by
  unfold State.pageError
  dsimp only
  split
  · rfl
  · split
    · rfl
    · exact (State.damagePage_spec _ _ _ _ _ _ _ _).2

theorem State.pageError_contains (s : State) (q ls a : Nat) :
    ((s.pageError q ls a).stack (4 * q + ls)).uncorrectable.contains a = true := by
  have hstk : (s.pageError q ls a).stack (4 * q + ls) = (s.recordError (4 * q + ls) a).stack (4 * q + ls) :=
    congrArg (fun T : Tab Stack => T.fetch (4 * q + ls) {}) (s.pageError_stk q ls a)
  rw [hstk, State.recordError_contains]

/-- An error in a page of a frame sets the page's bit in the frame table. -/
theorem State.pageError_damages (hh : s.frameHolding q ls a = some (key, f, fr, sh)) (hin : a - fr.addr < sh.slot * 32) {i : Nat}
    {g : Seg} (hg : s.segOf q key = some (i, g)) (hf : g.frames[f]? = some fr) :
    ∃ g', (s.pageError q ls a).segOf q key = some (i, g') ∧
      g'.frames[f]? = some { fr with damaged := setBit fr.damaged ((a - fr.addr) / sh.slot) true } := by
  have hh' : (s.recordError (4 * q + ls) a).frameHolding q ls a = some (key, f, fr, sh) := hh
  have hpage : s.pageError q ls a =
      (s.recordError (4 * q + ls) a).damagePage q key fr f ((a - fr.addr) / sh.slot) sECC sh := by
    unfold State.pageError
    unfold State.recordError at hh'
    simp only [hh', if_neg (Nat.not_le.2 hin)]
    rfl
  rw [hpage]
  exact State.segOf_changeFrame (s := s.recordError (4 * q + ls) a)
    (c := fun r => { r with damaged := setBit r.damaged ((a - fr.addr) / sh.slot) true }) ((State.damagePage_spec _ _ _ _ _ _ _ _).1 key) hg hf

end PageErrors

/-! ### Stacks and Quarters that fail (R429) -/

section Failures
variable {s : State} {q ls : Nat}

/-- The state in which a stack has just failed: its sequences have ended, and no access waits for it. -/
def State.stackLost (s : State) (q ls : Nat) : State :=
  ((if ls ≥ 2 then s.endSeqs q ls (List.range 64) else s).updBank q ls fun B => { B with accesses := [], held := [] }).updStack
    (4 * q + ls) fun S => { S with st := .failed, bistBank := none }

/-- The failure of a stack as it is reported. -/
def State.stackReported (s : State) (q ls : Nat) : State :=
  (s.stackLost q ls).postFault 7 (4 * q + ls) ls ((s.stackLost q ls).framesOn q ls).length q

theorem stackFault_posts (hst : (s.stack (4 * q + ls)).st ≠ .failed) (hq : (s.qtr q).failed = false) :
    stackFault s q ls =
      if ls < 2 then (s.stackReported q ls).failQuarter q false (ls == 1) else notReadyEnd (s.stackReported q ls) q :=
  if_neg (by simp [hst, hq])

theorem State.posts_stackReported (s : State) (q ls : Nat) : Posts (s.stackLost q ls) (s.stackReported q ls) :=
  (Posts.refl _).postFault _ _ _ _ _

theorem State.st_stackReported (s : State) (q ls : Nat) : ((s.stackReported q ls).stack (4 * q + ls)).st = .failed := by
  rw [(s.posts_stackReported q ls).stack, State.stackLost, State.stack_updStack_self]

/-- A stack that holds structures has no sequences: its Quarter has not failed before it. -/
theorem State.failed_stackReported (hls : ls < 2) (hq : (s.qtr q).failed = false) : ((s.stackReported q ls).qtr q).failed = false := by
  rw [(s.posts_stackReported q ls).qtr, State.stackLost, if_neg (Nat.not_le.2 hls), State.qtr_updStack, State.qtr_updBank_self]
  exact hq

theorem State.qtr_foldl_updStack (s : State) (l : List Nat) (n : Nat → Nat) (f : Stack → Stack) (p : Nat) :
    (l.foldl (fun s k => s.updStack (n k) f) s).qtr p = s.qtr p :=
  List.foldlRecOn (motive := fun t => State.qtr t p = s.qtr p) l _ rfl fun _ ht _ _ => ht

/-- A Quarter that fails is held off with its link down, and its segments, entries and jobs are gone. -/
theorem State.failQuarter_spec (s : State) {q : Nat} (h : (s.qtr q).failed = false) (chipBad spillBad : Bool) : ∃ w : State,
    s.failQuarter q chipBad spillBad = (s.guests q).foldl (fun s tk => s.checkReq tk) ([0, 1, 2, 3].foldl (fun s k => s.sweepHeld k) w) ∧
    ∃ (x : Xpt) (t : TkPool) (p : Port),
      w.qtr q = { power := .off, failed := true, xpt := x, tk := t, port := { p with failed := true, linkUp := false, training := false } } := by
  unfold State.failQuarter
  rw [if_neg (by simp [h])]
  refine ⟨_, rfl, ?_⟩
  rw [((Posts.refl _).postFault _ _ _ _ _).qtr, State.qtr_foldl_updStack, State.qtr_updQ_self]
  exact ⟨_, _, _, rfl⟩

end Failures

/-! ### A drained stack (R429) -/

section Drain
variable {s : State} {q ls : Nat}

/-- The stack after its drain: it is READY and supplies no frames. -/
def State.drained (s : State) (q ls : Nat) : State :=
  let u := s.updStack (4 * q + ls) fun S => { S with st := .ready }
  notReadyEnd (u.setReg bPST q 4 (setBit (u.reg bPST q 4) ls false)) q

theorem stackDrainDone_draining (hst : (s.stack (4 * q + ls)).st = .draining) :
    stackDrainDone s q ls = ((s.framesOn q ls).foldl (fun s x => s.moveFrame q x) s).drained q ls :=
  if_neg (not_not.2 hst)

/-- The bytes of a frame copied to a new place, which its stack has given. -/
def State.frameCopied (s : State) (q : Nat) (fr : FrameRef) (n l a : Nat) (A : Tab Alloc) : State :=
  (s.updStore q fun S => { S with allocs := A }).stackWrite q l a n (Mem.slice s.hbm (hbmAddr q fr.stack fr.addr) n)

section Moves
variable {key f l a : Nat} {fr : FrameRef} {sh : Shape} {A : Tab Alloc}

/-- In a stack of plain memory the copy is written at once. -/
theorem State.frameCopied_plain (n : Nat) (hl : l < 2) :
    ((s.frameCopied q fr n l a A).qtr q).store.segs = (s.qtr q).store.segs ∧
      (s.frameCopied q fr n l a A).hbm = Mem.paste s.hbm (hbmAddr q l a) n (Mem.slice s.hbm (hbmAddr q fr.stack fr.addr) n) := by
  have hsegs : ((s.updStore q fun S => { S with allocs := A }).qtr q).store.segs = (s.qtr q).store.segs :=
    congrArg (·.store.segs) (State.qtr_updStore_self ..)
  rw [State.frameCopied, State.stackWrite_of_plain hl]
  exact ⟨hsegs, rfl⟩

theorem State.moveFrame_taken
    (ht : takeFrame (s.qtr q).store.allocs ((stackOrder 0 f true).filter (s.stackEligible q)) sh.frame = some (l, a, A)) :
    ∃ gen, s.moveFrame q (key, f, fr, sh) =
      (((s.frameCopied q fr sh.frame l a A).setFrame q key f fun r => { r with stack := l, addr := a }).dropFrame q key f).releaseFrame
        q fr.stack fr.addr sh.frame key gen := by
  unfold State.moveFrame
  simp only [ht]
  exact ⟨_, rfl⟩

/-- What follows the change of a frame table leaves the descriptors alone. -/
theorem State.segOf_release (u : State) (key f l a n gen k : Nat) :
    ((u.dropFrame q key f).releaseFrame q l a n key gen).segOf q k = u.segOf q k := by
  refine State.segOf_congr ?_
  rw [State.releaseFrame, State.qtr_updStore_self, State.dropFrame, State.qtr_updStore_self]

/-- The only frame of a stack has moved: its bytes, and its place in the frame table. -/
theorem State.moveFrame_spec
    (ht : takeFrame (s.qtr q).store.allocs ((stackOrder 0 f true).filter (s.stackEligible q)) sh.frame = some (l, a, A)) (hl : l < 2) :
    (s.moveFrame q (key, f, fr, sh)).hbm =
      Mem.paste s.hbm (hbmAddr q l a) sh.frame (Mem.slice s.hbm (hbmAddr q fr.stack fr.addr) sh.frame) ∧
    (s.moveFrame q (key, f, fr, sh)).segOf q key =
      (s.updSegOf q key fun g => g.changeFrame f fun r => { r with stack := l, addr := a }).segOf q key := by
  obtain ⟨gen, heq⟩ := State.moveFrame_taken (key := key) (fr := fr) ht
  obtain ⟨hsegs, hhbm⟩ := State.frameCopied_plain (s := s) (q := q) (fr := fr) (a := a) (A := A) sh.frame hl
  refine ⟨(congrArg State.hbm heq).trans hhbm, ?_⟩
  rw [heq, State.segOf_release]
  refine State.segOf_congr ?_
  rw [State.setFrame, State.qtr_updSegOf_self, State.qtr_updSegOf_self, hsegs]
  rfl

end Moves

end Drain

/-! ### The Square (R430) -/

/-- Every port of a fail-stopped node is down. -/
theorem State.linkUp_failStopped (s : State) (p : Fin 4) : (s.failStopped.qtr p).port.linkUp = false := by
  have hports := Tab.fetch_foldl_amend (α := Quarter) {}
    (fun _ Q => { Q with port := { Q.port.flush with linkUp := false, training := false } }) s.quarters 0 p
  simp only [Nat.zero_add] at hports
  exact congrArg (·.port.linkUp) hports

/-- Settles O54: the error by its page, the failures by what they write, a drain by the frame that moves. -/
theorem stacksAndQuartersFail : Obligations.StacksAndQuartersFail := by
  unfold Obligations.StacksAndQuartersFail
  intro s
  have hn (n : Fin 16) : 4 * (n.val / 4) + n.val % 4 = n.val := Nat.div_add_mod n.val 4
  refine ⟨?error, fun n hst hq => ?stack, fun q hq => ⟨rfl, fun chipBad spillBad => ?quarter⟩, ?drain, fun hup hpg => ?heartbeat⟩
  case error =>
    intro n a q ls hon hst hls ha
    rw [← hn n] at hst
    have hrun : exec (.hbmUncorrectable n a) s =
        .next (settle ((s.pageError q ls a).postFault 6 (4 * q + ls) (hbmAddr q ls a) 1 q)) :=
      congrArg (fun t => Host.Outcome.next (settle t)) (hbmUncorrectable_scoring hon hst hls ha)
    have hcontains := s.pageError_contains q ls a
    rw [hn n] at hrun hcontains
    refine ⟨s.pageError q ls a, hrun, hcontains, fun key f fr sh g i hh hin _ hg hf => ?_⟩
    obtain ⟨g', hg', hf'⟩ := State.pageError_damages hh hin hg hf
    exact ⟨g', _, hg', hf', bit_setBit_true _ _, rfl, rfl⟩
  case stack =>
    rw [← hn n] at hst
    have hfailed := s.st_stackReported (n.val / 4) (n.val % 4)
    rw [hn n] at hfailed
    have hrun : exec (.stackFault n) s = .next (settle (stackFault s (n.val / 4) (n.val % 4))) := rfl
    rw [stackFault_posts hst hq] at hrun
    refine ⟨fun hls => ⟨_, ?_, hfailed⟩, fun hls => ⟨_, ?_, hfailed, State.failed_stackReported hls hq⟩⟩
    · rw [hrun, if_neg (Nat.not_lt.2 hls)]
    · rw [hrun, if_pos hls]
  case quarter =>
    obtain ⟨w, heq, x, t, p, hw⟩ := s.failQuarter_spec hq chipBad spillBad
    refine ⟨w, heq, ?_⟩
    rw [hw]
    exact ⟨rfl, rfl, rfl, rfl, rfl, rfl, rfl⟩
  case drain =>
    intro n q ls done hst
    rw [← hn n] at hst
    have hrun : exec (.stackDrainDone n) s = .next (settle (done ((s.framesOn q ls).foldl (fun s x => s.moveFrame q x) s))) := by
      have heq := stackDrainDone_draining hst
      unfold State.drained at heq
      rw [hn n] at heq
      exact congrArg (fun t => Host.Outcome.next (settle t)) heq
    refine ⟨fun hnone => ?_, fun key f fr sh l a A hone ht hl => ?_⟩
    · rw [hrun, hnone]; rfl
    · obtain ⟨hhbm, hseg⟩ := State.moveFrame_spec (key := key) (fr := fr) ht hl
      refine ⟨s.moveFrame q (key, f, fr, sh), ?_, hhbm, fun i g hg hf => State.segOf_changeFrame hseg hg hf⟩
      rw [hrun, hone]; rfl
  case heartbeat =>
    have hrun : exec .squareHeartbeatLoss s = .next s.failStopped := congrArg Host.Outcome.next (if_neg (by simp [hup, hpg]))
    exact ⟨_, hrun, rfl, rfl, rfl, by simp [State.ready, State.failStopped], s.linkUp_failStopped, rfl, rfl, rfl⟩

end Sys2Proof.Machine
end

section
/-!
PROOFS. The whole node: the step, the one fault, and the canonical form of the memories (ch. 06, ch. 12).
-/
namespace Sys2Proof.Machine

/-! ### The canonical form of the memories (assumption 4) -/

/-- One step keeps the canonical form: an idle step touches no memory, and a command keeps what `KeptButNvm` lists. -/
theorem step_memoriesSound {s t : State} (hs : MemoriesSound s) (h : step s = .next t) : MemoriesSound t := by
  obtain ⟨hhbm, hnvm, hhost⟩ := hs
  cases hp : s.pending with
  | nil =>
    simp only [step, hp, Host.Outcome.next.injEq] at h
    subst h
    exact ⟨hhbm, hnvm, hhost⟩
  | cons c rest =>
    simp only [step, hp] at h
    obtain ⟨m, hm, -, hbnvm, -, khbm, khost⟩ := exec_keptButNvm c _ t h
    exact ⟨khbm hhbm, by rw [hbnvm]; exact hm hnvm, khost hhost⟩

/-- Settles O59: the step lemma, and its induction along a run. -/
theorem memoriesStaySound : Obligations.MemoriesStaySound := by
  unfold Obligations.MemoriesStaySound
  refine ⟨fun s t => step_memoriesSound, fun s t hs hr => ?_⟩
  induction hr with
  | refl s => exact hs
  | step s t u first rest ih => exact ih (step_memoriesSound hs first)

/-! ### The step -/

/-- Settles O55: by the definition of a step, and by the table, which gives no bits. -/
theorem stepTakesTheFront : Obligations.StepTakesTheFront := by
  unfold Obligations.StepTakesTheFront
  refine ⟨fun c rest s => rfl, fun s h => ?_, fun nbits w => rfl, fun s nbits w => rfl⟩
  unfold step
  split
  next => rfl
  next hp => rw [h] at hp; cases hp

/-! ### The one fault (assumptions 41 and 52) -/

section Completes
variable {φ ρ : Type} {x : Option Nat} {f : Nat → State} {t : State}

/-- A host command answers a next state whether its submission rules hold or not. -/
theorem next_of_check :
    ∃ u, (match x with | some st => .next (f st) | none => .next t : Host.Outcome State φ ρ) = .next u := by
  cases x <;> exact ⟨_, rfl⟩

theorem next_of_ite {p : Prop} [Decidable p] {o : Host.Outcome State φ ρ} (h : ∃ u, o = .next u) :
    ∃ u, (if p then .next t else o) = .next u := by
  split
  · exact ⟨_, rfl⟩
  · exact h

end Completes

/-- Every command but the end of a transfer answers a next state. -/
theorem exec_completes (c : Instr) (s : State) (h : ∀ q e, c ≠ .dmaTransferEnd q e) : Completes c s := by
  cases c
  case dmaTransferEnd q e => exact absurd rfl (h q e)
  case queueCreate | queueDelete | snapshot | funcMode | dmaResume | dmaAbort | shapeDefine | mapSet | tenantCreate | tenantDrain
      | attest | assistReply => exact next_of_check
  case tableLoad | tableRelease | dmaCopy | frameSpill | frameFill | keyRotatePageKey | keyRotateWireEpoch =>
    exact next_of_ite next_of_check
  all_goals exact ⟨_, rfl⟩

/-- A running COPY of software whose source runs past its stack. -/
def State.EndsBeyond (s : State) (q e : Fin 4) (d : Dma) : Prop :=
  (s.eng q e).state = .running ∧ (s.eng q e).desc = some d ∧ d.own = false ∧ copyBeyond d = true

theorem exec_dmaTransferEnd_beyond {s : State} {q e : Fin 4} {d : Dma} (h : s.EndsBeyond q e d) :
    exec (.dmaTransferEnd q e) s = .fault (.noSuchHbm (d.src / 2 ^ 36 % 4 + 4 * q) (d.src % 2 ^ 36 + d.length)) := by
  obtain ⟨hstate, hdesc, hown, hbeyond⟩ := h
  simp [exec, execDmaTransferEnd, hstate, hdesc, hown, hbeyond]

theorem exec_dmaTransferEnd_completes {s : State} {q e : Fin 4} (h : ∀ d, ¬ s.EndsBeyond q e d) :
    Completes (.dmaTransferEnd q e) s := by
  show ∃ t, execDmaTransferEnd q e s = .next t
  unfold execDmaTransferEnd
  split
  next d hstate hdesc =>
    split
    next hc =>
      simp only [Bool.and_eq_true, beq_iff_eq] at hc
      exact absurd ⟨hstate, hdesc, hc.2, hc.1⟩ (h d)
    next => exact ⟨_, rfl⟩
  next => exact ⟨_, rfl⟩

/-- Every command answers a next state, or it is the end of a transfer that runs past its stack. -/
theorem exec_completes_or_beyond (c : Instr) (s : State) :
    Completes c s ∨ ∃ (q e : Fin 4) (d : Dma), c = .dmaTransferEnd q e ∧ s.EndsBeyond q e d := by
  by_cases hc : ∃ q e, c = .dmaTransferEnd q e
  · obtain ⟨q, e, rfl⟩ := hc
    by_cases hd : ∃ d, s.EndsBeyond q e d
    · obtain ⟨d, hd⟩ := hd
      exact .inr ⟨q, e, d, rfl, hd⟩
    · exact .inl (exec_dmaTransferEnd_completes (not_exists.1 hd))
  · exact .inl (exec_completes c s fun q e h => hc ⟨q, e, h⟩)

/-- Settles O57: a command that answers a next state neither faults nor is refused, and the one transfer left faults as said. -/
theorem oneTransferAloneFaults : Obligations.OneTransferAloneFaults := by
  unfold Obligations.OneTransferAloneFaults
  refine ⟨fun c s r hr => ?refused, fun c s x => ⟨fun hx => ?fault, ?beyond⟩⟩
  case refused =>
    obtain ⟨t, ht⟩ | ⟨q, e, d, rfl, hd⟩ := exec_completes_or_beyond c s
    · rw [ht] at hr; cases hr
    · rw [exec_dmaTransferEnd_beyond hd] at hr; cases hr
  case fault =>
    obtain ⟨t, ht⟩ | ⟨q, e, d, rfl, hd⟩ := exec_completes_or_beyond c s
    · rw [ht] at hx; cases hx
    · rw [exec_dmaTransferEnd_beyond hd] at hx
      obtain ⟨hstate, hdesc, hown, hbeyond⟩ := hd
      exact ⟨q, e, d, rfl, hstate, hdesc, hown, hbeyond, (Host.Outcome.fault.inj hx).symm⟩
  case beyond =>
    rintro ⟨q, e, d, rfl, hstate, hdesc, hown, hbeyond, rfl⟩
    exact exec_dmaTransferEnd_beyond ⟨hstate, hdesc, hown, hbeyond⟩

end Sys2Proof.Machine
end
